-- ==== Sys2Proof/Word.lean ====
section
/-! DEFINITION. The words of the Camzilen CZ4 and their plainest arithmetic (spec 01 R9, R12). -/

namespace Sys2Proof

/-- A byte of memory (R9). -/
abbrev Byte := BitVec 8
/-- A scalar register's contents (R151). -/
abbrev W64 := BitVec 64
/-- A 32-bit word of code (R11). -/
abbrev W32 := BitVec 32
/-- A vector register's contents (R151). -/
abbrev Vec := BitVec 4096
/-- A descriptor register's contents (R49, R267). -/
abbrev Desc := BitVec 256
/-- A scalar register field (R161). -/
abbrev Reg := BitVec 6
/-- A unit's global index (R2). -/
abbrev UnitIx := BitVec 8
/-- A cluster's global index (R2). -/
abbrev ClusterIx := BitVec 5

/-- `x[hi:lo]` of R9, as a natural number: the `n` bits of `x` from bit `lo` up. -/
def bits (x lo n : Nat) : Nat := x / 2 ^ lo % 2 ^ n

/-- `x[n]` of R9. -/
def bit (x n : Nat) : Bool := x / 2 ^ n % 2 == 1

/-- `sext(x, n)` of R12: `x` read as two's complement of `n` bits. -/
def sextN (x n : Nat) : Int :=
  if bits x (n - 1) 1 = 1 then (bits x 0 n : Int) - 2 ^ n else (bits x 0 n : Int)

/-- `x mod 2^n` of R12, for any integer. -/
def wrap (x : Int) (n : Nat) : Nat := (x % 2 ^ n).toNat

/-- `clamp(x, lo, hi)` of R12. -/
def clampI (x lo hi : Int) : Int := if x < lo then lo else if x > hi then hi else x

end Sys2Proof
end

