-- ==== Sys2Proof/Machine/Formats.lean ====
section
/-! DEFINITION. Number formats, exact values and the one rounding function (spec 07). -/

namespace Sys2Proof.Machine

/-- An exact value of R126: a special, a signed zero, or `i * 2^e` with `i` nonzero. -/
inductive Val where
  | nan
  | inf (neg : Bool)
  | zero (neg : Bool)
  | fin (i : Int) (e : Int)
deriving DecidableEq, Repr

/-- Conversion flags, as bits 3:0 of fp.flags: nv, of, uf, nx (R128). -/
abbrev Flags := BitVec 4
/-- Invalid. -/
def flagNv : Flags := 8
/-- Overflow, with inexact. -/
def flagOf : Flags := 5
/-- Underflow. -/
def flagUf : Flags := 2
/-- Inexact. -/
def flagNx : Flags := 1

/-- Fields of a binary floating-point format (R120): exponent bits, fraction bits, bias, infinity. -/
structure BinFmt where
  eb : Nat
  fb : Nat
  bias : Nat
  hasInf : Bool
deriving DecidableEq, Repr

/-- Kinds of element format (R117). -/
inductive FmtKind where
  | bin (f : BinFmt)
  | spire
  | int (w : Nat) (signed : Bool)
deriving DecidableEq, Repr

/-- The element kind of an unscaled format code (R117). -/
def fmtKind (c : Nat) : Option FmtKind :=
  match c with
  | 0x00 => some (.bin ⟨8, 23, 127, true⟩)
  | 0x01 => some (.bin ⟨8, 7, 127, true⟩)
  | 0x02 => some (.bin ⟨5, 10, 15, true⟩)
  | 0x03 => some (.bin ⟨4, 3, 7, false⟩)
  | 0x04 => some (.bin ⟨5, 2, 15, true⟩)
  | 0x05 => some (.bin ⟨2, 1, 1, false⟩)
  | 0x06 => some .spire
  | 0x07 => some (.int 4 true)
  | 0x08 => some (.int 8 true)
  | 0x09 => some (.int 8 false)
  | 0x0A => some (.int 16 true)
  | 0x0B => some (.int 32 true)
  | _ => none

/-- Whether a code is a scaled one, 0x11 to 0x16 (R117). -/
def fmtScaled (c : Nat) : Bool := decide (0x11 ≤ c) && decide (c ≤ 0x16)

/-- The unscaled code of a scaled one (R117). -/
def fmtBase (c : Nat) : Nat := if fmtScaled c then c - 16 else c

/-- Element width of a format code; none where the code is unassigned (R117). -/
def fmtWidth (c : Nat) : Option Nat :=
  if c = 0x0C then some 8
  else match fmtKind (fmtBase c) with
    | some (.bin f) => some (1 + f.eb + f.fb)
    | some .spire => some 8
    | some (.int w _) => some w
    | none => none

/-- Element width of a code that is assigned; 8 otherwise. -/
def fmtW (c : Nat) : Nat := (fmtWidth c).getD 8

/-- Operand class of a matrix step: 0 F16, 1 F8, 2 F4, 3 I8, 4 I4 (R132). -/
def mxClass (c : Nat) : Option Nat :=
  match fmtBase c with
  | 1 | 2 => some 0
  | 3 | 4 | 6 => some 1
  | 5 => some 2
  | 8 | 9 => some 3
  | 7 => some 4
  | _ => none

/-- Terms per step of a class (R132). -/
def classTerms (k : Nat) : Nat := match k with | 0 => 12 | 2 | 4 => 48 | _ => 24

/-- Position of the leading one of a positive number. -/
def log2n (n : Nat) : Nat := Nat.log2 n

/-- expo(v) of R121, for `i * 2^e` with `i` nonzero. -/
def expo (i : Int) (e : Int) : Int := (log2n i.natAbs : Int) + e

/-- Magnitude of a positive Spire8 code, in units of 2^-11 (R124). -/
def spireMag (m : Nat) : Nat :=
  if m ≥ 0x40 then (16 + m % 16) * 2 ^ (bits m 4 2 + 5)
  else if m ≥ 0x20 then (8 + m % 8) * 2 ^ (bits m 3 2 + 10)
  else if m ≥ 0x10 then (4 + m % 4) * 2 ^ (bits m 2 2 + 3)
  else if m ≥ 0x08 then (2 + m % 2) * 2 ^ (bits m 1 2 + 16)
  else if m ≥ 0x04 then 2 ^ (bits m 0 2 + 1)
  else if m ≥ 0x02 then 2 ^ (m % 2 + 21)
  else if m = 1 then 1 else 0

/-- Spire8 codes in ascending magnitude (R125). -/
def spireOrder : List Nat :=
  [0x00, 0x01] ++ (List.range 4).map (· + 0x04) ++ (List.range 16).map (· + 0x10) ++ (List.range 64).map (· + 0x40)
    ++ (List.range 32).map (· + 0x20) ++ (List.range 8).map (· + 0x08) ++ [0x02, 0x03]

/-- The value of a nonnegative mantissa with a sign. -/
def mkVal (neg : Bool) (m : Nat) (e : Int) : Val :=
  if m = 0 then .zero neg else .fin (if neg then -(m : Int) else m) e

/-- Value of the element bits `x` in an unscaled format (R120, R122, R124). -/
def valOf (c : Nat) (x : Nat) : Val :=
  match fmtKind c with
  | some (.bin f) =>
    let sg := bit x (f.eb + f.fb)
    let e := bits x f.fb f.eb
    let fr := bits x 0 f.fb
    if f.hasInf && decide (e = 2 ^ f.eb - 1) then (if fr = 0 then .inf sg else .nan)
    else if decide (f.eb = 4) && (decide (e = 15) && decide (fr = 7)) then .nan
    else if e = 0 then mkVal sg fr (1 - (f.bias : Int) - f.fb)
    else mkVal sg (2 ^ f.fb + fr) ((e : Int) - f.bias - f.fb)
  | some .spire =>
    if bits x 0 8 = 0x80 then .nan
    else mkVal (bit x 7) (spireMag (bits x 0 7)) (-11)
  | some (.int w sg) =>
    let i : Int := if sg then sextN x w else (bits x 0 w : Int)
    if i = 0 then .zero false else .fin i 0
  | none => .nan

/-- The value of R123: an element under a SCALE byte. -/
def scaleVal (v : Val) (x : Nat) : Val :=
  if x = 0xFF then .nan
  else match v with
    | .fin i e => .fin i (e + (x : Int) - 127)
    | u => u

/-- Canonical NaN of a format (R121); 0 where the format has none (R127). -/
def canonNan (c : Nat) : Nat :=
  match c with
  | 0x00 => 0x7FC00000 | 0x01 => 0x7FC0 | 0x02 => 0x7E00 | 0x03 => 0x7F | 0x04 => 0x7E | 0x06 => 0x80 | _ => 0

/-- Compare `m * 2^e` with `n`. -/
def cmpPow (m : Nat) (e : Int) (n : Nat) : Ordering :=
  if 0 ≤ e then compare (m * 2 ^ e.toNat) n else compare m (n * 2 ^ (-e).toNat)

/-- floor(m * 2^e), and whether that is exact. -/
def floorPow (m : Nat) (e : Int) : Nat × Bool :=
  if 0 ≤ e then (m * 2 ^ e.toNat, true)
  else (m / 2 ^ (-e).toNat, m % 2 ^ (-e).toNat == 0)

/-- Whether the upper neighbour in magnitude is taken (R126): rounding mode, sign, where the value lies against the
midpoint, bit 0 of the lower neighbour's encoding. -/
def takeHi (rm : Nat) (neg : Bool) (mid : Ordering) (oddLo : Bool) : Bool :=
  match rm with
  | 0 => match mid with | .lt => false | .gt => true | .eq => oddLo
  | 1 => false
  | 2 => neg
  | _ => !neg

/-- The encoding of a binary float of magnitude `n * 2^q`, `q` at least the subnormal quantum (R120). -/
def encBin (f : BinFmt) (neg : Bool) (n : Nat) (q : Int) : Nat :=
  (if neg then 2 ^ (f.eb + f.fb) else 0) + (n + (q - (1 - (f.bias : Int) - f.fb)).toNat * 2 ^ f.fb)

/-- The encoding of the largest finite magnitude of a binary format (R120). -/
def maxBin (f : BinFmt) : Nat :=
  if f.hasInf then (2 ^ f.eb - 1) * 2 ^ f.fb - 1 else if f.eb = 4 then 0x7E else 0x7

/-- round(x, g, rm) of R126 for a binary floating-point target and a nonzero real. -/
def roundBin (f : BinFmt) (neg : Bool) (m : Nat) (e : Int) (rm : Nat) : Nat × Flags :=
  let emin : Int := 1 - (f.bias : Int)
  let ex : Int := (log2n m : Int) + e
  let q : Int := max ex emin - f.fb
  let (lo, exact) := floorPow m (e - q)
  let sgn := if neg then 2 ^ (f.eb + f.fb) else 0
  let infEnc := (2 ^ f.eb - 1) * 2 ^ f.fb
  let loEnc := encBin f false lo q
  if f.hasInf then
    if loEnc ≥ infEnc then
      -- at or above 2^(emax+1)
      if exact && decide (loEnc = infEnc) then (sgn + infEnc, flagOf)
      else if takeHi rm neg .gt true then (sgn + infEnc, flagOf) else (sgn + (infEnc - 1), flagNx)
    else if exact then (sgn + loEnc, 0)
    else
      let uf : Flags := if ex < emin then flagUf else 0
      let mid := cmpPow (2 * m) (e - q) (2 * lo + 1)
      let r := if takeHi rm neg mid (lo % 2 == 1) then loEnc + 1 else loEnc
      (sgn + r, flagNx ||| uf ||| (if r = infEnc then flagOf else 0))
  else if decide (loEnc > maxBin f) || (!exact && decide (loEnc = maxBin f)) then (sgn + maxBin f, flagOf)
  else if exact then (sgn + loEnc, 0)
  else
    let uf : Flags := if ex < emin then flagUf else 0
    let mid := cmpPow (2 * m) (e - q) (2 * lo + 1)
    let r := if takeHi rm neg mid (lo % 2 == 1) then loEnc + 1 else loEnc
    (sgn + r, flagNx ||| uf)

/-- The Spire8 codes on either side of the magnitude `m * 2^e`: lower, and upper where the lower is not equal. -/
def spireNear (m : Nat) (e : Int) : List Nat → Nat → Nat × Option Nat
  | [], lo => (lo, none)
  | c :: r, lo =>
    match cmpPow m (e + 11) (spireMag c) with
    | .lt => (lo, some c)
    | .eq => (c, none)
    | .gt => spireNear m e r c

/-- round(x, Spire8, rm) of R126 for a nonzero real. -/
def roundSpire (neg : Bool) (m : Nat) (e : Int) (rm : Nat) : Nat × Flags :=
  let sg := fun c : Nat => if c = 0 then 0 else if neg then 0x80 + c else c
  if cmpPow m (e + 11) (2 ^ 22) == .gt then (sg 0x03, flagOf)
  else match spireNear m e spireOrder 0 with
    | (lo, none) => (sg lo, 0)
    | (lo, some hi) =>
      let mid := cmpPow (2 * m) (e + 11) (spireMag lo + spireMag hi)
      let uf : Flags := if cmpPow m (e + 11) 1 == .lt then flagUf else 0
      (sg (if takeHi rm neg mid (lo % 2 == 1) then hi else lo), flagNx ||| uf)

/-- Bounds of an integer format (R122). -/
def intLo (w : Nat) (sg : Bool) : Int := if sg then -(2 ^ (w - 1) : Int) else 0
/-- Upper bound of an integer format (R122). -/
def intHi (w : Nat) (sg : Bool) : Int := if sg then 2 ^ (w - 1) - 1 else 2 ^ w - 1

/-- round(x, g, rm) of R126 for an integer target and a nonzero real. -/
def roundInt (w : Nat) (sg neg : Bool) (m : Nat) (e : Int) (rm : Nat) : Nat × Flags :=
  let (lo, exact) := floorPow m e
  let lim := fun (b : Bool) => wrap (if b then intLo w sg else intHi w sg) w
  let sv := fun (n : Nat) => if neg then -(n : Int) else (n : Int)
  let out := fun (n : Nat) => decide (sv n < intLo w sg) || decide (sv n > intHi w sg)
  if exact then (if out lo then (lim neg, flagNv) else (wrap (sv lo) w, 0))
  else if out lo || out (lo + 1) then (lim neg, flagNv)
  else
    let mid := cmpPow (2 * m) e (2 * lo + 1)
    (wrap (sv (if takeHi rm neg mid (lo % 2 == 1) then lo + 1 else lo)) w, flagNx)

/-- round(x, g, rm) of R126 with the special values of R127: the encoding and the flags raised. -/
def roundTo (c : Nat) (v : Val) (rm : Nat) : Nat × Flags :=
  match fmtKind c with
  | some (.bin f) =>
    let sgn := fun (n : Bool) => if n then 2 ^ (f.eb + f.fb) else 0
    match v with
    | .nan => (canonNan c, if c = 0x05 then flagNv else 0)
    | .inf n =>
      if f.hasInf then (sgn n + (2 ^ f.eb - 1) * 2 ^ f.fb, 0)
      else if c = 0x03 then (0x7F, flagNv) else (sgn n + 7, flagNv)
    | .zero n => (sgn n, 0)
    | .fin i e => roundBin f (decide (i < 0)) i.natAbs e rm
  | some .spire =>
    match v with
    | .nan => (0x80, 0)
    | .inf _ => (0x80, flagNv)
    | .zero _ => (0, 0)
    | .fin i e => roundSpire (decide (i < 0)) i.natAbs e rm
  | some (.int w sg) =>
    match v with
    | .nan => (0, flagNv)
    | .inf n => (wrap (if n then intLo w sg else intHi w sg) w, flagNv)
    | .zero _ => (0, 0)
    | .fin i e => roundInt w sg (decide (i < 0)) i.natAbs e rm
  | none => (0, 0)

/-- quant and requant of R130: one rounding of the value times a power of two. -/
def requant (g1 x1 g2 x2 elem rm : Nat) : Nat × Flags :=
  if x2 = 0xFF then roundTo g2 .nan rm
  else
    match scaleVal (valOf g1 elem) x1 with
    | .fin i e => roundTo g2 (.fin i (e + 127 - x2)) rm
    | v => roundTo g2 v rm

/-- Exact sum of two finite mantissa-exponent pairs. -/
def addFin (i : Int) (e : Int) (j : Int) (d : Int) : Int × Int :=
  if e ≤ d then (i + j * 2 ^ (d - e).toNat, e) else (i * 2 ^ (e - d).toNat + j, d)

/-- Sign of a value, for signed zeros and infinities. -/
def Val.isNeg : Val → Bool
  | .nan => false
  | .inf n => n
  | .zero n => n
  | .fin i _ => decide (i < 0)

/-- The value negated. -/
def Val.neg : Val → Val
  | .nan => .nan
  | .inf n => .inf (!n)
  | .zero n => .zero (!n)
  | .fin i e => .fin (-i) e

/-- Exact product; none where it is 0 times infinity (R209). -/
def Val.mul : Val → Val → Option Val
  | .nan, _ => some .nan
  | _, .nan => some .nan
  | .inf n, .zero _ => let _ := n; none
  | .zero _, .inf _ => none
  | .inf n, v => some (.inf (n != v.isNeg))
  | v, .inf n => some (.inf (n != v.isNeg))
  | .zero n, v => some (.zero (n != v.isNeg))
  | v, .zero n => some (.zero (n != v.isNeg))
  | .fin i e, .fin j d => some (.fin (i * j) (e + d))

/-- Exact sum of terms with no NaN: none where infinities of both signs meet; a sum that is exactly zero takes its sign
by R209. -/
def sumVals (rm : Nat) (ts : List Val) : Option Val :=
  let pos := ts.any (· == .inf false)
  let neg := ts.any (· == .inf true)
  if pos && neg then none
  else if pos then some (.inf false)
  else if neg then some (.inf true)
  else
    let r := ts.foldl (fun (p : Int × Int) t => match t with | .fin i e => addFin p.1 p.2 i e | _ => p) (0, 0)
    if r.1 ≠ 0 then some (.fin r.1 r.2)
    else if ts.any (fun t => match t with | .fin _ _ => true | _ => false) then some (.zero (rm == 2))
    else if rm = 2 then some (.zero (ts.any Val.isNeg))
    else some (.zero (ts.all Val.isNeg))

/-- fl of R209: the rounded sum of exact terms; a term `none` is a product 0 times infinity. -/
def flSum (c rm : Nat) (ts : List (Option Val)) : Nat × Flags :=
  if ts.any (· == some .nan) then (canonNan c, 0)
  else if ts.any (· == none) then (canonNan c, flagNv)
  else match sumVals rm (ts.filterMap id) with
    | none => (canonNan c, flagNv)
    | some v => roundTo c v rm

/-- Order of two non-NaN values with -0 below +0 (R210). -/
def Val.lt0 (a b : Val) : Bool :=
  let key : Val → Int × Int × Int := fun v => match v with
    | .inf true => (-2, 0, 0) | .inf false => (2, 0, 0) | .zero true => (-1, 0, 0) | .zero false => (0, 0, 0)
    | .nan => (3, 0, 0) | .fin i e => (0, i, e)
  match a, b with
  | .fin i e, .fin j d => decide ((addFin i e (-j) d).1 < 0)
  | .fin i _, .zero _ => decide (i < 0)
  | .zero _, .fin j _ => decide (0 < j)
  | .fin _ _, w => decide (1 < (key w).1)
  | v, .fin _ _ => decide ((key v).1 < -1)
  | v, w => decide ((key v).1 < (key w).1)

/-- Order of two non-NaN values with -0 equal to +0 (R219). -/
def Val.lt (a b : Val) : Bool :=
  match a, b with
  | .zero _, .zero _ => false
  | v, w => v.lt0 w

end Sys2Proof.Machine
end

