-- ==== Sys2Proof/Syntax/Fields.lean ====
section
/-! DEFINITION. The operand fields of slot words, command packets and fabric packets, as the encodings of spec 10, 18 and 19 name them. -/

namespace Sys2Proof

/-- The fields of a V-slot word below its opcode (R166). -/
structure VF where
  ty : BitVec 4
  d : BitVec 6
  a : BitVec 6
  b : BitVec 6
  c : BitVec 6
  mask : BitVec 3
  mz : BitVec 1
  rm : BitVec 2
  sreg : Reg
  imm : BitVec 16
deriving DecidableEq, Repr

/-- The token fields of an M-slot or C-slot word: three consumed items and one produced token (R170). -/
structure TokF where
  tk0 : BitVec 8
  tk1 : BitVec 8
  tk2 : BitVec 8
  gv : BitVec 6
deriving DecidableEq, Repr

/-- The fields of an M-slot word below its opcode (R170). -/
structure MF where
  tile : BitVec 4
  sb : Reg
  sk : Reg
  fa : BitVec 5
  fb : BitVec 5
  ft : BitVec 1
  tok : TokF
deriving DecidableEq, Repr

/-- The fields of a C-slot word below its opcode (R172). -/
structure CF where
  rd : Reg
  ra : Reg
  rb : Reg
  rc : BitVec 6
  dsp : BitVec 2
  ssp : BitVec 2
  tok : TokF
deriving DecidableEq, Repr

/-- An agent that can name itself on the retry ring (R104, field agent): both queues of a unit, both cluster copy
engines, the transpose engine, the matrix engine, a unit's stream and a Lantern core. -/
inductive Eng where
  | uce (k : UnitIx) (q : BitVec 1)
  | cce (m : ClusterIx) (n : BitVec 1)
  | xe (m : ClusterIx)
  | mat (k : UnitIx)
  | stream (k : UnitIx)
  | lantern (m : ClusterIx)
deriving DecidableEq, Repr

/-- The queue a command of the command processor comes from (R356). -/
structure CmdRef where
  pasid : BitVec 20
  queue : BitVec 6
deriving DecidableEq, Repr

/-- A packet of the command processor: eight qwords (R359). -/
structure CpPacket where
  q0 : W64
  q1 : W64
  q2 : W64
  q3 : W64
  q4 : W64
  q5 : W64
  q6 : W64
  q7 : W64
deriving DecidableEq, Repr

/-- A fabric packet: its header fields and its payload bytes (R335). -/
structure Packet where
  ia : BitVec 48
  dmod : BitVec 16
  smod : BitVec 16
  slot : BitVec 10
  pasid : BitVec 20
  rid : BitVec 16
  cls : BitVec 2
  type : BitVec 6
  nfl : BitVec 4
  grp : BitVec 10
  st : BitVec 4
  fk : BitVec 4
  len : BitVec 9
  aop : BitVec 4
  asz : BitVec 1
  ord : BitVec 2
  scope : BitVec 3
  circ : BitVec 1
  psn : BitVec 16
  gdim : BitVec 2
  gp : BitVec 4
  gpres : BitVec 16
  gcoord : BitVec 64
  pos : BitVec 4
  rsvd : BitVec 102
  payload : List Byte
  /-- The integrity tag of the link it came over (R349). -/
  tag : BitVec 128 := 0
deriving DecidableEq, Repr

end Sys2Proof
end

