-- ==== Sys2Proof/Syntax.lean ====
section
/-! DEFINITION. The one instruction type: a constructor for every row of spec/opcode_table.json, the slot words and Lantern words first, then the events, commands and packets (whose operands State.arg holds: Lean's compiler takes no constructor with fields past the 244th). -/

namespace Sys2Proof

/-- An instruction, command, packet or event of the Camzilen CZ4: one constructor per row of the opcode table. -/
inductive Instr where
  /-- ADD (R185): Scalar add. -/
  | add (d : BitVec 6) (a : BitVec 6) (b : BitVec 6)
  /-- SUB (R185): Scalar subtract. -/
  | sub (d : BitVec 6) (a : BitVec 6) (b : BitVec 6)
  /-- AND (R185): Bitwise and. -/
  | and (d : BitVec 6) (a : BitVec 6) (b : BitVec 6)
  /-- OR (R185): Bitwise or. -/
  | or (d : BitVec 6) (a : BitVec 6) (b : BitVec 6)
  /-- XOR (R185): Bitwise exclusive or. -/
  | xor (d : BitVec 6) (a : BitVec 6) (b : BitVec 6)
  /-- ANDN (R185): And with complement of rb. -/
  | andn (d : BitVec 6) (a : BitVec 6) (b : BitVec 6)
  /-- ORN (R185): Or with complement of rb. -/
  | orn (d : BitVec 6) (a : BitVec 6) (b : BitVec 6)
  /-- XNOR (R185): Complement of exclusive or. -/
  | xnor (d : BitVec 6) (a : BitVec 6) (b : BitVec 6)
  /-- SHL (R185): Shift left by rb[5:0]. -/
  | shl (d : BitVec 6) (a : BitVec 6) (b : BitVec 6)
  /-- SHR (R185): Logical shift right by rb[5:0]. -/
  | shr (d : BitVec 6) (a : BitVec 6) (b : BitVec 6)
  /-- SRA (R185): Arithmetic shift right by rb[5:0]. -/
  | sra (d : BitVec 6) (a : BitVec 6) (b : BitVec 6)
  /-- ROR (R185): Rotate right by rb[5:0]. -/
  | ror (d : BitVec 6) (a : BitVec 6) (b : BitVec 6)
  /-- SLT (R185): Set if signed less than. -/
  | slt (d : BitVec 6) (a : BitVec 6) (b : BitVec 6)
  /-- SLTU (R185): Set if unsigned less than. -/
  | sltu (d : BitVec 6) (a : BitVec 6) (b : BitVec 6)
  /-- MIN (R185): Signed minimum. -/
  | min (d : BitVec 6) (a : BitVec 6) (b : BitVec 6)
  /-- MAX (R185): Signed maximum. -/
  | max (d : BitVec 6) (a : BitVec 6) (b : BitVec 6)
  /-- MINU (R185): Unsigned minimum. -/
  | minu (d : BitVec 6) (a : BitVec 6) (b : BitVec 6)
  /-- MAXU (R185): Unsigned maximum. -/
  | maxu (d : BitVec 6) (a : BitVec 6) (b : BitVec 6)
  /-- CLZ (R185): Count leading zero bits. -/
  | clz (d : BitVec 6) (a : BitVec 6)
  /-- CTZ (R185): Count trailing zero bits. -/
  | ctz (d : BitVec 6) (a : BitVec 6)
  /-- POPC (R185): Count one bits. -/
  | popc (d : BitVec 6) (a : BitVec 6)
  /-- BSWAP (R185): Reverse byte order. -/
  | bswap (d : BitVec 6) (a : BitVec 6)
  /-- MUL (R185): Multiply, low 64 bits. -/
  | mul (d : BitVec 6) (a : BitVec 6) (b : BitVec 6)
  /-- MULH (R185): Signed multiply, high 64 bits. -/
  | mulh (d : BitVec 6) (a : BitVec 6) (b : BitVec 6)
  /-- MULHU (R185): Unsigned multiply, high 64 bits. -/
  | mulhu (d : BitVec 6) (a : BitVec 6) (b : BitVec 6)
  /-- MULHSU (R185): Signed by unsigned multiply, high 64 bits. -/
  | mulhsu (d : BitVec 6) (a : BitVec 6) (b : BitVec 6)
  /-- DIV (R187): Signed divide. -/
  | div (d : BitVec 6) (a : BitVec 6) (b : BitVec 6)
  /-- DIVU (R187): Unsigned divide. -/
  | divu (d : BitVec 6) (a : BitVec 6) (b : BitVec 6)
  /-- REM (R187): Signed remainder. -/
  | rem (d : BitVec 6) (a : BitVec 6) (b : BitVec 6)
  /-- REMU (R187): Unsigned remainder. -/
  | remu (d : BitVec 6) (a : BitVec 6) (b : BitVec 6)
  /-- ADDI (R186): Add immediate. -/
  | addi (d : BitVec 6) (a : BitVec 6) (imm : BitVec 14)
  /-- ANDI (R186): And immediate. -/
  | andi (d : BitVec 6) (a : BitVec 6) (imm : BitVec 14)
  /-- ORI (R186): Or immediate. -/
  | ori (d : BitVec 6) (a : BitVec 6) (imm : BitVec 14)
  /-- XORI (R186): Exclusive or immediate. -/
  | xori (d : BitVec 6) (a : BitVec 6) (imm : BitVec 14)
  /-- SLTI (R186): Set if signed less than immediate. -/
  | slti (d : BitVec 6) (a : BitVec 6) (imm : BitVec 14)
  /-- SLTIU (R186): Set if unsigned less than immediate. -/
  | sltiu (d : BitVec 6) (a : BitVec 6) (imm : BitVec 14)
  /-- SHLI (R186): Shift left by immediate. -/
  | shli (d : BitVec 6) (a : BitVec 6) (n : BitVec 6)
  /-- SHRI (R186): Logical shift right by immediate. -/
  | shri (d : BitVec 6) (a : BitVec 6) (n : BitVec 6)
  /-- SRAI (R186): Arithmetic shift right by immediate. -/
  | srai (d : BitVec 6) (a : BitVec 6) (n : BitVec 6)
  /-- RORI (R186): Rotate right by immediate. -/
  | rori (d : BitVec 6) (a : BitVec 6) (n : BitVec 6)
  /-- LUI (R186): Load a sign-extended 20-bit immediate shifted left by 14. -/
  | lui (d : BitVec 6) (imm : BitVec 20)
  /-- ADDPC (R186): Form a code offset relative to the current bundle or word. -/
  | addpc (d : BitVec 6) (imm : BitVec 20)
  /-- BFXU (R188): Extract an unsigned bit field. -/
  | bfxu (d : BitVec 6) (a : BitVec 6) (p : BitVec 6) (l : BitVec 6)
  /-- BFXS (R188): Extract a signed bit field. -/
  | bfxs (d : BitVec 6) (a : BitVec 6) (p : BitVec 6) (l : BitVec 6)
  /-- BFI (R188): Insert a bit field into rd. -/
  | bfi (d : BitVec 6) (a : BitVec 6) (p : BitVec 6) (l : BitVec 6)
  /-- LD_B (R189): Load a sign-extended byte from own scratchpad. -/
  | ldB (d : BitVec 6) (a : BitVec 6) (imm : BitVec 14)
  /-- LD_BU (R189): Load a zero-extended byte. -/
  | ldBu (d : BitVec 6) (a : BitVec 6) (imm : BitVec 14)
  /-- LD_H (R189): Load a sign-extended halfword. -/
  | ldH (d : BitVec 6) (a : BitVec 6) (imm : BitVec 14)
  /-- LD_HU (R189): Load a zero-extended halfword. -/
  | ldHu (d : BitVec 6) (a : BitVec 6) (imm : BitVec 14)
  /-- LD_W (R189): Load a sign-extended word. -/
  | ldW (d : BitVec 6) (a : BitVec 6) (imm : BitVec 14)
  /-- LD_WU (R189): Load a zero-extended word. -/
  | ldWu (d : BitVec 6) (a : BitVec 6) (imm : BitVec 14)
  /-- LD_D (R189): Load a doubleword. -/
  | ldD (d : BitVec 6) (a : BitVec 6) (imm : BitVec 14)
  /-- LDM (R190): Load n consecutive scalar registers. -/
  | ldm (d : BitVec 6) (a : BitVec 6) (n : BitVec 6) (o : BitVec 8)
  /-- ST_B (R189): Store a byte. -/
  | stB (d : BitVec 6) (a : BitVec 6) (imm : BitVec 14)
  /-- ST_H (R189): Store a halfword. -/
  | stH (d : BitVec 6) (a : BitVec 6) (imm : BitVec 14)
  /-- ST_W (R189): Store a word. -/
  | stW (d : BitVec 6) (a : BitVec 6) (imm : BitVec 14)
  /-- ST_D (R189): Store a doubleword. -/
  | stD (d : BitVec 6) (a : BitVec 6) (imm : BitVec 14)
  /-- STM (R190): Store n consecutive scalar registers. -/
  | stm (d : BitVec 6) (a : BitVec 6) (n : BitVec 6) (o : BitVec 8)
  /-- BEQ (R191): Branch if equal. -/
  | beq (a : BitVec 6) (b : BitVec 6) (o : BitVec 14)
  /-- BNE (R191): Branch if not equal. -/
  | bne (a : BitVec 6) (b : BitVec 6) (o : BitVec 14)
  /-- BLT (R191): Branch if signed less than. -/
  | blt (a : BitVec 6) (b : BitVec 6) (o : BitVec 14)
  /-- BGE (R191): Branch if signed greater or equal. -/
  | bge (a : BitVec 6) (b : BitVec 6) (o : BitVec 14)
  /-- BLTU (R191): Branch if unsigned less than. -/
  | bltu (a : BitVec 6) (b : BitVec 6) (o : BitVec 14)
  /-- BGEU (R191): Branch if unsigned greater or equal. -/
  | bgeu (a : BitVec 6) (b : BitVec 6) (o : BitVec 14)
  /-- JAL (R192): Jump relative and write the link. -/
  | jal (d : BitVec 6) (o : BitVec 20)
  /-- JALR (R192): Jump to a register address and write the link. -/
  | jalr (d : BitVec 6) (a : BitVec 6) (imm : BitVec 14)
  /-- LOOP (R194): Set up a hardware loop with its count in a register (unit only). -/
  | loop (a : BitVec 6)
  /-- LOOPI (R194): Set up a hardware loop with an immediate count (unit only). -/
  | loopi (imm : BitVec 14)
  /-- TJOIN (R76): Join the taint of y into x. -/
  | tjoin (x : BitVec 6) (y : BitVec 6) (p : BitVec 2) (q : BitVec 2)
  /-- TCLR (R76): Clear the taint and saturation of x. -/
  | tclr (x : BitVec 6) (p : BitVec 2)
  /-- TWAIT (R76): Hold the bundle until no tag of x's taint and the mask remains assigned. -/
  | twait (c : BitVec 2) (x : BitVec 6) (k : BitVec 16)
  /-- FENCE (R79): Order earlier accesses of selected kinds before later ones within a scope. -/
  | fence (sc : BitVec 3) (k : BitVec 5)
  /-- CSRR (R197): Read a control and status register. -/
  | csrr (d : BitVec 6) (c : BitVec 14)
  /-- CSRW (R197): Write a control and status register with no behaviour of its own. -/
  | csrw (a : BitVec 6) (c : BitVec 14)
  /-- TRAP (R202): Raise the TRAP cause with a 16-bit code. -/
  | trap (c : BitVec 16)
  /-- ERET (R202): Return from a handler, clearing hm. -/
  | eret
  /-- TAIL (R202): End the instance or graph program, freeing registers and handing outstanding work to the retirement tracker. -/
  | tail
  /-- DSETB (R269): Set the base of a descriptor register. -/
  | dsetb (d : BitVec 4) (a : BitVec 6)
  /-- DSETE (R269): Set extent k of a descriptor register. -/
  | dsete (d : BitVec 4) (a : BitVec 6) (k : BitVec 6)
  /-- DSETS (R269): Set stride k of a descriptor register. -/
  | dsets (d : BitVec 4) (a : BitVec 6) (k : BitVec 6)
  /-- DSETA (R269): Set the attribute bits 27:0 of a descriptor register. -/
  | dseta (d : BitVec 4) (a : BitVec 6)
  /-- DGETB (R269): Read the base of a descriptor register. -/
  | dgetb (d : BitVec 6) (n : BitVec 4)
  /-- DGETE (R269): Read extent k of a descriptor register. -/
  | dgete (d : BitVec 6) (n : BitVec 4) (k : BitVec 6)
  /-- DGETS (R269): Read stride k of a descriptor register. -/
  | dgets (d : BitVec 6) (n : BitVec 4) (k : BitVec 6)
  /-- DGETA (R269): Read the attribute bits of a descriptor register. -/
  | dgeta (d : BitVec 6) (n : BitVec 4)
  /-- DMOV (R269): Copy one descriptor register to another. -/
  | dmov (n : BitVec 4) (n2 : BitVec 4)
  /-- DADDB (R269): Add a scalar to the base of a descriptor register. -/
  | daddb (n : BitVec 4) (a : BitVec 6)
  /-- DLD (R270): Load a descriptor register from the cluster scratchpad. -/
  | dld (n : BitVec 4) (a : BitVec 6) (imm : BitVec 14)
  /-- DLD_G (R270): Load a descriptor register by VA as a tagged read. -/
  | dldG (n : BitVec 4) (a : BitVec 6) (imm : BitVec 14)
  /-- DST (R270): Store a descriptor register to the cluster scratchpad. -/
  | dst (n : BitVec 4) (a : BitVec 6) (imm : BitVec 14)
  /-- DST_G (R270): Store a descriptor register by VA. -/
  | dstG (n : BitVec 4) (a : BitVec 6) (imm : BitVec 14)
  /-- LDG (R271): Load 8 bytes by VA as a tagged read. -/
  | ldg (d : BitVec 6) (a : BitVec 6)
  /-- STG (R271): Store 8 bytes by VA. -/
  | stg (a : BitVec 6) (b : BitVec 6)
  /-- AMOG_ADD (R271): Atomic 8-byte add by VA. -/
  | amogAdd (d : BitVec 6) (a : BitVec 6) (b : BitVec 6)
  /-- AMOG_SWP (R271): Atomic 8-byte swap by VA. -/
  | amogSwp (d : BitVec 6) (a : BitVec 6) (b : BitVec 6)
  /-- AMOG_CAS (R271): Atomic 8-byte compare-and-swap by VA. -/
  | amogCas (d : BitVec 6) (a : BitVec 6) (b : BitVec 6)
  /-- LCP (R271): Copy bytes between two VAs from the Lantern core. -/
  | lcp (d : BitVec 6) (a : BitVec 6) (b : BitVec 6)
  /-- TDECL (R273): Declare a tensor into the cluster's tensor table. -/
  | tdecl (n : BitVec 4) (b : BitVec 6)
  /-- TREL (R274): Release a tensor table entry. -/
  | trel (a : BitVec 6)
  /-- POST (R279): Post a task image into the core's own window or overflow queue, stalling while full. -/
  | post (a : BitVec 6)
  /-- POST_TRY (R279): Try to post a task image and return a status. -/
  | postTry (d : BitVec 6) (a : BitVec 6)
  /-- POST_R (R280): Send a task image to a remote window, resending while FULL. -/
  | postR (a : BitVec 6) (b : BitVec 6)
  /-- POST_RTRY (R280): Send a task image to a remote window once and return a status. -/
  | postRtry (d : BitVec 6) (a : BitVec 6) (b : BitVec 6)
  /-- TKWAIT (R281): Stall until a token is fired, then acquire at partition scope. -/
  | tkwait (a : BitVec 6)
  /-- TKSIG (R281): Signal a token as a release at partition scope. -/
  | tksig (a : BitVec 6)
  /-- TKRD (R281): Read a token's fired bit and count as a tagged read. -/
  | tkrd (d : BitVec 6) (a : BitVec 6)
  /-- USIG (R281): Signal a semaphore of a unit of the cluster. -/
  | usig (a : BitVec 6)
  /-- WINQ (R282): Return a snapshot of a window quantity. -/
  | winq (d : BitVec 6) (k : BitVec 6)
  /-- RETRY (R283): Settle a retry ring entry by reissuing what it names. -/
  | retry (a : BitVec 6)
  /-- VADD (R207): Lane-wise add, integer or rounded float. -/
  | vadd (f : VF)
  /-- VSUB (R207): Lane-wise subtract. -/
  | vsub (f : VF)
  /-- VMUL (R207): Lane-wise multiply. -/
  | vmul (f : VF)
  /-- VMULH (R207): Lane-wise integer multiply, high half. -/
  | vmulh (f : VF)
  /-- VFMA (R209): Fused multiply-add with one rounding. -/
  | vfma (f : VF)
  /-- VFMS (R209): Fused multiply-subtract with one rounding. -/
  | vfms (f : VF)
  /-- VFNMA (R209): Negated fused multiply-add with one rounding. -/
  | vfnma (f : VF)
  /-- VMAC (R207): Lane-wise integer multiply-accumulate. -/
  | vmac (f : VF)
  /-- VAND (R207): Lane-wise and. -/
  | vand (f : VF)
  /-- VOR (R207): Lane-wise or. -/
  | vor (f : VF)
  /-- VXOR (R207): Lane-wise exclusive or. -/
  | vxor (f : VF)
  /-- VANDN (R207): Lane-wise and with complement. -/
  | vandn (f : VF)
  /-- VSHL (R208): Lane-wise shift left. -/
  | vshl (f : VF)
  /-- VSHR (R208): Lane-wise logical shift right. -/
  | vshr (f : VF)
  /-- VSRA (R208): Lane-wise arithmetic shift right. -/
  | vsra (f : VF)
  /-- VRSHR (R208): Lane-wise rounding shift right. -/
  | vrshr (f : VF)
  /-- VADDS (R207): Lane-wise saturating add. -/
  | vadds (f : VF)
  /-- VSUBS (R207): Lane-wise saturating subtract. -/
  | vsubs (f : VF)
  /-- VMIN (R207): Lane-wise minimum. -/
  | vmin (f : VF)
  /-- VMAX (R207): Lane-wise maximum. -/
  | vmax (f : VF)
  /-- VABS (R207): Lane-wise absolute value. -/
  | vabs (f : VF)
  /-- VNEG (R207): Lane-wise negation. -/
  | vneg (f : VF)
  /-- VABD (R207): Lane-wise absolute difference. -/
  | vabd (f : VF)
  /-- VCLZ (R207): Lane-wise count of leading zeros. -/
  | vclz (f : VF)
  /-- VPOPC (R207): Lane-wise count of one bits. -/
  | vpopc (f : VF)
  /-- VCVT (R211): Convert elements between two unscaled formats. -/
  | vcvt (f : VF)
  /-- VRQ (R212): Requantise blocks of 24 elements between scales. -/
  | vrq (f : VF)
  /-- VWIDEN_LO (R213): Widen the low half of integer lanes. -/
  | vwidenLo (f : VF)
  /-- VWIDEN_HI (R213): Widen the high half of integer lanes. -/
  | vwidenHi (f : VF)
  /-- VNARROW (R213): Narrow two registers of integer lanes with clamping. -/
  | vnarrow (f : VF)
  /-- VPERM (R214): Permute lanes by index. -/
  | vperm (f : VF)
  /-- VPERM2 (R214): Permute lanes of two registers by index. -/
  | vperm2 (f : VF)
  /-- VROT (R214): Rotate lanes. -/
  | vrot (f : VF)
  /-- VSLIDE (R214): Slide lanes across two registers. -/
  | vslide (f : VF)
  /-- VZIP_LO (R214): Interleave the low halves of two registers. -/
  | vzipLo (f : VF)
  /-- VZIP_HI (R214): Interleave the high halves of two registers. -/
  | vzipHi (f : VF)
  /-- VUNZIP_E (R214): Take the even lanes of two registers. -/
  | vunzipE (f : VF)
  /-- VUNZIP_O (R214): Take the odd lanes of two registers. -/
  | vunzipO (f : VF)
  /-- VBCAST (R214): Broadcast one lane to every lane. -/
  | vbcast (f : VF)
  /-- VCLMUL (R216): Carry-less multiply, low 32 bits per lane. -/
  | vclmul (f : VF)
  /-- VCLMULH (R216): Carry-less multiply, high 32 bits per lane. -/
  | vclmulh (f : VF)
  /-- VPXOR (R217): Prefix exclusive or over the whole register. -/
  | vpxor (f : VF)
  /-- VPSUM (R217): Inclusive prefix sum over lanes. -/
  | vpsum (f : VF)
  /-- VRADD (R218): Reduce enabled lanes by sum. -/
  | vradd (f : VF)
  /-- VRMIN (R218): Reduce enabled lanes by minimum. -/
  | vrmin (f : VF)
  /-- VRMAX (R218): Reduce enabled lanes by maximum. -/
  | vrmax (f : VF)
  /-- VRXOR (R218): Reduce enabled lanes by exclusive or. -/
  | vrxor (f : VF)
  /-- VRMINI (R218): Reduce to minimum with its lowest lane index. -/
  | vrmini (f : VF)
  /-- VRMAXI (R218): Reduce to maximum with its lowest lane index. -/
  | vrmaxi (f : VF)
  /-- VCEQ (R219): Compare lanes for equality. -/
  | vceq (f : VF)
  /-- VCNE (R219): Compare lanes for inequality. -/
  | vcne (f : VF)
  /-- VCLT (R219): Compare lanes for less than. -/
  | vclt (f : VF)
  /-- VCLE (R219): Compare lanes for less or equal. -/
  | vcle (f : VF)
  /-- VCGT (R219): Compare lanes for greater than. -/
  | vcgt (f : VF)
  /-- VCGE (R219): Compare lanes for greater or equal. -/
  | vcge (f : VF)
  /-- VCUN (R219): Compare float lanes for unordered. -/
  | vcun (f : VF)
  /-- VSEL (R220): Select lanes by mask. -/
  | vsel (f : VF)
  /-- MAND (R220): And two mask registers. -/
  | mand (f : VF)
  /-- MOR (R220): Or two mask registers. -/
  | mor (f : VF)
  /-- MXOR (R220): Exclusive or two mask registers. -/
  | mxor (f : VF)
  /-- MANDN (R220): And a mask with the complement of another. -/
  | mandn (f : VF)
  /-- MNOT (R220): Complement a mask register. -/
  | mnot (f : VF)
  /-- VMOV (R215): Move a register or broadcast. -/
  | vmov (f : VF)
  /-- VEXT (R215): Extract one lane into a scalar register. -/
  | vext (f : VF)
  /-- VINS (R215): Insert a scalar into one lane. -/
  | vins (f : VF)
  /-- VLD (R221): Load a vector register from own scratchpad. -/
  | vld (f : VF)
  /-- VST (R221): Store the enabled lanes of a vector register. -/
  | vst (f : VF)
  /-- VLDM (R222): Load consecutive vector registers. -/
  | vldm (f : VF)
  /-- VSTM (R222): Store consecutive vector registers. -/
  | vstm (f : VF)
  /-- VGTH (R223): Gather lanes from indexed addresses. -/
  | vgth (f : VF)
  /-- VSCT (R223): Scatter lanes to indexed addresses. -/
  | vsct (f : VF)
  /-- QLD (R224): Start a tagged read into an operand queue. -/
  | qld (f : VF)
  /-- QLD_Z1 (R225): Start a tagged read that expands a slot of codec 01. -/
  | qldZ1 (f : VF)
  /-- QLD_Z2 (R225): Start a tagged read that expands a slot of codec 10. -/
  | qldZ2 (f : VF)
  /-- VTRD (R226): Read a tile row or column into a vector register. -/
  | vtrd (f : VF)
  /-- VTWR (R226): Write a vector register into a tile row or column. -/
  | vtwr (f : VF)
  /-- MMA_Q (R237): Matrix multiply-accumulate with A from qa entries. -/
  | mmaQ (f : MF)
  /-- MMA_V (R237): One matrix step with A from three vector registers. -/
  | mmaV (f : MF)
  /-- MMA_R (R237): Matrix multiply-accumulate with a remote A tile by VA. -/
  | mmaR (f : MF)
  /-- WLD (R240): Load the shadow weight bank under a B-descriptor. -/
  | wld (f : MF)
  /-- SWAP (R241): Exchange active and shadow weight banks. -/
  | swap (f : MF)
  /-- ZERO (R241): Clear a tile with its flag plane, row poison and status. -/
  | zero (f : MF)
  /-- DRAIN (R242): Convert tile rows and write them to the unit scratchpad. -/
  | drain (f : MF)
  /-- DRAIN_Z1 (R242): Drain tile rows compressed with codec 01. -/
  | drainZ1 (f : MF)
  /-- DRAIN_Z2 (R242): Drain tile rows compressed with codec 10. -/
  | drainZ2 (f : MF)
  /-- CP (R248): Copy a run of bytes. -/
  | cp (f : CF)
  /-- CP_P (R248): Copy a run of bytes in POISON mode. -/
  | cpP (f : CF)
  /-- CP_BOX (R251): Copy a box with halo by move descriptor. -/
  | cpBox (f : CF)
  /-- CP_GTH (R253): Gather elements by index list. -/
  | cpGth (f : CF)
  /-- CP_SCT (R253): Scatter elements by index list. -/
  | cpSct (f : CF)
  /-- CP_CVT (R251): Copy a box while converting its elements. -/
  | cpCvt (f : CF)
  /-- CP_ZIP (R256): Compress 2 KiB chunks into slots. -/
  | cpZip (f : CF)
  /-- CP_UNZ (R256): Decompress slots into 2 KiB chunks. -/
  | cpUnz (f : CF)
  /-- CP_XP (R252): Transpose a rank-2 box on the XE. -/
  | cpXp (f : CF)
  /-- MCRED (R257): Multicast load-and-reduce BF16 data into FP32 in fixed order. -/
  | mcred (f : CF)
  /-- AMO_ADD (R258): Atomic integer add. -/
  | amoAdd (f : CF)
  /-- AMO_AND (R258): Atomic and. -/
  | amoAnd (f : CF)
  /-- AMO_OR (R258): Atomic or. -/
  | amoOr (f : CF)
  /-- AMO_XOR (R258): Atomic exclusive or. -/
  | amoXor (f : CF)
  /-- AMO_MIN (R258): Atomic signed minimum. -/
  | amoMin (f : CF)
  /-- AMO_MAX (R258): Atomic signed maximum. -/
  | amoMax (f : CF)
  /-- AMO_MINU (R258): Atomic unsigned minimum. -/
  | amoMinu (f : CF)
  /-- AMO_MAXU (R258): Atomic unsigned maximum. -/
  | amoMaxu (f : CF)
  /-- AMO_SWP (R258): Atomic swap. -/
  | amoSwp (f : CF)
  /-- AMO_CAS (R258): Atomic compare-and-swap. -/
  | amoCas (f : CF)
  /-- AMO_FADD_F32 (R259): Add an FP32 value into an accumulation cell. -/
  | amoFaddF32 (f : CF)
  /-- AMO_FADD_BF16 (R259): Add a BF16 value into an accumulation cell. -/
  | amoFaddBf16 (f : CF)
  /-- AMO_FADD_F16 (R259): Add an FP16 value into an accumulation cell. -/
  | amoFaddF16 (f : CF)
  /-- SIG (R261): Signal a semaphore of a unit of the cluster. -/
  | sig (f : CF)
  /-- SWAIT (R261): Wait on and decrement an own semaphore in the UCE queue. -/
  | swait (f : CF)
  /-- BPOST (R261): Post an expected byte count to a barrier. -/
  | bpost (f : CF)
  /-- BWAIT (R261): Wait for a barrier phase. -/
  | bwait (f : CF)
  /-- BARRIVE (R261): Arrive at a barrier with a byte count. -/
  | barrive (f : CF)
  /-- SEMRD (R261): Read an own semaphore as a tagged read. -/
  | semrd (f : CF)
  /-- CPOST (R264): Post a child task from a unit's task image. -/
  | cpost (f : CF)
  /-- LDR (R263): Read 8 bytes from any reachable space into a scalar register. -/
  | ldr (f : CF)
  /-- LDR_V (R263): Read 512 bytes into a vector register. -/
  | ldrV (f : CF)
  /-- STR (R263): Store a scalar register to any reachable space. -/
  | str (f : CF)
  /-- STR_V (R263): Store a vector register to any reachable space. -/
  | strV (f : CF)
  /-- BUNDLE_ISSUE (R145): A ready unit bundle issues in the first clk in which every stall cause is clear, granting its waits, popping queues, performing fixed-path accesses and entering its engine commands. -/
  | bundleIssue
  /-- RESULT_LANDING (R147): A fixed-latency result is written to its destination once the required number of later bundles has issued. -/
  | resultLanding
  /-- DIVIDER_FREE (R148): The divider's 20-clk occupancy ends and a held divide may issue. -/
  | dividerFree
  /-- TAGGED_READ_ARRIVAL (R72): The whole value of a tagged read arrives, is written to its destination or queue entry, and its tag is cleared from every holder. -/
  | taggedReadArrival
  /-- COMMAND_HAND_OFF (R74): A held engine command is handed off to its engine in the first clk in which all its operand taint has cleared, reading its operands then. -/
  | commandHandOff
  /-- DEFERRED_CHECK_TRAP (R232): A value check that fails at the hand-off of a held command traps at the next bundle boundary with bit 63 of trap.val set. -/
  | deferredCheckTrap
  /-- ENGINE_COMMAND_START (R85): A queued engine command reaches its queue head, takes its consumed token counts when they suffice, and starts. -/
  | engineCommandStart
  /-- ENGINE_TOKEN_FIRE (R84): A completed command whose queue predecessors have produced their tokens produces its own token. -/
  | engineTokenFire
  /-- SIGNAL_ARRIVAL (R89): A semaphore signal from another agent arrives at a unit and is applied to the running instance of the job, or discarded into sem.drop. -/
  | signalArrival
  /-- CHUNK_COMPLETE (R107): A copy chunk completes, its destination writes are performed, its barrier arrival is made and its share of the command's completion is counted. -/
  | chunkComplete
  /-- COMMAND_COMPLETE (R83): An engine command reaches its completion point when every access is performed and every value has arrived. -/
  | commandComplete
  /-- MEMORY_SIDE_FAULT (R104): A memory-side fault response makes the agent write a retry ring entry and increment ring.tail. -/
  | memorySideFault
  /-- RING_TRAP (R104): The Lantern core takes the RING trap at its next boundary after the ring becomes non-empty with ie set. -/
  | ringTrap
  /-- UNIT_TRAP (R314): A unit trap not delivered locally freezes the instance and is raised as UNIT_TRAP on its cluster's Lantern core. -/
  | unitTrap
  /-- MATRIX_COMMAND_LEAVE (R229): A matrix command leaves its queue once earlier commands have left and its own condition holds, starting on the load or compute side. -/
  | matrixCommandLeave
  /-- MMA_STEP (R236): One step of an MMA runs once its inputs are ready, auto-swapping banks when needed, and advances every tile element one link of the chain. -/
  | mmaStep
  /-- WLD_COMPLETE (R229): A WLD completes 12 clk after its last row fetch, records its descriptor and sets loaded. -/
  | wldComplete
  /-- MMA_COMPLETE (R229): An MMA completes 130 clk after its last step starts, and busy may clear. -/
  | mmaComplete
  /-- DRAIN_COMPLETE (R229): A DRAIN completes 10 clk after its last row read, its histogram counts updated. -/
  | drainComplete
  /-- BARRIER_WAIT_COMPLETE (R94): A barrier wait completes at the first bank read that finds the named phase, acting as an acquire. -/
  | barrierWaitComplete
  /-- SWAIT_GRANT (R261): A SWAIT at its queue head finds the count sufficient, subtracts it and completes. -/
  | swaitGrant
  /-- INSTANCE_DRAIN (R306): An instance's last outstanding command completes and pending ring entry is settled, freeing its retirement tracker entry. -/
  | instanceDrain
  /-- TASK_DISPATCH (R305): The scoreboard dispatches the next instance of the highest-priority ready task to a free unit or copy engine, initialising state and writing address words. -/
  | taskDispatch
  /-- POST_ENTRY (R293): A post is captured into one window entry with its region entries, edges and token conditions, and its produced token is armed. -/
  | postEntry
  /-- OVERFLOW_QUEUE_ENTRY (R302): The head post of an overflow queue enters the window when it meets its window condition. -/
  | overflowQueueEntry
  /-- TOKEN_WATCH (R295): The scoreboard watches a consumed token of another cluster or module by repeated requests until it is found fired. -/
  | tokenWatch
  /-- COMMIT_COPY_START (R297): When a renamed writer has drained and its conflicting readers are released, a free CCE starts the commit copy from buffer to home. -/
  | commitCopyStart
  /-- COMMIT_COPY_COMPLETE (R297): The commit copy completes, releasing the home claim and, with redirected regions released, returning the buffer to the pool. -/
  | commitCopyComplete
  /-- TASK_FREE (R299): A task entry is freed, releasing its regions, signalling its produced token and returning its entries. -/
  | taskFree
  /-- GANG_SWITCH (R324): At a gang switch instant every agent of the outgoing job stops, outstanding requests are answered, and the context is saved. -/
  | gangSwitch
  /-- CONTEXT_RESTORE (R324): The incoming job's image is read back and its code store reloaded once the corresponding save is done. -/
  | contextRestore
  /-- JOB_START (R324): The incoming job's agents start at T plus 40 microseconds, or once the phases end. -/
  | jobStart
  /-- DEFERRED_REISSUE (R325): A request answered DEFERRED outside its own switch is reissued after 1 microsecond. -/
  | deferredReissue
  /-- TRACE_SAMPLE (R330): The sampling period expires and a PC sample record is written to the trace buffer, or counted as lost. -/
  | traceSample
  /-- RPC_FILL_COMPLETE (R34): A remote page cache fill installs its granule or faults, completing the accesses that wait for it. -/
  | rpcFillComplete
  /-- RPC_EVICTION (R35): An evicted granule's dirty lines are written back, or lost and counted in rpc.wbloss and rpc.wbcount. -/
  | rpcEviction
  /-- HOST_SNOOP (R36): A CXL.cache snoop of a host granule is answered from its line and an invalidating snoop clears lvalid. -/
  | hostSnoop
  /-- RPC_WRITE_BACK (R37): A write of rpc.op with op 01 writes back every granule of the range, leaving it resident and clean. -/
  | rpcWriteBack
  /-- RPC_INVALIDATE (R37): A write of rpc.op with op 10 invalidates every granule of the range without write-back. -/
  | rpcInvalidate
  /-- RPC_WRITE_BACK_INVALIDATE (R37): A write of rpc.op with op 11 writes back and then invalidates every granule of the range. -/
  | rpcWriteBackInvalidate
  /-- RPC_OP_DONE (R37): A remote page cache maintenance operation ends and busy clears. -/
  | rpcOpDone
  /-- RANGE_STAGE_WRITE (R19): A CSRW to rngi.va or rngi.lim writes its staging copy. -/
  | rangeStageWrite
  /-- RANGE_COMMIT (R19): A CSRW to rngi.ia commits the staged base, staged limit and written target as one change. -/
  | rangeCommit
  /-- RING_CMP_WRITE (R106): A CSRW to ring.cmp with op WRITE writes a held chunk's bytes to its destination and frees the hold slot. -/
  | ringCmpWrite
  /-- RING_CMP_SUPPLY (R106): A CSRW to ring.cmp with op SUPPLY writes a buffer as the chunk's destination image or register value. -/
  | ringCmpSupply
  /-- RING_CMP_POISON (R106): A CSRW to ring.cmp with op POISON settles the entry by writing poisoned sectors or a poisoned value. -/
  | ringCmpPoison
  /-- RING_HEAD_WRITE (R105): A CSRW to ring.head consumes entries, stopping at the first pending entry. -/
  | ringHeadWrite
  /-- HIST_CLR (R141): A CSRW to hist.clr zeroes every count of each selected histogram set. -/
  | histClr
  /-- TILE_STATUS_WRITE (R46): A CSRW to acc.stt waits for busy to clear and writes stop, ovf and prog. -/
  | tileStatusWrite
  /-- DOORBELL (R357): A write to cp.door gives a host queue's tail, binding the queue to a CP slot after walking the queue table. -/
  | doorbell
  /-- TAIL_WORD_WRITE (R357): The MTS reports a write to a device queue's tail word, giving the queue's new tail. -/
  | tailWordWrite
  /-- QUEUE_RESET (R367): A write of go to cp.qreset stops fetch of a queue, drops unstarted commands, lets started ones finish and zeroes head. -/
  | queueReset
  /-- HOST_REGISTER_WRITE (R356): A host write to a BAR0 register with no behaviour of its own, such as cp.qroot. -/
  | hostRegisterWrite
  /-- QUEUE_UNBIND (R357): A bound queue empty for 64 microseconds is unbound and its head and wait fields are written back. -/
  | queueUnbind
  /-- COMMAND_FETCH (R358): The CP fetches the next packet of a bound queue, writes its head count and starts the command. -/
  | commandFetch
  /-- COMPLETION_RECORD_WRITE (R359): A completed command writes its 16-byte completion record and may raise its MSI-X vector. -/
  | completionRecordWrite
  /-- NOP (R360): CP command that completes with no effect. -/
  | nop
  /-- LAUNCH (R362): CP command that stages a graph program context in the shadow banks of the named clusters. -/
  | launch
  /-- LAUNCH_SWAP_IN (R362): A staged context swaps in after the previous graph program's TAIL, loading code, pool and overflow parameters and starting the program. -/
  | launchSwapIn
  /-- LAUNCH_COMPLETE (R362): A LAUNCH completes when its programs have executed TAIL and their tasks are freed, or aborts when the job ends. -/
  | launchComplete
  /-- WAIT (R363): CP command that completes if its signal condition holds, otherwise parks the queue. -/
  | wait
  /-- WAIT_WAKEUP (R363): A signal change makes a parked queue's condition hold and puts it on the bind list. -/
  | waitWakeup
  /-- SIGNAL (R360): CP command that sets or adds to a 64-bit signal. -/
  | signal
  /-- INDIRECT (R365): CP command that executes a buffer of packets as if they stood in the ring. -/
  | indirect
  /-- PLACE (R361): CP command that copies HBM bytes into the job's scratchpads or code stores. -/
  | place
  /-- MAP (R366): CP command that allocates frames from the job's pool and writes MTS leaves for a range. -/
  | map
  /-- UNMAP (R366): CP command that invalidates the leaves of a range, completes the MTS invalidate and returns the frames. -/
  | unmap
  /-- MAPX (R366): CP command that writes egress leaves for a range of the egress space. -/
  | mapx
  /-- UNMAPX (R366): CP command that removes egress leaves for a range. -/
  | unmapx
  /-- UNIT_RESUME (R314): CP command that resumes a unit stopped by a trap not delivered locally. -/
  | unitResume
  /-- UNIT_ABORT (R314): CP command that ends the job of a stopped unit on every module. -/
  | unitAbort
  /-- BELFRY (R345): CP command that checks a Belfry schedule and applies it from a named slot. -/
  | belfry
  /-- MCGRP (R347): CP command that checks and loads multicast group entries, completing after old MCREQs deliver. -/
  | mcgrp
  /-- TRACE (R330): CP command that enables or disables PC sampling and branch trace into a buffer. -/
  | trace
  /-- NVME_RD (R364): CP command that moves blocks from an NVMe drive into HBM. -/
  | nvmeRd
  /-- NVME_WR (R364): CP command that moves blocks from HBM to an NVMe drive. -/
  | nvmeWr
  /-- NVME_COMPLETION (R364): The drive's completion entry is seen and the NVMe command completes OK or NVME. -/
  | nvmeCompletion
  /-- NVME_TIMEOUT (R364): No drive completion within 2 seconds makes the CP abort the drive command and complete with TIMEOUT. -/
  | nvmeTimeout
  /-- JOB_CREATE (R360): Host-only CP command that writes a job's root entries and empty tables and zeroes its tokens. -/
  | jobCreate
  /-- JOB_DESTROY (R360): Host-only CP command that aborts a job, cleans its remote page cache, zeroises its key and frees its slot. -/
  | jobDestroy
  /-- KEY_LOAD (R350): Host-only CP command that unwraps a job key into the module's key table. -/
  | keyLoad
  /-- GANG (R323): Host-only CP command that loads the gang schedule of switch instants. -/
  | gang
  /-- PART (R332): Host-only CP command that sets part.mod and the partition dimensions. -/
  | part
  /-- RPC_CFG (R33): Host-only CP command that sets aside HBM for the remote page cache. -/
  | rpcCfg
  /-- NVME_ATT (R360): Host-only CP command that gives the CP sole use of an NVMe queue pair. -/
  | nvmeAtt
  /-- CXL_MEM_READ (R355): A host CXL.mem read reaches HBM untranslated. -/
  | cxlMemRead
  /-- CXL_MEM_WRITE (R355): A host CXL.mem write reaches HBM untranslated and is performed when its completion reaches the host. -/
  | cxlMemWrite
  /-- RD (R339): A read request packet is performed at its target module and answered with DATA, FAULT or DEFERRED. -/
  | rd
  /-- WR (R339): A write request packet is performed at its target module and answered with ACK. -/
  | wr
  /-- AMO (R339): An integer atomic request packet executes at the target's memory and is answered. -/
  | amo
  /-- FADD (R339): A cell add request packet executes at the target's memory and is answered with ACK. -/
  | fadd
  /-- POST_PACKET (R308): A remote post packet is checked and placed at the target cluster and answered WINDOW, FULL or REJECT. -/
  | postPacket
  /-- TKARM (R276): A token arming packet clears the fired bit and count of the named token. -/
  | tkarm
  /-- TKSIG_PACKET (R276): A token signal packet sets the fired bit of the named token and counts it. -/
  | tksigPacket
  /-- TKRD_PACKET (R336): A token read packet returns the token's state in one DATA flit. -/
  | tkrdPacket
  /-- MCREQ (R348): A load-and-reduce request reaches a group member, which reads its source bytes. -/
  | mcreq
  /-- RED (R348): A reduction packet arrives at a member, which adds its elements and forwards it, or at the requester, which writes the chunk. -/
  | red
  /-- DATA (R336): A DATA response returns read bytes to the requester. -/
  | data
  /-- ACK (R336): An ACK response completes a request at the requester. -/
  | ack
  /-- REQUEST_TIMEOUT (R341): A request with no response within 2 ms completes with TIMEOUT. -/
  | requestTimeout
  /-- BELFRY_SLOT_BOUNDARY (R342): A 40 ns slot begins and the router applies that schedule entry's connections. -/
  | belfrySlotBoundary
  /-- LINK_BRINGUP (R351): A link direction is brought up with a fresh random link nonce and a zeroed counter. -/
  | linkBringup
  /-- LANE_FAILURE (R375): A failing lane makes its port retrain on the remaining lane, or go down when both lanes fail. -/
  | laneFailure
  /-- PEER_RESET (R352): A peer resets and rejoins under the same number, losing its job state and failing in-flight packets. -/
  | peerReset
  /-- HOT_SWAP_REMOVE (R377): The fabric manager tells each remaining CP of a removed module, which clears its pres bits. -/
  | hotSwapRemove
  /-- POWER_GOOD (R369): 48 V power-good starts the boot sequence of ROM hash, patch check, HBM training, sparing and link training. -/
  | powerGood
  /-- ATTESTATION_REQUEST (R372): A management port attestation request with a nonce is answered with a signed reply. -/
  | attestationRequest
  /-- LIVE_UPDATE (R376): A patch loaded over the management port is checked and staged, setting upd. -/
  | liveUpdate
  /-- POWER_CAP_SET (R378): The management port sets the power cap, and clk is lowered in steps when draw exceeds it. -/
  | powerCapSet
  /-- THERMAL_TRIP (R378): A die above 105 degrees trips the module, which then acts as a reset peer. -/
  | thermalTrip
  /-- POST_TIMEOUT (R279): A POST or POST.R stalled for win.timeout fclk traps POST_STALL. -/
  | postTimeout
  /-- POST_ANSWER (R280): The answer to a remote post arrives and the stalled Lantern word completes, resends or traps. -/
  | postAnswer
  /-- PTP_LOSS_OF_LOCK (R323): The module's PTP time unit loses lock, setting cp.status.plock and making the CP flag each later gang switch in its status. -/
  | ptpLossOfLock
  /-- POWER_CAP_THROTTLING (R378): When the module's draw rises above the power cap, clk is lowered in 25 MHz steps, and it is raised again when the draw falls. -/
  | powerCapThrottling
  /-- PARTITION_DISSOLVED (R349): The partition is dissolved, and every port zeroises every job key and frees every key-table entry. -/
  | partitionDissolved
deriving DecidableEq, Repr

end Sys2Proof
end

