-- ==== Sys2Proof/Machine/Rows.lean ====
section
/-! DEFINITION. How each instruction's words are laid out: the operand classes of every slot form (spec 10 R160 to R175) and the CSR map (spec 11 R197). -/

namespace Sys2Proof.Machine

/-- A 32-bit word by its five places: op 31:26, then 25:20, 19:14, 13:8 and 7:0 (R162). -/
structure S32 where
  op : BitVec 6
  x : BitVec 6
  y : BitVec 6
  z : BitVec 6
  f : BitVec 8
deriving DecidableEq, Repr

/-- What a V-slot destination field may name (R167). -/
inductive DCls where
  | none | vec | vecMask | mask | queue
deriving DecidableEq, Repr

/-- What a V-slot source field may name (R167). -/
inductive SCls where
  | none | vec | mask | count
deriving DecidableEq, Repr

/-- How a V-slot form uses rm (R169): not at all, with a float lane type, always, or as a fixed code. -/
inductive RmUse where
  | none | fl | any | fix (n : Nat)
deriving DecidableEq, Repr

/-- Integer lane types (R167). -/
def tyI : List Nat := [0, 1, 2, 4, 5, 6]
/-- Float lane types (R167). -/
def tyF : List Nat := [8, 9, 10]
/-- Every lane type (R167). -/
def tyA : List Nat := tyI ++ tyF
/-- The 32-bit integer types (R167). -/
def tyW : List Nat := [0, 4]
/-- Untyped (R167). -/
def tyN : List Nat := [0]
/-- Types of width 8 or 16 (R213). -/
def tyNarrow : List Nat := [1, 2, 5, 6]
/-- Types of width 16 or 32 (R213). -/
def tyWide : List Nat := [0, 1, 4, 5]

/-- One row of the V-slot opcode map (R168, R169). -/
structure VRow where
  op : Nat
  types : List Nat
  d : DCls
  a : SCls
  b : SCls
  c : SCls
  mask : Bool
  mz : Bool
  rm : RmUse
  sreg : Bool
  imm : Bool
deriving DecidableEq, Repr

/-- How a C-slot register field is used (R173): zero, any register, or a vector register in bits 4:0. -/
inductive CUse where
  | zero | any | low5
deriving DecidableEq, Repr

/-- How a C-slot rc field is used (R173, R174). -/
inductive RcUse where
  | zero | bar | amo | fadd | rel | acq
deriving DecidableEq, Repr

/-- One row of the C-slot opcode map (R173). -/
structure CRow where
  op : Nat
  rd : CUse
  ra : CUse
  rb : CUse
  rc : RcUse
  dsp : Bool
  ssp : Bool
deriving DecidableEq, Repr

/-- The layout an instruction's word takes. -/
inductive Form where
  | sw (u : S32)
  | lan (u : S32)
  | v (r : VRow) (f : VF)
  | m (op : Nat) (f : MF)
  | c (r : CRow) (f : CF)
  | event
deriving DecidableEq, Repr

/-- Access of an agent to a CSR (R197). -/
inductive Acc where
  | no | r | w | rw
deriving DecidableEq, Repr

/-- The CSR map (R197): access from a unit and from a Lantern core, and the writable bits; none where unassigned. -/
def csrMap (c : Nat) : Option (Acc × Acc × Nat) :=
  let all := 2 ^ 64 - 1
  let w32 := 2 ^ 32 - 1
  if c ≤ 2 then some (.rw, .rw, all)
  else if c = 3 then some (.rw, .no, all)
  else if c = 0x10 then some (.rw, .no, 0xF)
  else if c = 0x11 then some (.rw, .no, 7)
  else if c = 0x12 then some (.rw, .no, 1)
  else if c = 0x13 then some (.rw, .no, 7)
  else if 0x20 ≤ c ∧ c ≤ 0x2F then some (.rw, .no, w32)
  else if 0x30 ≤ c ∧ c ≤ 0x3F then some (.rw, .no, 0x6000FFFF)
  else if c = 0x40 then some (.rw, .no, 0x1FF)
  else if c = 0x41 then some (.rw, .no, 3)
  else if c = 0x42 then some (.w, .no, 0xF)
  else if c = 0x43 then some (.r, .no, 0)
  else if 0x60 ≤ c ∧ c ≤ 0x7F then some (.r, .no, 0)
  else if 0x80 ≤ c ∧ c ≤ 0x83 then some (.r, .no, 0)
  else if c = 0x90 then some (.r, .r, 0)
  else if c = 0x91 then some (.rw, .rw, w32)
  else if c = 0x92 then some (.rw, .rw, 0xFFFF)
  else if c = 0x93 ∨ c = 0x94 then some (.rw, .no, w32)
  else if c = 0x95 then some (.no, .rw, w32)
  else if c = 0xA0 then some (.rw, .rw, 0x1FFFFD)
  else if c = 0xA1 then some (.rw, .rw, 0x7FF)
  else if c = 0xA2 then some (.rw, .rw, 0x1FFFFC)
  else if c = 0xA3 then some (.rw, .rw, 2 ^ 63 + 0x1FFFFC)
  else if c = 0xA4 then some (.rw, .rw, all)
  else if 0xB0 ≤ c ∧ c ≤ 0xB3 then some (.r, .r, 0)
  else if c = 0xC0 ∨ c = 0xC1 then some (.rw, .rw, w32)
  else if 0x100 ≤ c ∧ c ≤ 0x12F then some (.r, .rw, if (c - 0x100) % 3 = 2 then 0xFFFFFFFFFFFFE0F8 else 0xFFFFFFFFE000)
  else if c = 0x130 ∨ c = 0x131 then some (.no, .rw, 0x3FFFFFFFE000)
  else if c = 0x132 then some (.no, .rw, 3)
  else if c = 0x133 then some (.no, .rw, 1)
  else if c = 0x134 then some (.no, .rw, w32)
  else if c = 0x140 then some (.no, .rw, 0xFFFFC0)
  else if c = 0x141 then some (.no, .rw, 0xF000010F)
  else if c = 0x142 then some (.no, .r, 0)
  else if c = 0x143 then some (.no, .rw, 0x7FF)
  else if c = 0x144 then some (.no, .w, all)
  else if c = 0x145 then some (.no, .rw, w32)
  else if c = 0x150 then some (.no, .rw, 0x7FF01FF)
  else if c = 0x151 then some (.no, .rw, 2 ^ 40 - 1)
  else if c = 0x152 then some (.no, .rw, w32)
  else none

/-- The reset value of a CSR that is held as plain bits (R136, R139, R103, R300, R303). -/
def csrReset (c : Nat) : W64 :=
  if c = 0x11 then 2
  else if 0x20 ≤ c ∧ c ≤ 0x2F then 0x2000
  else if c = 0x141 then 4
  else if c = 0x150 then 0x2000040
  else if c = 0x151 then 0x1000000
  else if c = 0x152 then 0x10000
  else 0

/-- The layout of an instruction's word: the encodings of R163 to R175. -/
def form : Instr → Form
  | .add d a b => .sw ⟨0x00#6, d, a, b, 0#8⟩
  | .sub d a b => .sw ⟨0x00#6, d, a, b, 1#8⟩
  | .and d a b => .sw ⟨0x00#6, d, a, b, 2#8⟩
  | .or d a b => .sw ⟨0x00#6, d, a, b, 3#8⟩
  | .xor d a b => .sw ⟨0x00#6, d, a, b, 4#8⟩
  | .andn d a b => .sw ⟨0x00#6, d, a, b, 5#8⟩
  | .orn d a b => .sw ⟨0x00#6, d, a, b, 6#8⟩
  | .xnor d a b => .sw ⟨0x00#6, d, a, b, 7#8⟩
  | .shl d a b => .sw ⟨0x00#6, d, a, b, 8#8⟩
  | .shr d a b => .sw ⟨0x00#6, d, a, b, 9#8⟩
  | .sra d a b => .sw ⟨0x00#6, d, a, b, 10#8⟩
  | .ror d a b => .sw ⟨0x00#6, d, a, b, 11#8⟩
  | .slt d a b => .sw ⟨0x00#6, d, a, b, 12#8⟩
  | .sltu d a b => .sw ⟨0x00#6, d, a, b, 13#8⟩
  | .min d a b => .sw ⟨0x00#6, d, a, b, 14#8⟩
  | .max d a b => .sw ⟨0x00#6, d, a, b, 15#8⟩
  | .minu d a b => .sw ⟨0x00#6, d, a, b, 16#8⟩
  | .maxu d a b => .sw ⟨0x00#6, d, a, b, 17#8⟩
  | .clz d a => .sw ⟨0x00#6, d, a, 0#6, 18#8⟩
  | .ctz d a => .sw ⟨0x00#6, d, a, 0#6, 19#8⟩
  | .popc d a => .sw ⟨0x00#6, d, a, 0#6, 20#8⟩
  | .bswap d a => .sw ⟨0x00#6, d, a, 0#6, 21#8⟩
  | .mul d a b => .sw ⟨0x00#6, d, a, b, 32#8⟩
  | .mulh d a b => .sw ⟨0x00#6, d, a, b, 33#8⟩
  | .mulhu d a b => .sw ⟨0x00#6, d, a, b, 34#8⟩
  | .mulhsu d a b => .sw ⟨0x00#6, d, a, b, 35#8⟩
  | .div d a b => .sw ⟨0x00#6, d, a, b, 40#8⟩
  | .divu d a b => .sw ⟨0x00#6, d, a, b, 41#8⟩
  | .rem d a b => .sw ⟨0x00#6, d, a, b, 42#8⟩
  | .remu d a b => .sw ⟨0x00#6, d, a, b, 43#8⟩
  | .addi d a imm => .sw ⟨0x01#6, d, a, (imm.extractLsb' 8 6), (imm.extractLsb' 0 8)⟩
  | .andi d a imm => .sw ⟨0x02#6, d, a, (imm.extractLsb' 8 6), (imm.extractLsb' 0 8)⟩
  | .ori d a imm => .sw ⟨0x03#6, d, a, (imm.extractLsb' 8 6), (imm.extractLsb' 0 8)⟩
  | .xori d a imm => .sw ⟨0x04#6, d, a, (imm.extractLsb' 8 6), (imm.extractLsb' 0 8)⟩
  | .slti d a imm => .sw ⟨0x05#6, d, a, (imm.extractLsb' 8 6), (imm.extractLsb' 0 8)⟩
  | .sltiu d a imm => .sw ⟨0x06#6, d, a, (imm.extractLsb' 8 6), (imm.extractLsb' 0 8)⟩
  | .shli d a n => .sw ⟨0x07#6, d, a, 0#6, (0#2 ++ n)⟩
  | .shri d a n => .sw ⟨0x07#6, d, a, 16#6, (0#2 ++ n)⟩
  | .srai d a n => .sw ⟨0x07#6, d, a, 32#6, (0#2 ++ n)⟩
  | .rori d a n => .sw ⟨0x07#6, d, a, 48#6, (0#2 ++ n)⟩
  | .lui d imm => .sw ⟨0x08#6, d, (imm.extractLsb' 14 6), (imm.extractLsb' 8 6), (imm.extractLsb' 0 8)⟩
  | .addpc d imm => .sw ⟨0x09#6, d, (imm.extractLsb' 14 6), (imm.extractLsb' 8 6), (imm.extractLsb' 0 8)⟩
  | .bfxu d a p l => .sw ⟨0x0A#6, d, a, p, (l ++ 0#2)⟩
  | .bfxs d a p l => .sw ⟨0x0B#6, d, a, p, (l ++ 0#2)⟩
  | .bfi d a p l => .sw ⟨0x0C#6, d, a, p, (l ++ 0#2)⟩
  | .ldB d a imm => .sw ⟨0x10#6, d, a, (imm.extractLsb' 8 6), (imm.extractLsb' 0 8)⟩
  | .ldBu d a imm => .sw ⟨0x11#6, d, a, (imm.extractLsb' 8 6), (imm.extractLsb' 0 8)⟩
  | .ldH d a imm => .sw ⟨0x12#6, d, a, (imm.extractLsb' 8 6), (imm.extractLsb' 0 8)⟩
  | .ldHu d a imm => .sw ⟨0x13#6, d, a, (imm.extractLsb' 8 6), (imm.extractLsb' 0 8)⟩
  | .ldW d a imm => .sw ⟨0x14#6, d, a, (imm.extractLsb' 8 6), (imm.extractLsb' 0 8)⟩
  | .ldWu d a imm => .sw ⟨0x15#6, d, a, (imm.extractLsb' 8 6), (imm.extractLsb' 0 8)⟩
  | .ldD d a imm => .sw ⟨0x16#6, d, a, (imm.extractLsb' 8 6), (imm.extractLsb' 0 8)⟩
  | .ldm d a n o => .sw ⟨0x17#6, d, a, n, o⟩
  | .stB d a imm => .sw ⟨0x18#6, d, a, (imm.extractLsb' 8 6), (imm.extractLsb' 0 8)⟩
  | .stH d a imm => .sw ⟨0x19#6, d, a, (imm.extractLsb' 8 6), (imm.extractLsb' 0 8)⟩
  | .stW d a imm => .sw ⟨0x1A#6, d, a, (imm.extractLsb' 8 6), (imm.extractLsb' 0 8)⟩
  | .stD d a imm => .sw ⟨0x1B#6, d, a, (imm.extractLsb' 8 6), (imm.extractLsb' 0 8)⟩
  | .stm d a n o => .sw ⟨0x1C#6, d, a, n, o⟩
  | .beq a b o => .sw ⟨0x20#6, a, b, (o.extractLsb' 8 6), (o.extractLsb' 0 8)⟩
  | .bne a b o => .sw ⟨0x21#6, a, b, (o.extractLsb' 8 6), (o.extractLsb' 0 8)⟩
  | .blt a b o => .sw ⟨0x22#6, a, b, (o.extractLsb' 8 6), (o.extractLsb' 0 8)⟩
  | .bge a b o => .sw ⟨0x23#6, a, b, (o.extractLsb' 8 6), (o.extractLsb' 0 8)⟩
  | .bltu a b o => .sw ⟨0x24#6, a, b, (o.extractLsb' 8 6), (o.extractLsb' 0 8)⟩
  | .bgeu a b o => .sw ⟨0x25#6, a, b, (o.extractLsb' 8 6), (o.extractLsb' 0 8)⟩
  | .jal d o => .sw ⟨0x26#6, d, (o.extractLsb' 14 6), (o.extractLsb' 8 6), (o.extractLsb' 0 8)⟩
  | .jalr d a imm => .sw ⟨0x27#6, d, a, (imm.extractLsb' 8 6), (imm.extractLsb' 0 8)⟩
  | .loop a => .sw ⟨0x28#6, 0#6, a, 0#6, 0#8⟩
  | .loopi imm => .sw ⟨0x29#6, 0#6, 0#6, (imm.extractLsb' 8 6), (imm.extractLsb' 0 8)⟩
  | .tjoin x y p q => .sw ⟨0x2C#6, x, 0#6, y, (p ++ q ++ 0#4)⟩
  | .tclr x p => .sw ⟨0x2D#6, x, 0#6, 0#6, (p ++ 0#6)⟩
  | .twait c x k => .sw ⟨0x2E#6, (c ++ x.extractLsb' 2 4), (x.extractLsb' 0 2 ++ k.extractLsb' 12 4), (k.extractLsb' 6 6), (k.extractLsb' 0 6 ++ 0#2)⟩
  | .fence sc k => .sw ⟨0x2F#6, (sc ++ k.extractLsb' 2 3), (k.extractLsb' 0 2 ++ 0#4), 0#6, 0#8⟩
  | .csrr d c => .sw ⟨0x30#6, d, 0#6, (c.extractLsb' 8 6), (c.extractLsb' 0 8)⟩
  | .csrw a c => .sw ⟨0x31#6, 0#6, a, (c.extractLsb' 8 6), (c.extractLsb' 0 8)⟩
  | .trap c => .sw ⟨0x32#6, 0#6, (0#4 ++ c.extractLsb' 14 2), (c.extractLsb' 8 6), (c.extractLsb' 0 8)⟩
  | .eret => .sw ⟨0x33#6, 0#6, 0#6, 0#6, 0#8⟩
  | .tail => .sw ⟨0x34#6, 0#6, 0#6, 0#6, 0#8⟩
  | .dsetb d a => .lan ⟨0x38#6, (0#2 ++ d), a, 0#6, 0#8⟩
  | .dsete d a k => .lan ⟨0x38#6, (0#2 ++ d), a, k, 1#8⟩
  | .dsets d a k => .lan ⟨0x38#6, (0#2 ++ d), a, k, 2#8⟩
  | .dseta d a => .lan ⟨0x38#6, (0#2 ++ d), a, 0#6, 3#8⟩
  | .dgetb d n => .lan ⟨0x38#6, d, (0#2 ++ n), 0#6, 8#8⟩
  | .dgete d n k => .lan ⟨0x38#6, d, (0#2 ++ n), k, 9#8⟩
  | .dgets d n k => .lan ⟨0x38#6, d, (0#2 ++ n), k, 10#8⟩
  | .dgeta d n => .lan ⟨0x38#6, d, (0#2 ++ n), 0#6, 11#8⟩
  | .dmov n n2 => .lan ⟨0x38#6, (0#2 ++ n), (0#2 ++ n2), 0#6, 16#8⟩
  | .daddb n a => .lan ⟨0x38#6, (0#2 ++ n), a, 0#6, 17#8⟩
  | .dld n a imm => .lan ⟨0x39#6, (0#2 ++ n), a, (imm.extractLsb' 8 6), (imm.extractLsb' 0 8)⟩
  | .dldG n a imm => .lan ⟨0x39#6, (1#2 ++ n), a, (imm.extractLsb' 8 6), (imm.extractLsb' 0 8)⟩
  | .dst n a imm => .lan ⟨0x3A#6, (0#2 ++ n), a, (imm.extractLsb' 8 6), (imm.extractLsb' 0 8)⟩
  | .dstG n a imm => .lan ⟨0x3A#6, (1#2 ++ n), a, (imm.extractLsb' 8 6), (imm.extractLsb' 0 8)⟩
  | .ldg d a => .lan ⟨0x3B#6, d, a, 0#6, 0#8⟩
  | .stg a b => .lan ⟨0x3B#6, 0#6, a, b, 1#8⟩
  | .amogAdd d a b => .lan ⟨0x3B#6, d, a, b, 2#8⟩
  | .amogSwp d a b => .lan ⟨0x3B#6, d, a, b, 3#8⟩
  | .amogCas d a b => .lan ⟨0x3B#6, d, a, b, 4#8⟩
  | .lcp d a b => .lan ⟨0x3B#6, d, a, b, 8#8⟩
  | .tdecl n b => .lan ⟨0x3C#6, 0#6, (0#2 ++ n), b, 0#8⟩
  | .trel a => .lan ⟨0x3C#6, 0#6, a, 0#6, 1#8⟩
  | .post a => .lan ⟨0x3C#6, 0#6, a, 0#6, 4#8⟩
  | .postTry d a => .lan ⟨0x3C#6, d, a, 0#6, 5#8⟩
  | .postR a b => .lan ⟨0x3C#6, 0#6, a, b, 6#8⟩
  | .postRtry d a b => .lan ⟨0x3C#6, d, a, b, 7#8⟩
  | .tkwait a => .lan ⟨0x3D#6, 0#6, a, 0#6, 0#8⟩
  | .tksig a => .lan ⟨0x3D#6, 0#6, a, 0#6, 1#8⟩
  | .tkrd d a => .lan ⟨0x3D#6, d, a, 0#6, 2#8⟩
  | .usig a => .lan ⟨0x3D#6, 0#6, a, 0#6, 4#8⟩
  | .winq d k => .lan ⟨0x3E#6, d, 0#6, k, 0#8⟩
  | .retry a => .lan ⟨0x3E#6, 0#6, a, 0#6, 1#8⟩
  | .vadd f => .v ⟨0x00, tyA, .vec, .vec, .vec, .none, true, true, .fl, false, false⟩ f
  | .vsub f => .v ⟨0x01, tyA, .vec, .vec, .vec, .none, true, true, .fl, false, false⟩ f
  | .vmul f => .v ⟨0x02, tyA, .vec, .vec, .vec, .none, true, true, .fl, false, false⟩ f
  | .vmulh f => .v ⟨0x03, tyI, .vec, .vec, .vec, .none, true, true, .none, false, false⟩ f
  | .vfma f => .v ⟨0x04, tyF, .vec, .vec, .vec, .vec, true, true, .fl, false, false⟩ f
  | .vfms f => .v ⟨0x05, tyF, .vec, .vec, .vec, .vec, true, true, .fl, false, false⟩ f
  | .vfnma f => .v ⟨0x06, tyF, .vec, .vec, .vec, .vec, true, true, .fl, false, false⟩ f
  | .vmac f => .v ⟨0x07, tyI, .vec, .vec, .vec, .vec, true, true, .none, false, false⟩ f
  | .vand f => .v ⟨0x08, tyI, .vec, .vec, .vec, .none, true, true, .none, false, false⟩ f
  | .vor f => .v ⟨0x09, tyI, .vec, .vec, .vec, .none, true, true, .none, false, false⟩ f
  | .vxor f => .v ⟨0x0A, tyI, .vec, .vec, .vec, .none, true, true, .none, false, false⟩ f
  | .vandn f => .v ⟨0x0B, tyI, .vec, .vec, .vec, .none, true, true, .none, false, false⟩ f
  | .vshl f => .v ⟨0x0C, tyI, .vec, .vec, .vec, .none, true, true, .none, false, false⟩ f
  | .vshr f => .v ⟨0x0D, tyI, .vec, .vec, .vec, .none, true, true, .none, false, false⟩ f
  | .vsra f => .v ⟨0x0E, tyI, .vec, .vec, .vec, .none, true, true, .none, false, false⟩ f
  | .vrshr f => .v ⟨0x0F, tyI, .vec, .vec, .vec, .none, true, true, .none, false, false⟩ f
  | .vadds f => .v ⟨0x10, tyI, .vec, .vec, .vec, .none, true, true, .none, false, false⟩ f
  | .vsubs f => .v ⟨0x11, tyI, .vec, .vec, .vec, .none, true, true, .none, false, false⟩ f
  | .vmin f => .v ⟨0x12, tyA, .vec, .vec, .vec, .none, true, true, .none, false, false⟩ f
  | .vmax f => .v ⟨0x13, tyA, .vec, .vec, .vec, .none, true, true, .none, false, false⟩ f
  | .vabs f => .v ⟨0x14, tyA, .vec, .vec, .none, .none, true, true, .none, false, false⟩ f
  | .vneg f => .v ⟨0x15, tyA, .vec, .vec, .none, .none, true, true, .none, false, false⟩ f
  | .vabd f => .v ⟨0x16, tyA, .vec, .vec, .vec, .none, true, true, .fl, false, false⟩ f
  | .vclz f => .v ⟨0x17, tyI, .vec, .vec, .none, .none, true, true, .none, false, false⟩ f
  | .vpopc f => .v ⟨0x18, tyI, .vec, .vec, .none, .none, true, true, .none, false, false⟩ f
  | .vcvt f => .v ⟨0x20, tyN, .vec, .vec, .none, .none, false, false, .any, false, true⟩ f
  | .vrq f => .v ⟨0x21, tyN, .vec, .vec, .vec, .vec, false, false, .any, false, true⟩ f
  | .vwidenLo f => .v ⟨0x22, tyNarrow, .vec, .vec, .none, .none, true, true, .none, false, false⟩ f
  | .vwidenHi f => .v ⟨0x23, tyNarrow, .vec, .vec, .none, .none, true, true, .none, false, false⟩ f
  | .vnarrow f => .v ⟨0x24, tyWide, .vec, .vec, .vec, .none, true, true, .none, false, false⟩ f
  | .vperm f => .v ⟨0x30, tyI, .vec, .vec, .vec, .none, true, true, .none, false, false⟩ f
  | .vperm2 f => .v ⟨0x31, tyI, .vec, .vec, .vec, .vec, true, true, .none, false, false⟩ f
  | .vrot f => .v ⟨0x32, tyI, .vec, .vec, .vec, .none, true, true, .none, false, false⟩ f
  | .vslide f => .v ⟨0x33, tyI, .vec, .vec, .vec, .vec, true, true, .none, false, false⟩ f
  | .vzipLo f => .v ⟨0x34, tyI, .vec, .vec, .vec, .none, true, true, .none, false, false⟩ f
  | .vzipHi f => .v ⟨0x35, tyI, .vec, .vec, .vec, .none, true, true, .none, false, false⟩ f
  | .vunzipE f => .v ⟨0x36, tyI, .vec, .vec, .vec, .none, true, true, .none, false, false⟩ f
  | .vunzipO f => .v ⟨0x37, tyI, .vec, .vec, .vec, .none, true, true, .none, false, false⟩ f
  | .vbcast f => .v ⟨0x38, tyI, .vec, .vec, .vec, .none, true, true, .none, false, false⟩ f
  | .vclmul f => .v ⟨0x40, tyW, .vec, .vec, .vec, .none, true, true, .none, false, false⟩ f
  | .vclmulh f => .v ⟨0x41, tyW, .vec, .vec, .vec, .none, true, true, .none, false, false⟩ f
  | .vpxor f => .v ⟨0x42, tyN, .vec, .vec, .none, .none, false, false, .none, true, false⟩ f
  | .vpsum f => .v ⟨0x43, tyI, .vec, .vec, .vec, .none, true, true, .none, false, false⟩ f
  | .vradd f => .v ⟨0x48, tyA, .vec, .vec, .none, .none, true, false, .fl, false, false⟩ f
  | .vrmin f => .v ⟨0x49, tyA, .vec, .vec, .none, .none, true, false, .none, false, false⟩ f
  | .vrmax f => .v ⟨0x4A, tyA, .vec, .vec, .none, .none, true, false, .none, false, false⟩ f
  | .vrxor f => .v ⟨0x4B, tyI, .vec, .vec, .none, .none, true, false, .none, false, false⟩ f
  | .vrmini f => .v ⟨0x4C, tyA, .vec, .vec, .none, .none, true, false, .none, false, false⟩ f
  | .vrmaxi f => .v ⟨0x4D, tyA, .vec, .vec, .none, .none, true, false, .none, false, false⟩ f
  | .vceq f => .v ⟨0x50, tyA, .vecMask, .vec, .vec, .none, true, true, .none, false, false⟩ f
  | .vcne f => .v ⟨0x51, tyA, .vecMask, .vec, .vec, .none, true, true, .none, false, false⟩ f
  | .vclt f => .v ⟨0x52, tyA, .vecMask, .vec, .vec, .none, true, true, .none, false, false⟩ f
  | .vcle f => .v ⟨0x53, tyA, .vecMask, .vec, .vec, .none, true, true, .none, false, false⟩ f
  | .vcgt f => .v ⟨0x54, tyA, .vecMask, .vec, .vec, .none, true, true, .none, false, false⟩ f
  | .vcge f => .v ⟨0x55, tyA, .vecMask, .vec, .vec, .none, true, true, .none, false, false⟩ f
  | .vcun f => .v ⟨0x56, tyF, .vecMask, .vec, .vec, .none, true, true, .none, false, false⟩ f
  | .vsel f => .v ⟨0x57, tyA, .vec, .vec, .vec, .none, true, false, .none, false, false⟩ f
  | .mand f => .v ⟨0x58, tyN, .mask, .mask, .mask, .none, false, false, .none, false, false⟩ f
  | .mor f => .v ⟨0x59, tyN, .mask, .mask, .mask, .none, false, false, .none, false, false⟩ f
  | .mxor f => .v ⟨0x5A, tyN, .mask, .mask, .mask, .none, false, false, .none, false, false⟩ f
  | .mandn f => .v ⟨0x5B, tyN, .mask, .mask, .mask, .none, false, false, .none, false, false⟩ f
  | .mnot f => .v ⟨0x5C, tyN, .mask, .mask, .none, .none, false, false, .none, false, false⟩ f
  | .vmov f => .v ⟨0x60, tyN, .vec, .vec, .none, .none, true, true, .none, false, false⟩ f
  | .vext f => .v ⟨0x61, tyI, .none, .vec, .vec, .none, false, false, .none, true, false⟩ f
  | .vins f => .v ⟨0x62, tyI, .vec, .none, .vec, .none, false, false, .none, true, false⟩ f
  | .vld f => .v ⟨0x70, tyN, .vec, .none, .none, .none, true, true, .none, true, true⟩ f
  | .vst f => .v ⟨0x71, tyN, .vec, .none, .none, .none, true, false, .none, true, true⟩ f
  | .vldm f => .v ⟨0x72, tyN, .vec, .none, .none, .count, false, false, .none, true, true⟩ f
  | .vstm f => .v ⟨0x73, tyN, .vec, .none, .none, .count, false, false, .none, true, true⟩ f
  | .vgth f => .v ⟨0x74, tyI, .vec, .vec, .none, .none, true, true, .none, true, true⟩ f
  | .vsct f => .v ⟨0x75, tyI, .vec, .vec, .none, .none, true, false, .none, true, true⟩ f
  | .qld f => .v ⟨0x78, tyN, .queue, .none, .none, .none, true, false, (.fix 0), true, true⟩ f
  | .qldZ1 f => .v ⟨0x78, tyN, .queue, .none, .none, .none, false, false, (.fix 1), true, true⟩ f
  | .qldZ2 f => .v ⟨0x78, tyN, .queue, .none, .none, .none, false, false, (.fix 2), true, true⟩ f
  | .vtrd f => .v ⟨0x7C, tyN, .vec, .none, .none, .none, true, true, .none, true, true⟩ f
  | .vtwr f => .v ⟨0x7D, tyN, .none, .vec, .none, .none, true, true, .none, true, true⟩ f
  | .mmaQ f => .m 0x00 f
  | .mmaV f => .m 0x01 f
  | .mmaR f => .m 0x02 f
  | .wld f => .m 0x04 f
  | .swap f => .m 0x05 f
  | .zero f => .m 0x06 f
  | .drain f => .m 0x08 f
  | .drainZ1 f => .m 0x09 f
  | .drainZ2 f => .m 0x0A f
  | .cp f => .c ⟨0x00, .any, .any, .any, .bar, true, true⟩ f
  | .cpP f => .c ⟨0x01, .any, .any, .any, .bar, true, true⟩ f
  | .cpBox f => .c ⟨0x02, .any, .any, .any, .bar, true, true⟩ f
  | .cpGth f => .c ⟨0x04, .any, .any, .any, .bar, true, true⟩ f
  | .cpSct f => .c ⟨0x05, .any, .any, .any, .bar, true, true⟩ f
  | .cpCvt f => .c ⟨0x06, .any, .any, .any, .bar, true, true⟩ f
  | .cpZip f => .c ⟨0x07, .any, .any, .any, .bar, true, true⟩ f
  | .cpUnz f => .c ⟨0x08, .any, .any, .any, .bar, true, true⟩ f
  | .cpXp f => .c ⟨0x0A, .any, .any, .any, .bar, true, true⟩ f
  | .mcred f => .c ⟨0x0C, .any, .any, .any, .bar, true, true⟩ f
  | .amoAdd f => .c ⟨0x10, .any, .any, .any, .amo, false, true⟩ f
  | .amoAnd f => .c ⟨0x11, .any, .any, .any, .amo, false, true⟩ f
  | .amoOr f => .c ⟨0x12, .any, .any, .any, .amo, false, true⟩ f
  | .amoXor f => .c ⟨0x13, .any, .any, .any, .amo, false, true⟩ f
  | .amoMin f => .c ⟨0x14, .any, .any, .any, .amo, false, true⟩ f
  | .amoMax f => .c ⟨0x15, .any, .any, .any, .amo, false, true⟩ f
  | .amoMinu f => .c ⟨0x16, .any, .any, .any, .amo, false, true⟩ f
  | .amoMaxu f => .c ⟨0x17, .any, .any, .any, .amo, false, true⟩ f
  | .amoSwp f => .c ⟨0x18, .any, .any, .any, .amo, false, true⟩ f
  | .amoCas f => .c ⟨0x19, .any, .any, .any, .amo, false, true⟩ f
  | .amoFaddF32 f => .c ⟨0x1A, .any, .any, .any, .fadd, false, true⟩ f
  | .amoFaddBf16 f => .c ⟨0x1B, .any, .any, .any, .fadd, false, true⟩ f
  | .amoFaddF16 f => .c ⟨0x1C, .any, .any, .any, .fadd, false, true⟩ f
  | .sig f => .c ⟨0x20, .zero, .any, .any, .rel, false, false⟩ f
  | .swait f => .c ⟨0x21, .zero, .zero, .any, .acq, false, false⟩ f
  | .bpost f => .c ⟨0x22, .zero, .any, .any, .rel, false, false⟩ f
  | .bwait f => .c ⟨0x23, .zero, .any, .any, .acq, false, false⟩ f
  | .barrive f => .c ⟨0x24, .zero, .any, .any, .rel, false, false⟩ f
  | .semrd f => .c ⟨0x25, .any, .zero, .any, .zero, false, false⟩ f
  | .cpost f => .c ⟨0x28, .zero, .any, .zero, .zero, false, false⟩ f
  | .ldr f => .c ⟨0x30, .any, .any, .zero, .zero, false, true⟩ f
  | .ldrV f => .c ⟨0x31, .low5, .any, .zero, .zero, false, true⟩ f
  | .str f => .c ⟨0x32, .any, .any, .zero, .zero, true, false⟩ f
  | .strV f => .c ⟨0x33, .any, .zero, .low5, .zero, true, false⟩ f
  | .bundleIssue => .event
  | .resultLanding => .event
  | .dividerFree => .event
  | .taggedReadArrival => .event
  | .commandHandOff => .event
  | .deferredCheckTrap => .event
  | .engineCommandStart => .event
  | .engineTokenFire => .event
  | .signalArrival => .event
  | .chunkComplete => .event
  | .commandComplete => .event
  | .memorySideFault => .event
  | .ringTrap => .event
  | .unitTrap => .event
  | .matrixCommandLeave => .event
  | .mmaStep => .event
  | .wldComplete => .event
  | .mmaComplete => .event
  | .drainComplete => .event
  | .barrierWaitComplete => .event
  | .swaitGrant => .event
  | .instanceDrain => .event
  | .taskDispatch => .event
  | .postEntry => .event
  | .overflowQueueEntry => .event
  | .tokenWatch => .event
  | .commitCopyStart => .event
  | .commitCopyComplete => .event
  | .taskFree => .event
  | .gangSwitch => .event
  | .contextRestore => .event
  | .jobStart => .event
  | .deferredReissue => .event
  | .traceSample => .event
  | .rpcFillComplete => .event
  | .rpcEviction => .event
  | .hostSnoop => .event
  | .rpcWriteBack => .event
  | .rpcInvalidate => .event
  | .rpcWriteBackInvalidate => .event
  | .rpcOpDone => .event
  | .rangeStageWrite => .event
  | .rangeCommit => .event
  | .ringCmpWrite => .event
  | .ringCmpSupply => .event
  | .ringCmpPoison => .event
  | .ringHeadWrite => .event
  | .histClr => .event
  | .tileStatusWrite => .event
  | .doorbell => .event
  | .tailWordWrite => .event
  | .queueReset => .event
  | .hostRegisterWrite => .event
  | .queueUnbind => .event
  | .commandFetch => .event
  | .completionRecordWrite => .event
  | .nop => .event
  | .launch => .event
  | .launchSwapIn => .event
  | .launchComplete => .event
  | .wait => .event
  | .waitWakeup => .event
  | .signal => .event
  | .indirect => .event
  | .place => .event
  | .map => .event
  | .unmap => .event
  | .mapx => .event
  | .unmapx => .event
  | .unitResume => .event
  | .unitAbort => .event
  | .belfry => .event
  | .mcgrp => .event
  | .trace => .event
  | .nvmeRd => .event
  | .nvmeWr => .event
  | .nvmeCompletion => .event
  | .nvmeTimeout => .event
  | .jobCreate => .event
  | .jobDestroy => .event
  | .keyLoad => .event
  | .gang => .event
  | .part => .event
  | .rpcCfg => .event
  | .nvmeAtt => .event
  | .cxlMemRead => .event
  | .cxlMemWrite => .event
  | .rd => .event
  | .wr => .event
  | .amo => .event
  | .fadd => .event
  | .postPacket => .event
  | .tkarm => .event
  | .tksigPacket => .event
  | .tkrdPacket => .event
  | .mcreq => .event
  | .red => .event
  | .data => .event
  | .ack => .event
  | .requestTimeout => .event
  | .belfrySlotBoundary => .event
  | .linkBringup => .event
  | .laneFailure => .event
  | .peerReset => .event
  | .hotSwapRemove => .event
  | .powerGood => .event
  | .attestationRequest => .event
  | .liveUpdate => .event
  | .powerCapSet => .event
  | .thermalTrip => .event
  | .postTimeout => .event
  | .postAnswer => .event
  | .ptpLossOfLock => .event
  | .powerCapThrottling => .event
  | .partitionDissolved => .event

end Sys2Proof.Machine
end

