-- ==== Sys2Proof/Machine/Legal.lean ====
section
/-! DEFINITION. The encoding checks of a slot word that its own bits decide: which case of spec 09 R158 a word breaks (spec 10 R161 to R175, 11 R197, 13 R243, 14 R265). -/

namespace Sys2Proof.Machine

/-- Case `n` where `ok` fails. -/
def need (n : Nat) (ok : Bool) : Option Nat := if ok then none else some n

/-- The first case broken. -/
def firstBad : List (Option Nat) → Option Nat
  | [] => none
  | some n :: _ => some n
  | none :: r => firstBad r

/-- Limits of the S-slot and Lantern fields that hold for either agent (R165, R175). -/
def swBad : Instr → Option Nat
  | .bfxu _ _ p l | .bfxs _ _ p l | .bfi _ _ p l => need 2 (decide (p.toNat + l.toNat + 1 ≤ 64))
  | .ldm d _ n _ | .stm d _ n _ => need 2 (decide (d.toNat + n.toNat ≤ 63))
  | .loopi imm => need 2 (decide (0 < imm.toNat) && decide (imm.toNat < 8192))
  | .fence sc _ => need 2 (decide (sc.toNat ≤ 4))
  | .csrr _ c | .csrw _ c => need 2 (csrMap c.toNat).isSome
  | .dsete _ _ k | .dgete _ _ k => need 2 (decide (k.toNat ≤ 3))
  | .dsets _ _ k | .dgets _ _ k => need 2 (decide (1 ≤ k.toNat) && decide (k.toNat ≤ 3))
  | .winq _ k => need 2 (decide (k.toNat ≤ 7))
  | _ => none

/-- A V-slot source specifier that its position allows (R167); qa is case 5. -/
def srcBad (cls : SCls) (x : Nat) : Option Nat :=
  match cls with
  | .none => need 2 (decide (x = 0))
  | .vec => if x = 0x28 then some 5 else need 2 (decide (x < 0x28) || decide (0x3E ≤ x))
  | .mask => need 2 (decide (0x30 ≤ x) && decide (x ≤ 0x37))
  | .count => need 2 (decide (x < 32))

/-- A V-slot destination specifier that its position allows (R167); a queue named as a destination is case 5. -/
def dstBad (cls : DCls) (op x : Nat) : Option Nat :=
  let q := decide (0x20 ≤ x) && decide (x ≤ 0x28)
  let stores := op = 0x71 ∨ op = 0x73 ∨ op = 0x75
  match cls with
  | .none => need 2 (decide (x = 0))
  | .vec => if q then some (if stores then 2 else 5) else need 2 (decide (x < 0x20))
  | .vecMask => if q then some 5 else need 2 (decide (x < 0x20) || (decide (0x30 ≤ x) && decide (x ≤ 0x37)))
  | .mask => if q then some 5 else need 2 (decide (0x30 ≤ x) && decide (x ≤ 0x37))
  | .queue => need 2 q

/-- The source fields that a row reads as vector operands. -/
def vecSrcs (r : VRow) (f : VF) : List Nat :=
  (if r.a = .vec then [f.a.toNat] else []) ++ (if r.b = .vec then [f.b.toNat] else [])
    ++ (if r.c = .vec then [f.c.toNat] else [])

/-- The limits of rm (R169, R205, R210). -/
def rmOk (r : VRow) (f : VF) : Bool :=
  match r.rm with
  | .none => f.rm == 0
  | .fl => f.rm == 0 || decide (f.ty.toNat ∈ tyF)
  | .any => true
  | .fix n => f.rm.toNat == n

/-- Instruction-specific immediate fields (R169, R211, R212, R222, R224, R226). -/
def immOk (r : VRow) (f : VF) : Bool :=
  let s := bits f.imm.toNat 11 5
  let t := bits f.imm.toNat 6 5
  if r.op = 0x20 then decide (s ≤ 0xB) && decide (t ≤ 0xB) && decide (bits f.imm.toNat 0 6 = 0)
  else if r.op = 0x21 then fmtScaled s && fmtScaled t && decide (bits f.imm.toNat 0 6 = 0)
  else if r.op = 0x72 ∨ r.op = 0x73 then decide (f.d.toNat + f.c.toNat ≤ 31)
  else if r.op = 0x78 then decide (f.d.toNat ≠ 0x28) || f.mask == 0
  else if r.op = 0x7C ∨ r.op = 0x7D then decide (bits f.imm.toNat 0 5 = 0)
  else true

/-- The case a V-slot word breaks (R158, R167, R169). -/
def vBad (r : VRow) (f : VF) : Option Nat :=
  let srcs := vecSrcs r f
  let nImm := srcs.count 0x3E
  let nReg := srcs.count 0x3F
  firstBad [need 2 (decide (f.ty.toNat ∈ r.types)), dstBad r.d r.op f.d.toNat, srcBad r.a f.a.toNat,
    srcBad r.b f.b.toNat, srcBad r.c f.c.toNat,
    need 2 (decide (nImm ≤ 1) && decide (nReg ≤ 1) && !(r.imm && decide (nImm ≠ 0)) && !(r.sreg && decide (nReg ≠ 0))),
    need 2 (r.imm || decide (nImm ≠ 0) || f.imm == 0), need 2 (r.sreg || decide (nReg ≠ 0) || f.sreg == 0),
    need 2 (r.mask || f.mask == 0), need 2 (r.mz || f.mz == 0), need 2 (rmOk r f), need 2 (immOk r f)]

/-- A consumed-token item with en = 0 is zero in all its bits, and so is a produced token (R170). -/
def tokBad (t : TokF) : Option Nat :=
  let item := fun (x : BitVec 8) => bit x.toNat 7 || x == 0
  need 2 (item t.tk0 && item t.tk1 && item t.tk2 && (bit t.gv.toNat 5 || t.gv == 0))

/-- The case an M-slot word breaks (R171, R243). -/
def mBad (op : Nat) (f : MF) : Option Nat :=
  let ft := f.ft == 1
  let noF := f.fa == 0 && f.fb == 0
  let cls := match mxClass f.fa.toNat, mxClass f.fb.toNat with
    | some x, some y => x == y
    | _, _ => false
  let mma := if ft then noF else cls
  let ok : Bool :=
    match op with
    | 0 => f.sb == 0 && mma
    | 1 => f.sk == 0 && decide (f.sb.toNat ≤ (if !ft && fmtScaled f.fa.toNat then 28 else 29)) && mma
    | 2 => mma
    | 4 => f.tile == 0 && f.sk == 0 && f.fa == 0 && (if ft then f.fb == 0 else (mxClass f.fb.toNat).isSome)
    | 5 => !ft && noF && f.tile == 0 && f.sb == 0 && f.sk == 0
    | 6 => !ft && noF && f.sb == 0 && f.sk == 0
    | _ => if ft then noF else (fmtKind f.fa.toNat).isSome
  firstBad [need 2 ok, tokBad f.tok]

/-- The fn field of atomics and synchronisation commands (R174). -/
def fnOk (u : RcUse) (rc : Nat) : Bool :=
  let ord := bits rc 4 2
  let sc := bits rc 1 3
  let size := bits rc 0 1
  let scOk := decide (sc ≤ 4) && (decide (ord ≠ 0) || decide (sc = 0))
  match u with
  | .zero => decide (rc = 0)
  | .bar => true
  | .amo => scOk
  | .fadd => scOk && decide (size = 0)
  | .rel => scOk && decide (size = 0) && (decide (ord = 0) || decide (ord = 2))
  | .acq => scOk && decide (size = 0) && (decide (ord = 0) || decide (ord = 1))

/-- A C-slot register field (R173, R265). -/
def cuseOk (u : CUse) (x : Nat) : Bool :=
  match u with
  | .zero => decide (x = 0)
  | .any => true
  | .low5 => decide (x < 32)

/-- The case a C-slot word breaks (R173, R174, R265). -/
def cBad (r : CRow) (f : CF) : Option Nat :=
  firstBad [need 2 (cuseOk r.rd f.rd.toNat && cuseOk r.ra f.ra.toNat && cuseOk r.rb f.rb.toNat),
    need 2 (fnOk r.rc f.rc.toNat), need 2 ((r.dsp || f.dsp == 0) && (r.ssp || f.ssp == 0)),
    need 2 (decide (r.op ≠ 0x0C) || f.ssp == 3), tokBad f.tok]

/-- The case of R158 that an instruction's own bits break; none where it is well formed. -/
def illegal (i : Instr) : Option Nat :=
  match form i with
  | .sw _ | .lan _ => swBad i
  | .v r f => vBad r f
  | .m op f => mBad op f
  | .c r f => cBad r f
  | .event => none

end Sys2Proof.Machine
end

