-- ==== Sys2Proof/WellFormed.lean ====
section
/-! DEFINITION. Well-formed instructions: those whose own fields break no encoding rule (spec 09 R158, 10 R165 to R175). -/

namespace Sys2Proof

/-- An instruction that no encoding rule refuses for its own bits. -/
def Instr.wf (i : Instr) : Bool := (Machine.illegal i).isNone

end Sys2Proof
end

