-- ==== Sys2Proof/Decode.lean ====
section
/-! DEFINITION. The decoder of slot words and Lantern words and, after it, the encoder, both from the encoding tables of spec 10. -/

namespace Sys2Proof

open Machine

/-- The places of a 32-bit word (R162). -/
def split32 (w : W32) : S32 :=
  ⟨w.extractLsb' 26 6, w.extractLsb' 20 6, w.extractLsb' 14 6, w.extractLsb' 8 6, w.extractLsb' 0 8⟩

/-- The token fields of bits 29:0 of an M-slot or C-slot word (R170). -/
def splitTok (w : W64) : TokF :=
  ⟨w.extractLsb' 22 8, w.extractLsb' 14 8, w.extractLsb' 6 8, w.extractLsb' 0 6⟩

/-- The fields of a V-slot word (R166). -/
def splitV (w : W64) : VF :=
  ⟨w.extractLsb' 52 4, w.extractLsb' 46 6, w.extractLsb' 40 6, w.extractLsb' 34 6, w.extractLsb' 28 6,
    w.extractLsb' 25 3, w.extractLsb' 24 1, w.extractLsb' 22 2, w.extractLsb' 16 6, w.extractLsb' 0 16⟩

/-- The fields of an M-slot word (R170). -/
def splitM (w : W64) : MF :=
  ⟨w.extractLsb' 54 4, w.extractLsb' 48 6, w.extractLsb' 42 6, w.extractLsb' 37 5, w.extractLsb' 32 5,
    w.extractLsb' 31 1, splitTok w⟩

/-- The fields of a C-slot word (R172). -/
def splitC (w : W64) : CF :=
  ⟨w.extractLsb' 52 6, w.extractLsb' 46 6, w.extractLsb' 40 6, w.extractLsb' 34 6, w.extractLsb' 32 2,
    w.extractLsb' 30 2, splitTok w⟩

/-- Major 0x00 by its selector (R185). -/
def parse00 (u : S32) : Except Nat Instr :=
  if u.f == 0#8 then .ok (.add u.x u.y u.z)
  else if u.f == 1#8 then .ok (.sub u.x u.y u.z)
  else if u.f == 2#8 then .ok (.and u.x u.y u.z)
  else if u.f == 3#8 then .ok (.or u.x u.y u.z)
  else if u.f == 4#8 then .ok (.xor u.x u.y u.z)
  else if u.f == 5#8 then .ok (.andn u.x u.y u.z)
  else if u.f == 6#8 then .ok (.orn u.x u.y u.z)
  else if u.f == 7#8 then .ok (.xnor u.x u.y u.z)
  else if u.f == 8#8 then .ok (.shl u.x u.y u.z)
  else if u.f == 9#8 then .ok (.shr u.x u.y u.z)
  else if u.f == 10#8 then .ok (.sra u.x u.y u.z)
  else if u.f == 11#8 then .ok (.ror u.x u.y u.z)
  else if u.f == 12#8 then .ok (.slt u.x u.y u.z)
  else if u.f == 13#8 then .ok (.sltu u.x u.y u.z)
  else if u.f == 14#8 then .ok (.min u.x u.y u.z)
  else if u.f == 15#8 then .ok (.max u.x u.y u.z)
  else if u.f == 16#8 then .ok (.minu u.x u.y u.z)
  else if u.f == 17#8 then .ok (.maxu u.x u.y u.z)
  else if u.f == 18#8 then (if u.z == 0#6 then .ok (.clz u.x u.y) else .error 2)
  else if u.f == 19#8 then (if u.z == 0#6 then .ok (.ctz u.x u.y) else .error 2)
  else if u.f == 20#8 then (if u.z == 0#6 then .ok (.popc u.x u.y) else .error 2)
  else if u.f == 21#8 then (if u.z == 0#6 then .ok (.bswap u.x u.y) else .error 2)
  else if u.f == 32#8 then .ok (.mul u.x u.y u.z)
  else if u.f == 33#8 then .ok (.mulh u.x u.y u.z)
  else if u.f == 34#8 then .ok (.mulhu u.x u.y u.z)
  else if u.f == 35#8 then .ok (.mulhsu u.x u.y u.z)
  else if u.f == 40#8 then .ok (.div u.x u.y u.z)
  else if u.f == 41#8 then .ok (.divu u.x u.y u.z)
  else if u.f == 42#8 then .ok (.rem u.x u.y u.z)
  else if u.f == 43#8 then .ok (.remu u.x u.y u.z)
  else .error 1

/-- Major 0x07 by its selector (R186). -/
def parse07 (u : S32) : Except Nat Instr :=
  if u.z.extractLsb' 4 2 == 0#2 then (if u.z.extractLsb' 0 4 == 0#4 && u.f.extractLsb' 6 2 == 0#2 then .ok (.shli u.x u.y (u.f.extractLsb' 0 6)) else .error 2)
  else if u.z.extractLsb' 4 2 == 1#2 then (if u.z.extractLsb' 0 4 == 0#4 && u.f.extractLsb' 6 2 == 0#2 then .ok (.shri u.x u.y (u.f.extractLsb' 0 6)) else .error 2)
  else if u.z.extractLsb' 4 2 == 2#2 then (if u.z.extractLsb' 0 4 == 0#4 && u.f.extractLsb' 6 2 == 0#2 then .ok (.srai u.x u.y (u.f.extractLsb' 0 6)) else .error 2)
  else if u.z.extractLsb' 4 2 == 3#2 then (if u.z.extractLsb' 0 4 == 0#4 && u.f.extractLsb' 6 2 == 0#2 then .ok (.rori u.x u.y (u.f.extractLsb' 0 6)) else .error 2)
  else .error 1

/-- Major 0x38 by its selector (R269). -/
def parse38 (u : S32) : Except Nat Instr :=
  if u.f == 0#8 then (if u.x.extractLsb' 4 2 == 0#2 && u.z == 0#6 then .ok (.dsetb (u.x.extractLsb' 0 4) u.y) else .error 2)
  else if u.f == 1#8 then (if u.x.extractLsb' 4 2 == 0#2 then .ok (.dsete (u.x.extractLsb' 0 4) u.y u.z) else .error 2)
  else if u.f == 2#8 then (if u.x.extractLsb' 4 2 == 0#2 then .ok (.dsets (u.x.extractLsb' 0 4) u.y u.z) else .error 2)
  else if u.f == 3#8 then (if u.x.extractLsb' 4 2 == 0#2 && u.z == 0#6 then .ok (.dseta (u.x.extractLsb' 0 4) u.y) else .error 2)
  else if u.f == 8#8 then (if u.y.extractLsb' 4 2 == 0#2 && u.z == 0#6 then .ok (.dgetb u.x (u.y.extractLsb' 0 4)) else .error 2)
  else if u.f == 9#8 then (if u.y.extractLsb' 4 2 == 0#2 then .ok (.dgete u.x (u.y.extractLsb' 0 4) u.z) else .error 2)
  else if u.f == 10#8 then (if u.y.extractLsb' 4 2 == 0#2 then .ok (.dgets u.x (u.y.extractLsb' 0 4) u.z) else .error 2)
  else if u.f == 11#8 then (if u.y.extractLsb' 4 2 == 0#2 && u.z == 0#6 then .ok (.dgeta u.x (u.y.extractLsb' 0 4)) else .error 2)
  else if u.f == 16#8 then (if u.x.extractLsb' 4 2 == 0#2 && u.y.extractLsb' 4 2 == 0#2 && u.z == 0#6 then .ok (.dmov (u.x.extractLsb' 0 4) (u.y.extractLsb' 0 4)) else .error 2)
  else if u.f == 17#8 then (if u.x.extractLsb' 4 2 == 0#2 && u.z == 0#6 then .ok (.daddb (u.x.extractLsb' 0 4) u.y) else .error 2)
  else .error 1

/-- Major 0x39 by its selector (R270). -/
def parse39 (u : S32) : Except Nat Instr :=
  if u.x.extractLsb' 4 2 == 0#2 then .ok (.dld (u.x.extractLsb' 0 4) u.y (u.z ++ u.f))
  else if u.x.extractLsb' 4 2 == 1#2 then .ok (.dldG (u.x.extractLsb' 0 4) u.y (u.z ++ u.f))
  else .error 2

/-- Major 0x3A by its selector (R270). -/
def parse3A (u : S32) : Except Nat Instr :=
  if u.x.extractLsb' 4 2 == 0#2 then .ok (.dst (u.x.extractLsb' 0 4) u.y (u.z ++ u.f))
  else if u.x.extractLsb' 4 2 == 1#2 then .ok (.dstG (u.x.extractLsb' 0 4) u.y (u.z ++ u.f))
  else .error 2

/-- Major 0x3B by its selector (R271). -/
def parse3B (u : S32) : Except Nat Instr :=
  if u.f == 0#8 then (if u.z == 0#6 then .ok (.ldg u.x u.y) else .error 2)
  else if u.f == 1#8 then (if u.x == 0#6 then .ok (.stg u.y u.z) else .error 2)
  else if u.f == 2#8 then .ok (.amogAdd u.x u.y u.z)
  else if u.f == 3#8 then .ok (.amogSwp u.x u.y u.z)
  else if u.f == 4#8 then .ok (.amogCas u.x u.y u.z)
  else if u.f == 8#8 then .ok (.lcp u.x u.y u.z)
  else .error 1

/-- Major 0x3C by its selector (R273). -/
def parse3C (u : S32) : Except Nat Instr :=
  if u.f == 0#8 then (if u.x == 0#6 && u.y.extractLsb' 4 2 == 0#2 then .ok (.tdecl (u.y.extractLsb' 0 4) u.z) else .error 2)
  else if u.f == 1#8 then (if u.x == 0#6 && u.z == 0#6 then .ok (.trel u.y) else .error 2)
  else if u.f == 4#8 then (if u.x == 0#6 && u.z == 0#6 then .ok (.post u.y) else .error 2)
  else if u.f == 5#8 then (if u.z == 0#6 then .ok (.postTry u.x u.y) else .error 2)
  else if u.f == 6#8 then (if u.x == 0#6 then .ok (.postR u.y u.z) else .error 2)
  else if u.f == 7#8 then .ok (.postRtry u.x u.y u.z)
  else .error 1

/-- Major 0x3D by its selector (R281). -/
def parse3D (u : S32) : Except Nat Instr :=
  if u.f == 0#8 then (if u.x == 0#6 && u.z == 0#6 then .ok (.tkwait u.y) else .error 2)
  else if u.f == 1#8 then (if u.x == 0#6 && u.z == 0#6 then .ok (.tksig u.y) else .error 2)
  else if u.f == 2#8 then (if u.z == 0#6 then .ok (.tkrd u.x u.y) else .error 2)
  else if u.f == 4#8 then (if u.x == 0#6 && u.z == 0#6 then .ok (.usig u.y) else .error 2)
  else .error 1

/-- Major 0x3E by its selector (R282). -/
def parse3E (u : S32) : Except Nat Instr :=
  if u.f == 0#8 then (if u.y == 0#6 then .ok (.winq u.x u.z) else .error 2)
  else if u.f == 1#8 then (if u.x == 0#6 && u.z == 0#6 then .ok (.retry u.y) else .error 2)
  else .error 1

/-- The instruction of a 32-bit word's places, before its field limits; an error carries the case of R158 (R163, R164, R175). -/
def parseS (u : S32) : Except Nat Instr :=
  match u.op.toNat with
  | 0x00 => parse00 u
  | 0x01 => .ok (.addi u.x u.y (u.z ++ u.f))
  | 0x02 => .ok (.andi u.x u.y (u.z ++ u.f))
  | 0x03 => .ok (.ori u.x u.y (u.z ++ u.f))
  | 0x04 => .ok (.xori u.x u.y (u.z ++ u.f))
  | 0x05 => .ok (.slti u.x u.y (u.z ++ u.f))
  | 0x06 => .ok (.sltiu u.x u.y (u.z ++ u.f))
  | 0x07 => parse07 u
  | 0x08 => .ok (.lui u.x (u.y ++ u.z ++ u.f))
  | 0x09 => .ok (.addpc u.x (u.y ++ u.z ++ u.f))
  | 0x0A => if u.f.extractLsb' 0 2 == 0#2 then .ok (.bfxu u.x u.y u.z (u.f.extractLsb' 2 6)) else .error 2
  | 0x0B => if u.f.extractLsb' 0 2 == 0#2 then .ok (.bfxs u.x u.y u.z (u.f.extractLsb' 2 6)) else .error 2
  | 0x0C => if u.f.extractLsb' 0 2 == 0#2 then .ok (.bfi u.x u.y u.z (u.f.extractLsb' 2 6)) else .error 2
  | 0x10 => .ok (.ldB u.x u.y (u.z ++ u.f))
  | 0x11 => .ok (.ldBu u.x u.y (u.z ++ u.f))
  | 0x12 => .ok (.ldH u.x u.y (u.z ++ u.f))
  | 0x13 => .ok (.ldHu u.x u.y (u.z ++ u.f))
  | 0x14 => .ok (.ldW u.x u.y (u.z ++ u.f))
  | 0x15 => .ok (.ldWu u.x u.y (u.z ++ u.f))
  | 0x16 => .ok (.ldD u.x u.y (u.z ++ u.f))
  | 0x17 => .ok (.ldm u.x u.y u.z u.f)
  | 0x18 => .ok (.stB u.x u.y (u.z ++ u.f))
  | 0x19 => .ok (.stH u.x u.y (u.z ++ u.f))
  | 0x1A => .ok (.stW u.x u.y (u.z ++ u.f))
  | 0x1B => .ok (.stD u.x u.y (u.z ++ u.f))
  | 0x1C => .ok (.stm u.x u.y u.z u.f)
  | 0x20 => .ok (.beq u.x u.y (u.z ++ u.f))
  | 0x21 => .ok (.bne u.x u.y (u.z ++ u.f))
  | 0x22 => .ok (.blt u.x u.y (u.z ++ u.f))
  | 0x23 => .ok (.bge u.x u.y (u.z ++ u.f))
  | 0x24 => .ok (.bltu u.x u.y (u.z ++ u.f))
  | 0x25 => .ok (.bgeu u.x u.y (u.z ++ u.f))
  | 0x26 => .ok (.jal u.x (u.y ++ u.z ++ u.f))
  | 0x27 => .ok (.jalr u.x u.y (u.z ++ u.f))
  | 0x28 => if u.x == 0#6 && u.z == 0#6 && u.f == 0#8 then .ok (.loop u.y) else .error 2
  | 0x29 => if u.x == 0#6 && u.y == 0#6 then .ok (.loopi (u.z ++ u.f)) else .error 2
  | 0x2C => if u.y == 0#6 && u.f.extractLsb' 0 4 == 0#4 then .ok (.tjoin u.x u.z (u.f.extractLsb' 6 2) (u.f.extractLsb' 4 2)) else .error 2
  | 0x2D => if u.y == 0#6 && u.z == 0#6 && u.f.extractLsb' 0 6 == 0#6 then .ok (.tclr u.x (u.f.extractLsb' 6 2)) else .error 2
  | 0x2E => if u.f.extractLsb' 0 2 == 0#2 then .ok (.twait (u.x.extractLsb' 4 2) (u.x.extractLsb' 0 4 ++ u.y.extractLsb' 4 2) (u.y.extractLsb' 0 4 ++ u.z ++ u.f.extractLsb' 2 6)) else .error 2
  | 0x2F => if u.y.extractLsb' 0 4 == 0#4 && u.z == 0#6 && u.f == 0#8 then .ok (.fence (u.x.extractLsb' 3 3) (u.x.extractLsb' 0 3 ++ u.y.extractLsb' 4 2)) else .error 2
  | 0x30 => if u.y == 0#6 then .ok (.csrr u.x (u.z ++ u.f)) else .error 2
  | 0x31 => if u.x == 0#6 then .ok (.csrw u.y (u.z ++ u.f)) else .error 2
  | 0x32 => if u.x == 0#6 && u.y.extractLsb' 2 4 == 0#4 then .ok (.trap (u.y.extractLsb' 0 2 ++ u.z ++ u.f)) else .error 2
  | 0x33 => if u.x == 0#6 && u.y == 0#6 && u.z == 0#6 && u.f == 0#8 then .ok .eret else .error 2
  | 0x34 => if u.x == 0#6 && u.y == 0#6 && u.z == 0#6 && u.f == 0#8 then .ok .tail else .error 2
  | 0x38 => parse38 u
  | 0x39 => parse39 u
  | 0x3A => parse3A u
  | 0x3B => parse3B u
  | 0x3C => parse3C u
  | 0x3D => parse3D u
  | 0x3E => parse3E u
  | _ => .error 1

/-- The V-slot instruction of an opcode (R168); QLD's codec is chosen by rm (R169). -/
def parseV (op : Nat) (f : VF) : Except Nat Instr :=
  match op with
  | 0x00 => .ok (.vadd f)
  | 0x01 => .ok (.vsub f)
  | 0x02 => .ok (.vmul f)
  | 0x03 => .ok (.vmulh f)
  | 0x04 => .ok (.vfma f)
  | 0x05 => .ok (.vfms f)
  | 0x06 => .ok (.vfnma f)
  | 0x07 => .ok (.vmac f)
  | 0x08 => .ok (.vand f)
  | 0x09 => .ok (.vor f)
  | 0x0A => .ok (.vxor f)
  | 0x0B => .ok (.vandn f)
  | 0x0C => .ok (.vshl f)
  | 0x0D => .ok (.vshr f)
  | 0x0E => .ok (.vsra f)
  | 0x0F => .ok (.vrshr f)
  | 0x10 => .ok (.vadds f)
  | 0x11 => .ok (.vsubs f)
  | 0x12 => .ok (.vmin f)
  | 0x13 => .ok (.vmax f)
  | 0x14 => .ok (.vabs f)
  | 0x15 => .ok (.vneg f)
  | 0x16 => .ok (.vabd f)
  | 0x17 => .ok (.vclz f)
  | 0x18 => .ok (.vpopc f)
  | 0x20 => .ok (.vcvt f)
  | 0x21 => .ok (.vrq f)
  | 0x22 => .ok (.vwidenLo f)
  | 0x23 => .ok (.vwidenHi f)
  | 0x24 => .ok (.vnarrow f)
  | 0x30 => .ok (.vperm f)
  | 0x31 => .ok (.vperm2 f)
  | 0x32 => .ok (.vrot f)
  | 0x33 => .ok (.vslide f)
  | 0x34 => .ok (.vzipLo f)
  | 0x35 => .ok (.vzipHi f)
  | 0x36 => .ok (.vunzipE f)
  | 0x37 => .ok (.vunzipO f)
  | 0x38 => .ok (.vbcast f)
  | 0x40 => .ok (.vclmul f)
  | 0x41 => .ok (.vclmulh f)
  | 0x42 => .ok (.vpxor f)
  | 0x43 => .ok (.vpsum f)
  | 0x48 => .ok (.vradd f)
  | 0x49 => .ok (.vrmin f)
  | 0x4A => .ok (.vrmax f)
  | 0x4B => .ok (.vrxor f)
  | 0x4C => .ok (.vrmini f)
  | 0x4D => .ok (.vrmaxi f)
  | 0x50 => .ok (.vceq f)
  | 0x51 => .ok (.vcne f)
  | 0x52 => .ok (.vclt f)
  | 0x53 => .ok (.vcle f)
  | 0x54 => .ok (.vcgt f)
  | 0x55 => .ok (.vcge f)
  | 0x56 => .ok (.vcun f)
  | 0x57 => .ok (.vsel f)
  | 0x58 => .ok (.mand f)
  | 0x59 => .ok (.mor f)
  | 0x5A => .ok (.mxor f)
  | 0x5B => .ok (.mandn f)
  | 0x5C => .ok (.mnot f)
  | 0x60 => .ok (.vmov f)
  | 0x61 => .ok (.vext f)
  | 0x62 => .ok (.vins f)
  | 0x70 => .ok (.vld f)
  | 0x71 => .ok (.vst f)
  | 0x72 => .ok (.vldm f)
  | 0x73 => .ok (.vstm f)
  | 0x74 => .ok (.vgth f)
  | 0x75 => .ok (.vsct f)
  | 0x7C => .ok (.vtrd f)
  | 0x7D => .ok (.vtwr f)
  | 0x78 => if f.rm == 0 then .ok (.qld f) else if f.rm == 1 then .ok (.qldZ1 f) else if f.rm == 2 then .ok (.qldZ2 f) else .error 2
  | _ => .error 1

/-- The M-slot instruction of an opcode (R171). -/
def parseM (op : Nat) (f : MF) : Except Nat Instr :=
  match op with
  | 0x00 => .ok (.mmaQ f)
  | 0x01 => .ok (.mmaV f)
  | 0x02 => .ok (.mmaR f)
  | 0x04 => .ok (.wld f)
  | 0x05 => .ok (.swap f)
  | 0x06 => .ok (.zero f)
  | 0x08 => .ok (.drain f)
  | 0x09 => .ok (.drainZ1 f)
  | 0x0A => .ok (.drainZ2 f)
  | _ => .error 1

/-- The C-slot instruction of an opcode (R173). -/
def parseC (op : Nat) (f : CF) : Except Nat Instr :=
  match op with
  | 0x00 => .ok (.cp f)
  | 0x01 => .ok (.cpP f)
  | 0x02 => .ok (.cpBox f)
  | 0x04 => .ok (.cpGth f)
  | 0x05 => .ok (.cpSct f)
  | 0x06 => .ok (.cpCvt f)
  | 0x07 => .ok (.cpZip f)
  | 0x08 => .ok (.cpUnz f)
  | 0x0A => .ok (.cpXp f)
  | 0x0C => .ok (.mcred f)
  | 0x10 => .ok (.amoAdd f)
  | 0x11 => .ok (.amoAnd f)
  | 0x12 => .ok (.amoOr f)
  | 0x13 => .ok (.amoXor f)
  | 0x14 => .ok (.amoMin f)
  | 0x15 => .ok (.amoMax f)
  | 0x16 => .ok (.amoMinu f)
  | 0x17 => .ok (.amoMaxu f)
  | 0x18 => .ok (.amoSwp f)
  | 0x19 => .ok (.amoCas f)
  | 0x1A => .ok (.amoFaddF32 f)
  | 0x1B => .ok (.amoFaddBf16 f)
  | 0x1C => .ok (.amoFaddF16 f)
  | 0x20 => .ok (.sig f)
  | 0x21 => .ok (.swait f)
  | 0x22 => .ok (.bpost f)
  | 0x23 => .ok (.bwait f)
  | 0x24 => .ok (.barrive f)
  | 0x25 => .ok (.semrd f)
  | 0x28 => .ok (.cpost f)
  | 0x30 => .ok (.ldr f)
  | 0x31 => .ok (.ldrV f)
  | 0x32 => .ok (.str f)
  | 0x33 => .ok (.strV f)
  | _ => .error 1

/-- Add the field limits to a parsed word. -/
def legal (r : Except Nat Instr) : Except Nat Instr :=
  match r with
  | .error n => .error n
  | .ok i => match illegal i with | some n => .error n | none => .ok i

/-- Decode a 32-bit word: an S slot or a Lantern word (R163, R175). An error carries the case of R158. -/
def decodeS (w : W32) : Except Nat Instr := legal (parseS (split32 w))

/-- Decode a V slot (R166). -/
def decodeV (w : W64) : Except Nat Instr := legal (parseV (w.extractLsb' 56 8).toNat (splitV w))

/-- Decode an M slot (R170); bit 30 is reserved. -/
def decodeM (w : W64) : Except Nat Instr :=
  legal (if w.extractLsb' 30 1 == 0#1 then parseM (w.extractLsb' 58 6).toNat (splitM w) else .error 2)

/-- Decode a C slot (R172). -/
def decodeC (w : W64) : Except Nat Instr := legal (parseC (w.extractLsb' 58 6).toNat (splitC w))

/-- The word of an instruction, by the kind of slot it stands in. -/
inductive Code where
  | s (w : W32)
  | v (w : W64)
  | m (w : W64)
  | c (w : W64)
deriving DecidableEq, Repr

/-- A 32-bit word from its places (R162). -/
def join32 (u : S32) : W32 := u.op ++ u.x ++ u.y ++ u.z ++ u.f

/-- Bits 29:0 from the token fields (R170). -/
def joinTok (t : TokF) : BitVec 30 := t.tk0 ++ t.tk1 ++ t.tk2 ++ t.gv

/-- A V-slot word from its opcode and fields (R205). -/
def joinV (op : Nat) (f : VF) : W64 :=
  BitVec.ofNat 8 op ++ f.ty ++ f.d ++ f.a ++ f.b ++ f.c ++ f.mask ++ f.mz ++ f.rm ++ f.sreg ++ f.imm

/-- An M-slot word from its opcode and fields (R231). -/
def joinM (op : Nat) (f : MF) : W64 :=
  BitVec.ofNat 6 op ++ f.tile ++ f.sb ++ f.sk ++ f.fa ++ f.fb ++ f.ft ++ 0#1 ++ joinTok f.tok

/-- A C-slot word from its opcode and fields (R245). -/
def joinC (op : Nat) (f : CF) : W64 :=
  BitVec.ofNat 6 op ++ f.rd ++ f.ra ++ f.rb ++ f.rc ++ f.dsp ++ f.ssp ++ joinTok f.tok

/-- The word of an instruction; none for an event, a command or a packet, which have no slot word. -/
def encode (i : Instr) : Option Code :=
  match form i with
  | .sw u | .lan u => some (.s (join32 u))
  | .v r f => some (.v (joinV r.op f))
  | .m op f => some (.m (joinM op f))
  | .c r f => some (.c (joinC r.op f))
  | .event => none

/-- Decode a word of a known kind of slot. -/
def decode (c : Code) : Except Nat Instr :=
  match c with
  | .s w => decodeS w
  | .v w => decodeV w
  | .m w => decodeM w
  | .c w => decodeC w

/-- The instruction the decoder reads from the bits of an opcode-table word: a 32-bit word as an S slot or Lantern
word. A 64-bit word stands in a V slot, an M slot or a C slot, which its bits do not tell: it is read as a V slot. -/
def decodeTableWord (nbits w : Nat) : Option Instr :=
  if nbits ≤ 32 then (decodeS (BitVec.ofNat 32 w)).toOption
  else if nbits ≤ 64 then (decodeV (BitVec.ofNat 64 w)).toOption
  else none

end Sys2Proof
end

