-- ==== Sys2Proof/Config.lean ====
section
/-! DEFINITION. What the spec leaves to an implementation: opaque free values, of which nothing can be proved. -/

namespace Sys2Proof

/-- Whether an event of no stated latency waits one more clk: a draw of the state's counter (log entry 3). -/
opaque Config.late : Nat → Bool

/-- A choice among things the spec leaves unordered (log entry 3). -/
opaque Config.pick : Nat → Nat

/-- A byte the spec calls undefined (log entry 4). -/
opaque Config.freeByte : Nat → Byte

/-- 64 bits the spec calls undefined (log entry 4). -/
opaque Config.freeWord : Nat → W64

/-- The set of the remote page cache of a slot and an egress page: an implementation-fixed hash (R33, log entry 5). -/
opaque Config.rpcSet : Nat → Nat → Nat

/-- Whether the host answers an access to a host address with an error completion, by fclk and address (R104 kind HOST; log
entry 47). -/
opaque Config.hostError : Nat → Nat → Bool

/-- The 320 bytes of a queued post, by its image, region records and move block (R362, log entry 52). -/
opaque Config.queuedPost : BitVec 512 → List (BitVec 256) → BitVec 1024 → BitVec 2560

/-- AES-256-GCM with no plaintext: the tag of additional data under a key and a 96-bit nonce (R349, log entry 6). -/
opaque Config.gcmTag : BitVec 256 → BitVec 96 → List Byte → BitVec 128

/-- The job key under a wrapped key; none where unwrapping fails (R360 KEY_LOAD, log entry 6). -/
opaque Config.unwrapKey : List Byte → Option (BitVec 256)

/-- The device's LMS signature of a reply (R372, log entry 6). -/
opaque Config.sign : List Byte → List Byte

/-- SHA-256 of the ROM (R369, log entry 6). -/
opaque Config.romHash : BitVec 256

end Sys2Proof
end

