-- ==== Sys2Proof/Machine/Accum.lean ====
section
/-! DEFINITION. Windowed exact accumulation, the integer step, cells and the histogram bin (spec 08, 05 R98, 03 R57). -/

namespace Sys2Proof.Machine

/-- The exact window sum of R133: terms truncated on their magnitude at weight `2^q`. -/
def windowSum (q : Int) (ts : List Val) : Int × Bool :=
  ts.foldl (fun p t => match t with
    | .fin i e =>
      let (m, ex) := floorPow i.natAbs (e - q)
      ((if i < 0 then p.1 - m else p.1 + m), p.2 || !ex)
    | _ => p) (0, false)

/-- Largest exponent of the nonzero terms (R133). -/
def maxExpo (ts : List Val) : Option Int :=
  ts.foldl (fun p t => match t with
    | .fin i e => match p with | none => some (expo i e) | some x => some (max x (expo i e))
    | _ => p) none

/-- One floating step (R133): the 32 result bits, and whether the lost-significance bit is set. The list pairs the
scaled A and B elements of the step. -/
def fstep (c : Nat) (ab : List (Val × Val)) (w : Nat) : Nat × Bool :=
  let cv := valOf 0 c
  if cv == .nan || ab.any (fun p => p.1 == .nan || p.2 == .nan) then (0x7FC00000, false)
  else
    let ps := ab.map (fun p => p.1.mul p.2)
    if ps.any (· == none) then (0x7FC00000, false)
    else
      let ts := cv :: ps.filterMap id
      let pos := ts.any (· == .inf false)
      let neg := ts.any (· == .inf true)
      if pos && neg then (0x7FC00000, false)
      else if pos then (0x7F800000, false)
      else if neg then (0xFF800000, false)
      else match maxExpo ts with
        | none => (c, false)
        | some em =>
          let q : Int := em - w
          let (s, lost) := windowSum q ts
          if s = 0 then (0, lost) else ((roundTo 0 (.fin s q) 0).1, lost)

/-- One integer step (R135): the 32 result bits, and whether ovf is set. -/
def istep (c : Nat) (ab : List (Int × Int)) (sat : Bool) : Nat × Bool :=
  let s := ab.foldl (fun x p => x + p.1 * p.2) (sextN c 32)
  if !sat then (wrap s 32, false)
  else if s > 2147483647 then (2147483647, true)
  else if s < -2147483648 then (2147483648, true)
  else (wrap s 32, false)

/-- Window width of a window code (R136). -/
def windowWidth (w : Nat) : Option Nat :=
  if w < 6 then some (24 + 8 * w) else none

/-- The integer an element of an integer class stands for (R122). -/
def intOf (v : Val) : Int := match v with | .fin i e => i * 2 ^ e.toNat | _ => 0

/-- Byte-count barrier update: arrive (R57), on the 128-bit object. -/
structure Barrier where
  phase : Bool
  err : Bool
  posted : Bool
  excess : Nat
  expect : Nat
  cnt : Int
deriving DecidableEq, Repr

/-- The fields of a barrier object (R56). -/
def Barrier.ofNat (x : Nat) : Barrier :=
  ⟨bit x 127, bit x 126, bit x 125, bits x 80 40, bits x 40 40, sextN (bits x 0 40) 40⟩

/-- The object of a barrier's fields; reserved bits read as zero (R10, R56). -/
def Barrier.toNat (b : Barrier) : Nat :=
  (if b.phase then 2 ^ 127 else 0) + (if b.err then 2 ^ 126 else 0) + (if b.posted then 2 ^ 125 else 0)
    + b.excess * 2 ^ 80 + b.expect * 2 ^ 40 + wrap b.cnt 40

/-- settle of R57. -/
def Barrier.settle (b : Barrier) : Barrier :=
  if b.posted && decide (b.cnt ≤ 0) then
    { phase := !b.phase
      err := b.err || decide (b.cnt < 0)
      posted := false
      excess := if b.cnt < 0 then (clampI (-b.cnt) 0 (2 ^ 40 - 1)).toNat else 0
      expect := 0
      cnt := 0 }
  else b

/-- arrive of R57; an arrival of zero bytes has no effect. -/
def Barrier.arrive (b : Barrier) (n : Nat) : Barrier :=
  if n = 0 then b else Barrier.settle { b with cnt := sextN (wrap (b.cnt - n) 40) 40 }

/-- post of R57; a post of zero has no effect. -/
def Barrier.post (b : Barrier) (e : Nat) : Barrier :=
  if e = 0 then b
  else Barrier.settle { b with expect := min (b.expect + e) (2 ^ 40 - 1), cnt := sextN (wrap (b.cnt + e) 40) 40, posted := true }

/-- A cell add (R98) on the 128 bits of a cell (R58): operand value and cell scale. -/
def cellAdd (cell : Nat) (x : Val) (c : Int) : Nat :=
  let flag := fun n => if bit cell n then cell else cell + 2 ^ n
  match x with
  | .nan => flag 125
  | .inf false => flag 126
  | .inf true => flag 127
  | .zero _ => cell
  | .fin i e =>
    let (t, ex) := floorPow i.natAbs (e - c)
    let hi := bits cell 124 4
    let hi := if ex || bit cell 124 then hi else hi + 1
    wrap ((bits cell 0 124 : Int) + (if i < 0 then -(t : Int) else t)) 124 + hi * 2 ^ 124

/-- cellval of R260: the value of a cell under scale c in format g. -/
def cellVal (cell : Nat) (c : Int) (g : Nat) : Nat :=
  if bit cell 125 || (bit cell 126 && bit cell 127) then canonNan g
  else if bit cell 126 then (roundTo g (.inf false) 0).1
  else if bit cell 127 then (roundTo g (.inf true) 0).1
  else
    let v := sextN cell 124
    (roundTo g (if v = 0 then .zero false else .fin v c) 0).1

/-- The histogram bin of an element (R140): 0 to 31, or 32 for the special count. -/
def histBin (v : Val) (b : Int) : Nat :=
  match v with
  | .fin i e => (clampI (expo i e - b) 0 31).toNat
  | _ => 32

/-- An integer atomic (R258): the new value of `w` bits; none where nothing is written. `aop` counts from ADD to CAS. -/
def amoNew (aop w old x cmp : Nat) : Option Nat :=
  let sx := fun v => sextN v w
  match aop with
  | 0 => some ((old + x) % 2 ^ w)
  | 1 => some (Nat.land old x)
  | 2 => some (Nat.lor old x)
  | 3 => some (Nat.xor old x)
  | 4 => some (if sx x < sx old then x else old)
  | 5 => some (if sx old < sx x then x else old)
  | 6 => some (min old x)
  | 7 => some (max old x)
  | 8 => some x
  | _ => if old = cmp then some x else none

/-- Codec 01 (R254): the 512 words of a chunk coded as whole sectors; none where the chunk is not representable. -/
def codeZwe (ws : List Nat) : Option (List Byte × Nat) :=
  let nz := ws.filter (· ≠ 0)
  if nz.length > 496 then none
  else
    let bitAt := fun (k : Nat) => if ws.getD k 0 = 0 then 0 else 1
    let mapBytes := (List.range 64).map (fun j =>
      BitVec.ofNat 8 ((List.range 8).foldl (fun x t => x + bitAt (8 * j + t) * 2 ^ t) 0))
    let body := nz.flatMap (fun w => [BitVec.ofNat 8 w, BitVec.ofNat 8 (w / 256), BitVec.ofNat 8 (w / 65536), BitVec.ofNat 8 (w / 16777216)])
    let len := 64 + 4 * nz.length
    let secs := (len + 31) / 32
    some (mapBytes ++ body ++ List.replicate (32 * secs - len) 0, secs)

/-- Sectors a decode of codec 01 reads, and the 512 words; none where the slot does not decode (R254). The argument
reads a byte of the slot. -/
def decodeZwe (rd : Nat → Byte) : Option (List Nat × Nat) :=
  let bm := (List.range 512).map (fun k => bit (rd (k / 8)).toNat (k % 8))
  let pc := bm.countP id
  if pc > 496 then none
  else
    let word := fun (i : Nat) => (rd (64 + 4 * i)).toNat + 256 * (rd (65 + 4 * i)).toNat + 65536 * (rd (66 + 4 * i)).toNat
      + 16777216 * (rd (67 + 4 * i)).toNat
    let ws := bm.foldl (fun (p : List Nat × Nat) b => if b then (word p.2 :: p.1, p.2 + 1) else (0 :: p.1, p.2)) ([], 0)
    some (ws.1.reverse, (64 + 4 * pc + 31) / 32)

/-- One word under codec 10 (R255): 24 bits. -/
def codeWave (x : Nat) : Nat :=
  if bits x 23 8 = 0xFF && decide (bits x 0 23 ≠ 0) then 0x7FC000
  else
    let q := bits x 8 23
    let t := bits x 0 8
    let q := if decide (t > 128) || (t == 128 && q % 2 == 1) then q + 1 else q
    bits x 31 1 * 2 ^ 23 + q

end Sys2Proof.Machine
end

