-- ==== Sys2Proof/Machine/Sparse.lean ====
section
/-! DEFINITION. Sparse plain data: a register file, a memory or a table as a list of keyed values in one canonical form. -/

namespace Sys2Proof.Machine

/-- Keyed values, keys strictly rising, no entry equal to what an unlisted key reads as. -/
abbrev SMap (α : Type) := List (Nat × α)

/-- The value of key `k`; `d` where none is listed. -/
def sget {α : Type} (d : α) (m : SMap α) (k : Nat) : α :=
  match m with
  | [] => d
  | (j, v) :: r => if j = k then v else sget d r k

/-- `m` without key `k`. -/
def serase {α : Type} (m : SMap α) (k : Nat) : SMap α := m.filter (fun p => p.1 != k)

/-- `m` with key `k` listed as `v`. -/
def sput {α : Type} (m : SMap α) (k : Nat) (v : α) : SMap α :=
  match m with
  | [] => [(k, v)]
  | (j, w) :: r => if k < j then (k, v) :: (j, w) :: r else if k = j then (k, v) :: r else (j, w) :: sput r k v

/-- `m` with key `k` reading as `v`, in canonical form: a value equal to the unlisted one is not listed. -/
def sset {α : Type} [DecidableEq α] (d : α) (m : SMap α) (k : Nat) (v : α) : SMap α :=
  if v = d then serase m k else sput m k v

/-- Change the value of key `k`. -/
def smod {α : Type} [DecidableEq α] (d : α) (m : SMap α) (k : Nat) (f : α → α) : SMap α :=
  sset d m k (f (sget d m k))

/-- The keys listed. -/
def skeys {α : Type} (m : SMap α) : List Nat := m.map (fun p => p.1)

/-- The canonical form: keys strictly rising, no entry equal to `d`. -/
def swf {α : Type} [DecidableEq α] (d : α) : SMap α → Bool
  | [] => true
  | [(_, v)] => v != d
  | (j, v) :: (k, w) :: r => v != d && (decide (j < k) && swf d ((k, w) :: r))

/-- Byte memory: what an unlisted address reads as is 0 (DESIGN CHOICE, log entry 1). -/
abbrev Memory := List Host.Cell

/-- The canonical form of a byte memory. -/
def Memory.wf (m : Memory) : Bool := swf (0 : Byte) m

/-- One byte of memory. -/
def rdByte (m : Memory) (a : Nat) : Byte := sget (0 : Byte) m a

/-- Write one byte of memory. -/
def wrByte (m : Memory) (a : Nat) (b : Byte) : Memory := sset (0 : Byte) m a b

/-- `mem[a, n]` of R12: the `n` bytes at `a`, little-endian. -/
def rdMem (m : Memory) (a : Nat) : Nat → Nat
  | 0 => 0
  | n + 1 => (rdByte m a).toNat + 256 * rdMem m (a + 1) n

/-- `mem[a, n] := v`, little-endian (R9). -/
def wrMem (m : Memory) (a : Nat) : Nat → Nat → Memory
  | 0, _ => m
  | n + 1, v => wrByte (wrMem m (a + 1) n (v / 256)) a (BitVec.ofNat 8 v)

/-- The `n` bytes of `v`, lowest first. -/
def toBytes (v : Nat) : Nat → List Byte
  | 0 => []
  | n + 1 => BitVec.ofNat 8 v :: toBytes (v / 256) n

/-- The number whose bytes, lowest first, are `bs`. -/
def ofBytes : List Byte → Nat
  | [] => 0
  | b :: r => b.toNat + 256 * ofBytes r

end Sys2Proof.Machine
end

