-- ==== Sys2Proof/Machine/State.lean ====
section
/-! DEFINITION. The state of one Camzilen CZ4 module as plain data, its state after reset, and the reasons a step can stop. -/

namespace Sys2Proof.Machine

/-! ## Stops -/

/-- Reasons the machine stops with a fault. No meaning of the instruction set ends in one: every fault of the spec is
a trap, a ring entry or an answer, all of them next states. -/
inductive Fault where
  /-- Never raised by any instruction: kept so that the type names the one stop that would be safe. -/
  | stuck
deriving DecidableEq, Repr

/-- Reasons a step has no meaning. -/
inductive Refusal where
  /-- Raised by an arm of `exec` whose instruction has no meaning yet; safe: no claim about it can be proved. -/
  | notModelled (mnemonic : String)
deriving DecidableEq, Repr

/-! ## Streams -/

/-- What a holder carries beside its value: a tag set, the saturation bit and the poison bit (R70, R110). -/
structure Meta where
  taint : BitVec 16 := 0
  sat : Bool := false
  poison : Bool := false
deriving DecidableEq, Repr

/-- The destination of an outstanding tagged read (R68, R74): its holder, and the taint and saturation that TJOIN gave the
holder since the read issued, which the arriving value keeps (R76, R149). -/
structure RdDest where
  h : Nat
  taint : BitVec 16 := 0
  sat : Bool := false
deriving DecidableEq, Repr

/-- One instruction stream: a unit's or a Lantern core's. Holders are numbered s0-s63 as 0-63, v0-v31 as 64-95, m0-m7 as
96-103, d0-d15 as 128-143. -/
structure Core where
  /-- Code offset of the next bundle or word (R44). -/
  pc : Nat := 0
  /-- The target that follows the bundle or word at pc, when that is a delay slot (R150). -/
  delay : Option Nat := none
  /-- The target that follows the bundle or word at delay, when that is a delay slot in its turn: an ERET with trap.npc.v
  (R202). -/
  after : Option Nat := none
  /-- Tags, with the reads they named, that the waiting bundle at pc took for TWAIT or its twait field (R76). -/
  tw : Option (List (Nat × Nat)) := none
  /-- s1-s63 (R151, R267). -/
  sreg : SMap W64 := []
  /-- Taint, saturation and poison of each holder (R70, R110). -/
  md : SMap Meta := []
  /-- Assigned tags, each with the read it names (R69, R73). -/
  tags : SMap Nat := []
  /-- Destinations of the outstanding reads into registers, by tag. -/
  dest : SMap RdDest := []
  /-- Tags cleared in this clk, free from the next (R72). -/
  freed : BitVec 16 := 0
  /-- Number of the next read (R73). -/
  gen : Nat := 0
  /-- CSRs held as plain bits, by number (R197). -/
  csr : SMap W64 := []
deriving DecidableEq, Repr

/-- A result in flight (R147, R319): class 0 s, 1 v, 2 m, 3 tile slice, 4 taint alone
(TJOIN, TCLR), 5 nothing but the flags raised. -/
structure Flight where
  cls : Nat
  reg : Nat
  val : Vec
  /-- The r-th bundle issued from here on is the first to read the value. -/
  r : Nat
  /-- Tag set at issue, each tag with the read it named (R73). -/
  tags : List (Nat × Nat)
  sat : Bool
  poison : Bool
  order : Nat
  emask : BitVec 64
  mz : Bool
  idx : Nat
  rc : Bool
  flags : BitVec 4
deriving DecidableEq, Repr

/-- An operand-queue entry: reserved with its read, or filled (R153). -/
structure QEntry where
  filled : Bool
  tag : Nat
  gen : Nat
  val : BitVec 12288
  poison : Bool
deriving DecidableEq, Repr

/-- A QLD whose value has not arrived (R66, R224, R225). -/
structure Qld where
  q : Nat
  tag : Nat
  gen : Nat
  off : Nat
  len : Nat
  mask : BitVec 128
  codec : Nat
  /-- Serial of the instance that issued it (R306). -/
  inst : Nat
  /-- The 16-byte parts performed so far, by local IA / 16: their bytes with poison (R63, R66). -/
  got : SMap (List (Byte × Bool))
deriving DecidableEq, Repr

/-- A level of the loop stack that is active (R156). -/
structure LoopLvl where
  cnt : Nat
  start : Nat
deriving DecidableEq, Repr

/-- A release record: release scope and proximity (R81). -/
structure RelRec where
  rs : Nat
  rp : Nat
deriving DecidableEq, Repr

/-- A semaphore (R86). -/
structure SemSt where
  cnt : Nat := 0
  err : Bool := false
  ovf : Bool := false
  rel : Option RelRec := none
deriving DecidableEq, Repr

/-- An increment that has arrived in this clk and is added at its end (R87); rel: scope and proximity of a release. -/
structure SemInc where
  sem : Nat
  k : Nat
  err : Bool
  rel : Option RelRec
deriving DecidableEq, Repr

/-- A latent error of a sector, or of a tile row, that no read has met (R45, R47). -/
inductive Err where
  | none | corr | unc
deriving DecidableEq, Repr

/-- An accumulator tile (R45, R46). -/
structure Tile where
  el : SMap (BitVec 32) := []
  lost : BitVec 4096 := 0
  poison : BitVec 64 := 0
  stop : Bool := false
  ovf : Bool := false
  prog : Nat := 0
  /-- Latent errors of the 64 rows (R45, R47). -/
  errs : SMap Err := []
deriving DecidableEq, Repr

/-! ## Engine commands -/

/-- An operand value captured for a command: which holder it comes from, its value and poison, and the outstanding reads
that will still deliver it (R74). -/
structure Opnd where
  h : Nat
  val : Vec
  poison : Bool
  wait : List Nat
deriving DecidableEq, Repr

/-- Parameters a matrix command captures at issue (R233). -/
structure MPar where
  fa : Nat
  fb : Nat
  w : Nat
  sat : Bool
  rm : Nat
  hen : Bool
  hset : Nat
  hbase : Int
deriving DecidableEq, Repr

/-- A copy engine's command with its operands resolved at hand-off (R245, R246). Addresses are IAs. -/
structure Xfer where
  /-- C-slot opcode (R173); 0x40 a commit copy (R297), 0x41 a Lantern LCP. -/
  op : Nat
  dst : Nat
  src : Nat
  len : Nat
  desc : BitVec 512
  bar : Option Nat
  pm : Bool
  /-- Operand values: atomic operand, compare value, semaphore word, count. -/
  a : W64
  b : W64
  /-- Cell scale (R259). -/
  c : Int
  fn : Nat
  data : List Byte
  /-- Destination holder of a returned value. -/
  rd : Nat
  /-- Post captured by CPOST (R264), as an index into the cluster's child posts. -/
  post : Nat
  /-- Unit whose scratchpad holds the index list of a gather or scatter (R249). -/
  ixk : Nat
deriving DecidableEq, Repr

/-- A command in an engine queue: the decoded instruction, the slot and bundle it issued from, its instance, what it
captured, and the tag it holds (R67, R74, R232). -/
structure QCmd where
  ins : Instr
  slot : Nat
  addr : Nat
  inst : Nat
  issued : Nat
  handed : Bool
  tailed : Bool
  /-- Its gate has opened in this clk: `ops` holds what it reads of the registers (R74, R232). -/
  opened : Bool
  gate : List (Nat × Nat)
  ops : List Opnd
  par : MPar
  tag : Option (Nat × Nat)
  /-- Its operands once handed off (R67, R245). -/
  x : Option Xfer
deriving DecidableEq, Repr

/-- Where a chunk stands (R102, R107). -/
inductive CPhase where
  | fresh
  /-- Waits for packets of its source: request identifiers still unanswered. -/
  | reading (rids : List Nat)
  /-- Its image is bound and not yet written, or the bytes of a read have come. -/
  | bound
  /-- Waits for acknowledgements of its destination. -/
  | writing (rids : List Nat)
  /-- On the retry ring. -/
  | faulted
  /-- Faulted on its destination side with no free hold slot, which its output waits for (R108): faulting IA and kind. -/
  | refused (fia kind : Nat)
  /-- Answered DEFERRED, to be reissued (R325). -/
  | deferred
deriving DecidableEq, Repr

/-- A chunk formed and not complete: elements lo to hi - 1 of its command's walk. -/
structure Chunk where
  idx : Nat
  lo : Nat
  hi : Nat
  phase : CPhase
  /-- Source bytes while it reads, the destination image once bound (R106), each byte with poison. -/
  img : List (Byte × Bool)
  hslot : Option Nat
  /-- Parts of this side's bytes here that are not performed yet (R63): address, offset in `img`, length. -/
  todo : List (Nat × Nat × Nat)
deriving DecidableEq, Repr

/-- A command that its engine has started (R83). -/
structure Run where
  id : Nat
  x : Xfer
  cseq : Nat
  inst : Nat
  slot : Nat
  gv : Option Nat
  tag : Option (Nat × Nat)
  /-- Next element of the walk and index of the next chunk to form. -/
  next : Nat
  nchunk : Nat
  chunks : List Chunk
  done : Bool
  /-- Error statuses: poisoned, timeout, absent (R86). -/
  stP : Bool
  stT : Bool
  stA : Bool
  /-- Move instance it belongs to: task serial (R291). -/
  task : Option Nat
  /-- Earlier commands of its queue whose completion an acquire puts before its accesses (R80). -/
  after : List Nat
deriving DecidableEq, Repr

/-- A hold slot: the image it keeps (R108). -/
structure Hold where
  img : List (Byte × Bool) := []
  used : Bool := false
deriving DecidableEq, Repr

/-- A copy engine: UCE queue, CCE, XE, or the LCP side of a Lantern core. -/
structure XEng where
  q : List QCmd := []
  runs : List Run := []
  holds : SMap Hold := []
  cseq : Nat := 0
  /-- Commands that the acquires of this queue so far put before its later accesses (R80). -/
  acq : List Nat := []
  /-- Chunks and accesses put back by a DEFERRED answer in the module's own switch, in the order of their injection (R340): that
  order, run or access, chunk. -/
  redo : List (Nat × Nat × Nat) := []
deriving DecidableEq, Repr

/-! ## The matrix engine -/

/-- A weight bank and its record (R228). -/
structure Bank where
  w : SMap (BitVec 12288) := []
  sc : SMap (BitVec 1024) := []
  poison : BitVec 64 := 0
  valid : Bool := false
  desc : W64 := 0
  fmt : Nat := 0
  /-- Its contents are undefined (R228): the draw that its bytes count from. -/
  undef : Option Nat := none
deriving DecidableEq, Repr

/-- The WLD on the load side: its command, the next row, and the clk at which it completes once every row is in. -/
structure WldRun where
  cmd : QCmd
  row : Nat
  seq : Nat
  doneAt : Option Nat
deriving DecidableEq, Repr

/-- A compute-side command that has left the queue: an MMA with its next step (from 1), or a DRAIN with its next row. -/
structure CompRun where
  cmd : QCmd
  seq : Nat
  step : Nat
  doneAt : Option Nat
  /-- A faulted fetch of A; remaining steps with zero A terms (R113); stopped at a step boundary (R239). -/
  fault : Bool
  psnRows : Bool
  stopped : Bool
  /-- Its fetch was settled by RETRY and has not been bound yet, which counts as a store for FENCE (R79). -/
  retried : Bool
  /-- A bytes of the step that waits for them, or DRAIN output not yet compressed. -/
  abuf : List (Byte × Bool)
  /-- Requests of those bytes still unanswered; whether they have been asked for. -/
  rids : List Nat
  asked : Bool
deriving DecidableEq, Repr

/-- A matrix command left and not yet token-fired, in queue order: its semaphore, its instance, whether it is complete,
its error status (R84), and its operands, which say what it acts on (R79). -/
structure MTok where
  seq : Nat
  gv : Option Nat
  inst : Nat
  done : Bool
  err : Bool
  x : Option Xfer
deriving DecidableEq, Repr

/-- The matrix engine of a unit (R228, R229). -/
structure Mx where
  q : List QCmd := []
  act : Bank := {}
  shadow : Bank := {}
  loaded : Bool := false
  /-- loaded was set at or before the start of this clk. -/
  loadedAt : Nat := 0
  wrow : Nat := 64
  latch : Option (BitVec 12288 × Bool) := none
  wld : Option WldRun := none
  comp : List CompRun := []
  toks : List MTok := []
  seq : Nat := 0
  /-- Instance whose state the engine holds (R228). -/
  inst : Nat := 0
  /-- clk of the last leave and of the last step. -/
  leftAt : Option Nat := none
  stepAt : Option Nat := none
deriving DecidableEq, Repr

/-! ## Units -/

/-- The instance a unit runs (R287, R305). -/
structure Inst where
  serial : Nat
  task : Nat
  wid : W64
  entry : Nat
  first : Bool
  /-- Its fetches observe the writes to the code store whose tokens fired before this one (R24). -/
  codeAt : Nat
deriving DecidableEq, Repr

/-- A stop of a unit by a trap that is not delivered locally (R314). -/
structure Stop where
  cause : Nat
  slot : Nat
  addr : Nat
  dfr : Bool
  /-- Its UNIT_TRAP has been delivered. -/
  told : Bool
deriving DecidableEq, Repr

/-- A deferred check of a held command that failed (R232). -/
structure Deferred where
  cause : Nat
  slot : Nat
  val : Nat
deriving DecidableEq, Repr

/-- A unit (R142, R151). -/
structure Unit where
  core : Core := {}
  v : SMap Vec := []
  m : SMap (BitVec 128) := []
  flight : List Flight := []
  queues : SMap (List QEntry) := []
  qlds : List Qld := []
  loops : List LoopLvl := []
  /-- Order number of the next bundle. -/
  bundle : Nat := 0
  /-- clk at which the divider is free (R148). -/
  divFree : Nat := 0
  /-- Bank-conflict stalls still owed by the bundle at pc (R42). -/
  owed : Option Nat := none
  sems : SMap SemSt := []
  incs : List SemInc := []
  /-- Decrements granted in this clk, by semaphore (R87). -/
  decs : SMap Nat := []
  tiles : SMap Tile := []
  hist : SMap Nat := []
  mx : Mx := {}
  uce0 : XEng := {}
  uce1 : XEng := {}
  inst : Option Inst := none
  /-- Retirement tracker: instances past TAIL that still drain, with their task (R306). -/
  tracker : List (Nat × Nat) := []
  stop : Option Stop := none
  dfr : List Deferred := []
  /-- Conversion flags raised in this clk, which join fp.flags at its end (R128). -/
  fpNew : BitVec 4 := 0
  /-- Volatile ranges of the running kernel (R155): slo, shi, vlo, vhi. -/
  vol : Nat × Nat × Nat × Nat := (1, 0, 1, 0)
deriving DecidableEq, Repr

/-! ## Clusters -/

/-- A token (R276). -/
structure Token where
  fired : Bool := false
  cnt : Nat := 0
deriving DecidableEq, Repr

/-- A Lantern access by VA, performed after its word executes (R272). -/
structure LAcc where
  seq : Nat
  /-- 0 LDG, 1 STG, 2 AMOG.ADD, 3 AMOG.SWP, 4 AMOG.CAS, 5 DLD.G, 6 DST.G, 7 TKRD. -/
  op : Nat
  ia : Nat
  rd : Nat
  a : Nat
  b : Nat
  tag : Option (Nat × Nat)
  phase : CPhase
  hslot : Option Nat
  out : List (Byte × Bool)
deriving DecidableEq, Repr

/-- Why a Lantern word waits on another agent (R280, R281). -/
inductive LWait where
  /-- A post or a signal that has left: its request, and the status its word completes with. -/
  | post (rid : Nat) (code : Nat)
  /-- An arming that the word's post, which is accepted, waits for (R276). -/
  | arm (rid : Nat) (code : Nat)
  /-- A read of a token. -/
  | tok (rid : Nat)
deriving DecidableEq, Repr

/-- The Lantern core of a cluster (R267). -/
structure Lan where
  core : Core := {}
  d : SMap Desc := []
  /-- A graph program runs. -/
  on : Bool := false
  accs : List LAcc := []
  /-- LCP commands, and the hold slots of the core. -/
  x : XEng := {}
  /-- fclk of continuous stalling of the word at pc (R279). -/
  stall : Nat := 0
  wait : Option LWait := none
  /-- The answer to a remote word that has arrived (R280). -/
  ans : Option (Nat × Nat) := none
  /-- A RING trap is pending (R104, R316). -/
  ring : Bool := false
  /-- The stopped unit whose UNIT_TRAP was the last trap delivered (R329). -/
  trapUnit : Option Nat := none
  /-- rpc.op: the operation running, and its range of pages from the first up to the end (R37). -/
  rpcOp : Nat := 0
  rpcLo : Nat := 0
  rpcHi : Nat := 0
  /-- Staging copies of rngi.va and rngi.lim, by CSR number (R19). -/
  stage : SMap W64 := []
  /-- Its fetches observe the writes to the code store whose tokens fired before this one (R24). -/
  codeAt : Nat := 0
deriving DecidableEq, Repr

/-- A post captured whole (R277, R288, R291). -/
structure Post where
  img : BitVec 512
  regs : List (BitVec 256)
  mv : BitVec 1024
  /-- IA of the hulls of a move task's sides, translated when the post is checked (R291). -/
  mdst : Nat
  msrc : Nat
  mbar : Option Nat
  /-- 0 the cluster's Lantern core, 1 + j its unit j, 9 a remote poster. -/
  origin : Nat
  /-- Satisfied consumed slots (R295). -/
  sat : List Bool
  /-- Before acceptance, 1 more than the request of an arming that its completion waits for (R276); in an overflow queue and
  after, the number its watches name it by (R295); 0 none. -/
  id : Nat
deriving DecidableEq, Repr

/-- States of a window entry (R299). -/
inductive TState where
  | waiting | ready | issuing | draining | commit
deriving DecidableEq, Repr

/-- What a region waits for (R294): the release of a task, its buffer claim, or the commit copy of one of its regions. -/
inductive Dep where
  | release (task : Nat)
  | buffer (task : Nat)
  | commit (task : Nat) (reg : Nat)
deriving DecidableEq, Repr

/-- A region entry of the window (R293 to R297). -/
structure RegEnt where
  idx : Nat
  tid : Nat
  acc : Nat
  lo : List Nat
  hi : List Nat
  /-- Byte hull of the box as full IAs; of a redirected region, first and end of its record's box relative to the tensor. -/
  hullLo : Nat
  hullHi : Nat
  deps : List Dep
  /-- Rename buffer of a renamed W region. -/
  buf : Option Nat
  /-- Buffer a redirected region reads: task, region, offset of the buffer. -/
  redir : Option (Nat × Nat × Nat)
  /-- Tasks whose home reads the commit waits for. -/
  homeR : List Nat
  committed : Bool
deriving DecidableEq, Repr

/-- A task entry of the window (R299). -/
structure Task where
  serial : Nat
  post : Post
  st : TState
  regs : List RegEnt
  next : Nat
  drained : Nat
  /-- fclk of running time since it became READY (R303). -/
  age : Nat
  /-- Of a move task: the engine of the command that carries its token, and the tasks whose tokens come first there (R84). -/
  last : Option Eng
  before : List Nat
deriving DecidableEq, Repr

/-- A semaphore signal on its way to a unit (R89). -/
structure Signal where
  unit : Nat
  sem : Nat
  k : Nat
  slot : Nat
  rel : Option RelRec
  /-- The command whose signal it is: engine and number (R83). -/
  run : Option (Eng × Nat)
deriving DecidableEq, Repr

/-- A faulted access that a ring position names while it is pending (R104). -/
structure FaultRec where
  eng : Eng
  cls : Nat
  run : Nat
  chunk : Nat
  held : Bool
  hslot : Nat
  img : Nat
  kind : Nat
deriving DecidableEq, Repr

/-- A buffer of the rename pool (R296). -/
structure PoolBuf where
  off : Nat
  len : Nat
  task : Nat
  reg : Nat
deriving DecidableEq, Repr

/-- A staged LAUNCH of a shadow bank, and the parameters in force (R362). -/
structure Staged where
  cmd : Nat
  entry : Nat
  arg : W64
  image : W64
  ovf : W64
  pool : W64
deriving DecidableEq, Repr

/-- Who wrote a byte of code and has not fired the token that lets fetches see it (R24): a command of an engine, or a task. -/
inductive CodeBy where
  | run (e : Eng) (id : Nat)
  | task (serial : Nat)
deriving DecidableEq, Repr

/-- A byte of the code store before a write by a copy engine or a peer: what fetches that do not observe the write find
(R24). -/
structure CodeOld where
  a : Nat
  b : Byte
  psn : Bool
  /-- Its writer, until the writer's token fires; the number of that firing. -/
  by_ : Option CodeBy
  at0 : Nat
  /-- The produced token of the writer's task, and whether the cluster's Lantern core has waited on it. -/
  tok : Option Nat
  lan : Bool
deriving DecidableEq, Repr

/-- A cluster (R2, R103, R276, R299). -/
structure Cluster where
  lan : Lan := {}
  cce0 : XEng := {}
  cce1 : XEng := {}
  xe : XEng := {}
  tensors : SMap Desc := []
  tokens : SMap Token := []
  tasks : List Task := []
  serial : Nat := 0
  runId : Nat := 0
  pool : List PoolBuf := []
  poolOff : Nat := 0
  poolLen : Nat := 0
  ovfCap : Nat := 0
  /-- IA of the cluster's overflow queues, and the place each queue's next post takes there (R301, R362). -/
  ovfBase : Nat := 0
  ovfAt : SMap Nat := []
  /-- Overflow queues: 0 the Lantern core's, 1 + j unit j's (R301). -/
  ovf : SMap (List Post) := []
  rot : Nat := 0
  /-- Posts handed off by CPOST and not yet accepted (R264). -/
  child : SMap Post := []
  signals : List Signal := []
  /-- Ring positions pending (R104). -/
  pend : SMap FaultRec := []
  /-- Faults of agents that a full ring stops, each with its entry (R104). -/
  ringWait : List (FaultRec × BitVec 512) := []
  shadow : Option Staged := none
  /-- q4 to q6 of the LAUNCH in force, and the code image in force (R328, R362). -/
  inForce : W64 × W64 := (0, 0)
  image : Option W64 := none
  /-- LAUNCH whose program runs or ran last, and tasks entered since its swap (R362). -/
  launch : Option Nat := none
  launchFrom : Nat := 0
  /-- Code store bytes before writes by copy engines and peers, and the number of the next firing that shows some (R24). -/
  codeOld : List CodeOld := []
  codeSeq : Nat := 0
deriving DecidableEq, Repr

/-! ## Memory -/

/-- A memory: bytes, poison of each 32-byte sector, release records of 16-byte parts, latent errors (R47, R48, R81). -/
structure MemSt where
  cells : Memory := []
  poison : SMap Bool := []
  recs : SMap RelRec := []
  errs : SMap Err := []
  /-- Sectors whose uncorrectable error a full-sector write of this clk removed, and whether a read has counted it (R48). -/
  lost : SMap Bool := []
deriving DecidableEq, Repr

/-! ## One job's on-chip state -/

/-- A multicast group entry (R346), as its 128 bits. -/
abbrev McGroup := BitVec 128

/-- What a trace of the job names (R330). -/
structure TraceCfg where
  buf : W64 := 0
  period : Nat := 0
  units : BitVec 32 := 0
  lans : BitVec 32 := 0
  /-- Dropped records of each tracing agent (R331). -/
  lost : SMap Nat := []
  /-- Records on their way to a buffer that lies on a peer, oldest first, each with its agent and cluster; how far the first
  one is: 0 nothing asked, 1 the header read, 2 the record sent, 3 the count sent; and the count that it found. -/
  queue : List (Nat × Nat × BitVec 128) := []
  stage : Nat := 0
  written : Nat := 0
deriving DecidableEq, Repr

/-- Everything a job holds on the module's chip: the state that a gang switch saves and restores (R321). On-chip memory is
keyed by local IA (R21). -/
structure Chip where
  /-- 1,024 where no job is switched in. -/
  slot : Nat := 1024
  pasid : Nat := 0
  mem : MemSt := {}
  units : SMap Unit := []
  clusters : SMap Cluster := []
  /-- Belfry schedules: key 256 * die + slot, 128 bits (R342). -/
  belfry : SMap (BitVec 128) := []
  mcg : SMap McGroup := []
  trace : TraceCfg := {}
  /-- The job has been ended (R314, R315): the val of its ABORTED completions. -/
  ended : Option W64 := none
deriving DecidableEq, Repr

/-! ## The module -/

/-- Who waits for the answer of an outstanding fabric request, or for a fill of the remote page cache. -/
inductive Reqr where
  | chunk (e : Eng) (run : Nat) (chunk : Nat) (off : Nat)
  | acc (m : ClusterIx) (seq : Nat) (off : Nat)
  | word (m : ClusterIx)
  | watch (m : ClusterIx) (task : Nat) (slot : Nat)
  | arm (m : ClusterIx)
  /-- An arming on whose acknowledgement a POST packet is answered (R276). -/
  | armAns (p : Packet)
  | granule (j : Nat) (off : Nat)
  | mxA (k : UnitIx) (off : Nat)
  | mcred (e : Eng) (run : Nat) (chunk : Nat) (part : Nat)
  /-- The CP, for a job's slot, at a page. -/
  | cp (slot : Nat) (page : Nat)
  /-- The job's trace records (R330). -/
  | trace
  /-- Nobody any more: its fill has failed (R34), or its load-and-reduce has (R347). -/
  | gone
deriving DecidableEq, Repr

/-- A granule of the remote page cache (R33): state 0 free, 1 filling, 2 resident, 3 evicting. -/
structure Granule where
  state : Nat := 0
  slot : Nat := 0
  page : Nat := 0
  host : Bool := false
  dirty : BitVec 128 := 0
  lvalid : BitVec 128 := 0
  /-- MPA of its 8 KiB. -/
  frame : Nat := 0
  /-- Packets of its fill or write-back still unanswered. -/
  rids : List Nat := []
  /-- Host address of its page, of a host granule that holds lines (R36). -/
  hostAt : Nat := 0
  /-- Chunks of 2 KiB that its fill has asked for so far (R34). -/
  step : Nat := 0
  /-- The page for which a way that is evicting is taken: slot and page (R34). -/
  next : Option (Nat × Nat) := none
  /-- The offset first asked for, and the accesses that wait: of the fill in progress, or of the fill to come. -/
  ask : Nat := 0
  waits : List Reqr := []
deriving DecidableEq, Repr

/-- An outstanding fabric request (R335, R341). -/
structure Outst where
  pkt : Packet
  who : Reqr
  /-- PTP time of injection. -/
  since : Nat
  deferred : Bool
  job : Nat
  /-- Its place in the order of injection (R340), and whether its job's key let it be injected (R341). -/
  seq : Nat := 0
  injected : Bool := true
deriving DecidableEq, Repr

/-- A packet in an input buffer of one of the module's die routers (R333, R338): its number in the order in which packets
entered, the die, the input endpoint, and the slot in which the hop before it forwarded it (R343). -/
structure Hop where
  id : Nat
  die : Nat
  inp : Nat
  pkt : Packet
  at0 : Nat
deriving DecidableEq, Repr

/-- A member's source bytes of a load-and-reduce request, read and not yet added (R338, R348). -/
structure McRead where
  smod : Nat
  rid : Nat
  img : List (Byte × Bool)
deriving DecidableEq, Repr

/-- A bound queue of the command processor (R357). -/
structure BoundQ where
  pasid : Nat
  q : Nat
  desc : BitVec 512
  /-- Where its descriptor lies in host memory. -/
  at0 : Nat
  head : Nat
  tail : Nat
  halted : Bool
  idle : Nat
  /-- Packets of an INDIRECT not yet started (R365). -/
  ind : List CpPacket
  /-- The command waiting at the head: fetched and not started (R362, R404). -/
  held : Option CpPacket
deriving DecidableEq, Repr

/-- A command that has started and not completed (R359). -/
structure CpCmd where
  id : Nat
  r : CmdRef
  p : CpPacket
  dev : Bool
  job : Nat
  vec : Nat
  /-- LAUNCH: clusters still staged; clusters whose program started, each with the task serial at its swap; its first fault:
  kind, cluster (R362). -/
  staged : List Nat
  runs : List (Nat × Nat)
  fault : Option (Nat × Nat)
  /-- Suppressed by a queue reset (R367). -/
  quiet : Bool
  /-- Its NVMe transfer is aborted by a queue reset and awaited (R367). -/
  abort : Bool
  /-- PTP time of its start; of MCGRP, what had been injected when it wrote its entries (R347). -/
  since : Nat
deriving DecidableEq, Repr

/-- A completion record to be written (R359). -/
structure CpRec where
  dev : Bool
  job : Nat
  addr : Nat
  tag : Nat
  st : Nat
  val : Nat
  irq : Option Nat
  r : CmdRef
deriving DecidableEq, Repr

/-- A job slot (R360 JOB_CREATE). -/
structure Job where
  pasid : Nat
  poolBase : Nat
  poolLen : Nat
  save : Nat
  sig0 : Nat
  sigN : Nat
  /-- Frames in use: MPA and size. -/
  frames : List (Nat × Nat)
  /-- MPA of its translation tables (log entry 10). -/
  tables : List Nat
deriving DecidableEq, Repr

/-- A parked WAIT (R363). -/
structure Parked where
  pasid : Nat
  q : Nat
  sig : Nat
  val : W64
  cond : Nat
  /-- The WAIT itself; packets of its INDIRECT that follow (R365). -/
  pkt : CpPacket
  ind : List CpPacket
  /-- A change of its signal has made the condition hold. -/
  met : Bool
deriving DecidableEq, Repr

/-- An attached drive (R360 NVME_ATT). -/
structure Drive where
  sq : W64
  cq : W64
  door : W64
  depth : Nat
  lba4k : Bool
deriving DecidableEq, Repr

/-- Phases of a gang switch (R324): the instant, the outgoing and incoming slots, and the phase reached. -/
structure Switch where
  t : Nat
  out : Nat
  inn : Nat
  phase : Nat
deriving DecidableEq, Repr

/-- The command processor and its queues (R356 to R370). -/
structure Cp where
  qroot : W64 := 0
  slots : SMap BoundQ := []
  binds : List (Nat × Nat) := []
  tails : SMap Nat := []
  doorPend : List W64 := []
  rr : Nat := 0
  cmds : List CpCmd := []
  recs : List CpRec := []
  nextId : Nat := 0
  signals : SMap W64 := []
  parked : List Parked := []
  resetting : List (Nat × Nat) := []
  /-- The PASID and queue fields of cp.qreset (R367). -/
  qreset : W64 := 0
  jobs : SMap Job := []
  keys : SMap (BitVec 256) := []
  /-- PASIDs whose job was ended and freed and that hold no job since (R360, R362). -/
  gone : List Nat := []
  gang : List (Nat × Nat) := []
  /-- The instant of the last switch (R323). -/
  gangLast : Nat := 0
  switch : Option Switch := none
  /-- Device queues: tail words watched (R357). -/
  tailw : List (Nat × Nat × Nat) := []
  drives : SMap Drive := []
  msix : BitVec 64 := 0
  belfryLoad : List (Nat × Nat × Nat × List (BitVec 128)) := []
  rpcGib : SMap Nat := []
  /-- Bytes answered to the host's last CXL.mem read, with poison (R355). -/
  rdata : List (Byte × Bool) := []
deriving DecidableEq, Repr

/-- Service state (R369 to R378). -/
structure Service where
  ready : Bool := false
  pr : Bool := false
  upd : Bool := false
  plock : Bool := false
  drop : Nat := 0
  fwver : Nat := 0
  staged : Nat := 0
  rollback : Nat := 0
  /-- SHA-256 of the patch in force and of the staged one (R372, R376). -/
  patchHash : BitVec 256 := 0
  stagedHash : BitVec 256 := 0
  spared : List Nat := []
  disabled : List Nat := []
  /-- Ports: 32 d + p the p-th of the + way of dimension d, 32 d + 16 + p that of the - way (R333). Lanes up of each port that
  is not on both: 1 or 0; and when a port that retrains is back (R375). -/
  lanes : SMap Nat := []
  back : SMap Nat := []
  /-- Link nonce and packets since bring-up of each port, sending (R349, R351). -/
  nonces : SMap (BitVec 32) := []
  ctrs : SMap Nat := []
  /-- The same of the direction in which a port receives. -/
  rxNonces : SMap (BitVec 32) := []
  rxCtrs : SMap Nat := []
  tagFails : SMap Nat := []
  cap : Nat := 5000
  draw : Nat := 0
  /-- Steps of 25 MHz below 600 MHz (R378). -/
  slow : Nat := 0
  retired : List Nat := []
  /-- PTP times of the corrected errors of each frame in the last 24 hours (R374). -/
  ceTimes : SMap (List Nat) := []
  /-- Stacks that failed their training or test at boot (R369). -/
  hbmFailed : List Nat := []
  sigsLeft : Nat := 1048576
  reply : List Byte := []
  tripped : Bool := false
  switchFlag : Bool := false
deriving DecidableEq, Repr

/-- A request that has left on CXL, or a snoop's answer (R32, R36): CXL.cache or CXL.io; 0 read, 1 write, 2 atomic, 3 answer;
the job's PASID, the host address, the length, and the bytes it carries, each with its poison indication (R112). -/
structure CxlMsg where
  cache : Bool
  op : Nat
  pasid : Nat
  addr : Nat
  len : Nat
  data : List (Byte × Bool)
deriving DecidableEq, Repr

/-- Which agent runs the instruction that `exec` is given. -/
inductive Agent where
  | lantern (m : ClusterIx)
  | unit (k : UnitIx)
deriving DecidableEq, Repr

/-- Operands of the event under way: each event reads the fields its docstring names. -/
structure Arg where
  eng : Eng := .lantern 0
  k : UnitIx := 0
  m : ClusterIx := 0
  j : Nat := 0
  n : Nat := 0
  v : W64 := 0
  flag : Bool := true
  dat : List Byte := []
  ref : CmdRef := ⟨0, 0⟩
  cp : CpPacket := ⟨0, 0, 0, 0, 0, 0, 0, 0⟩
  pkt : Packet := ⟨0, 0, 0, 0, 0, 0, 0, 0, 0, 0, 0, 0, 0, 0, 0, 0, 0, 0, 0, 0, 0, 0, 0, 0, 0, [], 0⟩
  ixs : List Nat := []
deriving DecidableEq, Repr

/-- A turn of the current fclk: a Lantern core's word, or an event with its operands. -/
inductive Turn where
  | lantern (m : ClusterIx)
  | ev (i : Instr) (a : Arg)
  /-- A die router forwards a packet (R338, R343). -/
  | hop (id : Nat)
deriving DecidableEq, Repr

/-- The state of one module. -/
structure State where
  /-- fclk periods since power-good; clk edges so far; and clk's fraction (R3, R378). -/
  fclk : Nat
  clk : Nat
  acc : Nat
  /-- Whether the current fclk holds a clk edge. -/
  edge : Bool
  /-- The agent whose instruction `exec` runs, and the operands of the event under way: the model's own. -/
  cur : Agent
  arg : Arg
  /-- What is still to happen in this fclk, and what the outside world does next: the model's own. -/
  agenda : List Turn
  inputs : List (Instr × Arg)
  /-- Draws of the free values of Config so far: the model's own (log entry 3). -/
  draws : Nat
  /-- The state of the job that is switched in, and the saved images of the others by slot (R321, R322). -/
  chip : Chip
  images : SMap Chip
  /-- HBM by MPA, and host memory as the CP and egress reach it (R25, R355). -/
  hbm : MemSt
  host : MemSt
  /-- Partition: size, own number, dimensions (R332). -/
  partSize : Nat
  partMod : Nat
  dims : List Nat
  /-- mts.root of each stack, egr.base (R27). -/
  mtsRoot : SMap Nat
  egrBase : Nat
  /-- The remote page cache (R33). -/
  rpc : SMap Granule
  /-- Faults of failed fills that accesses have still to take (R34, R112): slot, access, page, fault kind. -/
  rpcFail : List (Nat × Reqr × Nat × Nat)
  /-- The access under way, which a miss makes wait: the model's own. -/
  asker : Option Reqr
  /-- What has left on CXL (R32, R36). -/
  cxl : List CxlMsg
  wbLoss : Bool
  wbCount : Nat
  /-- Fabric: packets that have entered the die routers, requests outstanding, next request identifier (R335, R341). -/
  sent : List Packet
  outst : SMap Outst
  rid : Nat
  /-- Packets in the die routers, oldest first; those that have left, with their port and tag; and how many packets have
  entered (R338, R349). -/
  hops : List Hop
  wire : List (Nat × Packet)
  inj : Nat
  /-- Members' bytes that wait for their reduction packet (R338). -/
  mcr : List McRead
  cp : Cp
  svc : Service
deriving DecidableEq, Repr

/-- The module right after reset: no job, every unit and core idle, every register and memory at the value the spec gives
or log entries 1 and 2 name. -/
def State.reset : State where
  fclk := 0
  clk := 0
  acc := 0
  edge := true
  cur := .lantern 0
  arg := {}
  agenda := []
  inputs := []
  draws := 0
  chip := {}
  images := []
  hbm := {}
  host := {}
  partSize := 1
  partMod := 0
  dims := [1, 1, 1, 1]
  mtsRoot := (List.range 12).map (fun n => (n, n * 2 ^ 36 + 63 * 2 ^ 30))
  egrBase := 63 * 2 ^ 30 + 8192
  rpc := []
  rpcFail := []
  asker := none
  cxl := []
  wbLoss := false
  wbCount := 0
  sent := []
  outst := []
  hops := []
  wire := []
  inj := 0
  rid := 0
  mcr := []
  cp := {}
  svc := {}

end Sys2Proof.Machine
end

