-- ==== Sys2Proof/Machine/Ops.lean ====
section
/-! DEFINITION. Named operations over registers, holders, tags, memories and traps: the one place each is read, written or taken. -/

namespace Sys2Proof.Machine

/-! ## Parts of the state -/

/-- The outcome of every meaning: each answers a next state. -/
abbrev Out := Host.Outcome State Fault Refusal

/-- The unit of a global index. -/
def getUnit (s : State) (k : Nat) : Unit := sget {} s.chip.units k
/-- Change the job's on-chip state. -/
def modChip (s : State) (f : Chip → Chip) : State := { s with chip := f s.chip }
/-- Replace a unit. -/
def setUnit (s : State) (k : Nat) (u : Unit) : State :=
  { s with chip := { s.chip with units := sset {} s.chip.units k u } }
/-- Change a unit. -/
def modUnit (s : State) (k : Nat) (f : Unit → Unit) : State := setUnit s k (f (getUnit s k))
/-- The cluster of a global index. -/
def getCl (s : State) (m : Nat) : Cluster := sget {} s.chip.clusters m
/-- Replace a cluster. -/
def setCl (s : State) (m : Nat) (c : Cluster) : State :=
  { s with chip := { s.chip with clusters := sset {} s.chip.clusters m c } }
/-- Change a cluster. -/
def modCl (s : State) (m : Nat) (f : Cluster → Cluster) : State := setCl s m (f (getCl s m))
/-- Change a cluster's Lantern core. -/
def modLan (s : State) (m : Nat) (f : Lan → Lan) : State := modCl s m (fun c => { c with lan := f c.lan })

/-- The stream of an agent. -/
def getCore (s : State) (g : Agent) : Core :=
  match g with
  | .lantern m => (getCl s m.toNat).lan.core
  | .unit k => (getUnit s k.toNat).core
/-- Change the stream of an agent. -/
def modCore (s : State) (g : Agent) (f : Core → Core) : State :=
  match g with
  | .lantern m => modLan s m.toNat (fun l => { l with core := f l.core })
  | .unit k => modUnit s k.toNat (fun u => { u with core := f u.core })

/-- Cluster of an agent (R2). -/
def Agent.cl : Agent → Nat
  | .lantern m => m.toNat
  | .unit k => k.toNat / 8

/-- Cluster of an engine (R2). -/
def Eng.cl : Eng → Nat
  | .uce k _ | .mat k | .stream k => k.toNat / 8
  | .cce m _ | .xe m | .lantern m => m.toNat

/-- A copy engine's state; a matrix engine and a stream have none. -/
def getX (s : State) (e : Eng) : XEng :=
  match e with
  | .uce k q => if q == 0 then (getUnit s k.toNat).uce0 else (getUnit s k.toNat).uce1
  | .cce m n => if n == 0 then (getCl s m.toNat).cce0 else (getCl s m.toNat).cce1
  | .xe m => (getCl s m.toNat).xe
  | .lantern m => (getCl s m.toNat).lan.x
  | .mat _ | .stream _ => {}
/-- Replace a copy engine's state. -/
def setX (s : State) (e : Eng) (x : XEng) : State :=
  match e with
  | .uce k q => modUnit s k.toNat (fun u => if q == 0 then { u with uce0 := x } else { u with uce1 := x })
  | .cce m n => modCl s m.toNat (fun c => if n == 0 then { c with cce0 := x } else { c with cce1 := x })
  | .xe m => modCl s m.toNat (fun c => { c with xe := x })
  | .lantern m => modLan s m.toNat (fun l => { l with x := x })
  | .mat _ | .stream _ => s
/-- Change a copy engine's state. -/
def modX (s : State) (e : Eng) (f : XEng → XEng) : State := setX s e (f (getX s e))

/-- The next draw of the free values. -/
def draw (s : State) : Nat × State := (s.draws, { s with draws := s.draws + 1 })

/-- Whether the module is in a gang switch, which freezes every agent of the job (R317, R324). -/
def frozen (s : State) : Bool := s.cp.switch.isSome

/-- PTP time in ns: six fclk are five ns (R3, R323). -/
def ptp (s : State) : Nat := s.fclk * 5 / 6

/-! ## Registers and holders -/

/-- Holder number of a scalar register. -/
def hS (r : Nat) : Nat := r
/-- Holder number of a vector register. -/
def hV (r : Nat) : Nat := 64 + r
/-- Holder number of a mask register. -/
def hM (r : Nat) : Nat := 96 + r
/-- Holder number of a descriptor register. -/
def hD (r : Nat) : Nat := 128 + r

/-- A scalar register; s0 reads zero (R151). -/
def rdS (c : Core) (r : Nat) : W64 := if r = 0 then 0 else sget 0 c.sreg r
/-- Write a scalar register; a write to s0 is discarded (R151). -/
def wrS (c : Core) (r : Nat) (v : W64) : Core := if r = 0 then c else { c with sreg := sset 0 c.sreg r v }

/-- Whether a holder carries taint and poison: s0 and m0 never do (R70). -/
def holds (h : Nat) : Bool := decide (h ≠ 0) && decide (h ≠ 96)
/-- Taint, saturation and poison of a holder. -/
def hmeta (c : Core) (h : Nat) : Meta := if holds h then sget {} c.md h else {}
/-- Write a holder's taint, saturation and poison. -/
def setMeta (c : Core) (h : Nat) (x : Meta) : Core := if holds h then { c with md := sset {} c.md h x } else c

/-- Union of what holders carry (R71, R110). -/
def Meta.join (x y : Meta) : Meta := ⟨x.taint ||| y.taint, x.sat || y.sat, x.poison || y.poison⟩
/-- Union over a list of holders. -/
def metaOf (c : Core) (hs : List Nat) : Meta := hs.foldl (fun x h => x.join (hmeta c h)) {}

/-- A CSR held as plain bits. -/
def rdCsr (c : Core) (n : Nat) : W64 := sget (csrReset n) c.csr n
/-- Write a CSR held as plain bits. -/
def wrCsr (c : Core) (n : Nat) (v : W64) : Core := { c with csr := sset (csrReset n) c.csr n v }
/-- Add to a counter CSR, wrapping mod 2^64 (R198). -/
def bump (c : Core) (n : Nat) (k : Nat) : Core := wrCsr c n (rdCsr c n + BitVec.ofNat 64 k)
/-- Add to a 32-bit counter CSR that saturates (R76, R89, R104, R199). -/
def bumpSat (c : Core) (n : Nat) (k : Nat) : Core :=
  wrCsr c n (BitVec.ofNat 64 (min (2 ^ 32 - 1) ((rdCsr c n).toNat + k)))

/-! ## Tags -/

/-- Whether a read still holds its tag (R73). -/
def tagLive (c : Core) (t gen : Nat) : Bool := c.tags.any (fun p => p.1 == t && p.2 == gen)
/-- Whether a tag is assigned. -/
def tagSet (c : Core) (t : Nat) : Bool := c.tags.any (fun p => p.1 == t)
/-- Assigned tags as a mask (R76 taint.out). -/
def tagsOut (c : Core) : BitVec 16 := c.tags.foldl (fun x p => x ||| BitVec.ofNat 16 (2 ^ p.1)) 0
/-- The lowest free tag below `n` (R69); one cleared in this clk is not yet free (R72). -/
def freeTag (c : Core) (n : Nat) : Option Nat :=
  (List.range n).find? (fun t => !tagSet c t && !bit c.freed.toNat t)
/-- Assign a tag to the next read, whose value goes to a queue entry. -/
def takeTag (c : Core) (t : Nat) : Core := { c with tags := sput c.tags t c.gen, gen := c.gen + 1 }
/-- Assign a tag to the next read, whose value goes to register holder `h`: the holder takes that tag alone (R71). -/
def takeTagFor (c : Core) (t h : Nat) : Core :=
  let c1 := takeTag c t
  setMeta { c1 with dest := sput c1.dest t { h := h } } h { hmeta c1 h with taint := BitVec.ofNat 16 (2 ^ t), sat := false }
/-- Clear a tag: it leaves every holder, and a holder left with no tag is no longer saturated (R72, R73). -/
def clearTag (c : Core) (t : Nat) : Core :=
  let k := ~~~ (BitVec.ofNat 16 (2 ^ t))
  { c with
    tags := serase c.tags t
    freed := c.freed ||| BitVec.ofNat 16 (2 ^ t)
    dest := (serase c.dest t).map (fun p => (p.1, { p.2 with taint := p.2.taint &&& k, sat := p.2.sat && (p.2.taint &&& k) != 0 }))
    md := c.md.filterMap (fun p =>
      let x : Meta := ⟨p.2.taint &&& k, p.2.sat && (p.2.taint &&& k) != 0, p.2.poison⟩
      if x = {} then none else some (p.1, x)) }

/-- TJOIN and TCLR give holder `h` a taint (R76): its value's, and that of a tagged read's value still to reach it. -/
def giveTaint (c : Core) (h : Nat) (taint : BitVec 16) (sat : Bool) : Core :=
  let c1 := setMeta c h ⟨taint, sat, (hmeta c h).poison⟩
  { c1 with dest := c1.dest.map (fun p => if p.2.h = h then (p.1, { p.2 with taint := taint, sat := sat }) else p) }

/-- The value of a tagged read reaches holder `h` (R68, R72): its tag is cleared, and a holder that takes the value takes the
taint of the value that remains, which is what TJOIN gave it since the read issued (R76, R149). -/
def arriveMeta (c : Core) (tag : Option (Nat × Nat)) (h : Nat) (takes psn : Bool) : Core :=
  let d := (tag.map (fun t => sget { h := h } c.dest t.1)).getD { h := h }
  let core := match tag with | some (t, g) => if tagLive c t g then clearTag c t else c | none => c
  let ts := match tag with | some (t, _) => d.taint &&& ~~~ (BitVec.ofNat 16 (2 ^ t)) | none => d.taint
  if takes then setMeta core h ⟨ts, d.sat && ts != 0, psn⟩ else core

/-- The tags of a set, each with the read it names now. -/
def tagsOf (c : Core) (x : BitVec 16) : List (Nat × Nat) := c.tags.filter (fun p => bit x.toNat p.1)

/-- The tag set with which a result of issue-time tags lands, and whether it saturates (R73). -/
def landTags (c : Core) (ts : List (Nat × Nat)) : BitVec 16 × Bool :=
  let sat := ts.any (fun p => tagSet c p.1 && !tagLive c p.1 p.2)
  let kept := ts.foldl (fun x p => if tagLive c p.1 p.2 then x ||| BitVec.ofNat 16 (2 ^ p.1) else x) (0 : BitVec 16)
  if sat then (kept ||| tagsOut c, true) else (kept, false)

/-! ## Traps -/

/-- Cause codes (R312). -/
def cIllegal : Nat := 0x01
/-- RANGE_MISS. -/
def cRange : Nat := 0x02
/-- POISON. -/
def cPoison : Nat := 0x03
/-- TRAP. -/
def cTrap : Nat := 0x04
/-- RING. -/
def cRing : Nat := 0x10
/-- TENSOR. -/
def cTensor : Nat := 0x11
/-- POST_REJECT. -/
def cPostReject : Nat := 0x12
/-- POST_STALL. -/
def cPostStall : Nat := 0x13
/-- REMOTE_FAIL. -/
def cRemoteFail : Nat := 0x14
/-- UNIT_TRAP. -/
def cUnitTrap : Nat := 0x15

/-- Handler mode: trap.cause.hm (R200). -/
def hm (c : Core) : Bool := bit (rdCsr c 0xA1).toNat 31
/-- A local handler is installed: trap.vec.en (R200). -/
def trapEn (c : Core) : Bool := bit (rdCsr c 0xA0).toNat 0

/-- Local delivery of a trap (R201): what the trap CSRs hold, hm, and where control goes. -/
def deliver (c : Core) (cause slot : Nat) (val : W64) (resume : Nat) (pending : Option Nat) : Core :=
  let c1 := wrCsr c 0xA1 (BitVec.ofNat 64 (2 ^ 31 + slot * 256 + cause))
  let c2 := wrCsr c1 0xA4 val
  let c3 := wrCsr c2 0xA2 (BitVec.ofNat 64 (bits resume 2 19 * 4))
  let c4 := wrCsr c3 0xA3 (match pending with | none => 0 | some t => BitVec.ofNat 64 (2 ^ 63 + bits t 2 19 * 4))
  { c4 with pc := bits (rdCsr c 0xA0).toNat 2 19 * 4, delay := none }

/-- Return from a handler (R202): hm clears; epc, and the transfer that trap.npc records. -/
def trapReturn (c : Core) : Core × Nat × Option Nat :=
  let npc := (rdCsr c 0xA3).toNat
  (wrCsr c 0xA1 (rdCsr c 0xA1 &&& 0x7FF), (rdCsr c 0xA2).toNat, if bit npc 63 then some (bits npc 0 21) else none)

/-! ## Memories -/

/-- First local IA of a unit's scratchpad (R21). -/
def unitBase (k : Nat) : Nat := 0x020200000000 + k * 0x80000
/-- First local IA of a cluster's scratchpad (R21). -/
def clBase (m : Nat) : Nat := 0x020000000000 + m * 0x1000000
/-- First local IA of a die's scratchpad (R21). -/
def dieBase (n : Nat) : Nat := 0x020100000000 + n * 0x4000000
/-- First local IA of a cluster's code store (R21). -/
def codeBase (m : Nat) : Nat := 0x020300000000 + m * 0x200000
/-- Bytes of a unit scratchpad (R41). -/
def unitSize : Nat := 0x50000
/-- Bytes of a cluster scratchpad (R41). -/
def clSize : Nat := 0xC00000
/-- Bytes of a die scratchpad (R41). -/
def dieSize : Nat := 0x3000000
/-- Bytes of a code store (R44). -/
def codeSize : Nat := 0x200000

/-- Whether a read of a sector returns poison (R47): its bit is set, or the read finds an uncorrectable error, one that a
full-sector write of the same clk has removed among them (R48). -/
def psnSec (m : MemSt) (sec : Nat) : Bool :=
  sget false m.poison sec || (sget .none m.errs sec == .unc || m.lost.any (fun p => p.1 == sec))
/-- Whether a byte's sector reads as poisoned (R47). -/
def psnAt (m : MemSt) (a : Nat) : Bool := psnSec m (a / 32)
/-- Whether any sector of `n` bytes at `a` is poisoned; true of no sector where `n = 0`. -/
def psnRange (m : MemSt) (a n : Nat) : Bool :=
  n != 0 && (List.range ((a + n - 1) / 32 - a / 32 + 1)).any (fun j => psnSec m (a / 32 + j))

/-- Bytes with the poison of their sectors (R47). -/
def rdImg (m : MemSt) (a n : Nat) : List (Byte × Bool) :=
  (List.range n).map (fun j => (rdByte m.cells (a + j), psnAt m (a + j)))

/-- Set or clear a sector's poison bit. -/
def setPsn (m : MemSt) (sec : Nat) (b : Bool) : MemSt := { m with poison := sset false m.poison sec b }

/-- One write of bytes, each with its own poison (R47): later entries prevail; a sector that receives a poisoned byte is
poisoned; one wholly covered by unpoisoned bytes is cleared, a latent error with it; any other keeps its bit. Release
records of the parts written become none (R81). -/
def writeSet (m : MemSt) (ws : List (Nat × Byte × Bool)) : MemSt :=
  let cells := ws.foldl (fun x w => wrByte x w.1 w.2.1) m.cells
  let secs := (ws.map (fun w => w.1 / 32)).dedup
  let poison := secs.foldl (fun x sec =>
    let inn := ws.filter (fun w => w.1 / 32 == sec)
    if inn.any (fun w => w.2.2) then sset false x sec true
    else if decide ((inn.map (fun w => w.1)).dedup.length = 32) then sset false x sec false
    else x) m.poison
  let recs := (ws.map (fun w => w.1 / 16)).dedup.foldl (fun x p => serase x p) m.recs
  let whole := if m.errs.isEmpty then []
    else secs.filter (fun sec => decide (((ws.filter (fun w => w.1 / 32 == sec)).map (fun w => w.1)).dedup.length = 32))
  let errs := whole.foldl (fun x sec => serase x sec) m.errs
  let lost := (whole.filter (fun sec => sget .none m.errs sec == .unc && !sget false m.poison sec)).foldl (fun x sec => sput x sec false) m.lost
  { m with cells := cells, poison := poison, recs := recs, errs := errs, lost := lost }

/-- Write consecutive bytes from `a` up. -/
def writeImg (m : MemSt) (a : Nat) (img : List (Byte × Bool)) : MemSt :=
  writeSet m (img.mapIdx (fun j b => (a + j, b.1, b.2)))

/-- Write the `n` low bytes of a number at `a`, unpoisoned. -/
def writeNat (m : MemSt) (a n v : Nat) : MemSt :=
  writeImg m a ((toBytes v n).map (fun b => (b, false)))

/-- What a read finds in the error codes of the sectors it meets (R47): corrected errors are written back and counted,
uncorrectable ones poison their sector and are counted. -/
def touch (m : MemSt) (a n : Nat) : MemSt × Nat × Nat :=
  if n = 0 then (m, 0, 0)
  else
    let inr := fun (sec : Nat) => decide (a / 32 ≤ sec) && decide (sec ≤ (a + n - 1) / 32)
    let hit := m.errs.filter (fun p => inr p.1 && !sget false m.poison p.1)
    let gone := m.lost.filter (fun p => inr p.1 && !p.2)
    if hit.isEmpty && gone.isEmpty then (m, 0, 0)
    else
      let unc := hit.filter (fun p => p.2 == .unc)
      ({ m with
          errs := m.errs.filter (fun p => !(inr p.1))
          poison := unc.foldl (fun x p => sset false x p.1 true) m.poison
          lost := m.lost.map (fun p => if inr p.1 then (p.1, true) else p) },
        hit.countP (fun p => p.2 == .corr), unc.length + gone.length)

/-- Add to ecc.ce and ecc.ue of the agent whose memory a local IA lies in: a unit's for its scratchpad, a Lantern core's
for its cluster scratchpad and code store (R199). R47 gives a die scratchpad counters too and R199 no register for them:
they are counted nowhere (log entry 45). -/
def countErr (s : State) (lia ce ue : Nat) : State :=
  if ce = 0 ∧ ue = 0 then s
  else
    let f := fun c : Core => bumpSat (bumpSat c 0xC0 ce) 0xC1 ue
    if unitBase 0 ≤ lia ∧ lia < codeBase 0 then modCore s (.unit (BitVec.ofNat 8 ((lia - unitBase 0) / 0x80000))) f
    else if codeBase 0 ≤ lia then modCore s (.lantern (BitVec.ofNat 5 ((lia - codeBase 0) / 0x200000))) f
    else if lia < dieBase 0 then modCore s (.lantern (BitVec.ofNat 5 ((lia - clBase 0) / 0x1000000))) f
    else s

/-- A read of on-chip memory meets the error codes of its sectors. -/
def touchChip (s : State) (lia n : Nat) : State :=
  let (m, ce, ue) := touch s.chip.mem lia n
  countErr (modChip s (fun c => { c with mem := m })) lia ce ue

/-- Reads of several ranges of on-chip memory. -/
def touchAll (s : State) (l : List (Nat × Nat)) : State := l.foldl (fun t p => touchChip t p.1 p.2) s

/-- Change on-chip memory. -/
def modMem (s : State) (f : MemSt → MemSt) : State := modChip s (fun c => { c with mem := f c.mem })

/-- A physical place: on-chip by local IA, HBM by MPA, host by host address. -/
inductive Loc where
  | chip (a : Nat)
  | hbm (a : Nat)
  | host (a : Nat)
deriving DecidableEq, Repr

/-- The memory of a place and the address in it. -/
def locMem (s : State) (l : Loc) : MemSt × Nat :=
  match l with
  | .chip a => (s.chip.mem, a)
  | .hbm a => (s.hbm, a)
  | .host a => (s.host, a)

/-- Change the memory of a place. -/
def modLoc (s : State) (l : Loc) (f : MemSt → Nat → MemSt) : State :=
  match l with
  | .chip a => modMem s (fun m => f m a)
  | .hbm a => { s with hbm := f s.hbm a }
  | .host a => { s with host := f s.host a }

/-- 24 hours of PTP time. -/
def dayNs : Nat := 86400000000000

/-- Retirement of an HBM frame after one uncorrectable error, or sixteen corrected ones in 24 hours (R374). -/
def frameErr (s : State) (a ce ue : Nat) : State :=
  if ce = 0 ∧ ue = 0 then s
  else
    let fr := a / 8192
    let l := (sget [] s.svc.ceTimes fr).filter (fun t => decide (ptp s < t + dayNs)) ++ List.replicate ce (ptp s)
    let bad := decide (0 < ue) || decide (16 ≤ l.length)
    { s with svc := { s.svc with
        ceTimes := sset [] s.svc.ceTimes fr l
        retired := if bad && !s.svc.retired.contains fr then s.svc.retired ++ [fr] else s.svc.retired } }

/-- A request leaves on CXL (R32). -/
def cxlNote (s : State) (cache : Bool) (op pasid a n : Nat) (img : List (Byte × Bool)) : State :=
  { s with cxl := s.cxl ++ [⟨cache, op, pasid, a, n, img⟩] }

/-- A read of a place: its bytes with poison, and the errors it finds. -/
def readLoc (s : State) (l : Loc) (n : Nat) : List (Byte × Bool) × State :=
  match l with
  | .chip a => let s1 := touchChip s a n; (rdImg s1.chip.mem a n, s1)
  | .hbm a =>
    let (m, ce, ue) := touch s.hbm a n
    let s1 := frameErr { s with hbm := m } a ce ue
    (rdImg s1.hbm a n, s1)
  | .host a => (rdImg s.host a n, cxlNote s false 0 s.chip.pasid a n [])

/-- A write of consecutive bytes at a place. -/
def writeLoc (s : State) (l : Loc) (img : List (Byte × Bool)) : State :=
  let s1 := modLoc s l (fun m a => writeImg m a img)
  match l with
  | .host a => cxlNote s1 false 1 s.chip.pasid a img.length img
  | _ => s1

/-! ## Release records and scopes -/

/-- Scope from an agent to an agent or memory of a unit, cluster, die, or the module (R78); `p` and `q` are unit indexes
where there is one, else none with the cluster or die. -/
structure Where where
  unit : Option Nat
  cl : Option Nat
  die : Option Nat
  /-- The module number; the host lies at none. -/
  mod : Option Nat
deriving DecidableEq, Repr

/-- Where a local IA of this module lies (R21, R78). -/
def whereLia (s : State) (lia : Nat) : Where :=
  if lia < clBase 0 ∨ codeBase 32 ≤ lia then ⟨none, none, none, if lia < 0x800000000000 then some s.partMod else none⟩
  else if lia < dieBase 0 then let m := (lia - clBase 0) / 0x1000000; ⟨none, some m, some (m / 8), some s.partMod⟩
  else if lia < unitBase 0 then ⟨none, none, some ((lia - dieBase 0) / 0x4000000), some s.partMod⟩
  else if lia < codeBase 0 then
    let k := (lia - unitBase 0) / 0x80000; ⟨some k, some (k / 8), some (k / 64), some s.partMod⟩
  else let m := (lia - codeBase 0) / 0x200000; ⟨none, some m, some (m / 8), some s.partMod⟩

/-- Where an agent runs. -/
def whereAgent (s : State) : Agent → Where
  | .lantern m => ⟨none, some m.toNat, some (m.toNat / 8), some s.partMod⟩
  | .unit k => ⟨some k.toNat, some (k.toNat / 8), some (k.toNat / 64), some s.partMod⟩

/-- proximity(A, L) of R78; an agent of no unit takes its cluster region at unit scope. -/
def proximity (a l : Where) : Nat :=
  if a.mod.isNone ∨ l.mod.isNone ∨ a.mod ≠ l.mod then 4
  else if l.unit.isSome ∧ (a.unit = l.unit ∨ (a.unit.isNone ∧ a.cl.isSome ∧ a.cl = l.cl)) then 0
  else if l.cl.isSome ∧ a.cl = l.cl then (if a.unit.isNone then 0 else 1)
  else if l.die.isSome ∧ a.die = l.die then 2
  else 3

/-- Record a scope mismatch of an agent in sync.scopemiss (R81). -/
def scopeMiss (c : Core) (opsc other kind : Nat) : Core :=
  let v := (rdCsr c 0x92).toNat
  let n := min 127 (bits v 1 7 + 1)
  let rest := if bit v 0 then bits v 8 8 * 256 else opsc * 2 ^ 13 + other * 2 ^ 10 + kind * 256
  wrCsr c 0x92 (BitVec.ofNat 64 (rest + n * 2 + 1))

/-- The record after a release at scope `sc` from proximity `px` (R81). -/
def relJoin (r : Option RelRec) (sc px : Nat) : Option RelRec :=
  match r with
  | none => some ⟨sc, px⟩
  | some x => some ⟨min x.rs sc, max x.rp px⟩

/-- The mismatch of an acquire at scope `sc` by an agent at proximity `px` reading record `r` (R81): what is recorded. -/
def acqMiss (r : Option RelRec) (sc px : Nat) : Option (Nat × Nat) :=
  if sc < px then some (px, 1)
  else match r with
    | none => none
    | some x => if sc < x.rp then some (x.rp, 2) else if x.rs < px then some (x.rs, 3) else none

end Sys2Proof.Machine
end

