-- ==== Sys2Proof/Machine/Mem.lean ====
section
/-! DEFINITION. Address translation: range registers, the local IA map, the memory translation stage and the egress stage (spec 02). -/

namespace Sys2Proof.Machine

/-- Kinds of access (R18). -/
inductive AKind where
  | rd | wr | rw | at
deriving DecidableEq, Repr

/-- A range register as committed: va, lim, ia (R17). -/
def rng (c : Core) (i : Nat) : Nat × Nat × Nat :=
  ((rdCsr c (0x100 + 3 * i)).toNat, (rdCsr c (0x101 + 3 * i)).toNat, (rdCsr c (0x102 + 3 * i)).toNat)

/-- Whether range `g` holds the granule of `va` (R18). -/
def rngHit (g : Nat × Nat × Nat) (va : Nat) : Bool :=
  bit g.2.2 7 && decide (bits g.1 13 35 ≤ bits va 13 35) && decide (bits va 13 35 ≤ bits g.2.1 13 35)

/-- Row of the local IA map that a byte lies in, with the slot size and the bytes used of each slot; none in a hole (R21).
Rows: 0 direct HBM, 1 interleaved HBM, 2 clusters, 3 dies, 4 units, 5 code stores, 6 cache view, 7 host aperture. -/
def iaRow (a : Nat) : Option Nat :=
  if a < 0x00C000000000 then some 0
  else if 0x010000000000 ≤ a ∧ a < 0x01C000000000 then some 1
  else if clBase 0 ≤ a ∧ a < clBase 32 then (if (a - clBase 0) % 0x1000000 < clSize then some 2 else none)
  else if dieBase 0 ≤ a ∧ a < dieBase 4 then (if (a - dieBase 0) % 0x4000000 < dieSize then some 3 else none)
  else if unitBase 0 ≤ a ∧ a < unitBase 256 then (if (a - unitBase 0) % 0x80000 < unitSize then some 4 else none)
  else if codeBase 0 ≤ a ∧ a < codeBase 32 then some 5
  else if 0x400000000000 ≤ a ∧ a < 0x800000000000 then some 6
  else if 0x800000000000 ≤ a ∧ a < 0xC00000000000 then some 7
  else none

/-- Slot of its row that a byte lies in; every byte between two used bytes of one slot is used (R21, R23). -/
def iaSlot (a : Nat) : Nat :=
  match iaRow a with
  | some 2 => (a - clBase 0) / 0x1000000
  | some 3 => (a - dieBase 0) / 0x4000000
  | some 4 => (a - unitBase 0) / 0x80000
  | _ => 0

/-- check_aperture of R23: true where the access may go on. -/
def aperture (s : State) (m lo hi : Nat) (k : AKind) : Bool :=
  (iaRow lo).isSome && iaRow lo == iaRow hi && iaSlot lo == iaSlot hi && decide (m < s.partSize)
    && (m == s.partMod || !(iaRow lo == some 6 || iaRow lo == some 7))
    && !(k == .at && iaRow lo == some 5)

/-- Translation of `n > 0` bytes at `va` under the range registers of a cluster's context (R18); none is RANGE_MISS. -/
def translate (s : State) (cl va n : Nat) (k : AKind) : Option Nat :=
  let c := (getCl s cl).lan.core
  let last := va + n - 1
  if va / 2 ^ 48 ≠ 0 ∨ last / 2 ^ 48 ≠ 0 then none
  else match (List.range 16).find? (fun i => rngHit (rng c i) va) with
    | none => none
    | some i =>
      let g := rng c i
      let t := g.2.2
      let reads := k == .rd || k == .rw
      let writes := k == .wr || k == .rw
      if bits last 13 35 > bits g.2.1 13 35 then none
      else if (reads && !bit t 5) || (writes && !bit t 6) || (k == .at && !bit t 4) then none
      else
        let m := if bit t 3 then s.partMod else bits t 48 16
        let lo := bits t 13 35 * 8192 + (va - bits g.1 13 35 * 8192)
        let hi := lo + n - 1
        if hi ≥ 2 ^ 48 then none
        else if aperture s m lo hi k then some (m * 2 ^ 48 + lo) else none

/-- Whether an access by VA of a Lantern core, or with `mat` one of a matrix engine for a remote A tile, reaches what its
address names (R43): no unit scratchpad, code store or scratchpad of its own die of this module; for a matrix engine, not
its own cluster's either. A Lantern core reaches its own cluster scratchpad by VA too (log entry 51). -/
def reaches (s : State) (cl : Nat) (mat : Bool) (ia : Nat) : Bool :=
  let lo := ia % 2 ^ 48
  if ia / 2 ^ 48 ≠ s.partMod then true
  else match iaRow lo with
    | some 4 | some 5 => false
    | some 3 => decide ((lo - dieBase 0) / 0x4000000 ≠ cl / 8)
    | some 2 => !(mat && decide ((lo - clBase 0) / 0x1000000 = cl))
    | _ => true

/-- A translation that is RANGE_MISS where its agent does not reach what it names (R43). -/
def reached (s : State) (cl : Nat) (mat : Bool) (r : Option Nat) : Option Nat := r.filter (reaches s cl mat)

/-- Fault kinds as the ring entry codes them (R104). -/
def fkNoJob : Nat := 1
/-- NOTMAPPED. -/
def fkNotMapped : Nat := 2
/-- WRITE. -/
def fkWrite : Nat := 3
/-- ATOMIC. -/
def fkAtomic : Nat := 4
/-- TABLE. -/
def fkTable : Nat := 5
/-- HOST. -/
def fkHost : Nat := 6
/-- No answer came in time (R341): never written to a ring. -/
def fkTimeout : Nat := 15

/-- What a memory-side translation of an access within one 8 KiB page gives. -/
inductive Res where
  | ok (l : Loc)
  | fault (kind : Nat)
  /-- A peer module's local IA (R32). -/
  | peer (m : Nat) (lia : Nat)
  /-- A page the remote page cache has to fill: its egress page (R34). -/
  | miss (page : Nat)
deriving DecidableEq, Repr

/-- Stack and stack-local offset of an HBM local IA (R25). -/
def hbmSlo (lo : Nat) : Nat × Nat :=
  if lo < 0x010000000000 then (lo / 0x1000000000, lo % 0x1000000000)
  else
    let o := lo - 0x010000000000
    let p := o / 0x2000
    (p % 12, p / 12 * 0x2000 + o % 0x2000)

/-- An eight-byte table entry in HBM. -/
def hbmEntry (s : State) (a : Nat) : Nat := rdMem s.hbm.cells a 8

/-- The table that the root entry of a slot names (R27); none is NOJOB. R27 names no fault for its reserved bits: they are
ignored (log entry 61). -/
def rootTable (s : State) (root slot pasid : Nat) : Option Nat :=
  let e := hbmEntry s (root + 8 * slot)
  if bit e 0 && decide (bits e 44 20 = pasid) then some (bits e 13 27 * 8192) else none

/-- One walk over levels given as low bit and width of their index (R28, R31): the leaf and the low bits it leaves. Leaves
are allowed where the level's page bits are given; `stk` bounds addr[39:36] of an MTS table. R31 names no fault for an
egress table whose addr[39:36] names no stack: zeros are read there, which is NOTMAPPED (log entry 60). -/
def walk (s : State) (stk : Option Nat) (egress : Bool) (x : Nat) (tbl : Nat) :
    List (Nat × Nat × Bool) → Except Nat (Nat × Nat)
  | [] => .error fkTable
  | (lo, w, leafOk) :: r =>
    let e := hbmEntry s (tbl + 8 * bits x lo w)
    if !bit e 0 then .error fkNotMapped
    else if bit e 1 then
      if !leafOk then .error fkTable
      else if egress then
        (if bits e 8 5 ≠ 0 ∨ bits e 4 2 ≠ 0 ∨ 2 ≤ bits e 6 2 then .error fkTable
         else if 13 < lo ∧ bits e 13 (lo - 13) ≠ 0 then .error fkTable else .ok (e, lo))
      else
        (if bits e 40 24 ≠ 0 ∨ bits e 4 9 ≠ 0 then .error fkTable
         else if stk.isSome ∧ some (bits e 36 4) ≠ stk then .error fkTable
         else if 13 < lo ∧ bits e 13 (lo - 13) ≠ 0 then .error fkTable else .ok (e, lo))
    else if bits e 40 24 ≠ 0 ∨ bits e 4 9 ≠ 0 ∨ bit e 2 ∨ bit e 3 then .error fkTable
    else if stk.isSome ∧ some (bits e 36 4) ≠ stk then .error fkTable
    else if r.isEmpty then .error fkTable
    else walk s stk egress x (bits e 13 27 * 8192) r

/-- Permissions of a leaf (R29). -/
def leafPerm (e : Nat) (k : AKind) : Option Nat :=
  if (k == .wr || k == .rw) && !bit e 2 then some fkWrite
  else if k == .at && !bit e 3 then some fkAtomic
  else none

/-- MTS translation of an HBM local IA (R27 to R29). -/
def mts (s : State) (slot pasid lo : Nat) (k : AKind) : Res :=
  let (stk, slo) := hbmSlo lo
  match rootTable s (sget 0 s.mtsRoot stk) slot pasid with
  | none => .fault fkNoJob
  | some t =>
    match walk s (some stk) false slo t [(30, 6, true), (21, 9, true), (13, 8, true)] with
    | .error f => .fault f
    | .ok (e, b) =>
      match leafPerm e k with
      | some f => .fault f
      | none => .ok (.hbm (bits e 13 27 * 8192 + bits slo 0 b))

/-- Egress translation of an egress offset (R31, R32): a host address or a peer's local IA. Where a leaf denies the access
and names a bad place too, the permission fault is taken (log entry 62). -/
def egress (s : State) (slot pasid eia : Nat) (k : AKind) : Res :=
  match rootTable s s.egrBase slot pasid with
  | none => .fault fkNoJob
  | some t =>
    match walk s none true eia t [(39, 7, false), (30, 9, true), (21, 9, true), (13, 8, true)] with
    | .error f => .fault f
    | .ok (e, b) =>
      match leafPerm e k with
      | some f => .fault f
      | none =>
        if bits e 6 2 = 0 then .ok (.host (bits e 13 51 * 8192 + bits eia 0 b))
        else
          let pm := bits e 48 16
          let pl := bits e 13 35 * 8192 + bits eia 0 b
          if pm ≥ s.partSize then .fault fkTable
          else match iaRow pl with
            | none | some 6 | some 7 => .fault fkTable
            | some _ => .peer pm pl

/-- An access by way of the egress stage (R31, R32): one that the host answers with an error completion faults (R104). -/
def egressAt (s : State) (slot pasid eia : Nat) (k : AKind) : Res :=
  match egress s slot pasid eia k with
  | .ok (.host a) => if Config.hostError s.fclk a then .fault fkHost else .ok (.host a)
  | r => r

/-- MPA of the slices set aside for the remote page cache: the highest GiB of each stack below the CP's own, which is the
last (R33, log entry 10). -/
def rpcSlices (s : State) : List Nat :=
  s.cp.rpcGib.flatMap (fun p => (List.range p.2).map (fun i => p.1 * 2 ^ 36 + (63 - p.2 + i) * 2 ^ 30))

/-- Slice and place within it of a granule (R33). -/
def rpcSlice (s : State) (j : Nat) : Nat := (rpcSlices s).getD (j / 130048) 0
/-- MPA of the 8 KiB of a granule (R33). -/
def rpcFrame (s : State) (j : Nat) : Nat := rpcSlice s j + j % 130048 * 8192
/-- MPA of the tag of a granule, in the last 8 MiB of its slice (R33). -/
def rpcTagAt (s : State) (j : Nat) : Nat := rpcSlice s j + 1016 * 2 ^ 20 + j % 130048 * 64

/-- The 64-byte tag of a granule (R33). -/
def tagBits (g : Granule) : Nat :=
  g.dirty.toNat * 2 ^ 384 + g.lvalid.toNat * 2 ^ 256 + g.state % 4 * 2 ^ 62 + g.slot % 2 ^ 10 * 2 ^ 52 + g.page % 2 ^ 33 * 2 ^ 13
    + (if g.host then 1 else 0)

/-- A granule. -/
def getGr (s : State) (j : Nat) : Granule := sget {} s.rpc j
/-- Replace a granule, and its tag in HBM with it (R33). -/
def setGr (s : State) (j : Nat) (g : Granule) : State :=
  let s1 := { s with rpc := sset {} s.rpc j g }
  if tagBits g = tagBits (getGr s j) then s1 else { s1 with hbm := writeNat s1.hbm (rpcTagAt s j) 64 (tagBits g) }

/-- Whether any HBM is set aside for the remote page cache (R33). -/
def rpcOn (s : State) : Bool := s.cp.rpcGib.any (fun p => p.2 != 0)

/-- The granule that holds an egress page of a slot, in one of the given states. -/
def rpcFind (s : State) (slot page : Nat) (states : List Nat) : Option (Nat × Granule) :=
  s.rpc.find? (fun p => p.2.slot == slot && p.2.page == page && states.contains p.2.state)

/-- The mask of the 64-byte lines that `n` bytes at offset `o` of a granule touch. -/
def lineMask (o n : Nat) : BitVec 128 :=
  BitVec.ofNat 128 (2 ^ ((o + n - 1) / 64 + 1) - 2 ^ (o / 64))

/-- Memory-side translation of `n` bytes at a full IA, within one 8 KiB page, for a job's slot and PASID. -/
def resolve (s : State) (slot pasid ia n : Nat) (k : AKind) : Res :=
  let m := ia / 2 ^ 48
  let lo := ia % 2 ^ 48
  if m ≠ s.partMod then .peer m lo
  else match iaRow lo with
    | some 0 | some 1 => mts s slot pasid lo k
    | some 6 =>
      let eia := lo - 0x400000000000
      if !rpcOn s then egressAt s slot pasid eia k
      else match s.rpcFail.find? (fun f => f.1 == slot && (some f.2.1 == s.asker && f.2.2.1 == eia / 8192)) with
        | some f => .fault f.2.2.2
        | none =>
          let hit := match rpcFind s slot (eia / 8192) [1, 2] with
            | some (_, g) =>
              if g.lvalid &&& lineMask (eia % 8192) n == lineMask (eia % 8192) n then some (g.frame + eia % 8192) else none
            | none => none
          match hit with
          | some a => .ok (.hbm a)
          | none => match egress s slot pasid eia k with
            | .fault f => .fault f
            | _ => .miss (eia / 8192)
    | some 7 => egressAt s slot pasid (lo - 0x800000000000) k
    | some _ => .ok (.chip lo)
    | none => .fault fkTable

/-- A granule written through the cache view becomes dirty (R34). -/
def rpcDirty (s : State) (slot ia n : Nat) : State :=
  let lo := ia % 2 ^ 48
  if iaRow lo = some 6 ∧ ia / 2 ^ 48 = s.partMod then
    match rpcFind s slot ((lo - 0x400000000000) / 8192) [1, 2] with
    | some (j, g) => setGr s j { g with dirty := g.dirty ||| lineMask ((lo - 0x400000000000) % 8192) n }
    | none => s
  else s

/-- A tail word of a device queue that a write touches is reported to the CP (R357): its new value is noted. -/
def tailReport (s : State) (ia n : Nat) : State :=
  let hit := s.cp.tailw.filter (fun t => decide (t.2.2 < ia % 2 ^ 48 + n) && decide (ia % 2 ^ 48 < t.2.2 + 8))
  if hit.isEmpty then s
  else { s with inputs := s.inputs ++ hit.map (fun t =>
    (Instr.tailWordWrite, ({ ref := ⟨BitVec.ofNat 20 t.1, BitVec.ofNat 6 t.2.1⟩, j := t.2.2 } : Arg))) }

/-- Pieces of `n` bytes at an IA that lie in one 8 KiB page each (R25, R32): offset and length. -/
def pieces (ia n : Nat) : List (Nat × Nat) :=
  let first := min n (8192 - ia % 8192)
  if n = 0 then []
  else (0, first) :: (List.range ((n - first + 8191) / 8192)).map (fun j =>
    (first + 8192 * j, min 8192 (n - first - 8192 * j)))

/-- Memory-side translation of every piece of an access: every place, the first failure, or the peers it leaves for. -/
def resolveAll (s : State) (slot pasid ia n : Nat) (k : AKind) : List (Nat × Nat × Res) :=
  (pieces ia n).map (fun p => (p.1, p.2, resolve s slot pasid (ia + p.1) p.2 k))

/-- Read `n` bytes at an IA whose pieces have all resolved to places here. -/
def readIa (s : State) (slot pasid ia n : Nat) : List (Byte × Bool) × State :=
  (resolveAll s slot pasid ia n .rd).foldl (fun (p : List (Byte × Bool) × State) r =>
    match r.2.2 with
    | .ok l => let (b, t) := readLoc p.2 l r.2.1; (p.1 ++ b, t)
    | _ => (p.1 ++ List.replicate r.2.1 (0, true), p.2)) ([], s)

/-- The copy engine's command under way, as a writer of code (R24). -/
def codeWriter (s : State) : Option CodeBy :=
  match s.asker with
  | some (.chunk e id _ _) => some (.run e id)
  | _ => none

/-- What the code store holds before a write by a copy engine or a peer is kept for the fetches that do not observe the
write (R24). A peer's token is not seen here: its write is shown once it is performed (log entry 50). -/
def codeKeep (s : State) (ia n : Nat) : State :=
  let lo := ia % 2 ^ 48
  if iaRow lo = some 5 ∧ n ≠ 0 then
    let w := codeWriter s
    modCl s ((lo - codeBase 0) / 0x200000) (fun c =>
      { c with
        codeOld := c.codeOld ++ (rdImg s.chip.mem lo n).mapIdx (fun j b => ⟨lo + j, b.1, b.2, w, c.codeSeq, none, false⟩)
        codeSeq := if w.isSome then c.codeSeq else c.codeSeq + 1 })
  else s

/-- The code bytes a fetch finds that does not observe the writes `hid` names: of each byte, what stood there after the last
write it observes (R24). -/
def rdCodeBy (s : State) (m : Nat) (hid : CodeOld → Bool) (off n : Nat) : List (Byte × Bool) :=
  (List.range n).map (fun j =>
    let a := codeBase m + off + j
    match (((getCl s m).codeOld.filter (fun w => w.a == a)).reverse.takeWhile hid).getLast? with
    | some w => (w.b, w.psn)
    | none => (rdByte s.chip.mem.cells a, psnAt s.chip.mem a))

/-- The bytes a fetch of an instance finds that was dispatched when `seen` was the next firing of its cluster (R24). -/
def rdCode (s : State) (m seen off n : Nat) : List (Byte × Bool) :=
  rdCodeBy s m (fun w => w.by_.isSome || decide (seen ≤ w.at0)) off n

/-- The bytes a fetch of a Lantern core finds: it observes the writes of before its program as well as those whose token it
has waited on (R24). -/
def lanCode (s : State) (m off n : Nat) : List (Byte × Bool) :=
  rdCodeBy s m (fun w => !w.lan && (w.by_.isSome || decide ((getCl s m).lan.codeAt ≤ w.at0))) off n

/-- A writer's token fires (R24): fetches dispatched from now on observe what it wrote. -/
def codeShow (s : State) (m : Nat) (w : CodeBy) (tok : Option Nat) : State :=
  if (getCl s m).codeOld.any (fun x => x.by_ == some w) then
    modCl s m (fun c => { c with
      codeOld := c.codeOld.map (fun x => if x.by_ = some w then { x with by_ := none, at0 := c.codeSeq, tok := tok } else x)
      codeSeq := c.codeSeq + 1 })
  else s

/-- What a move command wrote waits for its task's token from here on (R24, R84). -/
def codePass (s : State) (m : Nat) (w v : CodeBy) : State :=
  if (getCl s m).codeOld.isEmpty then s
  else modCl s m (fun c => { c with codeOld := c.codeOld.map (fun x => if x.by_ = some w then { x with by_ := some v } else x) })

/-- A Lantern core has waited on a token (R24). -/
def codeWaited (s : State) (m tok : Nat) : State :=
  if (getCl s m).codeOld.isEmpty then s
  else modCl s m (fun c => { c with codeOld := c.codeOld.map (fun x =>
    if x.by_.isNone && x.tok == some tok then { x with lan := true } else x) })

/-- Write bytes at an IA whose pieces have all resolved to places here. -/
def writeIa (s : State) (slot pasid ia : Nat) (img : List (Byte × Bool)) : State :=
  let s1 := (resolveAll s slot pasid ia img.length .wr).foldl (fun t r =>
    match r.2.2 with
    | .ok l => rpcDirty (writeLoc t l ((img.drop r.1).take r.2.1)) slot (ia + r.1) r.2.1
    | _ => t) (codeKeep s ia img.length)
  tailReport s1 ia img.length

/-- The first fault of an access; none where every piece resolves. -/
def faultOf (rs : List (Nat × Nat × Res)) : Option (Nat × Nat) :=
  rs.findSome? (fun r => match r.2.2 with | .fault f => some (r.1, f) | _ => none)

/-- The first page the remote page cache has to fill. -/
def missOf (rs : List (Nat × Nat × Res)) : Option Nat :=
  rs.findSome? (fun r => match r.2.2 with | .miss p => some p | _ => none)

/-- Whether a piece leaves for a peer. -/
def hasPeer (rs : List (Nat × Nat × Res)) : Bool := rs.any (fun r => match r.2.2 with | .peer _ _ => true | _ => false)

end Sys2Proof.Machine
end

