-- ==== Sys2Proof/Machine/Router.lean ====
section
/-! DEFINITION. The fabric at its sending side: packets, links with their tags, die routers, circuits, and requests (spec 18 R332 to R343, R349 to R351, R375). -/

namespace Sys2Proof.Machine

/-! ## Packets -/

/-- A packet of a job with every other field zero (R335). -/
def pkt0 (s : State) (cls type : Nat) : Packet where
  ia := 0
  dmod := 0
  smod := BitVec.ofNat 16 s.partMod
  slot := BitVec.ofNat 10 s.chip.slot
  pasid := BitVec.ofNat 20 s.chip.pasid
  rid := 0
  cls := BitVec.ofNat 2 cls
  type := BitVec.ofNat 6 type
  nfl := 0
  grp := 0
  st := 0
  fk := 0
  len := 0
  aop := 0
  asz := 0
  ord := 0
  scope := 0
  circ := 0
  psn := 0
  gdim := 0
  gp := 0
  gpres := 0
  gcoord := 0
  pos := 0
  rsvd := 0
  payload := []
  tag := 0

/-- Whether a job slot has a key installed here (R350). -/
def keyOk (s : State) (slot : Nat) : Bool := s.cp.keys.any (fun p => p.1 == slot)

/-- The event that a packet's arrival is (R336); none where it is malformed. -/
def pktEvent (p : Packet) : Option Instr :=
  let n := p.nfl.toNat
  match p.cls.toNat, p.type.toNat with
  | 0, 0x01 => if n = 0 then some .rd else none
  | 0, 0x02 => if 1 ≤ n ∧ n ≤ 8 then some .wr else none
  | 0, 0x03 => if n = 1 then some .amo else none
  | 0, 0x04 => if n = 1 then some .fadd else none
  | 0, 0x08 => if n = 5 then some .postPacket else none
  | 0, 0x09 => if n = 0 then some .tkarm else none
  | 0, 0x0A => if n = 0 then some .tksigPacket else none
  | 0, 0x0B => if n = 0 then some .tkrdPacket else none
  | 0, 0x10 => if n = 0 then some .mcreq else none
  | 1, 0x20 => if n ≤ 8 then some .data else none
  | 1, 0x21 => if n = 0 then some .ack else none
  | 2, 0x30 => if n = 8 then some .red else none
  | _, _ => none

/-- A packet that this module sends to itself arrives here as an input. -/
def loopBackPkt (s : State) (p : Packet) : State :=
  match pktEvent p with
  | some i => { s with inputs := s.inputs ++ [(i, { pkt := p })] }
  | none => s

/-- Stride of a dimension in module numbers, and its size (R332). -/
def dimStep (s : State) (d : Nat) : Nat × Nat := ((s.dims.take d).foldl (· * ·) 1, s.dims.getD d 1)
/-- Coordinate of a module in a dimension (R332). -/
def coordOf (s : State) (m d : Nat) : Nat := m / (dimStep s d).1 % (dimStep s d).2
/-- The neighbour on this module's + side in a dimension (R332). -/
def ringNext (s : State) (d : Nat) : Nat :=
  let x := coordOf s s.partMod d
  s.partMod - x * (dimStep s d).1 + (x + 1) % (dimStep s d).2 * (dimStep s d).1
/-- The way by which a packet to a module leaves (R334): 2 d the + way of dimension d, 2 d + 1 the - way. -/
def outPort (s : State) (m : Nat) : Nat :=
  match (List.range 4).find? (fun d => decide (coordOf s m d ≠ coordOf s s.partMod d)) with
  | none => 0
  | some d =>
    let n := (dimStep s d).2
    let f := (coordOf s m d + n - coordOf s s.partMod d) % n
    if f ≤ n - f then 2 * d else 2 * d + 1

/-! ## Links (R349, R351) -/

/-- The header flit of a packet (R335): its fields at their places, 511:384 the tag. -/
def headerOf (p : Packet) : BitVec 512 :=
  p.tag ++ p.ia ++ p.dmod ++ p.smod ++ p.slot ++ p.pasid ++ p.rid ++ p.cls ++ p.type ++ p.nfl ++ p.grp ++ p.st ++ p.fk ++ p.len
    ++ p.aop ++ p.asz ++ p.ord ++ p.scope ++ p.circ ++ p.psn ++ p.gdim ++ p.gp ++ p.gpres ++ p.gcoord ++ p.pos ++ p.rsvd

/-- What a tag is taken over: header bits 383:0 and the payload (R349). -/
def aadOf (p : Packet) : List Byte := toBytes ((headerOf p).toNat % 2 ^ 384) 48 ++ p.payload

/-- The key of a packet's slot (R349, R350). -/
def keyOf (s : State) (slot : Nat) : BitVec 256 := ((s.cp.keys.find? (fun p => p.1 == slot)).map Prod.snd).getD 0

/-- The tag of a packet on a link, from the link nonce and the direction's counter (R349; their order is log entry 6's). -/
def tagOf (s : State) (nonce : BitVec 32) (ctr : Nat) (p : Packet) : BitVec 128 :=
  Config.gcmTag (keyOf s p.slot.toNat) (nonce ++ BitVec.ofNat 64 ctr) (aadOf p)

/-- A link comes up (R351): each direction draws a fresh nonce, and its counter restarts at zero. -/
def linkUp (s : State) (port : Nat) : State :=
  { s with
    draws := s.draws + 2
    svc := { s.svc with
      nonces := sput s.svc.nonces port (BitVec.ofNat 32 (Config.freeWord s.draws).toNat)
      ctrs := serase s.svc.ctrs port
      rxNonces := sput s.svc.rxNonces port (BitVec.ofNat 32 (Config.freeWord (s.draws + 1)).toNat)
      rxCtrs := serase s.svc.rxCtrs port } }

/-- A packet leaves by a port with its tag (R349); a counter that is about to wrap brings the link up first (R351). -/
def onWire (s : State) (port : Nat) (p : Packet) : State :=
  let s := if sget 0 s.svc.ctrs port + 1 < 2 ^ 64 then s else linkUp s port
  let n := sget 0 s.svc.ctrs port
  { s with
    wire := s.wire ++ [(port, { p with tag := tagOf s (sget 0 s.svc.nonces port) n p })]
    svc := { s.svc with ctrs := sput s.svc.ctrs port (n + 1) } }

/-! ## Die routers (R333, R334, R338, R343) -/

/-- The endpoint of die `x` that leads to die `y` (R333). -/
def linkEnd (x y : Nat) : Nat := 3 + ((List.range 4).filter (· != x)).idxOf y
/-- The die that endpoint `e` of die `x` leads to. -/
def linkDie (x e : Nat) : Nat := ((List.range 4).filter (· != x)).getD (e - 3) 0

/-- The output endpoint of a packet at a die router (R334): the die of the first dimension in which it has to travel, from the
source die by way of D0; there the + or - port group; 0 where it has arrived. -/
def outEnd (s : State) (h : Hop) : Nat :=
  match (List.range 4).find? (fun d => decide (coordOf s h.pkt.dmod.toNat d ≠ coordOf s s.partMod d)) with
  | none => 0
  | some d =>
    if h.inp = 0 ∧ h.die ≠ 0 then linkEnd h.die 0
    else if h.die ≠ d then linkEnd h.die d
    else 1 + outPort s h.pkt.dmod.toNat % 2

/-- Connections in force at a die router in a slot (R342). -/
def conns (s : State) (die slot : Nat) : List Nat :=
  let e := (sget 0 s.chip.belfry (256 * die + slot % 256)).toNat
  ((List.range 4).map (fun n => bits e (32 * n) 32)).filter (fun c => bit c 31)

/-- Packets in one input buffer (R338). -/
def bufLen (s : State) (die inp cls : Nat) : Nat := s.hops.countP (fun h => decide (h.die = die ∧ h.inp = inp ∧ h.pkt.cls.toNat = cls))

/-- Ports of a direction that can carry a packet now: up, and not retraining (R375). -/
def livePorts (s : State) (dir : Nat) : List Nat :=
  ((List.range 16).map (fun p => 16 * dir + p)).filter (fun p => decide (sget 2 s.svc.lanes p ≠ 0) && decide (sget 0 s.svc.back p ≤ ptp s))

/-- A packet goes on by an output endpoint: over a link to another die, or out by one of the direction's ports. -/
def hopOut (s : State) (h : Hop) (e : Nat) : State :=
  let rest := { s with hops := s.hops.filter (fun g => g.id != h.id) }
  if e = 0 then loopBackPkt rest h.pkt
  else if 3 ≤ e then
    let y := linkDie h.die e
    { rest with hops := rest.hops ++ [{ h with die := y, inp := linkEnd y h.die, at0 := ptp s / 40 }] }
  else
    let dir := 2 * h.die + (e - 1)
    match livePorts s dir with
    | [] => s
    | l => let (n, t) := draw rest; onWire t (l.getD (Config.pick n % l.length) (16 * dir)) h.pkt

/-- The connection that carries a circuit packet on in the slot (R343). -/
def circOut (s : State) (h : Hop) : Option Nat :=
  ((conns s h.die (ptp s / 40)).find? (fun c => decide (bits c 28 3 = h.inp) && decide (bits c 0 16 = h.pkt.dmod.toNat)
    && (decide (bits c 25 3 ≠ 0) || decide (h.pkt.dmod.toNat = s.partMod)))).map (fun c => bits c 25 3)

/-- Whether the buffer that a bubble-routed packet enters has room (R338): for two packets where it enters a ring or changes
dimension, for one where it goes on along its ring. How full a peer's buffer is, is not this module's to know: a free value (log entry 59). -/
def hopRoom (s : State) (h : Hop) (e : Nat) : Bool :=
  let on := decide (h.inp = 1 ∧ e = 2 ∨ h.inp = 2 ∧ e = 1)
  let room := if 3 ≤ e then 4 - bufLen s (linkDie h.die e) (linkEnd (linkDie h.die e) h.die) h.pkt.cls.toNat else Config.pick s.draws % 5
  decide (e = 0) || decide ((if on then 1 else 2) ≤ room)

/-- A die router forwards packet `id` (R338, R343), the first of its buffer: a circuit packet in the slot two after that of the
hop before, or it leaves its circuit; any other where the output is not reserved in this slot and the next buffer has room. -/
def routeHop (s : State) (id : Nat) : State :=
  match s.hops.find? (fun h => h.id == id) with
  | none => s
  | some h =>
    let ahead := fun (g : Hop) => decide (g.id ≠ h.id ∧ g.die = h.die ∧ g.inp = h.inp ∧ g.pkt.cls = h.pkt.cls ∧ g.pkt.circ = h.pkt.circ)
    let slot := ptp s / 40
    if (s.hops.takeWhile (fun g => g.id != id)).any ahead then s
    else if h.pkt.circ = 1 then
      if slot < h.at0 + 2 then s
      else match (if slot = h.at0 + 2 then circOut s h else none) with
        | some e => hopOut s h e
        | none => { s with hops := s.hops.map (fun g => if g.id = id then { g with pkt := { g.pkt with circ := 0 } } else g) }
    else
      let e := outEnd s h
      if (conns s h.die slot).any (fun c => bits c 25 3 == e) || !hopRoom s h e then { s with draws := s.draws + 1 }
      else hopOut { s with draws := s.draws + 1 } h e

/-- A packet enters a die router by an endpoint (R334, R338); one that takes a circuit goes on in its slot at once. -/
def enterHop (s : State) (die inp at0 : Nat) (p : Packet) : State :=
  let t := { s with sent := s.sent ++ [p], inj := s.inj + 1, hops := s.hops ++ [⟨s.inj, die, inp, p, at0⟩] }
  if p.circ = 1 ∧ inp = 0 then routeHop t s.inj else t

/-- A packet that an agent of a die sends (R334, R335). -/
def sendFrom (s : State) (die : Nat) (p : Packet) : State :=
  if p.dmod.toNat = s.partMod then loopBackPkt s p else enterHop s die 0 (ptp s / 40 - 2) p

/-- A packet that belongs to no agent's die is sent from die D0 (log entry 53). -/
def sendPkt (s : State) (p : Packet) : State := sendFrom s 0 p

/-- The die of a request's agent. -/
def reqDie (w : Reqr) : Nat :=
  match w with
  | .chunk e _ _ _ | .mcred e _ _ _ => Eng.cl e / 8
  | .acc m _ _ | .word m | .watch m _ _ | .arm m => m.toNat / 8
  | .mxA k _ => k.toNat / 64
  | .armAns _ | .granule _ _ | .cp _ _ | .trace | .gone => 0

/-- A request identifier that no outstanding request holds. -/
def freshRid (s : State) : Nat :=
  (((List.range (s.outst.length + 1)).map (fun j => (s.rid + j) % 65536)).find? (fun r => !s.outst.any (fun p => p.1 == r))).getD s.rid

/-- A request is made and kept outstanding; with no key of its job it is not injected (R341, R350). -/
def request (s : State) (p : Packet) (who : Reqr) : Nat × State :=
  let r := freshRid s
  let p := { p with rid := BitVec.ofNat 16 r }
  let ok := keyOk s p.slot.toNat
  let s1 := { s with rid := (r + 1) % 65536, inj := s.inj + 1, outst := sput s.outst r ⟨p, who, ptp s, false, s.chip.slot, s.inj, ok⟩ }
  (r, if ok then sendFrom s1 (reqDie who) p else s1)

/-- A read request of `n` bytes (R336). -/
def rdPkt (s : State) (m lia n : Nat) : Packet :=
  { pkt0 s 0 0x01 with ia := BitVec.ofNat 48 lia, dmod := BitVec.ofNat 16 m, len := BitVec.ofNat 9 (n - 1) }

/-- The payload sector mask of bytes with poison (R335). -/
def psnMask (img : List (Byte × Bool)) : BitVec 16 :=
  (img.mapIdx (fun j b => (j, b.2))).foldl (fun x p => if p.2 then x ||| BitVec.ofNat 16 (2 ^ (p.1 / 32)) else x) 0

/-- Payload bytes filled to whole flits (R335). -/
def padFlits (l : List Byte) : List Byte := l ++ List.replicate ((64 - l.length % 64) % 64) 0

/-- A write request (R336). -/
def wrPkt (s : State) (m lia : Nat) (img : List (Byte × Bool)) : Packet :=
  { pkt0 s 0 0x02 with
    ia := BitVec.ofNat 48 lia
    dmod := BitVec.ofNat 16 m
    nfl := BitVec.ofNat 4 ((img.length + 63) / 64)
    len := BitVec.ofNat 9 (img.length - 1)
    psn := psnMask img
    payload := padFlits (img.map Prod.fst) }

/-- Whether the current slot carries a circuit from a cluster to a module (R342, R343). -/
def onCircuit (s : State) (cl dmod : Nat) : Bool :=
  (conns s (cl / 8) (ptp s / 40)).any (fun c => decide (bits c 28 3 = 0) && (decide (bits c 20 5 = cl) && decide (bits c 0 16 = dmod)))

/-- A write request of a cluster's UCE queue or CCE takes a circuit where one stands (R343). -/
def takeCircuit (s : State) (cl : Nat) (p : Packet) : Packet :=
  if onCircuit s cl p.dmod.toNat then { p with circ := 1 } else p

end Sys2Proof.Machine
end

