-- ==== Sys2Proof/Machine/Cache.lean ====
section
/-! DEFINITION. The remote page cache: fills, eviction, host snoops and maintenance (spec 02 R33 to R39, 06 R112). -/

namespace Sys2Proof.Machine

/-- Sets of the cache (R33): eight ways of 130,048 granules a GiB. -/
def rpcSets (s : State) : Nat := (s.cp.rpcGib.map (fun p => p.2)).foldl (· + ·) 0 * 130048 / 8

/-- PASID of the job that holds a slot (R27). -/
def slotPasid (s : State) (slot : Nat) : Nat :=
  if slot = s.chip.slot then s.chip.pasid else ((s.cp.jobs.find? (fun p => p.1 == slot)).map (fun p => p.2.pasid)).getD 0

/-- A packet of the job that holds a slot. -/
def slotPkt (s : State) (slot : Nat) (p : Packet) : Packet :=
  { p with slot := BitVec.ofNat 10 slot, pasid := BitVec.ofNat 20 (slotPasid s slot) }

/-- Where the page of a granule lies (R31). -/
def grTarget (s : State) (g : Granule) (k : AKind) : Res := egressAt s g.slot (slotPasid s g.slot) (g.page * 8192) k

/-- The access under way waits on a granule. -/
def grWait (s : State) (g : Granule) : Granule :=
  { g with waits := g.waits ++ (s.asker.toList.filter (fun w => !g.waits.contains w)) }

/-- A failed fill's fault is due to the accesses that wait on the granule (R34, R38, R112). -/
def failTo (s : State) (slot page kind : Nat) (l : List Reqr) : State :=
  { s with rpcFail := s.rpcFail ++ l.map (fun w => (slot, w, page, kind)) }

/-- An access takes the fault of a failed fill: whatever it tries next misses anew (R112). -/
def failTaken (s : State) (w : Reqr) : State :=
  { s with rpcFail := s.rpcFail.filter (fun f => !(f.1 == s.chip.slot && f.2.1 == w)) }

/-- An access under way: misses of it wait in its name. -/
def asking (s : State) (w : Reqr) (f : State → State) : State := { f { s with asker := some w } with asker := none }

/-- Bytes of a granule that have come, lines made present (R34, R38). -/
def rpcInstall (s : State) (j off : Nat) (img : List (Byte × Bool)) : State :=
  let g := getGr s j
  setGr { s with hbm := writeImg s.hbm (g.frame + off) img } j { g with lvalid := g.lvalid ||| lineMask off img.length }

/-- Lines of host memory are read by CXL.cache and made present (R32, R34). -/
def rpcHostRead (s : State) (j a off n : Nat) : State :=
  let g := getGr s j
  rpcInstall (setGr (cxlNote s true 0 (slotPasid s g.slot) (a + off) n []) j { g with host := true, hostAt := a }) j off
    (rdImg s.host (a + off) n)

/-- A line of a resident granule that a snoop invalidated is fetched again, alone (R34). -/
def rpcRefetch (s : State) (j : Nat) (g : Granule) (off : Nat) : State :=
  match (List.range 128).find? (fun i => decide (off / 64 ≤ i) && !bit g.lvalid.toNat i) with
  | none => s
  | some i =>
    match grTarget s g .rd with
    | .ok (.host a) => rpcHostRead s j a (64 * i) 64
    | .fault f => failTo s g.slot g.page f s.asker.toList
    | _ => s

/-- A granule of a page whose fill begins, with the offset first asked for (R34). -/
def newFill (s : State) (j slot page ask : Nat) (waits : List Reqr) : Granule :=
  { state := 1, slot := slot, page := page, frame := rpcFrame s j, ask := ask, waits := waits }

/-- A miss of an access (R34): the granule's line is fetched again, or it waits for the fill under way; a free way is
allocated, or a resident way is taken and evicts; where every way fills or evicts, it waits. -/
def rpcMiss (s : State) (page ia : Nat) : State :=
  let slot := s.chip.slot
  match rpcFind s slot page [1, 2, 3] with
  | some (j, g) => if g.state = 2 then rpcRefetch s j g (ia % 8192) else if g.state = 1 then setGr s j (grWait s g) else s
  | none =>
    match s.rpc.find? (fun p => p.2.state == 3 && p.2.next == some (slot, page)) with
    | some (j, g) => setGr s j (grWait s g)
    | none =>
      if rpcSets s = 0 then s
      else
        let set := Config.rpcSet slot page % rpcSets s
        let ways := (List.range 8).map (fun w => 8 * set + w)
        match ways.find? (fun j => (getGr s j).state == 0) with
        | some j => setGr s j (newFill s j slot page (ia % 8192) s.asker.toList)
        | none =>
          match ways.filter (fun j => (getGr s j).state == 2) with
          | [] => s
          | l =>
            let (n, s1) := draw s
            let j := l.getD (Config.pick n % l.length) 0
            setGr s1 j { getGr s1 j with state := 3, next := some (slot, page), ask := ia % 8192, waits := s.asker.toList }

/-- A way is free: the page for which it was taken begins its fill (R34). -/
def wayFree (s : State) (j : Nat) : State :=
  let g := getGr s j
  setGr s j (match g.state, g.next with
    | 3, some (slot, page) => newFill s j slot page g.ask g.waits
    | _, _ => {})

/-- A fill fails: nothing is installed, what its other packets bring is dropped, the way is freed, and every access that
waits takes the fault (R34, R112). -/
def rpcFailFill (s : State) (j kind : Nat) : State :=
  let g := getGr s j
  let s1 := { s with outst := s.outst.map (fun o => match o.2.who with
    | .granule i off => if i = j ∧ off < 8192 then (o.1, { o.2 with who := .gone }) else o
    | _ => o) }
  failTo (setGr s1 j {}) g.slot g.page kind g.waits

/-- The dirty lines of a granule as runs of adjacent lines of at most 512 bytes: first line, count. -/
def dirtyRuns (d : BitVec 128) : List (Nat × Nat) :=
  (cutRun' ((List.range 128).filter (fun i => bit d.toNat i))).map (fun p => (p.1, p.2))
where
  /-- Adjacent line numbers, eight at most to a run. -/
  cutRun' : List Nat → List (Nat × Nat)
    | [] => []
    | i :: r => match cutRun' r with
      | (b, m) :: t => if i + 1 = b ∧ m < 8 then (i, m + 1) :: t else (i, 1) :: (b, m) :: t
      | [] => [(i, 1)]

/-- A write-back is lost (R35). R35 does not say what one lost write-back is: each run of at most eight lines counts once,
which is one packet toward a peer (log entry 48). One count serves the module (log entry 49). -/
def countLost (s : State) (n : Nat) : State :=
  if n = 0 then s else { s with wbLoss := true, wbCount := min (2 ^ 32 - 1) (s.wbCount + n) }

/-- Write-back of a granule's dirty lines (R35): the granule is clean, its packets outstanding; lines with no target are
lost. -/
def rpcWriteBackOne (s : State) (j : Nat) : State :=
  let g := getGr s j
  if g.dirty = 0 then s
  else
    let clean := { g with dirty := 0 }
    let bytes := fun (r : Nat × Nat) => rdImg s.hbm (g.frame + 64 * r.1) (64 * r.2)
    match grTarget s g .wr with
    | .ok (.host a) =>
      (dirtyRuns g.dirty).foldl (fun t r =>
        cxlNote { t with host := writeImg t.host (a + 64 * r.1) (bytes r) } true 1 (slotPasid s g.slot) (a + 64 * r.1) (64 * r.2) (bytes r))
        (setGr s j clean)
    | .peer m l =>
      (dirtyRuns g.dirty).foldl (fun t r =>
        let p := slotPkt t g.slot (wrPkt t m (l + 64 * r.1) (bytes r))
        let (rid, t1) := request t p (.granule j 8192)
        setGr t1 j { getGr t1 j with rids := (getGr t1 j).rids ++ [rid] }) (setGr s j clean)
    | _ => setGr (countLost s (dirtyRuns g.dirty).length) j clean

/-- Granules of the job whose pages lie in the range of a Lantern core's operation: from its first page up to its end (R37). -/
def rpcRange (s : State) (m : Nat) : List Nat :=
  let l := (getCl s m).lan
  (s.rpc.filter (fun p => p.2.slot == s.chip.slot && decide (l.rpcLo ≤ p.2.page) && decide (p.2.page < l.rpcHi) && p.2.state != 0)).map Prod.fst

/-- A maintenance operation acts once no fill is in flight in its range (R37, R38): code 4 more says that it has acted. -/
def rpcPerform (s : State) (m : Nat) : State :=
  let op := (getCl s m).lan.rpcOp
  let js := rpcRange s m
  if op = 0 ∨ 4 ≤ op ∨ js.any (fun j => (getGr s j).state == 1 || (getGr s j).state == 3) then s
  else
    let s1 := if bit op 0 then js.foldl rpcWriteBackOne s else s
    let s2 := if bit op 1 then js.foldl (fun t j =>
        let g := getGr t j
        if g.rids.isEmpty then setGr t j {} else setGr t j { g with state := 3, dirty := 0 }) s1 else s1
    modLan s2 m (fun l => { l with rpcOp := op + 4 })

/-- A CSRW to rpc.op starts an operation over the range that rpc.lo and rpc.hi then hold (R37). -/
def rpcStart (s : State) (m op : Nat) : State :=
  if op = 0 then s
  else
    let c := (getCl s m).lan.core
    rpcPerform (modLan s m (fun l => { l with
      rpcOp := op, rpcLo := bits (rdCsr c 0x130).toNat 13 33, rpcHi := bits (rdCsr c 0x131).toNat 13 33 })) m

/-- Start an operation of a kind, or go on with it. -/
def rpcEvent (s : State) (op : Nat) : State :=
  let m := s.arg.m.toNat
  let cur := (getCl s m).lan.rpcOp
  if cur = 0 then rpcStart s m op else if cur = op then rpcPerform s m else s

/-- RPC_WRITE_BACK (R37). -/
def execRpcWriteBack (s : State) : Out := .next (rpcEvent s 1)
/-- RPC_INVALIDATE (R37). -/
def execRpcInvalidate (s : State) : Out := .next (rpcEvent s 2)
/-- RPC_WRITE_BACK_INVALIDATE (R37). -/
def execRpcWriteBackInvalidate (s : State) : Out := .next (rpcEvent s 3)

/-- RPC_OP_DONE (R37): every write-back the operation caused has been performed, and busy clears. A fill is none. -/
def execRpcOpDone (s : State) : Out :=
  let m := s.arg.m.toNat
  let op := (getCl s m).lan.rpcOp
  if op < 4 ∨ (rpcRange s m).any (fun j => (getGr s j).state != 1 && !(getGr s j).rids.isEmpty) then .next s
  else .next (modLan s m (fun l => { l with rpcOp := 0 }))

/-- Chunk `i` of a fill, counted from the one first asked for (R34). -/
def fillChunk (g : Granule) (i : Nat) : Nat := (g.ask / 2048 + i) % 4

/-- RPC_FILL_COMPLETE (R34): the fill of granule j translates its page and fetches, the 2 KiB first asked for first, goes
on, is resident once all has come, or fails. -/
def execRpcFillComplete (s : State) : Out :=
  let j := s.arg.j
  let g := getGr s j
  if g.state ≠ 1 then .next s
  else if g.step = 4 then .next (if g.rids.isEmpty then setGr s j { g with state := 2, ask := 0, step := 0, waits := [] } else s)
  else match grTarget s g .rd with
    | .ok (.host a) =>
      let t := rpcHostRead s j a (2048 * fillChunk g g.step) 2048
      .next (setGr t j { getGr t j with step := g.step + 1 })
    | .peer m l =>
      .next ((List.range 16).foldl (fun t i =>
        let off := 2048 * fillChunk g (i / 4) + 512 * (i % 4)
        let (rid, t1) := request t (slotPkt t g.slot (rdPkt t m (l + off) 512)) (.granule j off)
        setGr t1 j { getGr t1 j with rids := (getGr t1 j).rids ++ [rid] }) (setGr s j { g with step := 4 }))
    | .fault f => .next (rpcFailFill s j f)
    | _ => .next s

/-- RPC_EVICTION (R35): dirty lines of granule j are written back, and the way is free once every write-back is answered. -/
def execRpcEviction (s : State) : Out :=
  let j := s.arg.j
  if (getGr s j).state ≠ 3 then .next s
  else
    let s1 := rpcWriteBackOne s j
    .next (if (getGr s1 j).rids.isEmpty then wayFree s1 j else s1)

/-- A snoop of the line at a host address meets one granule (R36, R38): a line that is present answers, its dirty bytes
reach the host, and an invalidating snoop clears its lvalid bit; a line that is not is answered as not present. -/
def snoopGr (s : State) (a : Nat) (inv : Bool) (j : Nat) : State :=
  let g := getGr s j
  let i := a % 8192 / 64
  let m := BitVec.ofNat 128 (2 ^ i)
  let img := if g.lvalid &&& m = 0 then [] else rdImg s.hbm (g.frame + 64 * i) 64
  let s1 := if img.isEmpty ∨ g.dirty &&& m = 0 then s else { s with host := writeImg s.host (a / 64 * 64) img }
  setGr (cxlNote s1 true 3 (slotPasid s g.slot) (a / 64 * 64) 64 img) j
    { g with dirty := g.dirty &&& ~~~ m, lvalid := if inv then g.lvalid &&& ~~~ m else g.lvalid }

/-- HOST_SNOOP (R36): a snoop of the line at host address arg.v, invalidating where arg.flag is set, meets every granule
that holds its page. -/
def execHostSnoop (s : State) : Out :=
  let a := s.arg.v.toNat
  .next (((s.rpc.filter (fun p => p.2.host && p.2.hostAt / 8192 == a / 8192)).map Prod.fst).foldl (fun t j => snoopGr t a s.arg.flag j) s)

end Sys2Proof.Machine
end

