-- ==== Sys2Proof/Machine/Operands.lean ====
section
/-! DEFINITION. Operand forms: value checks, spaced addresses, barrier registers, move descriptors, lanes and vector operands (spec 10 R167, R172; 14 R246, R249, R250; 12 R204, R205; 09 R152). -/

namespace Sys2Proof.Machine

/-! ## Value checks -/

/-- What the value checks of an instruction find (R158): ILLEGAL, RANGE_MISS with its value, POISON with its value. -/
structure Chk where
  ill : Bool := false
  miss : Option Nat := none
  psn : Option Nat := none
deriving DecidableEq, Repr

/-- Whether nothing failed. -/
def Chk.ok (c : Chk) : Bool := !c.ill && c.miss.isNone && c.psn.isNone
/-- Both sets of findings; the first RANGE_MISS and the first POISON stand. -/
def Chk.and (a b : Chk) : Chk := ⟨a.ill || b.ill, a.miss <|> b.miss, a.psn <|> b.psn⟩
/-- ILLEGAL where the condition fails. -/
def needIll (ok : Bool) : Chk := { ill := !ok }
/-- RANGE_MISS where the condition fails. -/
def needRange (ok : Bool) (v : Nat) : Chk := { miss := if ok then none else some v }
/-- A check that is made only where none of its operands is poisoned (R158). -/
def Chk.unless (p : Bool) (c : Chk) : Chk := if p then {} else c
/-- POISON of a poisoned operand: class and register number (R312). -/
def psnOf (p : Bool) (cls reg : Nat) : Chk := { psn := if p then some (cls * 64 + reg) else none }
/-- POISON in a memory object whose address the named scalar register holds (R312). -/
def psnMem (p : Bool) (reg : Nat) : Chk := { psn := if p then some (256 + reg) else none }
/-- The cause, in the order of R158, with trap.val; case 9 marks a value check. -/
def Chk.cause (c : Chk) : Option (Nat × Nat) :=
  if c.ill then some (cIllegal, 9)
  else match c.miss with
    | some v => some (cRange, v)
    | none => c.psn.map (fun v => (cPoison, v))

/-! ## Addresses -/

/-- The full IA of a local IA of this module. -/
def fullIa (s : State) (lia : Nat) : Nat := s.partMod * 2 ^ 48 + lia

/-- A spaced register of a local space (R172): its offset, the local IA of the space and its size; none where a bit
outside its fields is set. -/
def spaceOf (cl sp reg : Nat) : Option (Nat × Nat × Nat) :=
  match sp with
  | 0 => if reg < 2 ^ 29 then some (reg % 2 ^ 26, unitBase (8 * cl + bits reg 26 3), unitSize) else none
  | 1 => some (reg, clBase cl, clSize)
  | _ => some (reg, dieBase (cl / 8), dieSize)

/-- The IA of a spaced address whose bytes from `lo` up to `hi` relative to it are to be touched (R22, R172, R246): an
error carries trap.val. An empty operand is not checked (R18). -/
def operand (s : State) (cl sp reg : Nat) (lo hi : Int) (kd : AKind) : Except Nat Nat :=
  if hi ≤ lo then .ok 0
  else if sp = 3 then
    let va : Int := reg + lo
    if va < 0 then .error (wrap va 64)
    else match translate s cl va.toNat (hi - lo).toNat kd with
      | some ia => .ok ((ia : Int) - lo).toNat
      | none => .error va.toNat
  else match spaceOf cl sp reg with
    | none => .error reg
    | some (o, base, size) =>
      if (o : Int) + lo < 0 ∨ (size : Int) < o + hi then .error (wrap (o + lo) 64)
      else .ok (fullIa s (base + o))

/-- A global operand whose first byte's VA is `va`, of an agent that R43 keeps from some of the memories. -/
def opReached (s : State) (cl : Nat) (mat : Bool) (va : Nat) (r : Except Nat Nat) : Except Nat Nat :=
  match r with
  | .ok ia => if reaches s cl mat ia then .ok ia else .error va
  | .error v => .error v

/-- The findings of an operand. -/
def opChk (r : Except Nat Nat) : Chk := match r with | .ok _ => {} | .error v => { miss := some v }
/-- The IA of an operand. -/
def opIa (r : Except Nat Nat) : Nat := match r with | .ok a => a | .error _ => 0

/-- A barrier address register (R246). -/
def barrierOp (s : State) (cl reg : Nat) : Except Nat Nat :=
  let sp := bits reg 62 2
  let j := bits reg 26 3
  let off := bits reg 0 26
  if 2 ≤ sp ∨ bits reg 29 33 ≠ 0 ∨ off % 16 ≠ 0 ∨ (sp = 1 ∧ j ≠ 0) then .error off
  else if sp = 0 then (if off + 16 ≤ unitSize then .ok (fullIa s (unitBase (8 * cl + j) + off)) else .error off)
  else if off + 16 ≤ clSize then .ok (fullIa s (clBase cl + off)) else .error off

/-! ## Move descriptors -/

/-- A move descriptor (R249): counts, strides and halos of dimensions 0 to 3; the stride of dimension 0 is the element. -/
structure Move where
  n : List Nat
  ss : List Int
  ds : List Int
  l : List Nat
  h : List Nat
  padv : Nat
  ixo : Nat
  ixw : Nat
  fs : Nat
  fd : Nat
  rm : Nat
  codec : Nat
  pm : Bool
  esz : Nat
  rank : Nat
  ixmax : Nat
deriving DecidableEq, Repr

/-- The fields of a descriptor's 512 bits (R249); dimension 0 has no stride of its own. -/
def moveOf (x : Nat) : Move where
  n := [bits x 384 16 + 1, bits x 400 16 + 1, bits x 416 16 + 1, bits x 432 16 + 1]
  ss := [0, sextN (bits x 288 32) 32, sextN (bits x 320 32) 32, sextN (bits x 352 32) 32]
  ds := [0, sextN (bits x 192 32) 32, sextN (bits x 224 32) 32, sextN (bits x 256 32) 32]
  l := [bits x 152 5, bits x 162 5, bits x 172 5, bits x 182 5]
  h := [bits x 157 5, bits x 167 5, bits x 177 5, bits x 187 5]
  padv := bits x 448 64
  ixo := bits x 126 26
  ixw := bits x 125 1
  fs := bits x 120 5
  fd := bits x 115 5
  rm := bits x 113 2
  codec := bits x 111 2
  pm := bit x 110
  esz := bits x 108 2
  rank := bits x 106 2 + 1
  ixmax := bits x 74 32

/-- Whether every listed number is zero. -/
def allZero (l : List Int) : Bool := l.all (· == 0)

/-- The descriptor checks of R250, for a C-slot opcode. The pitch of CP.GTH and CP.SCT stands in dimension 1 although their
rank is 1, and CP.GTH uses padv (R249, R253). -/
def moveOk (op : Nat) (x : Nat) : Bool :=
  let m := moveOf x
  let cs := m.n.map (fun (c : Nat) => (c : Int) - 1)
  let ls := m.l.map (fun (c : Nat) => (c : Int))
  let hs := m.h.map (fun (c : Nat) => (c : Int))
  let above := (List.range 4).all (fun d => decide (d < m.rank) ||
    allZero [cs.getD d 0, if op = 0x04 ∧ d = 1 then 0 else m.ss.getD d 0, if op = 0x05 ∧ d = 1 then 0 else m.ds.getD d 0,
      ls.getD d 0, hs.getD d 0])
  let noHalo := allZero (ls ++ hs)
  let noIx := decide (m.ixo = 0) && (decide (m.ixw = 0) && decide (m.ixmax = 0))
  let noCvt := decide (m.fs = 0) && (decide (m.fd = 0) && decide (m.rm = 0))
  let noCod := decide (m.codec = 0)
  let one := decide (m.rank = 1)
  decide (bits x 0 74 = 0) && above &&
  match op with
  | 0x02 => noIx && noCvt && noCod
  | 0x04 => noCvt && noCod && noHalo && one && allZero (m.ds ++ [m.ss.getD 2 0, m.ss.getD 3 0])
  | 0x05 => noCvt && noCod && noHalo && one && allZero (m.ss ++ [m.ds.getD 2 0, m.ds.getD 3 0, (m.padv : Int)])
  | 0x06 =>
    noIx && noCod && decide (m.esz = 0) && decide (m.fs ≤ 0x0B) && decide (m.fd ≤ 0x0B) &&
      ((decide (fmtW m.fs ≠ 4) && decide (fmtW m.fd ≠ 4)) ||
        (decide (m.l.getD 0 0 % 2 = 0) && decide (m.n.getD 0 0 % 2 = 0) && decide (m.h.getD 0 0 % 2 = 0)))
  | 0x07 => noIx && noCvt && noHalo && one && allZero (m.ss ++ m.ds ++ [(m.padv : Int), (m.esz : Int)]) && !m.pm
      && (decide (m.codec = 1) || decide (m.codec = 2))
  | 0x08 => noIx && noCvt && noHalo && one && allZero (m.ss ++ m.ds ++ [(m.padv : Int), (m.esz : Int)])
      && (decide (m.codec = 1) || decide (m.codec = 2))
  | _ => noIx && noCvt && noCod && noHalo && decide (m.rank = 2) && decide (m.padv = 0)

/-- Least and greatest of a dimension's contribution over `0 .. n - 1` with a signed stride. -/
def spanOf (n : Nat) (st : Int) : Int × Int :=
  let e := ((n : Int) - 1) * st
  (min 0 e, max 0 e)

/-- Bytes a strided walk of elements of `eb` bits touches, relative to its address: counts and strides by dimension,
dimension 0 by elements. Empty where a count is zero. -/
def hullOf (n : List Nat) (st : List Int) (eb : Nat) : Int × Int :=
  if n.any (· == 0) then (0, 0)
  else
    let sp := (List.range 3).map (fun d => spanOf (n.getD (d + 1) 1) (st.getD (d + 1) 0))
    let lo := sp.foldl (fun x p => x + p.1) 0
    let hi := sp.foldl (fun x p => x + p.2) 0
    (lo, hi + (((n.getD 0 1 * eb + 7) / 8 : Nat) : Int))

/-- Source and destination element widths in bits (R251). -/
def moveEb (op : Nat) (m : Move) : Nat × Nat :=
  if op = 0x06 then (fmtW m.fs, fmtW m.fd) else (8 * 2 ^ m.esz, 8 * 2 ^ m.esz)

/-- Source and destination hulls of a command, relative to its addresses (R246, R251 to R256): opcode, descriptor, length. -/
def moveHulls (op : Nat) (m : Move) (len : Nat) : (Int × Int) × (Int × Int) :=
  let (es, ed) := moveEb op m
  let n0 := m.n.getD 0 1
  match op with
  | 0x02 | 0x06 =>
    let wide := (List.range 4).map (fun d => m.l.getD d 0 + m.n.getD d 1 + m.h.getD d 0)
    (hullOf m.n m.ss es, hullOf wide m.ds ed)
  | 0x04 =>
    (hullOf [1, m.ixmax + 1] [0, m.ss.getD 1 0] es, hullOf [n0] [] ed)
  | 0x05 =>
    (hullOf [n0] [] es, hullOf [1, m.ixmax + 1] [0, m.ds.getD 1 0] ed)
  | 0x07 | 0x08 => ((0, ((2048 * n0 : Nat) : Int)), (0, ((2048 * n0 : Nat) : Int)))
  | 0x0A =>
    let n1 := m.n.getD 1 1
    (hullOf [n0, n1] [0, m.ss.getD 1 0] es, hullOf [n1, n0] [0, m.ds.getD 1 0] ed)
  | _ => ((0, (len : Int)), (0, (len : Int)))

/-! ## Lanes -/

/-- Lane width in bits of a type code (R167). -/
def tyWidth (ty : Nat) : Nat :=
  match ty with
  | 0 | 4 | 8 => 32
  | 1 | 5 | 9 | 10 => 16
  | _ => 8

/-- Whether a type is a signed integer type (R167). -/
def tySigned (ty : Nat) : Bool := decide (ty < 4)
/-- Whether a type is a float type (R167). -/
def tyFloat (ty : Nat) : Bool := decide (8 ≤ ty)
/-- Format code of a float type (R167). -/
def tyFmt (ty : Nat) : Nat := ty - 8

/-- Lanes of a vector of `w`-bit lanes (R152). -/
def lanes (w : Nat) (v : Vec) : List Nat :=
  (List.range (4096 / w)).map (fun i => (v.extractLsb' (w * i) w).toNat)

/-- The vector of a list of `w`-bit lanes, lane 0 lowest (R152). -/
def ofLanes (w : Nat) (l : List Nat) : Vec :=
  BitVec.ofNat 4096 (l.foldr (fun x acc => x % 2 ^ w + acc * 2 ^ w) 0)

/-- Mask bits of the lanes of width `w` (R152): mask bit i governs the lanes of 32-bit position i. -/
def maskBits (w : Nat) (m : BitVec 128) : List Bool :=
  (List.range (4096 / w)).map (fun i => m.getLsbD (i * w / 32))

/-- Bytes of a vector, lowest first (R152). -/
def vecBytes (v : Vec) : List Byte := (List.range 512).map (fun j => v.extractLsb' (8 * j) 8)
/-- A vector of bytes, lowest first. -/
def ofVecBytes (l : List Byte) : Vec := BitVec.ofNat 4096 (ofBytes l)

/-- A vector register. -/
def rdV (u : Unit) (n : Nat) : Vec := sget 0 u.v n
/-- A mask register; m0 reads all ones (R151). -/
def rdM (u : Unit) (n : Nat) : BitVec 128 := if n = 0 then BitVec.allOnes 128 else sget 0 u.m n

end Sys2Proof.Machine
end

