-- ==== Sys2Proof/Machine/Image.lean ====
section
/-! DEFINITION. Task images, region records and move blocks: their fields and the checks of a post (spec 15 R275, R277, R278; 16 R287 to R292; 03 R50, R51). -/

namespace Sys2Proof.Machine

/-! ## Tensor descriptors -/

/-- Base of a tensor descriptor (R49). -/
def tBase (d : Desc) : Nat := bits d.toNat 192 64
/-- Extent of dimension `k`, minus 1. -/
def tExt (d : Desc) (k : Nat) : Nat := bits d.toNat (112 + 20 * k) 20
/-- Stride of dimension `k` in elements; 1 in dimension 0. -/
def tStr (d : Desc) (k : Nat) : Nat := if k = 0 then 1 else bits d.toNat (28 * k) 28
/-- Space code. -/
def tSpace (d : Desc) : Nat := bits d.toNat 26 2
/-- Local unit index. -/
def tUnit (d : Desc) : Nat := bits d.toNat 23 3
/-- Rank. -/
def tRank (d : Desc) : Nat := bits d.toNat 21 2 + 1
/-- Element format code. -/
def tFmt (d : Desc) : Nat := bits d.toNat 16 5
/-- Alias group. -/
def tAlias (d : Desc) : Nat := bits d.toNat 8 6
/-- Rename enabled. -/
def tRen (d : Desc) : Bool := bit d.toNat 7
/-- Declared. -/
def tLive (d : Desc) : Bool := bit d.toNat 0

/-- elem(x) of R51. -/
def tElem (d : Desc) (x : List Nat) : Nat :=
  (List.range 4).foldl (fun a k => a + x.getD k 0 * tStr d k) 0

/-- The converted base of a tensor in a cluster (R51): a full IA. -/
def tBaseIa (s : State) (cl : Nat) (d : Desc) : Nat :=
  match tSpace d with
  | 0 => tBase d
  | 1 => fullIa s (unitBase (8 * cl + tUnit d) + tBase d)
  | 2 => fullIa s (clBase cl + tBase d)
  | _ => fullIa s (dieBase (cl / 8) + tBase d)

/-- Byte hull of the box `[lo, hi)` relative to the tensor's base (R51): first and one past last. -/
def tHull (d : Desc) (lo hi : List Nat) : Nat × Nat :=
  let b := fmtW (tFmt d)
  (b * tElem d lo / 8, (b * tElem d (hi.map (· - 1)) + b - 1) / 8 + 1)

/-- The hull of the whole tensor. -/
def tWhole (d : Desc) : Nat × Nat := tHull d [0, 0, 0, 0] ((List.range 4).map (fun k => tExt d k + 1))

/-- The validity of a tensor descriptor (R50). -/
def tValid (d : Desc) : Bool :=
  let x := d.toNat
  let b := fmtW (tFmt d)
  let hull := (tWhole d).2
  let size := match tSpace d with | 1 => unitSize | 2 => clSize | _ => dieSize
  decide (bits x 1 6 = 0) && (decide (bits x 14 2 ≠ 3) && ((fmtWidth (tFmt d)).isSome && decide (tFmt d ≠ 0x0C)))
    && (List.range 4).all (fun k => decide (k < tRank d) || (decide (tExt d k = 0) && (decide (k = 0) || decide (tStr d k = 0))))
    && (decide (b ≠ 4) || (List.range 3).all (fun k => decide (tStr d (k + 1) % 2 = 0)))
    && (!tRen d || decide (2 ≤ tSpace d))
    && (decide (tSpace d = 0) || (decide (tBase d < 2 ^ 26) && decide (tBase d + hull ≤ size)))

/-! ## Task images -/

/-- Field `k` of consumed tokens 0 to 2, and the produced token as `k = 3` (R277). -/
def imTok (x : Nat) (k : Nat) : Nat := bits x (448 - 64 * k) 64
/-- Work-identifier fields. -/
def imNf (x : Nat) : Nat := bits x 153 3
/-- Width of a field. -/
def imWidth (x : Nat) (f : Nat) : Nat := bits x (156 + 6 * f) 6 + 1
/-- Offset of a field (R287). -/
def imOff (x : Nat) (f : Nat) : Nat := (List.range f).foldl (fun a k => a + imWidth x k) 0
/-- Extent of a field (R287). -/
def imExt (x : Nat) (f : Nat) : Nat := bits (bits x 192 64) (imOff x f) (imWidth x f) + 1
/-- Code entry or move-block place. -/
def imEntry (x : Nat) : Nat := bits x 134 19
/-- Kind: 0 kernel, 1 move on a CCE, 2 move on the XE. -/
def imKind (x : Nat) : Nat := bits x 132 2
/-- Priority. -/
def imPrio (x : Nat) : Nat := bits x 130 2
/-- Affinity. -/
def imAff (x : Nat) : Nat := bits x 120 8
/-- Region count. -/
def imNreg (x : Nat) : Nat := bits x 116 4
/-- Offset of the region list. -/
def imRlist (x : Nat) : Nat := bits x 98 18 * 64

/-- Number of instances (R287). -/
def imCount (x : Nat) : Nat := (List.range (imNf x)).foldl (fun a f => a * imExt x f) 1
/-- Field values of instance `n` (R287). -/
def imFields (x n : Nat) : List Nat :=
  (List.range (imNf x)).map (fun f => n / (List.range f).foldl (fun a k => a * imExt x k) 1 % imExt x f)
/-- Work identifier of instance `n` (R287). -/
def imWid (x n : Nat) : Nat :=
  ((imFields x n).mapIdx (fun f v => v * 2 ^ imOff x f)).foldl (· + ·) 0

/-- Whether a handle is valid (R275): `en` is ignored. -/
def handleOk (s : State) (h : Nat) : Bool :=
  decide (bits h 18 29 = 0) && (if bit h 17 then decide (bits h 48 16 = 0) else decide (bits h 48 16 < s.partSize))
/-- Module, cluster and index of a handle, read on a module (R275). -/
def handleAt (m : Nat) (h : Nat) : Nat × Nat × Nat :=
  (if bit h 17 then m else bits h 48 16, bits h 12 5, bits h 0 12)

/-- Reason 1 of R278. -/
def imReason1 (x : Nat) : Bool :=
  let nf := imNf x
  let kern := decide (imKind x = 0)
  let sum := imOff x nf
  decide (bits x 128 2 = 0) && (decide (bits x 0 98 = 0) && (decide (imKind x ≠ 3) && decide (nf ≤ 6)))
    && (List.range 6).all (fun f => decide (f < nf) || decide (bits x (156 + 6 * f) 6 = 0))
    && (decide (sum ≤ 64) && decide (bits x 192 64 / 2 ^ sum = 0)) && decide (imNreg x ≤ 8)
    && (if kern then decide (imAff x ≠ 0) else decide (imAff x = 0) && !bit (imEntry x) 18)

/-! ## Region records -/

/-- Tensor identifier of a region record (R288). -/
def rgTid (r : Nat) : Nat := bits r 248 8
/-- Access: 1 R, 2 W, 3 RW. -/
def rgAcc (r : Nat) : Nat := bits r 246 2
/-- Address word asked for. -/
def rgAv (r : Nat) : Bool := bit r 245
/-- Offset of the address word. -/
def rgAof (r : Nat) : Nat := bits r 229 16 * 8
/-- Low bit of the fields of dimension `k`. -/
def rgBase (k : Nat) : Nat := 57 * k
/-- Origin of dimension `k`. -/
def rgLo (r k : Nat) : Nat := bits r (rgBase k + 37) 20
/-- Box length in dimension `k`. -/
def rgLen (r k : Nat) : Nat := bits r (rgBase k + 16) 21
/-- Field that moves the origin; 7 none. -/
def rgFld (r k : Nat) : Nat := bits r (rgBase k + 13) 3
/-- Step per unit of that field. -/
def rgStp (r k : Nat) : Nat := bits r (rgBase k) 13

/-- Origin of a region in an instance's box (R289). -/
def rgOrigin (r : Nat) (fields : List Nat) : List Nat :=
  (List.range 4).map (fun k => rgLo r k + if rgFld r k = 7 then 0 else rgStp r k * fields.getD (rgFld r k) 0)
/-- One past the box of an instance. -/
def rgEnd (r : Nat) (fields : List Nat) : List Nat :=
  (rgOrigin r fields).mapIdx (fun k lo => lo + rgLen r k)
/-- The bounding box of a region of an image (R289). -/
def rgBox (x r : Nat) : List Nat × List Nat :=
  (rgOrigin r [], rgEnd r ((List.range (imNf x)).map (fun f => imExt x f - 1)))
/-- Whether a region is empty (R53). -/
def rgEmpty (r : Nat) : Bool := (List.range 4).any (fun k => rgLen r k == 0)

/-- A tensor of a cluster's table. -/
def tensorOf (s : State) (cl t : Nat) : Desc := sget 0 (getCl s cl).tensors t

/-- The checks of one region record (R292). -/
def rgOk (s : State) (cl x r : Nat) : Bool :=
  let t := tensorOf s cl (rgTid r)
  let box := rgBox x r
  !bit r 228 && decide (rgAcc r ≠ 0) && tLive t
    && (List.range 4).all (fun k => decide (rgFld r k = 7) || (decide (rgFld r k ≠ 6) && decide (rgFld r k < imNf x)))
    && (List.range 4).all (fun k => decide (k < tRank t) ||
        (decide (rgLo r k = 0) && (decide (rgLen r k = 1) && (decide (rgFld r k = 7) && decide (rgStp r k = 0)))))
    && (rgEmpty r || (List.range 4).all (fun k => decide (box.2.getD k 0 ≤ tExt t k + 1)))
    && (!rgAv r || (decide (imKind x = 0) && decide (rgAof r + 8 ≤ unitSize)))

/-! ## Move blocks -/

/-- Descriptor of a move block (R291). -/
def mvDesc (b : Nat) : Nat := bits b 512 512
/-- Destination address. -/
def mvDst (b : Nat) : Nat := bits b 448 64
/-- Source address. -/
def mvSrc (b : Nat) : Nat := bits b 384 64
/-- Length of CP and CP.P. -/
def mvLen (b : Nat) : Nat := bits b 320 64
/-- Barrier register value. -/
def mvBar (b : Nat) : Nat := bits b 256 64
/-- Destination step per instance. -/
def mvDstep (b : Nat) : Int := sextN (bits b 224 32) 32
/-- Source step per instance. -/
def mvSstep (b : Nat) : Int := sextN (bits b 192 32) 32
/-- C-slot opcode. -/
def mvOp (b : Nat) : Nat := bits b 186 6

/-- Whether an opcode is a described move. -/
def opDescribed (op : Nat) : Bool := decide (2 ≤ op)

/-- One hull over every instance of a side (R291). -/
def mvHull (h : Int × Int) (step : Int) (n : Nat) : Int × Int :=
  if h.2 ≤ h.1 then h
  else
    let sp := spanOf n step
    (h.1 + sp.1, h.2 + sp.2)

/-- The two sides of a move block as operands (R291): destination and source IA of instance 0. -/
def mvSides (s : State) (cl x b : Nat) : Except Nat Nat × Except Nat Nat :=
  let m := moveOf (mvDesc b)
  let hs := moveHulls (mvOp b) m (mvLen b)
  let n := imCount x
  let d := mvHull hs.2 (mvDstep b) n
  let sr := mvHull hs.1 (mvSstep b) n
  (operand s cl (bits b 184 2) (mvDst b) d.1 d.2 .wr, operand s cl (bits b 182 2) (mvSrc b) sr.1 sr.2 .rd)

/-- The barrier of a move block. -/
def mvBarrier (s : State) (cl b : Nat) : Except Nat (Option Nat) :=
  if bit b 181 then (barrierOp s cl (mvBar b)).map some else .ok none

/-- The index list of a gather or scatter lies in the poster's unit scratchpad; a move task has none of its own, so its
list is read in the scratchpad of the destination's unit (log entry 7). -/
def ixUnit (cl : Nat) (b : Nat) : Nat := 8 * cl + bits (mvDst b) 26 3

/-- The checks of a move block (R292). -/
def mvOk (s : State) (cl x b : Nat) : Bool :=
  let op := mvOp b
  let kindOk := if imKind x = 1 then decide (op ≤ 2) || (decide (4 ≤ op) && decide (op ≤ 8)) else decide (op = 0x0A)
  let sides := mvSides s cl x b
  let al := decide (op ≠ 7 ∧ op ≠ 8) ||
    (decide (mvDst b % 2048 = 0) && (decide (mvSrc b % 2048 = 0) &&
      (decide (mvDstep b % 2048 = 0) && decide (mvSstep b % 2048 = 0))))
  kindOk && decide (bits b 0 181 = 0)
    && (if opDescribed op then moveOk op (mvDesc b) && decide (mvLen b = 0) else decide (mvDesc b = 0) && decide (mvLen b < 2 ^ 32))
    && al && (match sides.1 with | .ok _ => true | .error _ => false)
    && (match sides.2 with | .ok _ => true | .error _ => false)
    && (match mvBarrier s cl b with | .ok _ => true | .error _ => false)
    && (let m := moveOf (mvDesc b)
        decide (op ≠ 4 ∧ op ≠ 5) || decide (m.ixo + m.n.getD 0 1 * (2 + 2 * m.ixw) ≤ unitSize))

/-! ## The checks of a post -/

/-- The first reason of R278 that an image breaks at its target cluster; 0 for none. `lim` is the size of the scratchpad
that holds the region list and move block. -/
def postReason (s : State) (cl lim x : Nat) (regs : List Nat) (mv : Nat) : Nat :=
  if !imReason1 x then 1
  else if imRlist x + 32 * imNreg x > lim ∨ (imKind x ≠ 0 ∧ bits (imEntry x) 0 18 * 64 + 128 > lim) then 2
  else if !(regs.all (fun r => rgOk s cl x r)) || (imKind x != 0 && !mvOk s cl x mv) then 3
  else if (List.range 4).any (fun k => bit (imTok x k) 47 && !handleOk s (imTok x k)) then 4
  else 0

/-- The memory objects a post reads at offsets of one scratchpad: image, region records and move block, and whether a
sector of each is poisoned. -/
structure PostObj where
  img : Nat
  regs : List Nat
  mv : Nat
  psnImg : Bool
  psnRegs : Bool
  psnMv : Bool
deriving DecidableEq, Repr

/-- Read the image at `a` of the scratchpad at `base` with what it names (R277, R264). -/
def readPost (m : MemSt) (base lim a : Nat) : PostObj :=
  let x := rdMem m.cells (base + a) 64
  let n := if imReason1 x && decide (imRlist x + 32 * imNreg x ≤ lim) then imNreg x else 0
  let mvOn := imReason1 x && (decide (imKind x ≠ 0) && decide (bits (imEntry x) 0 18 * 64 + 128 ≤ lim))
  let mo := base + bits (imEntry x) 0 18 * 64
  { img := x
    regs := (List.range n).map (fun j => rdMem m.cells (base + imRlist x + 32 * j) 32)
    mv := if mvOn then rdMem m.cells mo 128 else 0
    psnImg := psnRange m (base + a) 64
    psnRegs := psnRange m (base + imRlist x) (32 * n)
    psnMv := if mvOn then psnRange m mo 128 else false }

/-- What `readPost` reads of the memory: local IAs and lengths. -/
def postReads (m : MemSt) (base lim a : Nat) : List (Nat × Nat) :=
  let x := rdMem m.cells (base + a) 64
  let n := if imReason1 x && decide (imRlist x + 32 * imNreg x ≤ lim) then imNreg x else 0
  let mvOn := imReason1 x && (decide (imKind x ≠ 0) && decide (bits (imEntry x) 0 18 * 64 + 128 ≤ lim))
  [(base + a, 64), (base + imRlist x, 32 * n)] ++ (if mvOn then [(base + bits (imEntry x) 0 18 * 64, 128)] else [])

/-- A captured post (R277, R291, R293). -/
def mkPost (s : State) (cl origin : Nat) (o : PostObj) : Post :=
  let sides := mvSides s cl o.img o.mv
  let mv := imKind o.img ≠ 0
  { img := BitVec.ofNat 512 o.img
    regs := o.regs.map (BitVec.ofNat 256)
    mv := BitVec.ofNat 1024 o.mv
    mdst := if mv then opIa sides.1 else 0
    msrc := if mv then opIa sides.2 else 0
    mbar := if mv then (match mvBarrier s cl o.mv with | .ok b => b | .error _ => none) else none
    origin := origin
    sat := [false, false, false]
    id := 0 }

/-- Non-empty regions of a post, which take window entries (R293). -/
def postRegs (p : Post) : List (Nat × Nat) :=
  (p.regs.mapIdx (fun j r => (j, r.toNat))).filter (fun q => !rgEmpty q.2)

end Sys2Proof.Machine
end

