-- ==== Sys2Proof/Machine/Resolve.lean ====
section
/-! DEFINITION. Reading and checking the operands of engine commands at hand-off (spec 14 R245 to R265, 13 R232 to R243, 03 R60, R61). -/

namespace Sys2Proof.Machine

/-- What a command reads at hand-off: the state with the fixed-path stores of its bundle (R245), its unit, and the value
and poison of a holder. -/
structure RIn where
  s : State
  k : Nat
  get : Nat → Nat × Bool

/-- Cluster of the unit. -/
def RIn.cl (r : RIn) : Nat := r.k / 8
/-- Value of a scalar register. -/
def RIn.val (r : RIn) (n : Reg) : Nat := (r.get (hS n.toNat)).1
/-- Poison of a scalar register. -/
def RIn.psn (r : RIn) (n : Reg) : Bool := (r.get (hS n.toNat)).2
/-- POISON of a scalar register operand. -/
def RIn.chk (r : RIn) (n : Reg) : Chk := psnOf (r.psn n) 0 n.toNat

/-- A command's findings and its resolved operands. -/
abbrev Rsv := Chk × Xfer
/-- A command's reading of its operands. -/
abbrev Resolver := RIn → Rsv

/-- An empty command of an opcode. -/
def xfer0 (op : Nat) : Xfer where
  op := op
  dst := 0
  src := 0
  len := 0
  desc := 0
  bar := none
  pm := false
  a := 0
  b := 0
  c := 0
  fn := 0
  data := []
  rd := 0
  post := 0
  ixk := 0

/-- The optional barrier of a copy: register 0 names none (R246). -/
def copyBar (r : RIn) (f : CF) : Chk × Option Nat :=
  if f.rc = 0 then ({}, none)
  else
    let b := barrierOp r.s r.cl (r.val f.rc)
    ((opChk b).unless (r.psn f.rc), match b with | .ok a => some a | .error _ => none)

/-- CP and CP.P (R248). -/
def resCopy (op : Nat) (f : CF) : Resolver := fun r =>
  let n := r.val f.rb
  let d := operand r.s r.cl f.dsp.toNat (r.val f.rd) 0 n .wr
  let a := operand r.s r.cl f.ssp.toNat (r.val f.ra) 0 n .rd
  let (cb, bar) := copyBar r f
  let big := decide (2 ^ 32 ≤ n)
  let pb := r.psn f.rb || big
  (((needIll (!big)).unless (r.psn f.rb)).and (((opChk d).unless (r.psn f.rd || pb)).and
      (((opChk a).unless (r.psn f.ra || pb)).and (cb.and ((r.chk f.rd).and ((r.chk f.ra).and ((r.chk f.rb).and (r.chk f.rc))))))),
    { xfer0 op with dst := opIa d, src := opIa a, len := n, bar := bar, pm := op == 1 })

/-- The described moves (R249 to R256). -/
def resMove (op : Nat) (f : CF) : Resolver := fun r =>
  let off := r.val f.rb
  let pb := r.psn f.rb
  let inS := decide (off % 64 = 0) && decide (off + 64 ≤ unitSize)
  let at0 := unitBase r.k + off
  let x := rdMem r.s.chip.mem.cells at0 64
  let pd := inS && psnRange r.s.chip.mem at0 64
  let skip := pb || !inS || pd
  let m := moveOf x
  let okD := moveOk op x
  let hs := moveHulls op m 0
  let d := operand r.s r.cl f.dsp.toNat (r.val f.rd) hs.2.1 hs.2.2 .wr
  let a := operand r.s r.cl f.ssp.toNat (r.val f.ra) hs.1.1 hs.1.2 .rd
  let al := decide (op = 7 ∨ op = 8)
  let (cb, bar) := copyBar r f
  let ix := decide (op = 4 ∨ op = 5)
  ((needRange inS off).unless pb |>.and (((needIll okD).unless skip).and
      (((needIll (!al || decide (r.val f.rd % 2048 = 0))).unless (skip || r.psn f.rd)).and
      (((needIll (!al || decide (r.val f.ra % 2048 = 0))).unless (skip || r.psn f.ra)).and
      (((opChk d).unless (skip || !okD || r.psn f.rd)).and (((opChk a).unless (skip || !okD || r.psn f.ra)).and
      (((needRange (!ix || decide (m.ixo + m.n.getD 0 1 * (2 + 2 * m.ixw) ≤ unitSize)) m.ixo).unless (skip || !okD)).and
      (cb.and ((r.chk f.rd).and ((r.chk f.ra).and ((r.chk f.rb).and ((r.chk f.rc).and
      ((psnMem pd f.rb.toNat).unless pb)))))))))))),
    { xfer0 op with dst := opIa d, src := opIa a, len := 0, desc := BitVec.ofNat 512 x, bar := bar, pm := m.pm, ixk := r.k })

/-- MCRED (R257, R346: its group's entry must be valid): the source IA is the local IA on every member. -/
def resMcred (f : CF) : Resolver := fun r =>
  let b := r.val f.rb
  let len := bits b 0 32
  let ok := decide (len % 64 = 0) && (decide (bits b 42 22 = 0) && bit (sget 0 r.s.chip.mcg (bits b 32 10)).toNat 127)
  let sk := r.psn f.rb || !ok
  let d := operand r.s r.cl f.dsp.toNat (r.val f.rd) 0 (2 * len : Nat) .wr
  let a := operand r.s r.cl 3 (r.val f.ra) 0 len .rd
  let (cb, bar) := copyBar r f
  (((needIll ok).unless (r.psn f.rb)).and (((opChk d).unless (sk || r.psn f.rd)).and (((opChk a).unless (sk || r.psn f.ra)).and
      (cb.and ((r.chk f.rd).and ((r.chk f.ra).and ((r.chk f.rb).and (r.chk f.rc))))))),
    { xfer0 0x0C with dst := opIa d, src := opIa a % 2 ^ 48, len := 2 * len, a := BitVec.ofNat 64 (bits b 32 10), bar := bar })

/-- Integer atomics (R258): rd is a source of CAS alone. -/
def resAmo (op : Nat) (f : CF) : Resolver := fun r =>
  let w : Nat := if bit f.rc.toNat 0 then 8 else 4
  let t := operand r.s r.cl f.ssp.toNat (r.val f.ra) 0 w .at
  let al := decide (r.val f.ra % w = 0)
  (((needIll al).unless (r.psn f.ra)).and (((opChk t).unless (r.psn f.ra)).and
      ((if op = 0x19 then r.chk f.rd else {}).and ((r.chk f.ra).and (r.chk f.rb)))),
    { xfer0 op with dst := opIa t, len := w, a := BitVec.ofNat 64 (r.val f.rb),
                    b := BitVec.ofNat 64 (if f.rd = 0 then 0 else r.val f.rd), fn := f.rc.toNat, rd := hS f.rd.toNat })

/-- Cell adds (R259). -/
def resFadd (op : Nat) (f : CF) : Resolver := fun r =>
  let t := operand r.s r.cl f.ssp.toNat (r.val f.ra) 0 16 .at
  let c := sextN (r.val f.rd) 64
  let okC := decide (-256 ≤ c) && decide (c ≤ 255)
  (((needIll okC).unless (r.psn f.rd)).and (((needIll (decide (r.val f.ra % 16 = 0))).unless (r.psn f.ra)).and
      (((opChk t).unless (r.psn f.ra)).and ((r.chk f.rd).and ((r.chk f.ra).and (r.chk f.rb))))),
    { xfer0 op with dst := opIa t, len := 16, a := BitVec.ofNat 64 (bits (r.val f.rb) 0 (if op = 0x1A then 32 else 16)),
                    c := c, fn := f.rc.toNat })

/-- SIG (R261). -/
def resSig (f : CF) : Resolver := fun r =>
  let a := r.val f.ra
  let b := r.val f.rb
  (((needIll (decide (a < 8))).unless (r.psn f.ra)).and (((needIll (decide (b < 128))).unless (r.psn f.rb)).and
      ((r.chk f.ra).and (r.chk f.rb))),
    { xfer0 0x20 with dst := 8 * r.cl + bits a 0 3, a := BitVec.ofNat 64 (bits b 0 5), b := BitVec.ofNat 64 (bits b 5 2 + 1), fn := f.rc.toNat })

/-- SWAIT (R261). -/
def resSwait (f : CF) : Resolver := fun r =>
  let b := r.val f.rb
  (((needIll (decide (b < 128))).unless (r.psn f.rb)).and (r.chk f.rb),
    { xfer0 0x21 with a := BitVec.ofNat 64 (bits b 0 5), b := BitVec.ofNat 64 (bits b 5 2 + 1), fn := f.rc.toNat })

/-- BPOST and BARRIVE (R261). -/
def resBar (op : Nat) (f : CF) : Resolver := fun r =>
  let b := barrierOp r.s r.cl (r.val f.ra)
  let e := r.val f.rb
  (((needIll (decide (e < 2 ^ 40))).unless (r.psn f.rb)).and (((opChk b).unless (r.psn f.ra)).and
      ((r.chk f.ra).and (r.chk f.rb))),
    { xfer0 op with dst := opIa b, a := BitVec.ofNat 64 e, fn := f.rc.toNat })

/-- BWAIT (R261). -/
def resBwait (f : CF) : Resolver := fun r =>
  let b := barrierOp r.s r.cl (r.val f.ra)
  let e := r.val f.rb
  (((needIll (decide (e < 2))).unless (r.psn f.rb)).and (((opChk b).unless (r.psn f.ra)).and
      ((r.chk f.ra).and (r.chk f.rb))),
    { xfer0 0x23 with dst := opIa b, a := BitVec.ofNat 64 e, fn := f.rc.toNat })

/-- SEMRD (R261). -/
def resSemrd (f : CF) : Resolver := fun r =>
  let b := r.val f.rb
  (((needIll (decide (b < 32))).unless (r.psn f.rb)).and (r.chk f.rb),
    { xfer0 0x25 with a := BitVec.ofNat 64 b, rd := hS f.rd.toNat })

/-- CPOST (R264): the post itself is captured when it is handed off. -/
def resCpost (f : CF) : Resolver := fun r =>
  let a := r.val f.ra
  let pa := r.psn f.ra
  let al := decide (a % 64 = 0)
  let inS := decide (a + 64 ≤ unitSize)
  let o := readPost r.s.chip.mem (unitBase r.k) unitSize a
  let skip := pa || !al || !inS
  let pm := !skip && (o.psnImg || o.psnRegs || o.psnMv)
  let reason := postReason r.s r.cl unitSize o.img o.regs o.mv
  (((needIll al).unless pa).and (((needRange inS a).unless pa).and
      (((needIll (decide (reason = 0 ∨ reason = 2))).unless (skip || pm)).and
      (((needRange (decide (reason ≠ 2)) a).unless (skip || pm)).and ((r.chk f.ra).and (psnMem pm f.ra.toNat))))),
    { xfer0 0x28 with src := a })

/-- LDR and LDR.V (R263). -/
def resLdr (op : Nat) (f : CF) : Resolver := fun r =>
  let n : Nat := if op = 0x30 then 8 else 512
  let a := operand r.s r.cl f.ssp.toNat (r.val f.ra) 0 n .rd
  (((opChk a).unless (r.psn f.ra)).and (r.chk f.ra),
    { xfer0 op with src := opIa a, len := n, rd := if op = 0x30 then hS f.rd.toNat else hV f.rd.toNat })

/-- STR (R263). -/
def resStr (f : CF) : Resolver := fun r =>
  let d := operand r.s r.cl f.dsp.toNat (r.val f.rd) 0 8 .wr
  (((opChk d).unless (r.psn f.rd)).and ((r.chk f.rd).and (r.chk f.ra)),
    { xfer0 0x32 with dst := opIa d, len := 8, data := toBytes (r.val f.ra) 8 })

/-- STR.V (R263). -/
def resStrV (f : CF) : Resolver := fun r =>
  let d := operand r.s r.cl f.dsp.toNat (r.val f.rd) 0 512 .wr
  let v := r.get (hV (f.rb.toNat % 32))
  (((opChk d).unless (r.psn f.rd)).and ((r.chk f.rd).and (psnOf v.2 1 (f.rb.toNat % 32))),
    { xfer0 0x33 with dst := opIa d, len := 512, data := toBytes v.1 512 })

/-! ## Matrix commands -/

/-- MMA.Q (R237, R243). -/
def resMmaQ (f : MF) : Resolver := fun r =>
  let k := r.val f.sk
  (((needIll (decide (1 ≤ k) && decide (k < 65536))).unless (r.psn f.sk)).and (r.chk f.sk),
    { xfer0 0x80 with a := BitVec.ofNat 64 k })

/-- MMA.V (R234, R235, R243): three registers, and a fourth that holds the scales; captured as bytes. -/
def resMmaV (f : MF) (scaled : Bool) : Resolver := fun r =>
  let n := f.sb.toNat
  let ns := (List.range (if scaled then 4 else 3)).map (fun j => n + j)
  let ps := ns.foldl (fun (c : Chk) j => c.and (psnOf (r.get (hV (j % 32))).2 1 (j % 32))) {}
  (ps, { xfer0 0x81 with data := ns.flatMap (fun j => toBytes (r.get (hV (j % 32))).1 512) })

/-- Scale bytes that follow each row of a remote A operand (R235). -/
def remoteScales (fa : Nat) : Nat :=
  if !fmtScaled fa then 0 else match mxClass fa with | some 0 => 32 | some 2 => 128 | _ => 64

/-- MMA.R (R237): the hull of the remote A tile; the stride is a 64-bit pattern. -/
def resMmaR (f : MF) (fa : Nat) : Resolver := fun r =>
  let b := r.val f.sb
  let k := r.val f.sk
  let n := 63 * k + 1536 + remoteScales fa
  let t := opReached r.s r.cl true b (if b + n ≤ 2 ^ 64 then operand r.s r.cl 3 b 0 n .rd else .error b)
  (((opChk t).unless (r.psn f.sb || r.psn f.sk)).and ((r.chk f.sb).and (r.chk f.sk)),
    { xfer0 0x82 with src := opIa t, a := BitVec.ofNat 64 k, len := n })

/-- Offset of the byte at position `p` of weight row `r`, or of scale row `r` (R61). -/
def bOffset (d : Nat) (scale : Bool) (r p : Nat) : Nat :=
  let base := if scale then bits d 19 17 else bits d 47 17
  let str := if scale then bits d 8 11 else bits d 36 11
  let o := base * 128 + r * str * 128 + p
  match bits d 6 2 with
  | 1 => Nat.xor o (r % 8 * 128)
  | 2 => Nat.xor o (r % 32 * 128)
  | _ => o

/-- Scale bytes per weight row of a B format; 0 where it carries none (R60, R240). -/
def bScales (fb : Nat) : Nat := if !fmtScaled fb then 0 else if mxClass fb = some 2 then 128 else 64

/-- The first fetched offset at or beyond 12 MiB: rows ascending, each weight row before its scale row (R312). Offsets of
one 128-byte piece fail together, so a row's pieces are looked at by their first bytes. -/
def bMiss (d fb : Nat) : Option Nat :=
  (List.range (bits d 0 6 + 1)).findSome? (fun r =>
    let row := fun (sc : Bool) (n : Nat) => ((List.range ((n + 127) / 128)).map (fun j => bOffset d sc r (128 * j))).find?
      (fun o => decide (clSize ≤ o))
    (row false 1536) <|> (if bScales fb = 0 then none else row true (bScales fb)))

/-- Length of a scale row in units of 128 bytes, which its stride is held to (R61): 2 for the two scale bytes a column of the
4-bit formats, 1 for the others. -/
def scaleUnits (fb : Nat) : Nat := if bScales fb = 128 then 2 else 1

/-- WLD (R61, R240, R243). -/
def resWld (f : MF) (fb : Nat) : Resolver := fun r =>
  let d := r.val f.sb
  let rows := bits d 0 6
  let ok := decide (bits d 6 2 ≠ 3) && (decide (rows = 0) || (decide (12 ≤ bits d 36 11) && decide (scaleUnits fb ≤ bits d 8 11 ∨ bScales fb = 0)))
  let miss := bMiss d fb
  (((needIll ok).unless (r.psn f.sb)).and ((({ miss := miss } : Chk).unless (r.psn f.sb)).and (r.chk f.sb)),
    { xfer0 0x84 with a := BitVec.ofNat 64 d })

/-- SWAP and ZERO read no operand. -/
def resNone (op : Nat) : Resolver := fun _ => ({}, xfer0 op)

/-- DRAIN (R242, R243): destination offset and row count; `z` for a compressed form. -/
def resDrain (op : Nat) (f : MF) (fd : Nat) (z : Bool) : Resolver := fun r =>
  let o := r.val f.sb
  let k := r.val f.sk
  let rows := bits k 0 6 + 1
  let n := 8 * fmtW fd * rows
  let okK := decide (k < 64)
  let pk := r.psn f.sk || !okK
  (((needIll okK).unless (r.psn f.sk)).and (((needRange (decide (o + n ≤ unitSize)) o).unless (pk || r.psn f.sb)).and
      (((needIll (!z || decide (o % 2048 = 0))).unless (r.psn f.sb)).and (((needIll (!z || decide (n % 2048 = 0))).unless pk).and
      ((r.chk f.sb).and (r.chk f.sk))))),
    { xfer0 op with dst := o, a := BitVec.ofNat 64 rows, len := n })

end Sys2Proof.Machine
end

