-- ==== Sys2Proof/Machine/Trace.lean ====
section
/-! DEFINITION. Trace records of a job (spec 17 R330, R331). -/

namespace Sys2Proof.Machine

/-- Agent field of a trace record (R330). -/
def traceAgent : Agent → Nat
  | .lantern m => 256 + m.toNat
  | .unit k => k.toNat

/-- Whether an agent is traced. -/
def traced (s : State) (g : Agent) : Bool :=
  decide (s.chip.trace.period ≠ 0) &&
  match g with
  | .lantern m => s.chip.trace.lans.getLsbD m.toNat
  | .unit k => s.chip.trace.units.getLsbD (k.toNat / 8)

/-- Where `n` bytes of the trace buffer at `off` lie, through the range registers of a cluster: a place here, a peer's, or a
failure with the state in which a page of the cache fills. -/
inductive TracePlace where
  | here (ia : Nat)
  | peer (m lia : Nat)
  | no (s : State)

/-- Where a piece of the buffer lies. One that crosses a page of a peer cannot be written. -/
def tracePlace (s : State) (cl off n : Nat) (kd : AKind) : TracePlace :=
  match translate s cl (s.chip.trace.buf.toNat + off) n kd with
  | none => .no s
  | some ia =>
    let rs := resolveAll s s.chip.slot s.chip.pasid ia n kd
    match faultOf rs, missOf rs with
    | none, none => if hasPeer rs then (match rs with | [(_, _, .peer m l)] => .peer m l | _ => .no s) else .here ia
    | none, some p => .no (rpcMiss s p ia)
    | _, _ => .no s

/-- Change the trace of the job. -/
def modTrace (s : State) (f : TraceCfg → TraceCfg) : State := modChip s (fun c => { c with trace := f c.trace })

/-- Count dropped records of an agent, saturating (R331). -/
def traceLost (s : State) (ag k : Nat) : State :=
  modTrace s (fun c => { c with lost := smod 0 c.lost ag (fun n => min (2 ^ 42 - 1) (n + k)) })

/-- Bytes of the buffer here. -/
def tracePut (s : State) (ia n v : Nat) : State :=
  writeIa s s.chip.slot s.chip.pasid ia ((toBytes v n).map (fun b => (b, false)))

/-- A write of the buffer to a peer. -/
def traceSend (s : State) (m l n v stage : Nat) : State :=
  modTrace (request s (wrPkt s m l ((toBytes v n).map (fun b => (b, false)))) .trace).2 (fun c => { c with stage := stage })

/-- The first record of the queue is written or, where `lost`, dropped; a loss record's count counts on. -/
def tracePop (s : State) (lost : Bool) : State :=
  match s.chip.trace.queue with
  | [] => s
  | (ag, _, x) :: r =>
    let t := modTrace s (fun c => { c with queue := r, stage := 0 })
    if lost then traceLost t ag (if bits x.toNat 76 4 = 2 then bits x.toNat 0 42 else 1) else t

/-- The count follows its record (R330). -/
def traceCount (s : State) (cl : Nat) : State :=
  let n := s.chip.trace.written + 1
  match tracePlace s cl 0 64 .rw with
  | .here ia => tracePop (tracePut s ia 8 n) false
  | .peer m l => traceSend s m l 8 n 3
  | .no t => tracePop t true

/-- The first record of the queue, once the header is known (R330): it goes where the buffer has room. -/
def traceHave (s : State) (cl : Nat) (r : BitVec 128) (h : Nat) : State :=
  let n := bits h 0 64
  let cap := bits h 128 64
  if n - bits h 64 64 ≥ cap then tracePop s true
  else
    let s1 := modTrace s (fun c => { c with written := n })
    match tracePlace s1 cl (64 + 16 * (n % cap)) 16 .wr with
    | .here ia => traceCount (tracePut s1 ia 16 r.toNat) cl
    | .peer m l => traceSend s1 m l 16 r.toNat 2
    | .no t => tracePop t true

/-- Records of the queue go out while nothing has to be waited for. -/
def traceGo : Nat → State → State
  | 0, s => s
  | n + 1, s =>
    if frozen s || s.chip.trace.stage ≠ 0 then s
    else match s.chip.trace.queue with
      | [] => s
      | (_, cl, r) :: _ =>
        match tracePlace s cl 0 64 .rw with
        | .here ia => traceGo n (traceHave s cl r (ofBytes ((readIa s s.chip.slot s.chip.pasid ia 64).1.map Prod.fst)))
        | .peer m l => modTrace (request s (rdPkt s m l 64) .trace).2 (fun c => { c with stage := 1 })
        | .no t => traceGo n (tracePop t true)

/-- A request of the trace is answered: with the header, or that its bytes are written; a failed one loses its record. -/
def traceAnswer (s : State) (ok : Bool) (h : Nat) : State :=
  match s.chip.trace.queue with
  | [] => s
  | (_, cl, r) :: _ =>
    let t := if !ok then tracePop s true
      else match s.chip.trace.stage with
        | 1 => traceHave (modTrace s (fun c => { c with stage := 0 })) cl r h
        | 2 => traceCount (modTrace s (fun c => { c with stage := 0 })) cl
        | _ => tracePop s false
    traceGo 65 t

/-- A record is taken: its path holds 64 records at most, and drops what comes then (R331, log entry 55). -/
def traceAdd (s : State) (ag cl : Nat) (r : Nat) : Option State :=
  if 64 ≤ s.chip.trace.queue.length then none
  else some (traceGo 65 (modTrace s (fun c => { c with queue := c.queue ++ [(ag, cl, BitVec.ofNat 128 r)] })))

/-- The 128 bits of a record (R330). -/
def traceBits (s : State) (g : Agent) (ty a b : Nat) : Nat :=
  bits (ptp s) 0 48 * 2 ^ 80 + ty * 2 ^ 76 + traceAgent g * 2 ^ 67 + bits a 0 21 * 2 ^ 21 + bits b 0 21

/-- A record of an agent: a loss record first where earlier ones were dropped (R331). -/
def traceRec (s : State) (g : Agent) (ty a b : Nat) : State :=
  if !traced s g then s
  else
    let ag := traceAgent g
    let n := sget 0 s.chip.trace.lost ag
    let t := if n = 0 then s
      else (traceAdd (modTrace s (fun c => { c with lost := serase c.lost ag })) ag g.cl (traceBits s g 2 (n / 2 ^ 21) n)).getD s
    if sget 0 t.chip.trace.lost ag ≠ 0 then traceLost t ag 1
    else (traceAdd t ag g.cl (traceBits t g ty a b)).getD (traceLost t ag 1)

end Sys2Proof.Machine
end

