-- ==== Sys2Proof/Machine/Flags.lean ====
section
/-! DEFINITION. Results on their way to their holders: taint and poison of a result, fp.flags, and the landing of results in flight (spec 04 R71, R73; 06 R110; 07 R128; 09 R147, R149). -/

namespace Sys2Proof.Machine

/-- The conversion flags raised in a clk join fp.flags at its end, after any CSRW of that clk (R128). -/
def joinFlags (u : Unit) : Unit :=
  if u.fpNew = 0 then u
  else { u with core := wrCsr u.core 0x10 (rdCsr u.core 0x10 ||| BitVec.zeroExtend 64 u.fpNew), fpNew := 0 }

/-- A tile slice write lands (R226): enabled elements take their lane, disabled ones zero where mz asks for it; the rows
touched become poisoned where the value is (R45). -/
def landSlice (u : Unit) (fl : Flight) : Unit :=
  let t := fl.reg % 16
  let tl := sget {} u.tiles t
  let place := fun (e : Nat) => if fl.rc then 64 * e + fl.idx else 64 * fl.idx + e
  let on := fun (e : Nat) => fl.emask.getLsbD e
  let el := (List.range 64).foldl (fun x e =>
    if on e then sset 0 x (place e) (fl.val.extractLsb' (32 * e) 32) else if fl.mz then sset 0 x (place e) 0 else x) tl.el
  let rows : BitVec 64 := (List.range 64).foldl (fun x e =>
    if on e || fl.mz then x ||| BitVec.ofNat 64 (2 ^ (place e / 64)) else x) 0
  { u with tiles := sset {} u.tiles t { tl with el := el, poison := if fl.poison then tl.poison ||| rows else tl.poison } }

/-- One result in flight lands (R73, R149). -/
def landOne (u : Unit) (fl : Flight) : Unit :=
  let (ts, s1) := landTags u.core fl.tags
  let sat := s1 || (fl.sat && ts != 0)
  let c := if s1 then bumpSat u.core 0x91 1 else u.core
  let u := { u with fpNew := u.fpNew ||| fl.flags }
  let h := match fl.cls with | 0 => hS fl.reg | 1 => hV fl.reg | 2 => hM fl.reg | _ => fl.reg
  let md := setMeta c h ⟨ts, sat, fl.poison⟩
  match fl.cls with
  | 0 => { u with core := wrS md fl.reg (fl.val.setWidth 64) }
  | 1 => { u with core := md, v := sset 0 u.v fl.reg fl.val }
  | 2 => { u with core := md, m := if fl.reg = 0 then u.m else sset 0 u.m fl.reg (fl.val.setWidth 128) }
  | 3 => landSlice { u with core := c } fl
  | 4 => { u with core := giveTaint c h ts sat }
  | _ => u

/-- Every result that is due lands, earlier bundles first, so that the later-issued one remains (R147, R149). -/
def landDue (u : Unit) : Unit :=
  let due := u.flight.filter (fun f => decide (f.r ≤ 1))
  due.foldl landOne { u with flight := u.flight.filter (fun f => !decide (f.r ≤ 1)) }

/-- A bundle issues: every result in flight is one bundle nearer (R147). -/
def ageFlights (u : Unit) : Unit :=
  { u with flight := u.flight.map (fun f => { f with r := f.r - 1 }) }

/-- The result of an instruction for a holder (R71, R110, R147): in a unit it goes into flight with the tags it carries;
on a Lantern core it is written at once. `hs` are the holders read; a popped queue entry adds its poison by `psn`. -/
def putResult (s : State) (g : Agent) (c : Core) (h lat : Nat) (val : Vec) (hs : List Nat) (psn : Bool) (fl : Flags) : State :=
  let x := metaOf c hs
  match g with
  | .lantern m =>
    modLan s m.toNat (fun l =>
      let l := { l with core := setMeta l.core h ⟨x.taint, x.sat, x.poison || psn⟩ }
      if h < 64 then { l with core := wrS l.core h (val.setWidth 64) } else { l with d := sset 0 l.d (h - 128) (val.setWidth 256) })
  | .unit k =>
    if !holds h && fl == 0 then s
    else modUnit s k.toNat (fun u => { u with flight := u.flight ++ [{
      cls := if !holds h then 5 else if h < 64 then 0 else if h < 96 then 1 else 2
      reg := if h < 64 then h else if h < 96 then h - 64 else h - 96
      val := val, r := lat, tags := tagsOf c x.taint, sat := x.sat, poison := x.poison || psn
      order := u.bundle, emask := 0, mz := false, idx := 0, rc := false, flags := fl }] })

end Sys2Proof.Machine
end

