-- ==== Sys2Proof/Machine/Run.lean ====
section
/-! DEFINITION. How an instruction of a slot or a Lantern word runs: what it may see and ask for, the causes that hold it, its traps, and its issue (spec 09 R145 to R159, 04 R74 to R79, 05 R87, R88, 11 R184, R201, R202, 15 R268). -/

namespace Sys2Proof.Machine

/-! ## What an instruction sees and asks for -/

/-- How control goes on after an instruction. -/
inductive Ctl where
  | seq
  /-- A taken transfer to a code address (R150). -/
  | jump (t : Nat)
  /-- Loop set-up with a count (R194). -/
  | loop (n : Nat)
  | trap (code : Nat)
  | eret
  | tail
deriving DecidableEq, Repr

/-- What an instruction sees when it issues: the state at the start of the issue, the same with the effects of earlier
slots, its agent, its slot, the address of its bundle or word, its link (R192), and the queues earlier slots pop. -/
structure View where
  s : State
  st : State
  g : Agent
  core : Core
  u : Unit
  slot : Nat
  addr : Nat
  link : Nat
  loopend : Bool
  pops : List Nat

/-- Whether the agent is a Lantern core. -/
def View.lan (v : View) : Bool := match v.g with | .lantern _ => true | .unit _ => false
/-- A scalar register. -/
def View.sr (v : View) (r : Reg) : W64 := rdS v.core r.toNat
/-- Size of the scratchpad that space offsets of scalar accesses name (R189). -/
def View.size (v : View) : Nat := if v.lan then clSize else unitSize
/-- First local IA of that scratchpad. -/
def View.base (v : View) : Nat :=
  match v.g with | .lantern m => clBase m.toNat | .unit k => unitBase k.toNat

/-- What an instruction asks for and does. -/
structure SlotOut where
  /-- Encoding case that its agent and state decide (R158). -/
  bad : Option Nat := none
  /-- Holders written (R158 case 4). -/
  wr : List Nat := []
  /-- Holders read, on which a Lantern core interlocks (R68). -/
  reads : List Nat := []
  /-- Holders whose taint gates it (R74). -/
  gate : List Nat := []
  /-- It takes a tag (R69). -/
  tag : Bool := false
  /-- Operand queue that needs a free entry. -/
  push : Option Nat := none
  /-- Operand queues it pops. -/
  pops : List Nat := []
  /-- Tiles that must not be busy (R46, R154). -/
  tiles : List Nat := []
  /-- A divide (R148). -/
  div : Bool := false
  /-- FENCE scope and kinds (R79). -/
  fence : Option (Nat × Nat) := none
  /-- TWAIT's tag set (R76). -/
  tw : Option (BitVec 16) := none
  /-- Engine queue it enters: 3 M, 4 C0, 5 C1 (R143). -/
  eng : Option Nat := none
  /-- Fixed-path accesses: store, offset, length (R42). -/
  acc : List (Bool × Nat × Nat) := []
  /-- Value checks. -/
  chk : Chk := {}
  /-- Descriptors and images that its checks read: local IAs and lengths (R47). -/
  finds : List (Nat × Nat) := []
  /-- A Lantern cause of its own: code and trap.val (R284). -/
  trap : Option (Nat × Nat) := none
  /-- A Lantern word that stalls, and what it does while it does. -/
  hold : Bool := false
  held : State → State := id
  /-- A branch, jump, ERET, TRAP, TAIL, LOOP or LOOPI (R158 case 6). -/
  xfer : Bool := false
  /-- Loop set-up. -/
  setup : Bool := false
  ctl : Ctl := .seq
  eff : State → State := id

/-- The meaning of a slot instruction. -/
abbrev Sem := View → SlotOut

/-- An instruction not valid for its slot or agent: encoding case 1 (R158). -/
def notHere : SlotOut := { bad := some 1 }
/-- A form of the unit alone. -/
def unitOnly (f : Sem) : Sem := fun v => if v.lan then notHere else f v
/-- A form of the Lantern core alone. -/
def lanOnly (f : Sem) : Sem := fun v => if v.lan then f v else notHere

/-! ## What is outstanding -/

/-- Where an IA lies (R78): host pages lie at no module. -/
def whereIa (s : State) (ia : Nat) : Where :=
  if ia / 2 ^ 48 = s.partMod then whereLia s (ia % 2 ^ 48) else ⟨none, none, none, some (ia / 2 ^ 48)⟩

/-- Something an agent issued that a FENCE may wait for (R79): load, store, engine command; the places it acts on. -/
structure Pend where
  load : Bool
  store : Bool
  engine : Bool
  at0 : List Where
deriving DecidableEq, Repr

/-- The kinds of a command, by its opcode: 0x25, 0x30, 0x31 loads; 0x32, 0x33 stores; atomics by their result. -/
def xferKind (x : Xfer) : Bool × Bool × Bool :=
  if x.op = 0x25 ∨ x.op = 0x30 ∨ x.op = 0x31 then (true, false, false)
  else if x.op = 0x32 ∨ x.op = 0x33 then (false, true, false)
  else if 0x10 ≤ x.op ∧ x.op ≤ 0x1C then (decide (x.rd ≠ 0), true, false)
  else (false, false, true)

/-- The places a command acts on, the index list of a gather or scatter among them (R253); none where it makes no access
to memory (R79). -/
def xferAt (s : State) (k : Nat) (x : Xfer) : List Where :=
  let own := whereLia s (unitBase k)
  let bar := match x.bar with | some b => [whereIa s b] | none => []
  if x.op ≤ 0x0C then [whereIa s x.dst, whereIa s (if x.op = 0x0C then fullIa s x.src else x.src)] ++ bar
    ++ (if x.op = 0x04 ∨ x.op = 0x05 then [whereLia s (unitBase x.ixk)] else [])
  else if x.op = 0x40 then [whereIa s x.dst, whereIa s x.src]
  else if x.op = 0x41 then [whereIa s x.dst, whereIa s x.src]
  else if x.op ≤ 0x1C then [whereIa s x.dst]
  else if x.op = 0x20 then [whereLia s (unitBase x.dst)]
  else if x.op = 0x21 ∨ x.op = 0x25 ∨ x.op = 0x28 then [own]
  else if x.op ≤ 0x24 then [whereIa s x.dst]
  else if x.op = 0x30 ∨ x.op = 0x31 then [whereIa s x.src]
  else if x.op = 0x32 ∨ x.op = 0x33 then [whereIa s x.dst]
  else if x.op = 0x82 then [whereIa s x.src]
  else if x.op = 0x84 then [whereLia s (clBase (k / 8))]
  else if 0x88 ≤ x.op then [own]
  else []

/-- A queued command that is not yet handed off acts on places its operands do not yet name: its own unit stands for
them, so that every scope's fence waits for it (log entry 8). -/
def cmdPend (s : State) (k : Nat) (c : QCmd) : Pend :=
  match c.x with
  | some x => let q := xferKind x; ⟨q.1, q.2.1, q.2.2, xferAt s k x⟩
  | none =>
    match c.ins with
    | .ldr _ | .ldrV _ | .semrd _ => ⟨true, false, false, [whereLia s (unitBase k)]⟩
    | .str _ | .strV _ => ⟨false, true, false, [whereLia s (unitBase k)]⟩
    | .amoAdd f | .amoAnd f | .amoOr f | .amoXor f | .amoMin f | .amoMax f | .amoMinu f | .amoMaxu f | .amoSwp f | .amoCas f =>
      ⟨decide (f.rd ≠ 0), true, false, [whereLia s (unitBase k)]⟩
    | .amoFaddF32 _ | .amoFaddBf16 _ | .amoFaddF16 _ => ⟨false, true, false, [whereLia s (unitBase k)]⟩
    | _ => ⟨false, false, true, [whereLia s (unitBase k)]⟩

/-- A started command that has not completed, or whose token has not fired. -/
def runPend (s : State) (k : Nat) (r : Run) : List Pend :=
  if r.done && r.gv.isNone then []
  else
    let q := xferKind r.x
    [⟨q.1 && !r.done, q.2.1 && !r.done, q.2.2, xferAt s k r.x⟩]

/-- What a copy engine holds. -/
def engPend (s : State) (k : Nat) (x : XEng) : List Pend :=
  x.q.map (cmdPend s k) ++ x.runs.flatMap (runPend s k)

/-- What a matrix engine holds: queued commands, and those that have left and are not complete or have a token left. -/
def mxPend (s : State) (k : Nat) (m : Mx) : List Pend :=
  m.q.map (cmdPend s k) ++ (m.toks.filter (fun t => !t.done || t.gv.isSome)).map (fun t =>
    ⟨false, false, true, (t.x.map (xferAt s k)).getD []⟩)

/-- Mark of a chunk or an access that RETRY or the completion port has set going: it counts as a store of the Lantern core
for FENCE (R79, R106). -/
def portMark : Nat := 8

/-- The copy engines of a cluster. -/
def clEngines (s : State) (m : Nat) : List XEng :=
  let c := getCl s m
  [c.cce0, c.cce1, c.xe, c.lan.x] ++ (List.range 8).flatMap (fun j => let u := getUnit s (8 * m + j); [u.uce0, u.uce1])

/-- Where an access of a Lantern core acts: the token's place for a token read (R79). -/
def accAt (s : State) (a : LAcc) : Where :=
  if a.op = 7 then
    let h := handleAt s.partMod a.ia
    if h.1 = s.partMod then ⟨none, some h.2.1, some (h.2.1 / 8), some s.partMod⟩ else ⟨none, none, none, some h.1⟩
  else whereIa s a.ia

/-- What the completion port and RETRY have set going in a cluster and is still to be performed (R79, R106). -/
def portPend (s : State) (m : Nat) : List Pend :=
  (clEngines s m).flatMap (fun x => x.runs.flatMap (fun r =>
    if r.chunks.any (fun c => c.hslot == some portMark) then [⟨false, true, false, xferAt s (8 * m) r.x⟩] else []))
  ++ ((getCl s m).lan.accs.filter (fun a => a.hslot == some portMark)).map (fun a => ⟨false, true, false, [accAt s a]⟩)
  ++ (List.range 8).flatMap (fun j => ((getUnit s (8 * m + j)).mx.comp.filter (fun c => c.retried)).map (fun c =>
    ⟨false, true, false, (c.cmd.x.map (xferAt s (8 * m + j))).getD [whereLia s (unitBase (8 * m + j))]⟩))

/-- Everything a stream has outstanding. -/
def pends (s : State) (g : Agent) : List Pend :=
  match g with
  | .unit k =>
    let u := getUnit s k.toNat
    (if u.qlds.isEmpty then [] else [⟨true, false, false, [whereLia s (unitBase k.toNat)]⟩])
      ++ engPend s k.toNat u.uce0 ++ engPend s k.toNat u.uce1 ++ mxPend s k.toNat u.mx
  | .lantern m =>
    let l := (getCl s m.toNat).lan
    l.accs.map (fun a =>
        let ld := decide (a.op = 0 ∨ a.op = 5 ∨ a.op = 7) || (decide (2 ≤ a.op ∧ a.op ≤ 4) && decide (a.rd ≠ 0))
        ⟨ld, decide (1 ≤ a.op ∧ a.op ≤ 4) || decide (a.op = 6), false, [accAt s a]⟩)
      ++ l.x.runs.flatMap (runPend s (8 * m.toNat)) ++ portPend s m.toNat
      ++ (if l.rpcOp = 0 then [] else [⟨false, true, false, [⟨none, none, none, some s.partMod⟩]⟩])

/-- Whether one of the places lies in an agent's region at a scope (R78). -/
def inRegion (s : State) (g : Agent) (sc : Nat) (at0 : List Where) : Bool :=
  at0.any (fun w => decide (proximity (whereAgent s g) w ≤ sc))

/-- Whether a FENCE of scope `sc` and kinds `ks` still waits (R79). -/
def fenceHeld (s : State) (g : Agent) (sc ks : Nat) : Bool :=
  (pends s g).any (fun p =>
    ((bit ks 0 || bit ks 1) && (p.load && inRegion s g sc p.at0))
      || ((bit ks 2 || bit ks 3) && (p.store && inRegion s g sc p.at0))
      || (bit ks 4 && (p.engine && (p.at0.isEmpty || inRegion s g sc p.at0))))

/-! ## Causes of stall -/

/-- Whether a matrix instruction that writes a tile is queued or incomplete (R238). -/
def cmdTile : Instr → Option Nat
  | .mmaQ f | .mmaV f | .mmaR f | .zero f => some f.tile.toNat
  | _ => none

/-- busy of acc.stt (R46, R238). -/
def tileBusy (u : Unit) (t : Nat) : Bool :=
  u.mx.q.any (fun c => cmdTile c.ins == some t)
    || u.mx.comp.any (fun c => cmdTile c.cmd.ins == some t && u.mx.toks.any (fun k => k.seq == c.seq && !k.done))

/-- Whether a holder's taint is not empty. -/
def tainted (c : Core) (h : Nat) : Bool := (hmeta c h).taint != 0

/-- Entry that the n-th pop of a queue in this bundle takes; queue 8 is qa. -/
def queueEntry (u : Unit) (q n : Nat) : Option QEntry := (sget [] u.queues q)[n]?

/-- Whether a pop waits: the entry is free or its value has not arrived (R153). -/
def popWaits (u : Unit) (before : List Nat) (q : Nat) : Bool :=
  match queueEntry u q (before.count q) with
  | some e => !e.filled
  | none => true

/-- Entries of an operand queue (R151). -/
def queueCap (q : Nat) : Nat := if q = 8 then 16 else 8

/-- Whether an engine queue has no room (R143). -/
def engineFull (u : Unit) (e : Nat) : Bool :=
  match e with
  | 3 => decide (8 ≤ u.mx.q.length)
  | 4 => decide (16 ≤ u.uce0.q.length)
  | _ => decide (16 ≤ u.uce1.q.length)

/-- Whether the tags a waiting bundle took are still assigned to the reads they named (R76). -/
def twHeld (c : Core) : Bool :=
  match c.tw with
  | none => false
  | some l => l.any (fun p => tagLive c p.1 p.2)

/-- Whether an access has faulted and waits for a hold slot (R272). -/
def accRefused (a : LAcc) : Bool := match a.phase with | .refused _ _ => true | _ => false

/-- Whether a register that a Lantern word reads still waits for its value (R68), or a faulted store waits for a hold slot
(R272); the handler, which frees the slots, does not wait for one. -/
def lanWaits (l : Lan) (reads : List Nat) : Bool :=
  l.accs.any (fun a => (decide (a.rd ≠ 0) && reads.contains a.rd) || (!hm l.core && accRefused a))

/-- Rows of the unit scratchpad that an access touches (R42). -/
def rowsOf (off len : Nat) : List Nat :=
  if len = 0 then [] else (List.range ((off + len - 1) / 128 - off / 128 + 1)).map (fun j => off / 128 + j)

/-- Extra rows on the busiest bank port: the clk a bundle loses (R42). -/
def bankStalls (accs : List (Bool × Nat × Nat)) : Nat :=
  let rows := fun (w : Bool) => ((accs.filter (fun a => a.1 == w)).flatMap (fun a => rowsOf a.2.1 a.2.2)).dedup
  let worst := fun (l : List Nat) => (l.map (fun r => l.countP (fun q => q % 32 == r % 32))).foldl max 1
  max (worst (rows false)) (worst (rows true)) - 1

/-! ## Bundles -/

/-- An instruction in a slot: what its own bits break, and its meaning. -/
structure SlotIn where
  slot : Nat
  own : Option Nat
  sem : Sem

/-- A bundle ready to issue (R144): address, length in bytes, loopend, twait, wait items (semaphore, count, peek), an
encoding case of the header, and slots in order. -/
structure Bun where
  addr : Nat
  len : Nat
  loopend : Bool
  twait : Nat
  waits : List (Nat × Nat × Bool)
  bad : Option Nat
  slots : List SlotIn

/-- The views and answers of a bundle's slots in order: each sees the queues popped and the effects made before it. -/
def bunOuts (s : State) (k : Nat) (b : Bun) (link : Nat) : List (SlotIn × SlotOut) :=
  let u := getUnit s k
  (b.slots.foldl (fun (p : List (SlotIn × SlotOut) × List Nat × State) x =>
    let o := x.sem ⟨s, p.2.2, .unit (BitVec.ofNat 8 k), u.core, u, x.slot, b.addr, link, b.loopend, p.2.1⟩
    (p.1 ++ [(x, o)], p.2.1 ++ o.pops, o.eff p.2.2)) ([], [], s)).1

/-- Whether two slots write one holder (R158 case 4). -/
def clash (outs : List (SlotIn × SlotOut)) : Bool :=
  let l := (outs.flatMap (fun o => o.2.wr)).filter holds
  decide (l.dedup.length ≠ l.length)

/-- Encoding cases of a bundle (R158), each with its slot. -/
def bunCases (u : Unit) (b : Bun) (outs : List (SlotIn × SlotOut)) : List (Nat × Nat) :=
  let hd := fun (n : Nat) (c : Bool) => if c then [(n, 0)] else []
  let per := outs.flatMap (fun o =>
    (o.1.own.map (fun n => (n, o.1.slot))).toList ++ (o.2.bad.map (fun n => (n, o.1.slot))).toList
      ++ (if o.2.xfer && u.core.delay.isSome then [(6, o.1.slot)] else [])
      ++ (if o.2.setup && (decide (u.loops.length = 4) || b.loopend || hm u.core) then [(7, o.1.slot)] else [])
      ++ (if o.2.ctl = .eret && !hm u.core then [(7, o.1.slot)] else []))
  (b.bad.map (fun n => (n, 0))).toList ++ per ++ hd 4 (clash outs)
    ++ hd 7 (b.loopend && (u.loops.isEmpty || hm u.core)) ++ hd 8 (decide (codeSize < b.addr + b.len) || decide (b.addr % 4 ≠ 0))

/-- The case of the first slot that breaks one (R158), the lowest of that slot; header and whole-bundle cases stand at
slot 0 (log entry 36). -/
def firstCase (l : List (Nat × Nat)) : Option (Nat × Nat) :=
  (List.range 6).findSome? (fun j => (List.range 9).findSome? (fun n => l.find? (fun p => p.1 == n && p.2 == j)))

/-- Tags a bundle's twait field and TWAIT name now (R76, R144). -/
def twNamed (c : Core) (b : Bun) (outs : List (SlotIn × SlotOut)) : List (Nat × Nat) :=
  let h : BitVec 16 := if b.twait = 1 then tagsOut c else if 16 ≤ b.twait then BitVec.ofNat 16 (2 ^ (b.twait - 16)) else 0
  let x := outs.foldl (fun a o => match o.2.tw with | some t => a ||| t | none => a) h
  tagsOf c x

/-- Whether the header's wait items hold the bundle (R88). -/
def waitsHeld (u : Unit) (b : Bun) : Bool :=
  let need := fun (sem : Nat) (peek : Bool) => b.waits.filter (fun w => w.1 == sem && w.2.2 == peek)
  b.waits.any (fun w =>
    let cnt := (sget {} u.sems w.1).cnt
    let sum := (need w.1 false).foldl (fun a x => a + x.2.1) 0
    let top := (need w.1 true).foldl (fun a x => max a x.2.1) 0
    decide (cnt < sum) || decide (cnt < top))

/-- The causes of R146 but the bank conflict. -/
def bunHeld (s : State) (k : Nat) (b : Bun) (outs : List (SlotIn × SlotOut)) : Bool :=
  let u := getUnit s k
  let c := u.core
  let free := (List.range 16).countP (fun t => !tagSet c t && !bit c.freed.toNat t)
  let pops := outs.foldl (fun (p : List Nat × Bool) o =>
    o.2.pops.foldl (fun (q : List Nat × Bool) x => (q.1 ++ [x], q.2 || popWaits u q.1 x)) p) ([], false)
  waitsHeld u b || twHeld c || pops.2
    || outs.any (fun o => o.2.gate.any (tainted c))
    || decide (free < outs.countP (fun o => o.2.tag))
    || outs.any (fun o => match o.2.push with
        | some q => decide (queueCap q < (sget [] u.queues q).length + outs.countP (fun p => p.2.push == some q))
        | none => false)
    || outs.any (fun o => o.2.tiles.any (tileBusy u))
    || outs.any (fun o => o.2.div && decide (s.clk < u.divFree))
    || outs.any (fun o => match o.2.eng with | some e => engineFull u e | none => false)
    || outs.any (fun o => match o.2.fence with | some f => fenceHeld s (.unit (BitVec.ofNat 8 k)) f.1 f.2 | none => false)

/-- The value check that fails first (R158): cause, slot, trap.val. -/
def bunCheck (outs : List (SlotIn × SlotOut)) : Option (Nat × Nat × Nat) :=
  (outs.findSome? (fun o => if o.2.chk.ill then some (cIllegal, o.1.slot, 9) else none))
    <|> (outs.findSome? (fun o => o.2.chk.miss.map (fun v => (cRange, o.1.slot, v))))
    <|> (outs.findSome? (fun o => o.2.chk.psn.map (fun v => (cPoison, o.1.slot, v))))

/-! ## Traps -/

/-- What a trap leaves in the trap CSRs of its agent where it is not delivered locally (R312, R314, R232); a handler that
runs keeps its own but for a deferred check, which R232 excepts nowhere (log entry 9). -/
def noteTrap (c : Core) (cause slot val resume : Nat) (pending : Option Nat) (dfr : Bool) : Core :=
  if hm c && !dfr then c
  else
    let c1 := wrCsr c 0xA1 (BitVec.ofNat 64 ((if hm c then 2 ^ 31 else 0) + slot * 256 + cause))
    let c2 := wrCsr c1 0xA4 (BitVec.ofNat 64 val)
    let c3 := wrCsr c2 0xA2 (BitVec.ofNat 64 (bits resume 2 19 * 4))
    wrCsr c3 0xA3 (match pending with | none => 0 | some t => BitVec.ofNat 64 (2 ^ 63 + bits t 2 19 * 4))

/-- Whether a started command is an MMA with a step still to start. -/
def stepsLeft (c : CompRun) : Bool :=
  match c.cmd.ins with
  | .mmaQ _ | .mmaV _ | .mmaR _ => c.doneAt.isNone
  | _ => false

/-- Whether it is an MMA. -/
def isMma (i : Instr) : Bool := match i with | .mmaQ _ | .mmaV _ | .mmaR _ => true | _ => false

/-- Tile of a matrix command. -/
def tileIx (i : Instr) : Nat :=
  match i with
  | .mmaQ f | .mmaV f | .mmaR f | .zero f | .drain f | .drainZ1 f | .drainZ2 f => f.tile.toNat
  | _ => 0

/-- The matrix engine as it stops (R239): an MMA with steps left is stopped, a WLD will start again from row 0. -/
def stopMx (u : Unit) : Unit :=
  let cut := u.mx.comp.filter stepsLeft
  { u with
    tiles := cut.foldl (fun t c => smod {} t (tileIx c.cmd.ins) (fun x => { x with stop := true })) u.tiles
    mx := { u.mx with
      comp := u.mx.comp.map (fun c => if stepsLeft c then { c with stopped := true } else c)
      wld := u.mx.wld.map (fun w => { w with row := 0, doneAt := none }) } }

/-- The matrix engine as it resumes (R238, R239): a stopped MMA goes on, and asks anew for what it waits for; one that a fault of
its fetch stopped stays (R113). -/
def resumeMx (u : Unit) : Unit :=
  let on := u.mx.comp.filter (fun c => c.stopped && !c.fault)
  { u with
    tiles := on.foldl (fun t c => smod {} t (tileIx c.cmd.ins) (fun x => { x with stop := false })) u.tiles
    mx := { u.mx with comp := u.mx.comp.map (fun c =>
      if c.stopped then { c with stopped := false, asked := false, abuf := [], rids := [] } else c) } }

/-- A unit traps without local delivery: it freezes, its matrix engine with it, and is stopped, with nothing of the bundle in
effect (R159, R239, R314, R317). -/
def unitTrap (s : State) (k cause slot val addr : Nat) (dfr : Bool) : State :=
  let s1 := modUnit s k (fun u => { stopMx u with
    core := noteTrap { u.core with tw := none } cause slot val u.core.pc u.core.delay dfr
    owed := none
    stop := some ⟨cause, slot, addr, dfr, false⟩ })
  traceRec s1 (.unit (BitVec.ofNat 8 k)) 4 (rdCsr (getUnit s1 k).core 0xA2).toNat cause

/-- Pack val of an ended job (R362). -/
def endVal (cause epc cl j : Nat) : W64 := BitVec.ofNat 64 (bits cause 0 8 + bits epc 0 21 * 2 ^ 8 + cl * 2 ^ 32 + j * 2 ^ 40)

/-- The job ends on this module (R314, R315, R404): nothing of it runs again. -/
def endJob (s : State) (val : W64) : State :=
  modChip s (fun c => { c with ended := some (c.ended.getD val) })

/-- A synchronous trap of a Lantern word (R201, R315). `resume` is the word, `pending` its transfer when it is a delay
word; the word has taken no effect unless `next` says where control goes. -/
def lanTrap (s : State) (m cause val resume : Nat) (pending : Option Nat) : State :=
  let c := (getCl s m).lan.core
  let s1 :=
    if trapEn c && !hm c then
      modLan s m (fun l => { l with core := deliver { l.core with tw := none, after := none } cause 0 (BitVec.ofNat 64 val) resume pending, stall := 0, wait := none, ans := none, trapUnit := none })
    else
      endJob (modLan s m (fun l => { l with core := noteTrap l.core cause 0 val resume pending false, on := false }))
        (endVal cause (bits resume 0 21) m 0)
  traceRec s1 (.lantern (BitVec.ofNat 5 m)) 4 resume cause

/-! ## Control -/

/-- A code address as held: 21 bits. What follows a bundle or word that ends at the last byte of the code store is the first
byte again: R44 does not say (log entry 63). -/
def codeAddr (n : Int) : Nat := wrap n 21

/-- Whether a transfer target is legal (R193). -/
def targetOk (t : Int) : Bool := decide (t % 4 = 0) && (decide (0 ≤ t) && decide (t < 0x200000))

/-- Control after a word or bundle that transfers nowhere: the target of a pending transfer, or the next one (R150). -/
def goOn (c : Core) (next : Nat) : Core :=
  match c.delay with
  | some t => { c with pc := t, delay := c.after, after := none }
  | none => { c with pc := next, after := none }

/-- TAIL frees every register, and deactivates every loop level (R202, R157). Results in flight are discarded. -/
def tailUnit (u : Unit) : Unit :=
  { u with
    core := { u.core with sreg := [], md := [], delay := none, after := none, tw := none,
                          csr := sset 0 u.core.csr 0xA1 (rdCsr u.core 0xA1 &&& 0x7FF) }
    v := []
    m := []
    flight := []
    loops := []
    owed := none }

/-- Value of a holder for a command (R245). -/
def holderVal (u : Unit) (h : Nat) : Nat × Bool :=
  let p := (hmeta u.core h).poison
  if h < 64 then ((rdS u.core h).toNat, p) else if h < 96 then ((rdV u (h - 64)).toNat, p) else ((rdM u (h - 96)).toNat, p)

/-- Outstanding tagged reads that will write a holder, by their numbers (R74). -/
def pendingRead (c : Core) (h : Nat) : List Nat :=
  (c.dest.filter (fun p => p.2.h == h)).filterMap (fun p => (c.tags.find? (fun q => q.1 == p.1)).map Prod.snd)

/-- Scalar and vector registers a queued command reads, as holder numbers; MMA.V reads a fourth register for a scaled A
format (R235). rd is read by CAS and the cell adds alone (R258, R259). -/
def cmdOps (i : Instr) (p : MPar) : List Nat :=
  match i with
  | .mmaQ f => [hS f.sk.toNat]
  | .mmaV f => (List.range (if fmtScaled p.fa then 4 else 3)).map (fun j => hV ((f.sb.toNat + j) % 32))
  | .mmaR f | .drain f | .drainZ1 f | .drainZ2 f => [hS f.sb.toNat, hS f.sk.toNat]
  | .wld f => [hS f.sb.toNat]
  | .strV f => [hS f.rd.toNat, hV (f.rb.toNat % 32)]
  | .cp f | .cpP f | .cpBox f | .cpGth f | .cpSct f | .cpCvt f | .cpZip f | .cpUnz f | .cpXp f | .mcred f =>
    [hS f.rd.toNat, hS f.ra.toNat, hS f.rb.toNat, hS f.rc.toNat]
  | .amoAdd f | .amoAnd f | .amoOr f | .amoXor f | .amoMin f | .amoMax f | .amoMinu f | .amoMaxu f | .amoSwp f =>
    [hS f.ra.toNat, hS f.rb.toNat]
  | .amoCas f | .amoFaddF32 f | .amoFaddBf16 f | .amoFaddF16 f => [hS f.rd.toNat, hS f.ra.toNat, hS f.rb.toNat]
  | .sig f | .bpost f | .bwait f | .barrive f => [hS f.ra.toNat, hS f.rb.toNat]
  | .swait f | .semrd f => [hS f.rb.toNat]
  | .cpost f | .ldr f | .ldrV f => [hS f.ra.toNat]
  | .str f => [hS f.rd.toNat, hS f.ra.toNat]
  | _ => []

/-- The tags that gate a held command (R74): those of the register it will itself write, as they stood at its issue, and
those its other operands carry; its own tag orders nothing before it. -/
def cmdGate (c : Core) (q : QCmd) : List (Nat × Nat) :=
  let own := (q.tag.bind (fun t => (c.dest.find? (fun p => p.1 == t.1)).map (fun p => p.2.h))).getD 0
  let hs := (cmdOps q.ins q.par).filter (fun h => h = 0 || h ≠ own)
  (q.gate.filter (fun p => tagLive c p.1 p.2)) ++
    (hs.flatMap (fun h => tagsOf c (hmeta c h).taint)).filter (fun p => q.tag.all (fun t => t.1 != p.1))

/-- A held command captures its operands at TAIL (R74): values, the reads that will still deliver one, and the tags its
hand-off waits for. -/
def tailCmd (u : Unit) (c : QCmd) : QCmd :=
  if c.handed || c.tailed then c
  else if c.opened then { c with tailed := true }
  else
    let hs := cmdOps c.ins c.par
    { c with
      tailed := true
      gate := cmdGate u.core c
      ops := hs.map (fun h =>
        let p := holderVal u h
        ⟨h, BitVec.ofNat 4096 p.1, p.2, (pendingRead u.core h).filter (fun g => c.tag.all (fun t => t.2 != g))⟩) }

/-- Whether a started SWAIT or BWAIT is discarded at TAIL (R262). -/
def isWait (i : Instr) : Bool := match i with | .swait _ | .bwait _ => true | _ => false

/-- An engine queue at TAIL: waits that have not completed leave with their tokens (R262), held commands capture. -/
def tailEng (u : Unit) (x : XEng) (inst : Nat) : XEng :=
  { x with
    q := (x.q.filter (fun c => !(isWait c.ins && c.inst == inst))).map (tailCmd u)
    runs := x.runs.map (fun r => if (r.x.op = 0x21 ∨ r.x.op = 0x23) ∧ r.inst = inst ∧ !r.done then { r with done := true, gv := none } else r) }

/-- Whether anything of an instance is outstanding (R306). -/
def outstanding (s : State) (k serial : Nat) : Bool :=
  let u := getUnit s k
  let x := fun (e : XEng) => e.q.any (fun c => c.inst == serial) || e.runs.any (fun r => r.inst == serial && !r.done)
  u.qlds.any (fun q => q.inst == serial) || x u.uce0 || x u.uce1 || u.mx.q.any (fun c => c.inst == serial) || (u.mx.wld.any (fun w => w.cmd.inst == serial))
    || u.mx.toks.any (fun t => t.inst == serial && !t.done)
    || (getCl s (k / 8)).pend.any (fun p => match p.2.eng with
        | .uce e q => decide (e.toNat = k) && (getX s (.uce e q)).runs.any (fun r => r.id == p.2.run && r.inst == serial)
        | .mat e => decide (e.toNat = k) && u.mx.comp.any (fun c => c.seq == p.2.run && c.cmd.inst == serial)
        | _ => false)

/-- An instance of a task has drained (R306, R299). -/
def drainOne (s : State) (cl task : Nat) : State :=
  modCl s cl (fun c => { c with tasks := c.tasks.map (fun t => if t.serial = task then { t with drained := t.drained + 1 } else t) })

/-- TAIL of a unit (R202, R262, R306). -/
def tailDo (s : State) (k : Nat) : State :=
  match (getUnit s k).inst with
  | none => modUnit s k tailUnit
  | some n =>
    let s1 := modUnit s k (fun u => tailUnit { u with
      uce0 := tailEng u u.uce0 n.serial
      uce1 := tailEng u u.uce1 n.serial
      mx := { u.mx with q := u.mx.q.map (tailCmd u) }
      qlds := u.qlds
      inst := none })
    if outstanding s1 k n.serial then modUnit s1 k (fun u => { u with tracker := u.tracker ++ [(n.serial, n.task)] })
    else drainOne s1 (k / 8) n.task

/-- A Lantern TAIL ends the graph program (R202): registers are freed, hm clears, CSRs stay (R403); a value that arrives
later is discarded. -/
def tailLan (l : Lan) : Lan :=
  { l with
    on := false
    d := []
    accs := l.accs.map (fun a => { a with rd := 0 })
    core := { l.core with sreg := [], md := [], delay := none, after := none, tw := none,
                          csr := sset 0 l.core.csr 0xA1 (rdCsr l.core 0xA1 &&& 0x7FF) } }

/-- The target of ERET and what follows it (R202). -/
def eretTargets (c : Core) : Nat × Option Nat := let r := trapReturn c; (r.2.1, r.2.2)

/-! ## Issue in a unit -/

/-- Grant a decrement of a semaphore (R87). -/
def decSem (u : Unit) (i n : Nat) : Unit :=
  { u with sems := smod {} u.sems i (fun x => { x with cnt := x.cnt - n }), decs := smod 0 u.decs i (fun d => d + n) }

/-- Consume the header's waits (R87, R88); a mismatch of the acquire is recorded (R81). -/
def takeWaits (u : Unit) (b : Bun) : Unit :=
  b.waits.foldl (fun u w =>
    let x := sget {} u.sems w.1
    let core := match acqMiss x.rel 0 0 with
      | some (o, kd) => scopeMiss u.core 0 o kd
      | none => u.core
    let u := { u with core := core }
    if w.2.2 then u else decSem u w.1 w.2.1) u

/-- Remove popped entries from the heads of their queues (R153). -/
def takePops (u : Unit) (pops : List Nat) : Unit :=
  pops.foldl (fun u q => { u with queues := sset [] u.queues q ((sget [] u.queues q).drop 1) }) u

/-- loopend acts on the innermost active level (R157): the next address. -/
def loopBack (u : Unit) (next : Nat) : Unit × Nat :=
  match u.loops.getLast? with
  | none => (u, next)
  | some l =>
    if 1 < l.cnt then ({ u with loops := u.loops.dropLast ++ [{ l with cnt := l.cnt - 1 }] }, l.start)
    else ({ u with loops := u.loops.dropLast }, next)

/-- Where control goes after a bundle (R150, R157, R202). -/
def bunControl (s : State) (k : Nat) (b : Bun) (ctl : Ctl) : State :=
  let u := getUnit s k
  let next := codeAddr (b.addr + b.len)
  let g := Agent.unit (BitVec.ofNat 8 k)
  match ctl with
  | .jump t =>
    traceRec (modUnit s k (fun u => { u with core := { u.core with pc := next, delay := some t } })) g 1 b.addr t
  | .eret =>
    let (c, epc, npc) := trapReturn u.core
    traceRec (modUnit s k (fun u => { u with core := { c with pc := next, delay := some epc, after := npc } })) g 1 b.addr epc
  | .loop n =>
    modUnit s k (fun u => { u with loops := u.loops ++ [⟨n, next⟩], core := goOn u.core next })
  | .tail => tailDo s k
  | .seq | .trap _ =>
    let inDelay := u.core.delay.isSome
    let (u1, nx) := if b.loopend && !inDelay then loopBack u next else (u, next)
    let u2 := { u1 with core := goOn u1.core nx }
    match ctl with
    | .trap code =>
      if trapEn u2.core && !hm u2.core then
        traceRec (setUnit s k { u2 with core := deliver u2.core cTrap 0 (BitVec.ofNat 64 code) u2.core.pc none }) g 4 u2.core.pc cTrap
      else unitTrap (setUnit s k u2) k cTrap 0 code b.addr false
    | _ => setUnit s k u2

/-- Every condition holds: the bundle issues (R145). -/
def bunIssue (s : State) (k : Nat) (b : Bun) (outs : List (SlotIn × SlotOut)) : State :=
  let s1 := modUnit s k (fun u =>
    let u := ageFlights (takePops (takeWaits u b) (outs.flatMap (fun o => o.2.pops)))
    { u with core := { u.core with tw := none }, owed := none, divFree := if outs.any (fun o => o.2.div) then s.clk + 20 else u.divFree
             inst := u.inst.map (fun i => { i with first := false }) })
  let s2 := outs.foldl (fun t o => o.2.eff t) s1
  let s3 := modUnit s2 k (fun u => { u with core := bump u.core 1 1, bundle := u.bundle + 1 })
  bunControl s3 k b ((outs.find? (fun o => o.2.ctl != .seq)).elim .seq (fun o => o.2.ctl))

/-- A clk in which the ready bundle does not issue (R146). -/
def bunStall (s : State) (k : Nat) : State := modUnit s k (fun u => { u with core := bump u.core 2 1 })

/-- Length in bytes of the bundle whose header has the given presence bits (R144). -/
def bunLen (present : Nat) : Nat :=
  4 * (1 + bits present 0 1 + 2 * ((List.range 5).map (fun j => bits present (j + 1) 1)).foldl (· + ·) 0)

/-- A bundle in one clk: it traps, stalls or issues (R145, R146, R158); values are checked in the clk in which it would
issue. -/
def bunRun (s : State) (k : Nat) (b : Bun) (link : Nat) : State :=
  let u := getUnit s k
  let outs := bunOuts s k b link
  match firstCase (bunCases u b outs) with
  | some (n, slot) => unitTrap s k cIllegal slot n b.addr false
  | none =>
    let s1 := modUnit s k (fun u => { u with core := { u.core with tw := some (u.core.tw.getD (twNamed u.core b outs)) } })
    let owed := u.owed.getD (bankStalls (outs.flatMap (fun o => o.2.acc)))
    if bunHeld s1 k b outs then bunStall s1 k
    else if owed ≠ 0 then bunStall (modUnit s1 k (fun u => { u with owed := some (owed - 1) })) k
    else match bunCheck outs with
      | some (cause, slot, v) => unitTrap (touchAll s (outs.flatMap (fun o => o.2.finds))) k cause slot v b.addr false
      | none => bunIssue (touchAll s1 (outs.flatMap (fun o => o.2.finds))) k b outs

/-! ## Running one word -/

/-- Address of the fall-through of a unit's taken jump: past the delay bundle, whose header is read (R192). -/
def unitLink (s : State) (k next : Nat) : Nat :=
  let seen := ((getUnit s k).inst.map (fun i => i.codeAt)).getD (getCl s (k / 8)).codeSeq
  let hd := ofBytes ((rdCode s (k / 8) seen next 4).map Prod.fst)
  codeAddr (next + bunLen (bits hd 0 6))

/-- A Lantern word that stalls in an fclk (R198, R285). -/
def lanStall (s : State) (m : Nat) : State :=
  modLan s m (fun l => { l with core := bump l.core 2 1, stall := l.stall + 1 })

/-- Where control goes after a Lantern word (R184, R201, R202). -/
def lanControl (s : State) (m : Nat) (addr : Nat) (ctl : Ctl) : State :=
  let next := codeAddr (addr + 4)
  let g := Agent.lantern (BitVec.ofNat 5 m)
  match ctl with
  | .jump t => traceRec (modLan s m (fun l => { l with core := { l.core with pc := next, delay := some t } })) g 1 addr t
  | .eret =>
    let (c, epc, npc) := trapReturn (getCl s m).lan.core
    traceRec (modLan s m (fun l => { l with core := { c with pc := next, delay := some epc, after := npc } })) g 1 addr epc
  | .tail => modLan s m tailLan
  | .trap code =>
    let s1 := modLan s m (fun l => { l with core := goOn l.core next })
    lanTrap s1 m cTrap code (getCl s1 m).lan.core.pc none
  | .seq | .loop _ => modLan s m (fun l => { l with core := goOn l.core next })

/-- The tags that TWAIT of the word at pc waits for, each with its read (R76). -/
def lanTw (c : Core) (o : SlotOut) : List (Nat × Nat) := c.tw.getD ((o.tw.map (tagsOf c)).getD [])

/-- Whether a Lantern word waits before it is looked at (R68, R74, R76, R79). -/
def lanHeld (s : State) (m : Nat) (o : SlotOut) : Bool :=
  let l := (getCl s m).lan
  let c := l.core
  let free := (List.range 8).any (fun t => !tagSet c t && !bit c.freed.toNat t)
  lanWaits l o.reads || o.gate.any (tainted c) || (lanTw c o).any (fun p => tagLive c p.1 p.2) || (o.tag && !free)
    || (match o.fence with | some f => fenceHeld s (.lantern (BitVec.ofNat 5 m)) f.1 f.2 | none => false)

/-- The synchronous trap a Lantern word takes now (R176, R268): cause and value. -/
def lanCause (s : State) (m : Nat) (own : Option Nat) (o : SlotOut) : Option (Nat × Nat) :=
  let c := (getCl s m).lan.core
  if own.isSome || o.bad.isSome || (o.xfer && c.delay.isSome) || (o.ctl == .eret && !hm c) then some (cIllegal, 0)
  else if lanHeld s m o then none
  else o.chk.cause <|> o.trap

/-- What a Lantern word comes to where it stands. -/
def lanOut (s : State) (m : Nat) (sem : Sem) : SlotOut :=
  let c := (getCl s m).lan.core
  sem ⟨s, s, .lantern (BitVec.ofNat 5 m), c, {}, 0, c.pc, codeAddr (c.pc + 8), false, []⟩

/-- A Lantern word in one fclk (R68, R74, R176, R184, R268): it traps, stalls, or takes effect. -/
def lanRun (s : State) (m : Nat) (own : Option Nat) (sem : Sem) : State :=
  let c := (getCl s m).lan.core
  let o := lanOut s m sem
  match lanCause s m own o with
  | some (cause, val) => lanTrap (touchAll s o.finds) m cause val c.pc c.delay
  | none =>
    let s1 := modLan s m (fun l => { l with core := { l.core with tw := some (lanTw c o) } })
    if lanHeld s m o then lanStall s1 m
    else if o.hold then lanStall (o.held s1) m
    else
      let s2 := o.eff (modLan (touchAll s o.finds) m (fun l => { l with core := { l.core with tw := none }, stall := 0, wait := none, ans := none }))
      lanControl (modLan s2 m (fun l => { l with core := bump l.core 1 1 })) m c.pc o.ctl

/-- Run one instruction word on the agent that `cur` names: a Lantern word, or a bundle with that one slot. -/
def runOne (i : Instr) (slot : Nat) (sem : Sem) (s : State) : Out :=
  match s.cur with
  | .lantern m => .next (lanRun s m.toNat (illegal i) sem)
  | .unit k =>
    let a := (getUnit s k.toNat).core.pc
    let len := if slot = 0 then 8 else 12
    .next (bunRun s k.toNat ⟨a, len, false, 0, [], none, [⟨slot, illegal i, sem⟩]⟩ (unitLink s k.toNat (codeAddr (a + len))))

end Sys2Proof.Machine
end

