-- ==== Sys2Proof/Machine/Send.lean ====
section
/-! DEFINITION. The byte runs of an access, and atomics at the memory of their target (spec 02 R32, 05 R96 to R98, 14 R258, R259). -/

namespace Sys2Proof.Machine

/-! ## Byte runs of an access -/

/-- Runs of adjacent bytes, each within one 8 KiB page and of at most 512 bytes (R32, R336): address, length. -/
def mergeRuns : List (Nat × Nat) → List (Nat × Nat)
  | [] => []
  | (a, n) :: r =>
    if n = 0 then mergeRuns r
    else match mergeRuns r with
      | (b, m) :: t => if a + n = b then (a, n + m) :: t else (a, n) :: (b, m) :: t
      | [] => [(a, n)]

/-- One run cut at 8 KiB pages and 512 bytes. -/
def cutRun (p : Nat × Nat) : List (Nat × Nat) :=
  (pieces p.1 p.2).flatMap (fun q =>
    (List.range ((q.2 + 511) / 512)).map (fun j => (p.1 + q.1 + 512 * j, min 512 (q.2 - 512 * j))))

/-- The runs of a list of byte ranges. -/
def runsOf (l : List (Nat × Nat)) : List (Nat × Nat) := (mergeRuns l).flatMap cutRun

/-- The memory-side translation of runs: offset in their bytes, address, length, result. -/
def resRuns (s : State) (runs : List (Nat × Nat)) (k : AKind) : List (Nat × Nat × Nat × Res) :=
  (runs.foldl (fun (p : List (Nat × Nat × Nat × Res) × Nat) r =>
    (p.1 ++ [(p.2, r.1, r.2, resolve s s.chip.slot s.chip.pasid r.1 r.2 k)], p.2 + r.2)) ([], 0)).1

/-- The first fault: address, kind. -/
def runFault (rs : List (Nat × Nat × Nat × Res)) : Option (Nat × Nat) :=
  rs.findSome? (fun r => match r.2.2.2 with | .fault f => some (r.2.1, f) | _ => none)
/-- The first page the remote page cache has to fill. -/
def runMiss (rs : List (Nat × Nat × Nat × Res)) : Option (Nat × Nat) :=
  rs.findSome? (fun r => match r.2.2.2 with | .miss p => some (p, r.2.1) | _ => none)
/-- The first of the listed bytes that lies in the 8 KiB page of `a`: what fia names (R102, R104). -/
def firstInPage (l : List (Nat × Nat)) (a : Nat) : Nat :=
  (l.findSome? (fun p =>
    let q := max p.1 (a / 8192 * 8192)
    if q / 8192 = a / 8192 ∧ q < p.1 + p.2 then some q else none)).getD a

/-- What fia names of an access's bytes that fault in the 8 KiB page of `a` (R104); behind the remote page cache, the 2 KiB
of the granule that the access needed first (R112). -/
def fiaOf (s : State) (l : List (Nat × Nat)) (a : Nat) : Nat :=
  let f := firstInPage l a
  if rpcOn s && iaRow (f % 2 ^ 48) == some 6 then f / 2048 * 2048 else f

/-- Replace `l.length` bytes of an image from offset `o`. -/
def patch {α : Type} (img : List α) (o : Nat) (l : List α) : List α := img.take o ++ l ++ img.drop (o + l.length)

/-! ## Atomics -/

/-- How an atomic carries acquire and release (R80, R81): ord, scope, the agent's place and the target's. -/
structure Sync where
  ord : Nat
  sc : Nat
  ag : Where
  at0 : Where

/-- No attribute. -/
def Sync.plain : Sync := ⟨0, 0, ⟨none, none, none, none⟩, ⟨none, none, none, none⟩⟩

/-- The release record of the 16-byte part of a place; host memory has none (R81). -/
def recAt (s : State) (l : Loc) : Option RelRec :=
  match l with
  | .host _ => none
  | _ =>
    let p := locMem s l
    (p.1.recs.find? (fun q => q.1 == p.2 / 16)).map Prod.snd

/-- Set the release record of a part. -/
def setRec (m : MemSt) (a : Nat) (r : Option RelRec) : MemSt :=
  match r with
  | none => { m with recs := serase m.recs (a / 16) }
  | some x => { m with recs := sput m.recs (a / 16) x }

/-- What an operation records as a scope mismatch, and whether its release stands (R81): a static mismatch of an operation
that is both is recorded once, as its release, and with any mismatch neither half of it stands. -/
def syncMiss (y : Sync) (r : Option RelRec) : Option (Nat × Nat × Nat) × Bool :=
  let px := proximity y.ag y.at0
  let rel := bit y.ord 1
  let acq := bit y.ord 0
  if rel && decide (y.sc < px) then (some (y.sc, px, 0), false)
  else if acq then let m := (acqMiss r y.sc px).map (fun p => (y.sc, p.1, p.2)); (m, rel && m.isNone)
  else (none, rel)

/-- The record after a write that carries the attribute (R81). -/
def recAfter (y : Sync) (r : Option RelRec) : Option RelRec :=
  if (syncMiss y r).2 then relJoin r y.sc (proximity y.ag y.at0) else none

/-- An atomic at a place (R96): the bytes read with poison, the state after it, and the mismatch to be recorded. `f` gives
the new value, or nothing where nothing is written. -/
def atomicAt (s : State) (l : Loc) (ia w : Nat) (f : Nat → Option Nat) (y : Sync) :
    (Nat × Bool) × State × Option (Nat × Nat × Nat) :=
  let (img, s1) := match l with
    | .host a => (rdImg s.host a w, cxlNote s false 2 s.chip.pasid a w [])
    | _ => readLoc s l w
  let old := ofBytes (img.map Prod.fst)
  let psn := img.any (fun b => b.2)
  let r := recAt s1 l
  let (miss, _) := syncMiss y r
  match f old with
  | none => ((old, psn), s1, miss)
  | some v =>
    let s2 := modLoc s1 l (fun m a => setRec (writeNat m a w v) a (match l with | .host _ => none | _ => recAfter y r))
    ((old, psn), tailReport (rpcDirty s2 s2.chip.slot ia w) ia w, miss)

/-- Whether host memory takes an atomic (R97): FetchAdd, Swap and CAS of 4 or 8 bytes. -/
def hostAmo (aop : Nat) : Bool := decide (aop = 0 ∨ aop = 8 ∨ aop = 9)

/-- The operand value of a cell add (R98, R259): format 0 FP32, 1 BF16, 2 FP16. -/
def faddVal (fmt x : Nat) : Val := valOf fmt x

/-- An atomic update of an agent: an integer one or a cell add, with its bytes, and whether host memory takes it. -/
structure AtomOp where
  w : Nat
  host : Bool
  f : Nat → Option Nat

/-- An integer atomic (R258). -/
def amoOp (aop w x cmp : Nat) : AtomOp := ⟨w, hostAmo aop, fun old => amoNew aop (8 * w) old (x % 2 ^ (8 * w)) (cmp % 2 ^ (8 * w))⟩
/-- A cell add (R259). -/
def faddOp (fmt x : Nat) (c : Int) : AtomOp := ⟨16, false, fun old => some (cellAdd old (faddVal fmt x) c)⟩

/-- What an atomic finds at its target. -/
inductive ATry where
  | done (old : Nat) (psn : Bool) (s : State) (miss : Option (Nat × Nat × Nat))
  | fault (kind : Nat)
  | miss (page ia : Nat)
  | peer (m lia : Nat)

/-- An atomic at an IA (R96, R97). -/
def atomicIa (s : State) (slot pasid ia : Nat) (o : AtomOp) (y : Sync) : ATry :=
  match resolve s slot pasid ia o.w .at with
  | .fault k => .fault k
  | .miss p => .miss p ia
  | .peer m l => .peer m l
  | .ok l =>
    match l, o.host with
    | .host _, false => .fault fkAtomic
    | _, _ => let (p, t, e) := atomicAt s l ia o.w o.f y; .done p.1 p.2 t e

end Sys2Proof.Machine
end

