-- ==== Sys2Proof/Machine/Walk.lean ====
section
/-! DEFINITION. The walk of a copying command: its elements, its chunks, and the destination image of a chunk (spec 06 R102, R106; 14 R247 to R257; 16 R297). -/

namespace Sys2Proof.Machine

/-- One step of a walk: destination address and bytes (none where it writes nothing), source address and bytes (none for
a halo element), the nibble of a 4-bit source or destination, and the pattern of a halo. `psn` poisons it whole. -/
structure Item where
  d : Nat
  dn : Nat
  src : Option Nat
  sn : Nat
  hi : Bool
  half : Option Bool
  fill : Nat
  psn : Bool
deriving DecidableEq, Repr

/-- The extents of the destination walk: the source box widened by its halo (R251). A 4-bit destination is walked by the
pairs that share a byte, since such a chunk begins on an even element (R106). -/
def wideBox (op : Nat) (m : Move) : List Nat :=
  let w := (List.range 4).map (fun d => m.l.getD d 0 + m.n.getD d 1 + m.h.getD d 0)
  if op = 0x06 ∧ fmtW m.fd = 4 then (w.getD 0 1 / 2) :: w.drop 1 else w

/-- The mixed-radix digits of `k`, fastest first. -/
def digits : List Nat → Nat → List Nat
  | [], _ => []
  | w :: r, k => k % w :: digits r (k / w)

/-- Box length of a commit copy in dimension `d`, and its origin (R297): packed above the tensor's descriptor. -/
def ccLen (x : Xfer) (d : Nat) : Nat := bits x.desc.toNat (256 + 21 * d) 21
/-- Origin of a commit copy in dimension `d`. -/
def ccLo (x : Xfer) (d : Nat) : Nat := bits x.desc.toNat (340 + 20 * d) 20
/-- The tensor of a commit copy. -/
def ccTensor (x : Xfer) : Desc := BitVec.ofNat 256 (bits x.desc.toNat 0 256)
/-- The operand of a commit copy: tensor, box origin and lengths. -/
def ccDesc (d : Desc) (lo len : List Nat) : BitVec 512 :=
  BitVec.ofNat 512 (d.toNat + (List.range 4).foldl (fun a k => a + len.getD k 1 * 2 ^ (256 + 21 * k) + lo.getD k 0 * 2 ^ (340 + 20 * k)) 0)

/-- Steps of a command's walk. -/
def walkLen (x : Xfer) : Nat :=
  let m := moveOf x.desc.toNat
  let n0 := m.n.getD 0 1
  match x.op with
  | 0x02 | 0x06 => (wideBox x.op m).foldl (· * ·) 1
  | 0x04 | 0x05 | 0x07 | 0x08 => n0
  | 0x0A => n0 * m.n.getD 1 1
  | 0x0C => x.len / 4
  | 0x40 => (List.range 4).foldl (fun a d => a * ccLen x d) 1
  | _ => x.len

/-- Entry `k` of the index list of a gather or scatter, and its poison (R253). -/
def ixEntry (s : State) (x : Xfer) (m : Move) (k : Nat) : Nat × Bool :=
  let w := 2 + 2 * m.ixw
  let a := unitBase x.ixk + m.ixo + w * k
  (rdMem s.chip.mem.cells a w, psnRange s.chip.mem a w)

/-- An address displaced by signed bytes. -/
def disp (a : Nat) (i : Int) : Nat := ((a : Int) + i).toNat

/-- An item that moves `n` bytes. -/
def plainItem (d a n : Nat) : Item := ⟨d, n, some a, n, false, none, 0, false⟩

/-- Step `k` of the walk of a box (R251). -/
def boxItem (x : Xfer) (m : Move) (k : Nat) : Item :=
  let (es, ed) := moveEb x.op m
  let pair : Nat := if x.op = 0x06 ∧ ed = 4 then 2 else 1
  let p := digits (wideBox x.op m) k
  let c := fun (d : Nat) => if d = 0 then p.getD 0 0 * pair else p.getD d 0
  let row : Int := (c 1 : Int) * m.ds.getD 1 0 + c 2 * m.ds.getD 2 0 + c 3 * m.ds.getD 3 0
  let dby := disp x.dst (row + ((ed * c 0 / 8 : Nat) : Int))
  let inner := (List.range 4).all (fun d => decide (m.l.getD d 0 ≤ c d) && decide (c d < m.l.getD d 0 + m.n.getD d 1))
  let dn := (pair * ed + 7) / 8
  if inner then
    let y := fun (d : Nat) => c d - m.l.getD d 0
    let sro : Int := (y 1 : Int) * m.ss.getD 1 0 + y 2 * m.ss.getD 2 0 + y 3 * m.ss.getD 3 0
    ⟨dby, dn, some (disp x.src (sro + ((es * y 0 / 8 : Nat) : Int))), (pair * es + 7) / 8, es == 4 && y 0 % 2 == 1, none, 0, false⟩
  else ⟨dby, dn, none, 0, false, none, if pair = 2 then m.padv % 16 * 17 else m.padv % 2 ^ ed, false⟩

/-- Step `k` of a walk, for a command that is not flat. -/
def itemAt (s : State) (x : Xfer) (k : Nat) : Item :=
  let m := moveOf x.desc.toNat
  let e := 2 ^ m.esz
  match x.op with
  | 0x02 | 0x06 => boxItem x m k
  | 0x04 =>
    let (i, p) := ixEntry s x m k
    if i ≤ m.ixmax then { plainItem (x.dst + k * e) (disp x.src (i * m.ss.getD 1 0)) e with psn := p }
    else ⟨x.dst + k * e, e, none, 0, false, none, m.padv % 2 ^ (8 * e), p⟩
  | 0x05 =>
    let (i, p) := ixEntry s x m k
    if i ≤ m.ixmax then { plainItem (disp x.dst (i * m.ds.getD 1 0)) (x.src + k * e) e with psn := p }
    else ⟨x.dst, 0, none, 0, false, none, 0, false⟩
  | 0x07 | 0x08 => plainItem (x.dst + 2048 * k) (x.src + 2048 * k) 2048
  | 0x0A =>
    let n0 := m.n.getD 0 1
    let y0 := k % n0
    let y1 := k / n0
    plainItem (disp x.dst ((y1 * e : Nat) + y0 * m.ds.getD 1 0)) (disp x.src ((y0 * e : Nat) + y1 * m.ss.getD 1 0)) e
  | 0x0C => ⟨x.dst + 4 * k, 4, some (x.src + 2 * k), 2, false, none, 0, false⟩
  | 0x40 =>
    let t := ccTensor x
    let b := fmtW (tFmt t)
    let lo := (List.range 4).map (ccLo x)
    let el := tElem t ((digits ((List.range 4).map (ccLen x)) k).mapIdx (fun d i => lo.getD d 0 + i))
    let first := b * tElem t lo / 8
    let by0 := b * el / 8
    let odd := b == 4 && el % 2 == 1
    ⟨x.dst + by0, (b + 7) / 8, some (x.src + by0 - first), (b + 7) / 8, odd, if b = 4 then some odd else none, 0, false⟩
  | _ => plainItem (x.dst + k) (x.src + k) 1

/-- Whether a command's walk is a run of bytes: a copy, a store of captured data, an LCP. -/
def flat (op : Nat) : Bool := decide (op ≤ 1) || (decide (op = 0x32 ∨ op = 0x33) || decide (op = 0x41))

/-- Whether its data was captured at hand-off. -/
def ownData (op : Nat) : Bool := decide (op = 0x32 ∨ op = 0x33)

/-- Whether a walk's steps are chunks of their own (R102): gather, scatter, compress, expand. -/
def oneStep (op : Nat) : Bool := decide (op = 4 ∨ op = 5 ∨ op = 7 ∨ op = 8)

/-- The block that `n` bytes at `a` lie in whole; none where they cross a boundary. -/
def blockOf (sz a n : Nat) : Option Nat := if a / sz = (a + n - 1) / sz then some (a / sz) else none

/-- Step one past the last of the chunk that continues at step `k` (R102, R251): destination block, source block once one
is met, bytes so far. -/
def growChunk (s : State) (x : Xfer) (db : Nat) : Nat → Nat → Option Nat → Nat → Nat
  | 0, k, _, _ => k
  | fuel + 1, k, sb, n =>
    if walkLen x ≤ k then k
    else
      let i := itemAt s x k
      if blockOf 2048 i.d i.dn ≠ some db ∨ 2048 < n + i.dn then k
      else match i.src with
        | none => growChunk s x db fuel (k + 1) sb (n + i.dn)
        | some a =>
          match blockOf 8192 a i.sn, sb with
          | none, _ => k
          | some b, none => growChunk s x db fuel (k + 1) (some b) (n + i.dn)
          | some b, some c => if b = c then growChunk s x db fuel (k + 1) sb (n + i.dn) else k

/-- One past the last step of the chunk that begins at step `k` (R102, R247, R251, R257). -/
def chunkEnd (s : State) (x : Xfer) (k : Nat) : Nat :=
  if flat x.op then
    let a := min (walkLen x) (k + (2048 - (x.dst + k) % 2048))
    if ownData x.op then a else min a (k + (8192 - (x.src + k) % 8192))
  else if oneStep x.op then k + 1
  else
    let i := itemAt s x k
    match blockOf 2048 i.d i.dn with
    | none => k + 1
    | some db => max (k + 1) (growChunk s x db 2048 k none 0)

/-- The items of steps `lo` to `hi - 1`. -/
def chunkItems (s : State) (x : Xfer) (lo hi : Nat) : List Item :=
  if flat x.op then [if ownData x.op then ⟨x.dst + lo, hi - lo, none, 0, false, none, 0, false⟩ else plainItem (x.dst + lo) (x.src + lo) (hi - lo)]
  else (List.range (hi - lo)).map (fun j => itemAt s x (lo + j))

/-- Source bytes of items, as ranges in element order. -/
def srcRanges (l : List Item) : List (Nat × Nat) := l.filterMap (fun i => i.src.map (fun a => (a, i.sn)))
/-- Destination bytes of items, as ranges in element order. -/
def dstRanges (l : List Item) : List (Nat × Nat) := l.map (fun i => (i.d, i.dn))

/-- The source ranges still to be read once `img` has been (R254): a slot under codec 01 is read as its bitmap first and
then as the sectors that hold its words. -/
def srcNeed (x : Xfer) (l : List Item) (img : List (Byte × Bool)) : List (Nat × Nat) :=
  if x.op = 0x08 then
    match l with
    | [] => []
    | i :: _ =>
      let a := i.src.getD 0
      if (moveOf x.desc.toNat).codec = 2 then (if img.isEmpty then [(a, 1536)] else [])
      else if img.isEmpty then [(a, 64)]
      else if img.length = 64 then
        match decodeZwe (fun j => ((img[j]?).getD (0, false)).1) with
        | some (_, secs) => if 64 < 32 * secs then [(a + 64, 32 * secs - 64)] else []
        | none => []
      else []
  else if img.isEmpty then srcRanges l else []

/-- Whether a byte lies in the destination of a command (R247). -/
def inDest (s : State) (x : Xfer) (a : Nat) : Bool :=
  if flat x.op then decide (x.dst ≤ a) && decide (a < x.dst + x.len)
  else
    let h := (moveHulls x.op (moveOf x.desc.toNat) x.len).2
    if x.op = 0x40 ∨ (a : Int) < x.dst + h.1 ∨ (x.dst : Int) + h.2 ≤ a then false
    else (List.range (walkLen x)).any (fun k => let i := itemAt s x k; decide (i.d ≤ a) && decide (a < i.d + i.dn))

/-- Undefined bytes (R10). -/
def freeBytes (s : State) (n : Nat) : List Byte × State :=
  ((List.range n).map (fun j => Config.freeByte (s.draws + j)), { s with draws := s.draws + n })

/-- The destination bytes of one element from its source bytes (R251). -/
def itemBytes (x : Xfer) (i : Item) (b : List Byte) : List Byte :=
  match i.src with
  | none => toBytes i.fill i.dn
  | some _ =>
    if x.op = 0x06 then
      let m := moveOf x.desc.toNat
      let v := ofBytes b
      let cv := fun (e : Nat) => (roundTo m.fd (valOf m.fs e) m.rm).1
      let es := fmtW m.fs
      if fmtW m.fd = 4 then toBytes (cv (bits v 0 es) + 16 * cv (bits v es es)) 1
      else if es = 4 then toBytes (cv (bits v (if i.hi then 4 else 0) 4)) i.dn
      else toBytes (cv v) i.dn
    else match i.half with
      | none => b
      | some _ => toBytes (bits (ofBytes b) (if i.hi then 4 else 0) 4) 1

/-- The image of one item of a plain walk: an element whose source byte lies in the destination is undefined and
unpoisoned (R247), byte by byte where bytes are moved as they stand. -/
def itemImg (s : State) (x : Xfer) (i : Item) (b : List (Byte × Bool)) : List (Byte × Bool) × State :=
  let a := i.src.getD 0
  let out := itemBytes x i (b.map Prod.fst)
  let p := i.psn || b.any (fun q => q.2)
  match i.src with
  | none => (out.map (fun v => (v, p)), s)
  | some _ =>
    let lap := (List.range i.sn).map (fun j => inDest s x (a + j))
    if !lap.any id then
      (if flat x.op then b else out.map (fun v => (v, p)), s)
    else
      let (fr, s1) := freeBytes s out.length
      (out.mapIdx (fun j v =>
        let o := if x.op = 0x06 then true else lap.getD j false
        if o then (fr.getD j 0, false) else (v, if flat x.op then ((b[j]?).getD (0, false)).2 else p)), s1)

/-- The words of bytes. -/
def wordsOf (b : List Byte) : List Nat :=
  (List.range (b.length / 4)).map (fun k => ofBytes ((b.drop (4 * k)).take 4))

/-- The image of a compress chunk (R254, R255). -/
def zipImg (s : State) (x : Xfer) (b : List (Byte × Bool)) : List (Byte × Bool) × State :=
  let p := b.any (fun q => q.2)
  let ws := wordsOf (b.map Prod.fst)
  if (moveOf x.desc.toNat).codec = 2 then ((ws.flatMap (fun w => toBytes (codeWave w) 3)).map (fun v => (v, p)), s)
  else match codeZwe ws with
    | some (l, _) => (l.map (fun v => (v, p)), s)
    | none => let (fr, s1) := freeBytes s 2048; (fr.map (fun v => (v, true)), s1)

/-- The image of an expand chunk (R254 to R256). -/
def unzImg (s : State) (x : Xfer) (b : List (Byte × Bool)) : List (Byte × Bool) × State :=
  let p := b.any (fun q => q.2)
  if (moveOf x.desc.toNat).codec = 2 then
    let l := b.map Prod.fst
    (((List.range 512).flatMap (fun k => toBytes (256 * ofBytes ((l.drop (3 * k)).take 3)) 4)).map (fun v => (v, p)), s)
  else match decodeZwe (fun j => ((b[j]?).getD (0, false)).1) with
    | some (ws, _) => ((ws.flatMap (fun w => toBytes w 4)).map (fun v => (v, p)), s)
    | none => let (fr, s1) := freeBytes s 2048; (fr.map (fun v => (v, true)), s1)

/-- The destination image of a chunk from its source bytes (R106). -/
def bindImg (s : State) (x : Xfer) (l : List Item) (lo : Nat) (b : List (Byte × Bool)) : List (Byte × Bool) × State :=
  if ownData x.op then ((l.flatMap (fun i => (x.data.drop lo).take i.dn)).map (fun v => (v, false)), s)
  else
    let lap := decide (x.op = 7 ∨ x.op = 8) && l.any (fun i => (List.range 2048).any (fun j => inDest s x (i.src.getD 0 + j)))
    if lap then let (fr, s1) := freeBytes s 2048; (fr.map (fun v => (v, false)), s1)
    else if x.op = 7 then zipImg s x b
    else if x.op = 8 then unzImg s x b
    else
      let r := l.foldl (fun (p : List (Byte × Bool) × List (Byte × Bool) × State) i =>
        let (o, t) := itemImg p.2.2 x i (p.2.1.take i.sn)
        (p.1 ++ o, p.2.1.drop i.sn, t)) ([], b, s)
      (r.1, r.2.2)

/-- The writes of an image: address, bytes, in element order; adjacent ones are one write (R106, R247). -/
def imgWrites (x : Xfer) (l : List Item) (img : List (Byte × Bool)) : List (Nat × List (Byte × Bool)) :=
  if x.op = 7 then match l with | [] => [] | i :: _ => [(i.d, img)]
  else
    (mergeRuns (dstRanges l)).foldl (fun (p : List (Nat × List (Byte × Bool)) × List (Byte × Bool)) r =>
      (p.1 ++ [(r.1, p.2.take r.2)], p.2.drop r.2)) ([], img) |>.1

/-- Length of a chunk's destination image, which its arrival counts (R104, R247). -/
def imgLen (x : Xfer) (l : List Item) : Nat := if x.op = 7 ∨ x.op = 8 then 2048 else (l.map (fun i => i.dn)).foldl (· + ·) 0

/-- Ring class of a command (R104). -/
def xferCls (op : Nat) : Nat :=
  match op with
  | 0x06 => 1 | 0x07 => 2 | 0x08 => 3 | 0x0A => 4
  | 0x30 | 0x31 => 6
  | _ => if 0x10 ≤ op ∧ op ≤ 0x1C then 5 else 0

end Sys2Proof.Machine
end

