-- ==== Sys2Proof/Machine/Copy.lean ====
section
/-! DEFINITION. Copy engines: how a command starts, how its chunks read, fault, are held and written, how it completes and fires its token (spec 05 R83 to R89, R93 to R96; 06 R102 to R109, R115; 14 R245 to R264). -/

namespace Sys2Proof.Machine

/-! ## Engines and their commands -/

/-- Unit of an engine; none for a cluster's (R62). -/
def engUnit : Eng → Option Nat
  | .uce k _ | .mat k | .stream k => some k.toNat
  | _ => none

/-- Where an engine runs, as an agent (R62, R78). -/
def engWhere (s : State) (e : Eng) : Where :=
  match engUnit e with
  | some k => whereAgent s (.unit (BitVec.ofNat 8 k))
  | none => whereAgent s (.lantern (BitVec.ofNat 5 (Eng.cl e)))

/-- Field agent of a ring entry (R104). -/
def engCode : Eng → Nat
  | .uce k q => 2 * k.toNat + q.toNat
  | .cce m n => 0x1000 + 2 * m.toNat + n.toNat
  | .xe m => 0x2000 + m.toNat
  | .mat k => 0x3000 + k.toNat
  | .stream k => 0x4000 + k.toNat
  | .lantern m => 0x5000 + m.toNat

/-- A started command of an engine. -/
def findRun (s : State) (e : Eng) (id : Nat) : Option Run := (getX s e).runs.find? (fun r => r.id == id)
/-- Change a started command. -/
def modRun (s : State) (e : Eng) (id : Nat) (f : Run → Run) : State :=
  modX s e (fun x => { x with runs := x.runs.map (fun r => if r.id = id then f r else r) })

/-- Whether a full ring has stopped an engine (R104). -/
def engStopped (s : State) (e : Eng) : Bool := (getCl s (Eng.cl e)).ringWait.any (fun w => w.1.eng == e)

/-- Whether the job has ended or nothing of it may go on (R314, R315). -/
def ended (s : State) : Bool := s.chip.ended.isSome

/-! ## Barriers -/

/-- Update the 16 bytes of a barrier at a full IA (R57, R93): the poison bit stays; `rel` gives the record after it. -/
def barUpdate (s : State) (ia : Nat) (f : Barrier → Barrier) (rel : Option RelRec → Option RelRec) : State :=
  let a := ia % 2 ^ 48
  let s1 := touchChip s a 16
  let r := recAt s1 (.chip a)
  modMem s1 (fun m =>
    let b := f (Barrier.ofNat (rdMem m.cells a 16))
    setRec { m with cells := wrMem m.cells a 16 b.toNat } a (rel r))

/-- An arrival of `n` bytes (R57, R93): the release record stays. -/
def barArrive (s : State) (ia n : Nat) : State := if n = 0 then s else barUpdate s ia (fun b => b.arrive n) id

/-! ## The retry ring -/

/-- log2 of the ring's entry count (R103). -/
def ringL (s : State) (m : Nat) : Nat := bits (rdCsr (getCl s m).lan.core 0x141).toNat 0 4
/-- Producer count. -/
def ringTail (s : State) (m : Nat) : Nat := (rdCsr (getCl s m).lan.core 0x142).toNat
/-- Consumer count. -/
def ringHead (s : State) (m : Nat) : Nat := (rdCsr (getCl s m).lan.core 0x143).toNat
/-- Entries between head and tail. -/
def ringUsed (s : State) (m : Nat) : Nat := (ringTail s m + 2 ^ (ringL s m + 1) - ringHead s m) % 2 ^ (ringL s m + 1)

/-- Write an entry at tail (R104): the ring has room. An entry beyond the scratchpad's end is not stored. -/
def ringPut (s : State) (m : Nat) (f : FaultRec) (e : BitVec 512) : State :=
  let L := ringL s m
  let t := ringTail s m
  let c := (getCl s m).lan.core
  let off := bits (rdCsr c 0x140).toNat 6 18 * 64 + 64 * (t % 2 ^ L)
  let v := e.toNat + (if bit t L then 1 else 0)
  let s1 := if off + 64 ≤ clSize then modMem s (fun x => writeNat x (clBase m + off) 64 v) else s
  modCl s1 m (fun cl => { cl with
    pend := sput cl.pend (t % 2 ^ L) f
    lan := { cl.lan with
      core := wrCsr cl.lan.core 0x142 (BitVec.ofNat 64 ((t + 1) % 2 ^ (L + 1)))
      ring := cl.lan.ring || (decide (ringUsed s m = 0) && bit (rdCsr c 0x141).toNat 8) } })

/-- A memory-side fault is recorded, or its agent stops at a full ring (R104). -/
def ringRecord (s : State) (m : Nat) (f : FaultRec) (e : BitVec 512) : State :=
  if ringUsed s m < 2 ^ ringL s m ∧ (getCl s m).ringWait.isEmpty then ringPut s m f e
  else modCl s m (fun cl => { cl with
    ringWait := cl.ringWait ++ [(f, e)]
    lan := { cl.lan with core := bumpSat cl.lan.core 0x145 1 } })

/-- Faults of stopped agents are recorded as entries free (R104). -/
def ringDrain (s : State) (m : Nat) : Nat → State
  | 0 => s
  | n + 1 =>
    match (getCl s m).ringWait with
    | [] => s
    | w :: r =>
      if ringUsed s m < 2 ^ ringL s m then ringDrain (ringPut (modCl s m (fun cl => { cl with ringWait := r })) m w.1 w.2) m n
      else s

/-- The fields of a ring entry but ph (R104). -/
structure RingF where
  fia : Nat
  dia : Nat := 0
  sia : Nat := 0
  bar : Nat := 0
  cseq : Nat
  eng : Eng
  cls : Nat
  kind : Nat
  side : Nat
  hslot : Option Nat := none
  len : Nat
  tag : Nat := 0
  tile : Nat := 0
  prog : Nat := 0
  off : Nat := 0

/-- The entry of its fields (R104). -/
def ringBits (s : State) (f : RingF) : BitVec 512 :=
  BitVec.ofNat 512 (f.fia * 2 ^ 448 + f.dia * 2 ^ 384 + f.sia * 2 ^ 320 + f.bar * 2 ^ 256 + s.chip.pasid % 2 ^ 20 * 2 ^ 236
    + s.chip.slot % 2 ^ 10 * 2 ^ 226 + f.cseq % 2 ^ 32 * 2 ^ 194 + engCode f.eng * 2 ^ 178 + f.cls * 2 ^ 174 + f.kind * 2 ^ 170
    + f.side * 2 ^ 169 + (match f.hslot with | some h => 2 ^ 168 + h * 2 ^ 165 | none => 0) + (f.len - 1) % 2 ^ 11 * 2 ^ 154
    + f.tag * 2 ^ 150 + f.tile * 2 ^ 146 + f.prog % 2 ^ 16 * 2 ^ 130 + f.off % 2 ^ 20 * 2 ^ 110)

/-- The lowest free hold slot of an agent (R108). -/
def freeHold (x : XEng) : Option Nat := (List.range 8).find? (fun h => !(sget {} x.holds h).used)

/-! ## Chunks -/

/-- What an attempt at a chunk comes to. -/
inductive CTry where
  /-- It went as far as it can: complete where `fin` is true. -/
  | ok (s : State) (fin : Bool) (psn : Bool)
  | fault (s : State) (side fia kind : Nat) (img : Option (List (Byte × Bool)))
  | miss (s : State) (page ia : Nat) (img : Option (List (Byte × Bool)))
  | wait

/-- Store a chunk's record. -/
def putChunk (s : State) (e : Eng) (id : Nat) (c : Chunk) : State :=
  modRun s e id (fun r => { r with chunks := r.chunks.map (fun d => if d.idx = c.idx then c else d) })

/-- A nibble of an image meets the other nibble of its byte (R119, R297). -/
def mergeHalves (s : State) (l : List Item) (img : List (Byte × Bool)) : List (Byte × Bool) :=
  if l.any (fun i => i.half.isSome) then
    (l.zip img).map (fun p =>
      let old := (rdByte s.chip.mem.cells (p.1.d % 2 ^ 48)).toNat
      let n := p.2.1.toNat % 16
      (match p.1.half with
        | none => p.2.1
        | some h => BitVec.ofNat 8 (if h then n * 16 + old % 16 else old / 16 * 16 + n), p.2.2))
  else img

/-- Write the items of a chunk that hold nibbles one by one, any other chunk run by run. -/
def chunkWrites (s : State) (x : Xfer) (l : List Item) (img : List (Byte × Bool)) : State :=
  let put := fun (t : State) (w : Nat × List (Byte × Bool)) => writeIa t t.chip.slot t.chip.pasid w.1 w.2
  if l.any (fun i => i.half.isSome) then
    (l.zip img).foldl (fun t p => (dstRanges [p.1]).foldl (fun t d => put t (d.1, mergeHalves t [p.1] [p.2])) t) s
  else (imgWrites x l img).foldl put s

/-- The sectors a chunk's destination touches. -/
def dstSectors (x : Xfer) (l : List Item) : List Nat :=
  (l.flatMap (fun i =>
    let n := if x.op = 7 then 2048 else i.dn
    if n = 0 then [] else (List.range ((i.d + n - 1) / 32 - i.d / 32 + 1)).map (fun j => i.d / 32 + j))).dedup

/-- A part of an access: address, offset in the access's bytes, length. -/
abbrev Part := Nat × Nat × Nat

/-- The 16-byte parts of `n` bytes at `a`, whose bytes lie at offset `o` of the access (R63). -/
def parts16 (a o n : Nat) : List Part :=
  if n = 0 then []
  else (List.range ((a + n + 15) / 16 - a / 16)).map (fun j =>
    let lo := max a ((a / 16 + j) * 16)
    (lo, o + (lo - a), min (a + n) ((a / 16 + j + 1) * 16) - lo))

/-- The parts in which bytes are written: a sector written whole is one part, as R47 and R48 count it; anything less goes by
16-byte parts (R63, log entry 43). -/
def writeParts (a o n : Nat) : List Part :=
  if n = 0 then []
  else (List.range ((a + n + 31) / 32 - a / 32)).flatMap (fun j =>
    let lo := max a ((a / 32 + j) * 32)
    let m := min (a + n) ((a / 32 + j + 1) * 32) - lo
    if m = 32 then [(lo, o + (lo - a), m)] else parts16 lo (o + (lo - a)) m)

/-- Draw which parts are performed now: those, the rest, and the draws used. A part of a sector with an earlier part left
waits with it, so that overlapping parts keep their order. Which parts wait is a free choice (log entries 3 and 43). -/
def takeParts (d : Nat) : List Part → List Nat → List Part × List Part × Nat
  | [], _ => ([], [], d)
  | p :: r, l =>
    let wait := l.contains (p.1 / 32) || Config.late d
    let x := takeParts (d + 1) r (if wait then (p.1 / 32) :: l else l)
    if wait then (x.1, p :: x.2.1, x.2.2) else (p :: x.1, x.2.1, x.2.2)

/-- Whether every part still resolves to a place here. -/
def partsHere (s : State) (l : List Part) (k : AKind) : Bool :=
  l.all (fun p => match resolve s s.chip.slot s.chip.pasid p.1 p.2.2 k with | .ok _ => true | _ => false)

/-- Read parts into an image. -/
def pullParts (s : State) (l : List Part) (img : List (Byte × Bool)) : List (Byte × Bool) × State :=
  l.foldl (fun (q : List (Byte × Bool) × State) p =>
    match resolve q.2 q.2.chip.slot q.2.chip.pasid p.1 p.2.2 .rd with
    | .ok loc => let (b, t) := readLoc q.2 loc p.2.2; (patch q.1 p.2.1 b, t)
    | _ => q) (img, s)

/-- Write parts of an image; one with no bytes is an undefined, poisoned one (R106, R109). -/
def pushParts (s : State) (l : List Part) (img : List (Byte × Bool)) : State :=
  l.foldl (fun t p =>
    if img.isEmpty then let (fr, u) := freeBytes t p.2.2; writeIa u u.chip.slot u.chip.pasid p.1 (fr.map (fun b => (b, true)))
    else writeIa t t.chip.slot t.chip.pasid p.1 ((img.drop p.2.1).take p.2.2)) s

/-- A chunk goes on with the parts of its source that lie here: those read now and those left. None where a page has been
unmapped since, so that the chunk starts over. -/
def pullNow (s : State) (c : Chunk) : Option (Chunk × State) :=
  let x := takeParts s.draws c.todo []
  if partsHere s x.1 .rd then
    let (img, t) := pullParts { s with draws := x.2.2 } x.1 c.img
    some ({ c with img := img, todo := x.2.1 }, t)
  else none

/-- A chunk goes on with the parts of its destination that lie here. -/
def pushNow (s : State) (e : Eng) (r : Run) (c : Chunk) : CTry :=
  let x := takeParts s.draws c.todo []
  if partsHere s x.1 .wr then
    let t := pushParts { s with draws := x.2.2 } x.1 c.img
    if x.2.1.isEmpty then .ok t true false
    else .ok (putChunk t e r.id { c with phase := .writing [], todo := x.2.1 }) false false
  else .ok (putChunk s e r.id { c with phase := .bound, todo := [] }) false false

/-- The writes of a chunk's bytes leave (R102): those to peers as packets, those here once every packet is answered, so that
a piece refused there leaves the others unwritten. -/
def sendWrites (s : State) (e : Eng) (r : Run) (c : Chunk) (rs : List (Nat × Nat × Nat × Res)) (img : List (Byte × Bool)) : CTry :=
  let t := rs.foldl (fun (p : List Nat × List Part × State) q =>
    match q.2.2.2 with
    | .peer m a =>
      let (b, u) : List (Byte × Bool) × State := if img.isEmpty then
          let (fr, u) := freeBytes p.2.2 q.2.2.1; (fr.map (fun v => (v, true)), u)
        else ((img.drop q.1).take q.2.2.1, p.2.2)
      let pkt := wrPkt u m a b
      let pkt := match e with | .uce _ _ | .cce _ _ => takeCircuit u (Eng.cl e) pkt | _ => pkt
      let (rid, u) := request u pkt (.chunk e r.id c.idx q.1)
      (p.1 ++ [rid], p.2.1, u)
    | _ => (p.1, p.2.1 ++ writeParts q.2.1 q.1 q.2.2.1, p.2.2)) ([], [], s)
  let c := { c with phase := .writing t.1, img := img, todo := t.2.1 }
  if t.1.isEmpty then pushNow t.2.2 e r c else .ok (putChunk t.2.2 e r.id c) false false

/-- Whether two of a box's destination elements may share bytes: some stride is shorter than what lies within it. -/
def boxLaps (x : Xfer) : Bool :=
  let m := moveOf x.desc.toNat
  let w := (List.range 4).map (fun d => m.l.getD d 0 + m.n.getD d 1 + m.h.getD d 0)
  let row := ((moveEb x.op m).2 * w.getD 0 1 + 7) / 8
  let ds := fun (d : Nat) => (m.ds.getD d 0).natAbs
  let s1 := row + (w.getD 1 1 - 1) * ds 1
  let s2 := s1 + (w.getD 2 1 - 1) * ds 2
  (decide (1 < w.getD 1 1) && decide (ds 1 < row)) || (decide (1 < w.getD 2 1) && decide (ds 2 < s1))
    || (decide (1 < w.getD 3 1) && decide (ds 3 < s2))

/-- Whether an earlier chunk of the command, not yet written, shares destination bytes with this one: the later element's
bytes are to remain (R251, R253). -/
def lapsEarlier (s : State) (r : Run) (c : Chunk) (l : List Item) : Bool :=
  let may := if r.x.op = 0x05 then true else if r.x.op = 0x02 ∨ r.x.op = 0x06 then boxLaps r.x else false
  may && r.chunks.any (fun d => decide (d.idx < c.idx) &&
    (dstRanges (chunkItems s r.x d.lo d.hi)).any (fun p => (dstRanges l).any (fun q =>
      decide (p.1 < q.1 + q.2) && decide (q.1 < p.1 + p.2))))

/-- Write a bound image to its destination (R102, R247). -/
def chunkWrite (s : State) (e : Eng) (r : Run) (c : Chunk) (img : List (Byte × Bool)) : CTry :=
  let l := chunkItems s r.x c.lo c.hi
  if lapsEarlier s r c l then .ok (putChunk s e r.id { c with phase := .bound, img := img, todo := [] }) false false
  else
    let ws := imgWrites r.x l img
    let rs := resRuns s (ws.flatMap (fun w => cutRun (w.1, w.2.length))) .wr
    match runFault rs with
    | some (a, k) => .fault s 1 (fiaOf s (dstRanges l) a) k (some img)
    | none =>
      match runMiss rs with
      | some (p, a) => .miss s p a (some img)
      | none =>
        let psn := img.any (fun b => b.2)
        if l.any (fun i => i.half.isSome) then .ok (chunkWrites s r.x l img) true psn
        else
          let s1 := if psn then modRun s e r.id (fun r => { r with stP := true }) else s
          sendWrites s1 e r c rs (ws.flatMap (fun w => w.2))

/-- Write every destination sector of a chunk poisoned, the bytes undefined (R106, R109, R341): a bound chunk with no image. -/
def chunkPoison (s : State) (e : Eng) (r : Run) (c : Chunk) : CTry :=
  let l := chunkItems s r.x c.lo c.hi
  let later := putChunk s e r.id { c with phase := .bound, img := [], todo := [] }
  if lapsEarlier s r c l then .ok later false false
  else
    let runs := runsOf ((dstSectors r.x l).map (fun q => (32 * q, 32)))
    let rs := resRuns s runs .wr
    match runFault rs with
    | some (a, k) =>
      let (fr, s1) := freeBytes s (imgLen r.x l)
      .fault s1 1 (fiaOf s (dstRanges l) a) k (some (fr.map (fun b => (b, true))))
    | none =>
      match runMiss rs with
      | some (p, a) => .miss later p a none
      | none => sendWrites (modRun s e r.id (fun r => { r with stP := true })) e r c rs []

/-- Read what a chunk still needs of its source, bind its image, and write it (R102, R247). -/
def chunkRead (s : State) (e : Eng) (r : Run) (c : Chunk) (img : List (Byte × Bool)) : Nat → CTry
  | 0 => .wait
  | n + 1 =>
    let l := chunkItems s r.x c.lo c.hi
    let need := srcNeed r.x l img
    if need.isEmpty then
      let (out, s1) := bindImg s r.x l c.lo img
      chunkWrite s1 e r { c with todo := [] } out
    else
      let rs := resRuns s (runsOf need) .rd
      match runFault rs with
      | some (a, k) =>
        if k = fkTimeout then chunkPoison (modRun s e r.id (fun r => { r with stT := true })) e r c
        else if r.x.pm then chunkPoison s e r c
        else .fault s 0 (fiaOf s need a) k none
      | none =>
        match runMiss rs with
        | some (p, a) => .miss s p a none
        | none =>
          let t := rs.foldl (fun (p : List (Byte × Bool) × List Nat × List Part × State) q =>
            let more := p.1 ++ List.replicate q.2.2.1 (0, false)
            match q.2.2.2 with
            | .peer m a =>
              let (rid, t) := request p.2.2.2 (rdPkt p.2.2.2 m a q.2.2.1) (.chunk e r.id c.idx p.1.length)
              (more, p.2.1 ++ [rid], p.2.2.1, t)
            | _ => (more, p.2.1, p.2.2.1 ++ parts16 q.2.1 p.1.length q.2.2.1, p.2.2.2)) (img, [], [], s)
          match pullNow t.2.2.2 { c with phase := .reading t.2.1, img := t.1, todo := t.2.2.1 } with
          | none => .wait
          | some (d, u) =>
            if t.2.1.isEmpty && d.todo.isEmpty then chunkRead u e r d d.img n
            else .ok (putChunk u e r.id d) false false

/-- A chunk whose packets are answered goes on with what it has still to read here, and then binds its image. -/
def chunkPull (s : State) (e : Eng) (r : Run) (c : Chunk) : CTry :=
  match pullNow s c with
  | none => .ok (putChunk s e r.id { c with phase := .fresh, img := [], todo := [] }) false false
  | some (d, t) => if d.todo.isEmpty then chunkRead t e r d d.img 3 else .ok (putChunk t e r.id d) false false

/-- This module's ring position in a multicast group, where it is one (R346, R348). -/
def groupPos (s : State) (d p coords : Nat) : Option Nat :=
  (List.range (p + 1)).find? (fun i => decide (bits coords (4 * i) 4 = coordOf s s.partMod d))

/-- A load-and-reduce request goes on round its ring (R348): a copy is delivered here where this module is a present
member, and it goes to the next module until that is the requester. -/
def mcreqTravel (s : State) (p : Packet) (own : Bool) (die : Nat) : State :=
  let d := p.gdim.toNat
  let n := ringNext s d
  let here := (groupPos s d p.gp.toNat p.gcoord.toNat).any (fun i => bit p.gpres.toNat i)
  let s1 := if own && here then loopBackPkt s p else s
  let q := { p with dmod := BitVec.ofNat 16 n }
  if n = p.smod.toNat then s1 else if own then sendFrom s1 die q else enterHop s1 d 2 0 q

/-- Inject the load-and-reduce requests of a chunk (R347, R348): each takes the group's entry as it stands. -/
def mcredSend (s : State) (e : Eng) (r : Run) (c : Chunk) : State :=
  let g := (sget 0 s.chip.mcg r.x.a.toNat).toNat
  let n := 2 * (c.hi - c.lo)
  let t := (List.range ((n + 255) / 256)).foldl (fun (p : List Nat × State) i =>
    let pkt : Packet := { pkt0 p.2 0 0x10 with
      ia := BitVec.ofNat 48 (r.x.src + 2 * c.lo + 256 * i)
      dmod := BitVec.ofNat 16 p.2.partMod
      grp := BitVec.ofNat 10 r.x.a.toNat
      len := BitVec.ofNat 9 (min 256 (n - 256 * i) - 1)
      gdim := BitVec.ofNat 2 (bits g 122 2)
      gp := BitVec.ofNat 4 (bits g 118 4)
      gpres := BitVec.ofNat 16 (bits g 102 16)
      gcoord := BitVec.ofNat 64 (bits g 0 64) }
    let rid := freshRid p.2
    let pkt := { pkt with rid := BitVec.ofNat 16 rid }
    let ok := keyOk p.2 p.2.chip.slot
    let t := { p.2 with rid := (rid + 1) % 65536, inj := p.2.inj + 1
                        outst := sput p.2.outst rid ⟨pkt, .mcred e r.id c.idx (512 * i), ptp p.2, false, p.2.chip.slot, p.2.inj, ok⟩ }
    (p.1 ++ [rid], if ok then mcreqTravel t pkt true (Eng.cl e / 8) else t)) ([], s)
  putChunk t.2 e r.id { c with phase := .reading t.1, img := List.replicate (2 * n) (0, false) }

/-- Whether a load-and-reduce command has no member left to answer it (R257). -/
def noMember (s : State) (r : Run) : Bool :=
  let g := (sget 0 s.chip.mcg r.x.a.toNat).toNat
  (List.range (bits g 118 4 + 1)).all (fun i => !bit (bits g 102 16) i)

/-- The sums of a load-and-reduce chunk: an element whose source bytes lie in the command's destination, on a module of the
group, takes an undefined, unpoisoned value (R247). -/
def mcredImg (s : State) (r : Run) (l : List Item) (img : List (Byte × Bool)) : List (Byte × Bool) × State :=
  let m := r.x.dst / 2 ^ 48
  let g := (sget 0 s.chip.mcg r.x.a.toNat).toNat
  let d := bits g 122 2
  let inGroup := (List.range (bits g 118 4 + 1)).any (fun i => decide (bits g (4 * i) 4 = coordOf s m d))
  if !inGroup then (img, s)
  else
    let t := l.foldl (fun (p : List (Byte × Bool) × List (Byte × Bool) × State) i =>
      let a := m * 2 ^ 48 + i.src.getD 0
      if inDest s r.x a || inDest s r.x (a + 1) then
        let (fr, t) := freeBytes p.2.2 i.dn
        (p.1 ++ fr.map (fun b => (b, false)), p.2.1.drop i.dn, t)
      else (p.1 ++ p.2.1.take i.dn, p.2.1.drop i.dn, p.2.2)) ([], img, s)
    (t.1, t.2.2)

/-- An attempt at a chunk in the phase it stands in. -/
def chunkTry (s : State) (e : Eng) (r : Run) (c : Chunk) : CTry :=
  match c.phase with
  | .fresh =>
    if r.x.op ≠ 0x0C then chunkRead s e r c [] 3
    else if noMember s r then .ok (modRun s e r.id (fun r => { r with stA := true })) true false
    else .ok (mcredSend s e r c) false false
  | .reading [] =>
    if r.x.op = 0x0C then let (img, t) := mcredImg s r (chunkItems s r.x c.lo c.hi) c.img; chunkWrite t e r c img
    else chunkPull s e r c
  | .bound =>
    if c.img.isEmpty && !(dstSectors r.x (chunkItems s r.x c.lo c.hi)).isEmpty then chunkPoison s e r c else chunkWrite s e r c c.img
  | .writing [] => pushNow s e r c
  | .refused fia kind => if (freeHold (getX s e)).isSome then .fault s 1 fia kind (some c.img) else .wait
  | _ => .wait

/-- A chunk completes (R107, R115, R247): its arrival is made and its share of the command's completion. -/
def chunkDone (s : State) (e : Eng) (r : Run) (c : Chunk) (psn : Bool) : State :=
  let n := imgLen r.x (chunkItems s r.x c.lo c.hi)
  let s1 := match r.x.bar with | some b => barArrive s b n | none => s
  modRun (failTaken s1 (.chunk e r.id c.idx 0)) e r.id (fun r => { r with stP := r.stP || psn, chunks := r.chunks.filter (fun d => d.idx != c.idx) })

/-- Whether a chunk is on its way: neither faulted nor deferred. -/
def chunkGoing (c : Chunk) : Bool := match c.phase with | .faulted | .refused _ _ | .deferred => false | _ => true

/-- A command's next chunk, formed where fewer than eight are on their way (R102). -/
def formChunk (s : State) (r : Run) : Option (Run × Chunk) :=
  if r.chunks.countP chunkGoing < 8 ∧ r.next < walkLen r.x then
    let hi := chunkEnd s r.x r.next
    let c : Chunk := ⟨r.nchunk, r.next, hi, .fresh, [], none, []⟩
    some ({ r with next := hi, nchunk := r.nchunk + 1, chunks := r.chunks ++ [c] }, c)
  else none

/-- Whether a command is split into chunks (R102). -/
def chunked (op : Nat) : Bool := decide (op ≤ 0x0C) || decide (op = 0x32 ∨ op = 0x33 ∨ op = 0x40 ∨ op = 0x41)

/-- Started commands among those listed that are not complete, or whose token has not fired. -/
def openRuns (s : State) (e : Eng) (ids : List Nat) : List Nat :=
  ids.filter (fun i => (getX s e).runs.any (fun r => r.id == i && (!r.done || r.gv.isSome)))

/-- Whether a chunk or access that was put back has still to start again. -/
def redoWaits (s : State) (e : Eng) (id idx : Nat) : Bool :=
  let back := fun (ph : CPhase) => match ph with | .fresh | .deferred => true | _ => false
  (match findRun s e id with
  | some r => r.chunks.any (fun c => c.idx == idx && back c.phase)
  | none => false) ||
  (match e with
  | .lantern m => (getCl s m.toNat).lan.accs.any (fun a => a.seq == id && back a.phase)
  | _ => false)

/-- Requests answered DEFERRED go out again in the order in which they were injected (R340): whether it is a chunk's turn. -/
def redoTurn (s : State) (e : Eng) (id idx : Nat) : Bool :=
  match ((getX s e).redo.filter (fun p => redoWaits s e p.2.1 p.2.2)) with
  | [] => true
  | p :: r => p.2 == (id, idx) || !(p :: r).any (fun q => q.2 == (id, idx))

/-- A chunk is put back (R325). -/
def putRedo (s : State) (e : Eng) (seq id idx : Nat) : State :=
  modX s e (fun x =>
    let l := x.redo.filter (fun p => p.2 != (id, idx) && redoWaits s e p.2.1 p.2.2)
    { x with redo := l.filter (fun p => decide (p.1 < seq)) ++ (seq, id, idx) :: l.filter (fun p => decide (seq ≤ p.1)) })

/-- Whether every command that an acquire puts before a command's accesses is complete (R80). -/
def runReady (s : State) (e : Eng) (r : Run) : Bool := (openRuns s e r.after).isEmpty && (chunked r.x.op || redoTurn s e r.id 0)

/-- The started commands of an engine's queue, before command `id` where one is named, that an acquire at a scope puts
before the queue's later accesses (R79, R80): loads and engine commands with a target within the scope, and engine commands
that make no access to memory. -/
def acqBefore (s : State) (e : Eng) (sc : Nat) (id : Option Nat) : List Nat :=
  (((getX s e).runs.takeWhile (fun q => some q.id != id)).filter (fun q =>
    let k := xferKind q.x
    let at0 := xferAt s ((engUnit e).getD (8 * Eng.cl e)) q.x
    (k.1 || k.2.2) && (at0.isEmpty || at0.any (fun w => decide (proximity (engWhere s e) w ≤ sc))))).map (fun q => q.id)

/-- A chunk by command and index: one in progress, or the next one newly formed. -/
def getChunk (s : State) (e : Eng) (id idx : Nat) : Option (State × Run × Chunk) :=
  match findRun s e id with
  | none => none
  | some r =>
    if !chunked r.x.op || r.done || engStopped s e || !runReady s e r || !redoTurn s e id idx then none
    else match r.chunks.find? (fun c => c.idx == idx) with
      | some c => some (s, r, c)
      | none =>
        if idx ≠ r.nchunk then none
        else (formChunk s r).map (fun p => (modRun s e id (fun _ => p.1), p.1, p.2))

/-- A fault of a chunk goes on the ring (R104, R108): compressed and expanded output is always held, and so is a Lantern
store; other output where a slot is free. -/
def chunkFault (s : State) (e : Eng) (r : Run) (c : Chunk) (side fia kind : Nat) (img : Option (List (Byte × Bool))) : State :=
  let cls := xferCls r.x.op
  let must := decide (cls = 2 ∨ cls = 3)
  let x := getX s e
  let h := if side = 1 then freeHold x else none
  if side = 1 ∧ must ∧ h.isNone then putChunk s e r.id { c with phase := .refused fia kind, img := img.getD [] }
  else
    let l := chunkItems s r.x c.lo c.hi
    let s1 := match h with
      | some n => modX s e (fun x => { x with holds := sput x.holds n ⟨img.getD [], true⟩ })
      | none => s
    let s2 := putChunk (failTaken s1 (.chunk e r.id c.idx 0)) e r.id { c with phase := .faulted, img := [], hslot := h }
    ringRecord s2 (Eng.cl e) ⟨e, cls, r.id, c.idx, h.isSome, h.getD 0, imgLen r.x l, kind⟩ (ringBits s2
      { fia := fia
        dia := ((dstRanges l).find? (fun d => d.2 != 0)).elim 0 Prod.fst
        sia := ((srcRanges l).head?).elim 0 Prod.fst
        bar := r.x.bar.getD 0
        cseq := r.cseq
        eng := e
        cls := cls
        kind := kind
        side := side
        hslot := h
        len := imgLen r.x l
        off := c.idx })

/-- A chunk whose write went unanswered completes with status TIMEOUT (R341). -/
def chunkTimeout (s : State) (e : Eng) (r : Run) (c : Chunk) : State :=
  chunkDone (modRun s e r.id (fun r => { r with stT := true })) e r c false

/-- Whether a chunk's arrival may be made: a release at partition scope, it follows the earlier commands of its engine (R80,
R93). -/
def arriveOk (s : State) (e : Eng) (r : Run) : Bool :=
  r.x.bar.isNone || ((getX s e).runs.takeWhile (fun q => q.id != r.id)).all (fun q => q.done && q.gv.isNone && q.task.isNone)

/-- Do with a chunk what its attempt comes to, faults included. -/
def chunkRun (s : State) (e : Eng) (r : Run) (c : Chunk) (t : CTry) : State :=
  match t with
  | .ok s1 true psn =>
    if arriveOk s1 e r then chunkDone s1 e r c psn
    else putChunk (modRun s1 e r.id (fun r => { r with stP := r.stP || psn })) e r.id { c with phase := .writing [], todo := [] }
  | .ok s1 false _ => s1
  | .miss s1 p a img =>
    rpcMiss (match img with | some i => putChunk s1 e r.id { c with phase := .bound, img := i } | none => s1) p a
  | .fault s1 side fia kind img => if kind = fkTimeout then chunkTimeout s1 e r c else chunkFault s1 e r c side fia kind img
  | .wait => s

/-- CHUNK_COMPLETE (R107) of chunk n of command j of an engine: it goes on as far as it can. One that faults is left to
MEMORY_SIDE_FAULT. -/
def chunkEvent (s : State) (e : Eng) (id idx : Nat) : State :=
  if ended s then s
  else asking s (.chunk e id idx 0) (fun s => match getChunk s e id idx with
    | none => s
    | some (s1, r, c) =>
      match chunkTry s1 e r c with
      | .fault _ _ _ k _ => if k = fkTimeout then chunkRun s1 e r c (chunkTry s1 e r c) else s
      | t => chunkRun s1 e r c t)

/-- MEMORY_SIDE_FAULT (R104) of a chunk. -/
def chunkFaultEvent (s : State) (e : Eng) (id idx : Nat) : State :=
  if ended s then s
  else asking s (.chunk e id idx 0) (fun s => match getChunk s e id idx with
    | none => s
    | some (s1, r, c) =>
      match chunkTry s1 e r c with
      | .fault s2 side fia kind img => if kind = fkTimeout then s else chunkRun s1 e r c (.fault s2 side fia kind img)
      | _ => s)

/-! ## Atomics and reads of a queue -/

/-- Acquire and release of a command's fn field (R174). -/
def fnSync (s : State) (e : Eng) (fn ia : Nat) : Sync := ⟨bits fn 4 2, bits fn 1 3, engWhere s e, whereIa s ia⟩

/-- The atomic of a command (R258, R259). -/
def xferAtom (x : Xfer) : AtomOp :=
  if 0x1A ≤ x.op then faddOp (x.op - 0x1A) x.a.toNat x.c
  else amoOp (x.op - 0x10) x.len x.a.toNat x.b.toNat

/-- A mismatch is recorded by the agent that issued the operation (R81). -/
def noteMiss (s : State) (e : Eng) (m : Option (Nat × Nat × Nat)) : State :=
  match m, engUnit e with
  | some (a, b, c), some k => modUnit s k (fun u => { u with core := scopeMiss u.core a b c })
  | some (a, b, c), none => modLan s (Eng.cl e) (fun l => { l with core := scopeMiss l.core a b c })
  | none, _ => s

/-- Whether every earlier command of an engine's queue that acts within the release's scope is complete and has fired its
token (R79, R80). -/
def releaseReady (s : State) (e : Eng) (r : Run) (sc : Nat) : Bool :=
  let earlier := (getX s e).runs.takeWhile (fun q => q.id != r.id)
  earlier.all (fun q => (q.done && q.gv.isNone) ||
    !((xferAt s ((engUnit e).getD (8 * Eng.cl e)) q.x).any (fun w => decide (proximity (engWhere s e) w ≤ sc))))

/-- An acquire of command `id` of an engine's queue takes hold of the queue's later accesses (R80). -/
def acqNote (s : State) (e : Eng) (sc id : Nat) : State :=
  let l := acqBefore s e sc (some id)
  modX s e (fun x => { x with acq := openRuns s e (x.acq ++ l) })

/-- Whether a command releases, and at which scope: BARRIVE is a release at partition scope whatever its ord (R261). -/
def xferRelease (x : Xfer) : Option Nat :=
  if x.op = 0x24 then some 4
  else if (0x10 ≤ x.op ∧ x.op ≤ 0x1C) ∨ x.op = 0x20 ∨ x.op = 0x22 then (if bit x.fn 5 then some (bits x.fn 1 3) else none)
  else none

/-- Whether a command's release is ready. -/
def relOk (s : State) (e : Eng) (r : Run) : Bool :=
  match xferRelease r.x with
  | some sc => releaseReady s e r sc
  | none => true

/-- A packet of a remote atomic (R336). -/
def atomPkt (s : State) (m a : Nat) (x : Xfer) : Packet :=
  let fadd := decide (0x1A ≤ x.op)
  let base := pkt0 s 0 (if fadd then 0x04 else 0x03)
  let body := if fadd then toBytes x.a.toNat 4 ++ [BitVec.ofNat 8 (x.op - 0x1A)] ++ toBytes (wrap x.c 16) 2
    else toBytes x.a.toNat 8 ++ toBytes x.b.toNat 8
  { base with
    ia := BitVec.ofNat 48 a
    dmod := BitVec.ofNat 16 m
    nfl := 1
    len := BitVec.ofNat 9 (x.len - 1)
    aop := if fadd then 0 else BitVec.ofNat 4 (x.op - 0x10)
    asz := if x.len = 8 then 1 else 0
    ord := BitVec.ofNat 2 (bits x.fn 4 2)
    scope := BitVec.ofNat 3 (bits x.fn 1 3)
    payload := padFlits body }

/-- The one access of an atomic or a read, as a chunk. -/
def oneAccess (r : Run) : Run :=
  if r.chunks.isEmpty && r.nchunk == 0 then { r with nchunk := 1, chunks := [⟨0, 0, 1, .fresh, [], none, []⟩] } else r

/-- Value of the access once it has come. -/
def accessImg (r : Run) : Option (List (Byte × Bool)) :=
  match r.chunks with
  | c :: _ => match c.phase with | .bound => some c.img | .reading [] => some c.img | _ => none
  | [] => none

/-- The byte at offset `o` of ranges taken in order. -/
def atOff : List (Nat × Nat) → Nat → Nat
  | [], o => o
  | (a, n) :: r, o => if o < n ∨ r.isEmpty then a + o else atOff r (o - n)

/-- What fia names of an atomic or a read (R104): its target, or the 2 KiB of a granule that it needed (R112). -/
def targetFia (s : State) (t n a : Nat) : Nat := if rpcOn s && iaRow (t % 2 ^ 48) == some 6 then fiaOf s [(t, n)] a else t

/-- A fault of an atomic or a read, at byte `a`, goes on the ring (R104). -/
def accessFault (s : State) (e : Eng) (r : Run) (a kind : Nat) : State :=
  let cls := xferCls r.x.op
  let fia := targetFia s (if cls = 6 then r.x.src else r.x.dst) r.x.len a
  let s1 := modRun (failTaken s (.chunk e r.id 0 0)) e r.id (fun r => { r with chunks := r.chunks.map (fun c => { c with phase := .faulted, img := [] }) })
  ringRecord s1 (Eng.cl e) ⟨e, cls, r.id, 0, false, 0, r.x.len, kind⟩ (ringBits s1
    { fia := fia, cseq := r.cseq, eng := e, cls := cls, kind := kind, side := if cls = 5 then 1 else 0, len := r.x.len
      tag := (r.tag.map Prod.fst).getD 0 })

/-- An access that got no answer in time: its value is poisoned (R341). -/
def accessTimeout (s : State) (e : Eng) (r : Run) : State :=
  modRun s e r.id (fun r => { r with stT := true, chunks := r.chunks.map (fun c => { c with phase := .bound, img := List.replicate r.x.len (0, true) }) })

/-- An operation with a scope mismatch acts as its form without acquire or release (R81). -/
def dropSync (s : State) (e : Eng) (id : Nat) : State := modRun s e id (fun r => { r with x := { r.x with fn := r.x.fn % 16 } })

/-- What the access of an atomic or a read comes to: its state after it, or a fault. A mismatch of an atomic at another
module that its own scope shows is recorded as it leaves (R81, R258). -/
def accessTry (s : State) (e : Eng) (r : Run) : Except (Nat × Nat) State :=
  let put := fun (t : State) (ph : CPhase) (img : List (Byte × Bool)) =>
    modRun t e r.id (fun q => { q with chunks := [⟨0, 0, 1, ph, img, q.chunks.head?.bind (fun c => c.hslot), []⟩], nchunk := 1 })
  let peer := fun (t : State) (p : Packet) =>
    let (rid, t1) := request t p (.chunk e r.id 0 0)
    put t1 (.reading [rid]) (List.replicate r.x.len (0, false))
  if xferCls r.x.op = 6 then
    let rs := resRuns s (runsOf [(r.x.src, r.x.len)]) .rd
    match runFault rs with
    | some f => .error f
    | none =>
      match runMiss rs with
      | some (p, a) => .ok (rpcMiss s p a)
      | none =>
        let t := rs.foldl (fun (p : List (Byte × Bool) × List Nat × State) q =>
          match q.2.2.2 with
          | .peer m a =>
            let (rid, t) := request p.2.2 (rdPkt p.2.2 m a q.2.2.1) (.chunk e r.id 0 p.1.length)
            (p.1 ++ List.replicate q.2.2.1 (0, false), p.2.1 ++ [rid], t)
          | .ok loc => let (b, t) := readLoc p.2.2 loc q.2.2.1; (p.1 ++ b, p.2.1, t)
          | _ => p) ([], [], s)
        .ok (put t.2.2 (if t.2.1.isEmpty then .bound else .reading t.2.1) t.1)
  else if r.x.op = 0x25 then .ok (put s .bound ((toBytes r.x.a.toNat 8).map (fun b => (b, false))))
  else if !relOk s e r then .ok s
  else match atomicIa s s.chip.slot s.chip.pasid r.x.dst (xferAtom r.x) (fnSync s e r.x.fn r.x.dst) with
    | .fault k => .error (r.x.dst, k)
    | .miss p a => .ok (rpcMiss s p a)
    | .peer m a =>
      match (syncMiss (fnSync s e r.x.fn r.x.dst) none).1 with
      | none => .ok (peer s (atomPkt s m a r.x))
      | some w => .ok (peer (noteMiss (dropSync s e r.id) e (some w)) (atomPkt s m a { r.x with fn := r.x.fn % 16 }))
    | .done old psn t miss =>
      .ok (put (noteMiss (if miss.isSome then dropSync t e r.id else t) e miss) .bound ((toBytes old r.x.len).map (fun b => (b, psn))))

/-! ## Completion and tokens -/

/-- A started command is complete (R83). -/
def runDone (s : State) (e : Eng) (id : Nat) : State := modRun s e id (fun r => { r with done := true, chunks := [] })

/-- The token that a task produces, as a number on this module (R24, R276). -/
def codeTok (s : State) (m serial : Nat) : Option Nat :=
  match (getCl s m).tasks.find? (fun t => t.serial == serial) with
  | none => none
  | some t =>
    let h := imTok t.post.img.toNat 3
    let a := handleAt s.partMod h
    if bit h 47 && decide (a.1 = s.partMod) then some (4096 * a.2.1 + a.2.2) else none

/-- The task of an instance of a unit. -/
def instTask (u : Unit) (serial : Nat) : Option Nat :=
  match u.inst with
  | some i => if i.serial = serial then some i.task else (u.tracker.find? (fun p => p.1 == serial)).map Prod.snd
  | none => (u.tracker.find? (fun p => p.1 == serial)).map Prod.snd

/-- Commands that are complete and have no token left leave the engine, and fetches may see the code they wrote (R24); a move
task's stays until its instance drains. -/
def cleanRuns (s : State) (e : Eng) : State :=
  let over' := fun (r : Run) => r.done && r.gv.isNone && r.task.isNone
  let m := Eng.cl e
  let s1 := ((getX s e).runs.filter over').foldl (fun t r =>
    let tok := (engUnit e).bind (fun k => (instTask (getUnit t k) r.inst).bind (codeTok t m))
    codeShow t m (.run e r.id) tok) s
  modX s1 e (fun x => { x with runs := x.runs.filter (fun r => !over' r) })

/-- The value of a tagged read arrives (R68, R72): it is written where its instance still runs (R262), delivered to the
commands held at TAIL that wait for it (R74), and its tag is cleared. -/
def arriveReg (u : Unit) (inst : Option Nat) (h : Nat) (val : Vec) (psn : Bool) (tag : Option (Nat × Nat)) : Unit :=
  let live := match inst with | some n => u.inst.map (fun i => i.serial) == some n | none => true
  let core := arriveMeta u.core tag h live psn
  let core := if live && decide (h < 64) then wrS core h (val.setWidth 64) else core
  let fix := fun (c : QCmd) => { c with ops := c.ops.map (fun o =>
    match tag with
    | some (_, g) => if o.wait.contains g then { o with val := val, poison := psn, wait := o.wait.filter (· != g) } else o
    | none => o) }
  { u with
    core := core
    v := if live && decide (64 ≤ h ∧ h < 96) then sset 0 u.v (h - 64) val else u.v
    uce0 := { u.uce0 with q := u.uce0.q.map fix }
    uce1 := { u.uce1 with q := u.uce1.q.map fix }
    mx := { u.mx with q := u.mx.q.map fix } }

/-- An increment of a completion token (R86, R89): discarded once its instance has ended. -/
def giveToken (u : Unit) (inst sem : Nat) (err : Bool) : Unit :=
  if u.inst.any (fun i => i.serial == inst) then { u with incs := u.incs ++ [⟨sem, 1, err, some ⟨0, 0⟩⟩] } else u

/-- The next token of a copy engine fires (R84): that of the first command with a token, once it is complete. -/
def fireToken (s : State) (e : Eng) : State :=
  match (getX s e).runs.find? (fun r => r.gv.isSome), engUnit e with
  | some r, some k =>
    if !r.done then s
    else
      let s1 := modUnit s k (fun u => giveToken u r.inst (r.gv.getD 0) (r.stP || r.stT || r.stA))
      cleanRuns (modRun s1 e r.id (fun r => { r with gv := none })) e
  | _, _ => s

end Sys2Proof.Machine
end

