-- ==== Sys2Proof/Machine/Queue.lean ====
section
/-! DEFINITION. The engine queues of a unit: what a command captures, its hand-off and its deferred checks, its start and its completion (spec 04 R67 to R74, 05 R83 to R89, 13 R232, R233, 14 R245, R261 to R264). -/

namespace Sys2Proof.Machine

/-! ## What a command captures -/

/-- Value of loop counter `i` (R156, R197): zero where its level is not active. -/
def loopCnt (u : Unit) (i : Nat) : Nat := ((u.loops[i]?).map (fun l => l.cnt)).getD 0

/-- The format-table entry a matrix command takes its parameters from (R139). -/
def ftEntry (u : Unit) : Nat :=
  let sel := (rdCsr u.core 0x13).toNat
  let x := if bit sel 2 then loopCnt u (bits sel 0 2) % 16 else 0
  (rdCsr u.core (0x20 + x)).toNat

/-- Parameters captured at issue (R136, R139, R233): from the format table, or from the encoding and the CSRs. For a
DRAIN fa is its destination format. -/
def mPar (u : Unit) (drain : Bool) (f : MF) : MPar :=
  let hb := sextN (bits (rdCsr u.core 0x40).toNat 0 9) 9
  if f.ft = 1 then
    let e := ftEntry u
    ⟨if drain then bits e 17 5 else bits e 27 5, bits e 22 5, bits e 12 3, bit e 11, bits e 15 2, bit e 8, bits e 9 2, hb⟩
  else
    let fb := f.fb.toNat
    if drain then ⟨f.fa.toNat, 0, 0, false, bits fb 3 2, bit fb 2, bits fb 0 2, hb⟩
    else ⟨f.fa.toNat, fb, bits (rdCsr u.core 0x11).toNat 0 3, bit (rdCsr u.core 0x12).toNat 0, 0, false, 0, hb⟩

/-- No parameters. -/
def par0 : MPar := ⟨0, 0, 0, false, 0, false, 0, 0⟩

/-- Parameters of a command. -/
def parOf (u : Unit) (i : Instr) : MPar :=
  match i with
  | .mmaQ f | .mmaV f | .mmaR f | .wld f => mPar u false f
  | .drain f | .drainZ1 f | .drainZ2 f => mPar u true f
  | _ => par0

/-- Whether a format-table entry serves the instruction that uses it (R139, R243). -/
def ftOk (u : Unit) (i : Instr) : Bool :=
  let e := ftEntry u
  let p := parOf u i
  let rsv := decide (bits e 0 8 = 0)
  let win := decide (mxClass p.fa = some 3 ∨ mxClass p.fa = some 4) || decide (p.w < 6)
  let cls := match mxClass p.fa, mxClass p.fb with | some x, some y => x == y | _, _ => false
  match i with
  | .mmaQ f | .mmaR f => f.ft = 0 || (rsv && cls && win)
  | .mmaV f => f.ft = 0 || (rsv && cls && win && (!fmtScaled p.fa || decide (f.sb.toNat ≤ 28)))
  | .wld f => f.ft = 0 || (rsv && (mxClass p.fb).isSome)
  | .drain f | .drainZ1 f | .drainZ2 f => f.ft = 0 || (rsv && (fmtKind p.fa).isSome)
  | _ => true

/-! ## Hand-off -/

/-- How each command reads its operands. -/
def resolverOf (i : Instr) (p : MPar) : Resolver :=
  match i with
  | .mmaQ f => resMmaQ f
  | .mmaV f => resMmaV f (fmtScaled p.fa)
  | .mmaR f => resMmaR f p.fa
  | .wld f => resWld f p.fb
  | .swap _ => resNone 0x85
  | .zero _ => resNone 0x86
  | .drain f => resDrain 0x88 f p.fa false
  | .drainZ1 f => resDrain 0x89 f p.fa true
  | .drainZ2 f => resDrain 0x8A f p.fa true
  | .cp f => resCopy 0x00 f
  | .cpP f => resCopy 0x01 f
  | .cpBox f => resMove 0x02 f
  | .cpGth f => resMove 0x04 f
  | .cpSct f => resMove 0x05 f
  | .cpCvt f => resMove 0x06 f
  | .cpZip f => resMove 0x07 f
  | .cpUnz f => resMove 0x08 f
  | .cpXp f => resMove 0x0A f
  | .mcred f => resMcred f
  | .amoAdd f => resAmo 0x10 f
  | .amoAnd f => resAmo 0x11 f
  | .amoOr f => resAmo 0x12 f
  | .amoXor f => resAmo 0x13 f
  | .amoMin f => resAmo 0x14 f
  | .amoMax f => resAmo 0x15 f
  | .amoMinu f => resAmo 0x16 f
  | .amoMaxu f => resAmo 0x17 f
  | .amoSwp f => resAmo 0x18 f
  | .amoCas f => resAmo 0x19 f
  | .amoFaddF32 f => resFadd 0x1A f
  | .amoFaddBf16 f => resFadd 0x1B f
  | .amoFaddF16 f => resFadd 0x1C f
  | .sig f => resSig f
  | .swait f => resSwait f
  | .bpost f => resBar 0x22 f
  | .bwait f => resBwait f
  | .barrive f => resBar 0x24 f
  | .semrd f => resSemrd f
  | .cpost f => resCpost f
  | .ldr f => resLdr 0x30 f
  | .ldrV f => resLdr 0x31 f
  | .str f => resStr f
  | .strV f => resStrV f
  | _ => resNone 0xFF

/-- Descriptors and images that a command's checks read at hand-off: local IAs and lengths (R47, R232, R245). -/
def cmdReads (i : Instr) (r : RIn) : List (Nat × Nat) :=
  match i with
  | .cpBox f | .cpGth f | .cpSct f | .cpCvt f | .cpZip f | .cpUnz f | .cpXp f =>
    if !r.psn f.rb && (decide (r.val f.rb % 64 = 0) && decide (r.val f.rb + 64 ≤ unitSize)) then [(unitBase r.k + r.val f.rb, 64)] else []
  | .cpost f =>
    if !r.psn f.ra && (decide (r.val f.ra % 64 = 0) && decide (r.val f.ra + 64 ≤ unitSize)) then
      postReads r.s.chip.mem (unitBase r.k) unitSize (r.val f.ra)
    else []
  | _ => []

/-- Destination holder of a command that returns a value (R69). -/
def cmdDst (i : Instr) : Option Nat :=
  match i with
  | .amoAdd f | .amoAnd f | .amoOr f | .amoXor f | .amoMin f | .amoMax f | .amoMinu f | .amoMaxu f | .amoSwp f | .amoCas f =>
    if f.rd = 0 then none else some (hS f.rd.toNat)
  | .semrd f | .ldr f => some (hS f.rd.toNat)
  | .ldrV f => some (hV (f.rd.toNat % 32))
  | _ => none

/-- Token fields of a command. -/
def tokOf (i : Instr) : TokF :=
  match form i with
  | .m _ f => f.tok
  | .c _ f => f.tok
  | _ => ⟨0, 0, 0, 0⟩

/-- Consumed tokens: semaphore and count (R170). -/
def tokTake (t : TokF) : List (Nat × Nat) :=
  ([t.tk0, t.tk1, t.tk2].filter (fun x => bit x.toNat 7)).map (fun x => (bits x.toNat 2 5, bits x.toNat 0 2 + 1))
/-- Produced token (R170). -/
def tokGive (t : TokF) : Option Nat := if bit t.gv.toNat 5 then some (bits t.gv.toNat 0 5) else none

/-- The queue of a slot. -/
def slotQ (u : Unit) (slot : Nat) : List QCmd :=
  match slot with | 3 => u.mx.q | 4 => u.uce0.q | _ => u.uce1.q
/-- Replace the queue of a slot. -/
def setSlotQ (u : Unit) (slot : Nat) (q : List QCmd) : Unit :=
  match slot with
  | 3 => { u with mx := { u.mx with q := q } }
  | 4 => { u with uce0 := { u.uce0 with q := q } }
  | _ => { u with uce1 := { u.uce1 with q := q } }

/-- Slot of the queue an engine serves. -/
def engSlot : Eng → Nat
  | .mat _ => 3
  | .uce _ q => if q == 0 then 4 else 5
  | _ => 0

/-- The accumulator tile a matrix command names: an MMA or ZERO writes it, a DRAIN reads it (R148). -/
def namedTile : Instr → Option Nat
  | .mmaQ f | .mmaV f | .mmaR f | .zero f | .drain f | .drainZ1 f | .drainZ2 f => some f.tile.toNat
  | _ => none

/-- Whether a slice write to the tile a matrix command names is in flight, which holds its hand-off (R148, R244). -/
def tileFlight (u : Unit) (i : Instr) : Bool :=
  match namedTile i with
  | some t => u.flight.any (fun f => f.cls == 3 && f.reg % 16 == t)
  | none => false

/-- Whether R74 holds a command before hand-off. -/
def cmdGated (u : Unit) (c : QCmd) : Bool :=
  (if c.tailed then c.gate.any (fun p => tagLive u.core p.1 p.2) || c.ops.any (fun o => !o.wait.isEmpty)
   else !(cmdGate u.core c).isEmpty) || tileFlight u c.ins

/-- What a command reads at hand-off (R74, R232, R245). -/
def cmdIn (s : State) (k : Nat) (c : QCmd) : RIn :=
  let u := getUnit s k
  ⟨s, k, fun h => if c.tailed || c.opened then ((c.ops.find? (fun o => o.h == h)).map (fun o => (o.val.toNat, o.poison))).getD (0, false)
                  else holderVal u h⟩

/-- A command is handed off with its operands; the post of a CPOST is captured (R264). -/
def handOff (s : State) (k : Nat) (c : QCmd) (x : Xfer) : State × QCmd :=
  if x.op = 0x28 then
    let cl := k / 8
    let key := (getCl s cl).runId
    let o := readPost s.chip.mem (unitBase k) unitSize x.src
    let s1 := modCl s cl (fun m => { m with runId := key + 1, child := sput m.child key (mkPost s cl (1 + k % 8) o) })
    (s1, { c with handed := true, x := some { x with post := key } })
  else (s, { c with handed := true, x := some x })

/-- An engine command issues from slot 3, 4 or 5 (R67, R74, R232, R245): it enters its queue, and is handed off at once
where nothing holds it; its value checks are then those of its bundle. -/
def cmdSem (i : Instr) : Sem := unitOnly (fun v =>
  match v.g with
  | .lantern _ => notHere
  | .unit k =>
    let dst := cmdDst i
    let c : QCmd := {
      ins := i, slot := v.slot, addr := v.addr, inst := (v.u.inst.map (fun n => n.serial)).getD 0, issued := v.s.clk
      handed := false, tailed := false, opened := false, gate := [], ops := [], par := parOf v.u i, tag := none, x := none }
    let ut := getUnit v.st k.toNat
    let free := (slotQ v.u v.slot).all (fun q => q.handed || q.opened) && !((cmdOps i c.par).any (tainted v.core) || tileFlight ut i)
    let rin : RIn := ⟨v.st, k.toNat, holderVal v.u⟩
    let r := resolverOf i c.par rin
    { eng := some v.slot
      finds := if free then cmdReads i rin else []
      tag := dst.isSome
      wr := dst.toList
      chk := (needIll (ftOk v.u i)).and (if free then r.1 else {})
      eff := fun t =>
        let u := getUnit t k.toNat
        let c := match dst with
          | some h => if (cmdOps i c.par).contains h then { c with gate := tagsOf v.core (hmeta v.core h).taint } else c
          | none => c
        let (u1, tag) : Unit × Option (Nat × Nat) := match dst with
          | none => (u, none)
          | some h =>
            let tg := (freeTag u.core 16).getD 0
            ({ u with core := takeTagFor u.core tg h }, some (tg, u.core.gen))
        let t1 := setUnit t k.toNat u1
        let (t2, c2) := if free then handOff t1 k.toNat { c with tag := tag } r.2 else (t1, { c with tag := tag })
        modUnit t2 k.toNat (fun u => setSlotQ u v.slot (slotQ u v.slot ++ [c2])) })

/-- The gate of a held command opens: it takes its register operands as a bundle of this clk would read them (R74, R232). -/
def openCmd (u : Unit) (c : QCmd) : QCmd :=
  if c.tailed then { c with opened := true }
  else { c with opened := true, ops := (cmdOps c.ins c.par).map (fun h => let p := holderVal u h; ⟨h, BitVec.ofNat 4096 p.1, p.2, []⟩) }

/-- A queue at the start of a clk: its held commands open in order up to the first that is gated (R67, R74). -/
def openQ (u : Unit) : List QCmd → List QCmd
  | [] => []
  | c :: r =>
    if c.handed || c.opened then c :: openQ u r
    else if cmdGated u c then c :: r
    else openCmd u c :: openQ u r

/-- The first opened command of a queue is handed off, with the memory objects as this clk's bundle left them (R245). One
whose check fails leaves the queue; its trap is deferred, or dropped where its instance has ended (R232, R74). -/
def handOffNext (s : State) (k slot : Nat) : State :=
  let q := slotQ (getUnit s k) slot
  match q.dropWhile (fun c => c.handed) with
  | [] => s
  | c :: rest =>
    if !c.opened then s
    else
      let before := q.takeWhile (fun c => c.handed)
      let (chk, x) := resolverOf c.ins c.par (cmdIn s k c)
      let s := touchAll s (cmdReads c.ins (cmdIn s k c))
      match chk.cause with
      | none =>
        let (s1, c1) := handOff s k c x
        modUnit s1 k (fun u => setSlotQ u slot (before ++ c1 :: rest))
      | some (cause, _) =>
        modUnit s k (fun u =>
          let u := setSlotQ u slot (before ++ rest)
          let u := match c.tag with
            | some (t, g) => if tagLive u.core t g then { u with core := clearTag u.core t } else u
            | none => u
          if c.tailed then u else { u with dfr := u.dfr ++ [⟨cause, c.slot, 2 ^ 63 + c.addr⟩] })

/-- COMMAND_HAND_OFF (R67, R74, R232, R245) of an engine queue: before the clk's bundle its gates open, and after that
bundle (`arg.flag`) the first opened command is handed off. -/
def execCommandHandOff (s : State) : Out :=
  .next (match engUnit s.arg.eng with
  | none => s
  | some k =>
    let slot := engSlot s.arg.eng
    if slot = 0 || ended s then s
    else if s.arg.flag then handOffNext s k slot
    else modUnit s k (fun u => setSlotQ u slot (openQ u (slotQ u slot))))

/-- DEFERRED_CHECK_TRAP (R232): at a bundle boundary the first deferred failure traps. -/
def execDeferredCheckTrap (s : State) : Out :=
  let k := s.arg.k.toNat
  let u := getUnit s k
  .next (match u.dfr with
  | [] => s
  | d :: r =>
    if u.stop.isSome || ended s then s
    else unitTrap (modUnit s k (fun u => { u with dfr := r })) k d.cause d.slot d.val (bits d.val 0 21) true)

/-! ## Start -/

/-- Whether a started command keeps later ones from starting (R85, R261, R301): a wait, an acquiring atomic (R80), or a CPOST
whose post is not yet accepted. -/
def runBlocks (r : Run) : Bool :=
  !r.done && (decide (r.x.op = 0x21 ∨ r.x.op = 0x23) || (decide (r.x.op = 0x28) && r.next == 0) || (decide (0x10 ≤ r.x.op ∧ r.x.op ≤ 0x1C) && bit r.x.fn 4))

/-- Whether the semaphores hold the counts that consumed tokens name (R85). -/
def takeOk (u : Unit) (ts : List (Nat × Nat)) : Bool :=
  ts.all (fun p => decide ((ts.filter (fun q => q.1 == p.1)).foldl (fun a q => a + q.2) 0 ≤ (sget {} u.sems p.1).cnt))

/-- Take the counts, each as an acquire at unit scope (R85, R86, R81). -/
def takeTokens (u : Unit) (ts : List (Nat × Nat)) : Unit :=
  ts.foldl (fun u p =>
    let x := sget {} u.sems p.1
    let core := match acqMiss x.rel 0 0 with | some (o, kd) => scopeMiss u.core 0 o kd | none => u.core
    decSem { u with core := core } p.1 p.2) u

/-- The tagged-read value of a semaphore (R89): the count held in this clk, before its decrements (R87) but for those of the
reading command itself, which come before its read (R85). -/
def semValue (u : Unit) (i own : Nat) : Nat :=
  let x := sget {} u.sems i
  x.cnt + sget 0 u.decs i - own + (if x.err then 256 else 0) + (if x.ovf then 512 else 0)

/-- Counts that consumed tokens take of one semaphore. -/
def takenOf (ts : List (Nat × Nat)) (i : Nat) : Nat := (ts.filter (fun p => p.1 == i)).foldl (fun a p => a + p.2) 0

/-- A command starts: it leaves the queue for the engine (R85, R143). -/
def startCmd (s : State) (e : Eng) (k : Nat) (c : QCmd) (x : Xfer) : State :=
  let cl := k / 8
  let id := (getCl s cl).runId
  let u := getUnit s k
  let tk := tokTake (tokOf c.ins)
  let s1 := setUnit s k (takeTokens u tk)
  let x := if x.op = 0x25 then { x with a := BitVec.ofNat 64 (semValue (getUnit s1 k) x.a.toNat (takenOf tk x.a.toNat)) } else x
  let acq := openRuns s e ((getX s e).acq ++ (if tk.isEmpty then [] else acqBefore s e 0 none))
  let r : Run := oneAccess' {
    id := id, x := x, cseq := (getX s e).cseq, inst := c.inst, slot := c.slot, gv := tokGive (tokOf c.ins), tag := c.tag
    next := 0, nchunk := 0, chunks := [], done := false, stP := false, stT := false, stA := false, task := none
    after := acq }
  modCl (modX s1 e (fun q => { q with q := q.q.drop 1, runs := q.runs ++ [r], acq := acq, cseq := (q.cseq + 1) % 2 ^ 32 })) cl
    (fun m => { m with runId := id + 1 })
where
  /-- The access of an atomic or a read stands as one chunk. -/
  oneAccess' (r : Run) : Run :=
    if 5 ≤ xferCls r.x.op ∨ r.x.op = 0x25 then oneAccess r else r

/-- A started SWAIT takes its count once it suffices, and completes (R261); an acquire orders the queue's later accesses
behind its earlier ones (R80). -/
def swaitTry (s : State) (e : Eng) (k id : Nat) : State :=
  match findRun s e id with
  | none => s
  | some r =>
    let u := getUnit s k
    let i := r.x.a.toNat
    let n := r.x.b.toNat
    let y := sget {} u.sems i
    if r.x.op ≠ 0x21 ∨ r.done ∨ ended s ∨ y.cnt < n then s
    else
      let sc := bits r.x.fn 1 3
      let miss := if bit r.x.fn 4 then acqMiss y.rel sc 0 else none
      let core := match miss with | some (o, kd) => scopeMiss u.core sc o kd | none => u.core
      let s1 := if bit r.x.fn 4 && miss.isNone then acqNote s e sc id else s
      cleanRuns (runDone (modUnit s1 k (fun u => decSem { u with core := core } i n)) e id) e

/-- ENGINE_COMMAND_START (R85): the command at the head of a UCE queue starts once its counts suffice. -/
def execEngineCommandStart (s : State) : Out :=
  .next (match engUnit s.arg.eng with
  | none => s
  | some k =>
    match (getX s s.arg.eng).q with
    | [] => s
    | c :: _ =>
      match c.x with
      | none => s
      | some x =>
        if (getX s s.arg.eng).runs.any runBlocks || engStopped s s.arg.eng || ended s
            || !takeOk (getUnit s k) (tokTake (tokOf c.ins)) then s
        else
          let id := (getCl s (k / 8)).runId
          swaitTry (startCmd s s.arg.eng k c x) s.arg.eng k id)

/-! ## Waits, completion, tokens and signals -/

/-- A started command of the event's engine, by its number. -/
def argRun (s : State) : Option Run :=
  match findRun s s.arg.eng s.arg.j with
  | some r => if r.done || ended s then none else some r
  | none => none

/-- SWAIT_GRANT (R261): the count suffices; it is taken, with an acquire where the form asks for one. -/
def execSwaitGrant (s : State) : Out :=
  .next (match engUnit s.arg.eng with
  | some k => swaitTry s s.arg.eng k s.arg.j
  | none => s)

/-- BARRIER_WAIT_COMPLETE (R94, R261): the first read that finds the named phase; the read acquires where asked, and a
poisoned sector gives status POISONED. An acquire scope narrower than the barrier's region is a static mismatch whatever
made the phase flip: R94 exempts arrivals from the test against the record alone (log entry 42). -/
def execBarrierWaitComplete (s : State) : Out :=
  .next (match argRun s with
  | some r =>
    let a := r.x.dst % 2 ^ 48
    let s1 := touchChip s a 16
    let b := Barrier.ofNat (rdMem s1.chip.mem.cells a 16)
    if r.x.op ≠ 0x23 ∨ !runReady s s.arg.eng r ∨ b.phase ≠ bit r.x.a.toNat 0 then s
    else
      let e := s.arg.eng
      let y := fnSync s1 e r.x.fn r.x.dst
      let miss := (acqMiss (recAt s1 (.chip a)) y.sc (proximity y.ag y.at0)).map (fun p => (y.sc, p.1, p.2))
      let s2 := if bit r.x.fn 4 then (if miss.isNone then acqNote s1 e y.sc r.id else noteMiss s1 e miss) else s1
      let psn := psnRange s1.chip.mem a 16
      cleanRuns (runDone (modRun s2 e r.id (fun r => { r with stP := psn })) e r.id) e
  | none => s)

/-- The record a BPOST leaves (R81, R93). -/
def postRec (s : State) (e : Eng) (x : Xfer) (r : Option RelRec) : Option RelRec := recAfter (fnSync s e x.fn x.dst) r

/-- A performed atomic that acquires takes hold of the queue's later accesses (R80). -/
def acqDone (s : State) (e : Eng) (id : Nat) : State :=
  match findRun s e id with
  | some r => if xferCls r.x.op = 5 ∧ bit r.x.fn 4 then acqNote s e (bits r.x.fn 1 3) id else s
  | none => s

/-- COMMAND_COMPLETE (R83): a command whose accesses are performed and whose values have come is complete; a barrier
update or an atomic that returns nothing is performed, and a signal leaves. -/
def completeRun (s : State) (e : Eng) (r : Run) : State :=
  let fin := fun (t : State) => cleanRuns (runDone (acqDone t e r.id) e r.id) e
  let op := r.x.op
  if !runReady s e r then s
  else if chunked op then (if walkLen r.x ≤ r.next ∧ r.chunks.isEmpty then fin s else s)
  else if op = 0x22 then
    if !relOk s e r then s
    else if r.x.a = 0 then fin s
    else
      let y := fnSync s e r.x.fn r.x.dst
      let s1 := noteMiss s e (syncMiss { y with ord := bits y.ord 1 1 * 2 } none).1
      fin (barUpdate s1 r.x.dst (fun b => b.post r.x.a.toNat) (postRec s e r.x))
  else if op = 0x24 then (if relOk s e r then fin (barArrive s r.x.dst r.x.a.toNat) else s)
  else if op = 0x20 then
    if r.next ≠ 0 ∨ !relOk s e r then s
    else
      let k := (engUnit e).getD 0
      let sc := bits r.x.fn 1 3
      let px := proximity (engWhere s e) (whereLia s (unitBase r.x.dst))
      let rel := bit r.x.fn 5
      let s1 := if rel && decide (sc < px) then noteMiss s e (some (sc, px, 0)) else s
      modCl (modRun s1 e r.id (fun r => { r with next := 1 })) (k / 8) (fun c => { c with signals := c.signals ++ [
        { unit := r.x.dst, sem := r.x.a.toNat, k := r.x.b.toNat, slot := s.chip.slot
          rel := if rel && decide (px ≤ sc) then some ⟨sc, px⟩ else none, run := some (e, r.id) }] })
  else if op = 0x28 then (if (getCl s (Eng.cl e)).child.any (fun p => p.1 == r.x.post) then s else fin s)
  else if (op = 0x25 ∨ xferCls op = 6) ∨ (xferCls op = 5 ∧ op < 0x1A ∧ r.x.rd ≠ 0) then s
  else if xferCls op = 5 then
    match accessImg r with
    | some _ => fin s
    | none =>
      if r.chunks.map (fun c => c.phase) ≠ [CPhase.fresh] ∨ engStopped s e then s
      else asking s (.chunk e r.id 0 0) (fun s => match accessTry s e r with
        | .error _ => s
        | .ok t => match (findRun t e r.id).bind accessImg with | some _ => fin t | none => t)
  else s

/-- COMMAND_COMPLETE (R83) of command j of an engine. -/
def execCommandComplete (s : State) : Out :=
  .next (match argRun s with
  | some r => completeRun s s.arg.eng r
  | none => s)

/-- ENGINE_TOKEN_FIRE (R84) of a UCE queue: every token that may fire. -/
def uceTokenFire (s : State) : State :=
  if ended s then s else (getX s s.arg.eng).runs.foldl (fun t _ => fireToken t s.arg.eng) s

/-- A semaphore takes an arrival of this clk (R87). -/
def applySignal (s : State) (g : Signal) : State :=
  let u := getUnit s g.unit
  let s1 := if u.inst.isSome && decide (g.slot = s.chip.slot) then
      modUnit s g.unit (fun u => { u with incs := u.incs ++ [⟨g.sem, g.k, false, g.rel⟩] })
    else modLan s (g.unit / 8) (fun l => { l with core := bumpSat l.core 0x95 1 })
  match g.run with
  | some (e, id) => cleanRuns (runDone s1 e id) e
  | none => s1

/-- SIGNAL_ARRIVAL (R89): the first signal on its way in a cluster arrives. -/
def execSignalArrival (s : State) : Out :=
  let m := s.arg.m.toNat
  .next (match (getCl s m).signals with
  | [] => s
  | g :: r => applySignal (modCl s m (fun c => { c with signals := r })) g)

/-- CHUNK_COMPLETE (R107) of chunk n of command j of a copy engine. -/
def copyChunkComplete (s : State) : State := chunkEvent s s.arg.eng s.arg.j s.arg.n

/-- The value of a returning read or atomic (R68, R72): performed, then delivered. -/
def runArrive (s : State) (e : Eng) (r : Run) : State :=
  match engUnit e, accessImg r with
  | some k, some img =>
    let psn := img.any (fun b => b.2)
    let val := BitVec.ofNat 4096 (ofBytes (img.map Prod.fst))
    let s1 := modUnit s k (fun u => arriveReg u (some r.inst) r.x.rd val psn r.tag)
    let s2 := if xferCls r.x.op = 5 ∧ psn then modRun s1 e r.id (fun r => { r with stP := true }) else s1
    cleanRuns (runDone (acqDone s2 e r.id) e r.id) e
  | _, _ => s

/-- TAGGED_READ_ARRIVAL (R68, R72) of command j of a UCE queue. -/
def uceReadArrival (s : State) : State :=
  match argRun s with
  | some r =>
    if !(r.x.op = 0x25 ∨ xferCls r.x.op = 6 ∨ (xferCls r.x.op = 5 ∧ r.x.op < 0x1A ∧ r.x.rd ≠ 0)) then s
    else if (accessImg r).isSome then runArrive s s.arg.eng r
    else if !runReady s s.arg.eng r && r.x.op ≠ 0x25 then s
    else if r.chunks.map (fun c => c.phase) ≠ [CPhase.fresh] ∨ engStopped s s.arg.eng then s
    else asking s (.chunk s.arg.eng r.id 0 0) (fun s => match accessTry s s.arg.eng r with
      | .error _ => s
      | .ok t => match findRun t s.arg.eng r.id with | some q => runArrive t s.arg.eng q | none => t)
  | none => s

/-- MEMORY_SIDE_FAULT (R104) of a copy engine: of chunk n of command j, or of its one access. -/
def copyFault (s : State) : State :=
  match argRun s with
  | some r =>
    if chunked r.x.op then chunkFaultEvent s s.arg.eng r.id s.arg.n
    else if runReady s s.arg.eng r ∧ (xferCls r.x.op = 5 ∨ xferCls r.x.op = 6) ∧ r.chunks.map (fun c => c.phase) = [CPhase.fresh] ∧ !engStopped s s.arg.eng then
      asking s (.chunk s.arg.eng r.id 0 0) (fun s => match accessTry s s.arg.eng r with
      | .error (a, k) => if k = fkTimeout then accessTimeout s s.arg.eng r else accessFault s s.arg.eng r a k
      | .ok _ => s)
    else s
  | none => s

end Sys2Proof.Machine
end

