-- ==== Sys2Proof/Machine/Matrix.lean ====
section
/-! DEFINITION. The matrix engine: MMA, WLD, SWAP, ZERO and DRAIN, from their issue to their completion (spec 13 R228 to R244, 08 R132 to R141, 03 R45, R46, R60, R61, 06 R113). -/

namespace Sys2Proof.Machine

/-! ## Operands of a step -/

/-- Element codes of 24 bytes by operand class (R234). -/
def elemsOf (cls : Nat) (x : Nat) : List Nat :=
  let w := match cls with | 0 => 16 | 2 | 4 => 4 | _ => 8
  (List.range (192 / w)).map (fun t => bits x (w * t) w)

/-- Elements of a row under a format, each scaled by the scale byte of its block (R123, R234, R235). -/
def scaledElems (fmt : Nat) (x : Nat) (scale : Nat → Nat) : List Val :=
  let cls := (mxClass fmt).getD 1
  (elemsOf cls x).mapIdx (fun t c =>
    let v := valOf (fmtBase fmt) c
    if fmtScaled fmt then scaleVal v (scale t) else v)

/-- Whether a byte image of 24-byte groups is asked at group `i`. -/
def group24 (x : BitVec 12288) (i : Nat) : Nat := (x.extractLsb' (192 * i) 192).toNat

/-- A row of a bank: 1,536 weight bytes; undefined ones count from a draw (R228). -/
def bankRow (b : Bank) (r : Nat) : BitVec 12288 :=
  match b.undef with
  | some d => BitVec.ofNat 12288 (ofBytes ((List.range 1536).map (fun p => Config.freeByte (d + 1664 * r + p))))
  | none => sget 0 b.w r
/-- Its scale bytes. -/
def bankScale (b : Bank) (r : Nat) : BitVec 1024 :=
  match b.undef with
  | some d => BitVec.ofNat 1024 (ofBytes ((List.range 128).map (fun p => Config.freeByte (d + 1664 * r + 1536 + p))))
  | none => sget 0 b.sc r

/-- Scale byte of term `t` in column `j` of a bank row (R235). -/
def bScale (cls : Nat) (sc : BitVec 1024) (j t : Nat) : Nat :=
  bits sc.toNat (8 * (if cls = 2 then 2 * j + t / 24 else j)) 8

/-- Block of the first term of step `s` (R235), counted from 1. -/
def blk (cls s t : Nat) : Nat := match cls with | 2 => 2 * (s - 1) + t / 24 | 0 => (s - 1) / 2 | _ => s - 1

/-- Whether a further qa entry is popped into the scale latch before step `s` (R235). -/
def scaleDue (fa s : Nat) : Bool :=
  let cls := (mxClass fa).getD 1
  fmtScaled fa && (decide (s = 1) || (decide (blk cls s 0 % 24 = 0) && decide (blk cls s 0 ≠ blk cls (s - 1) 0)))

/-- The A operand of a step: 1,536 bytes, the scale byte of row `i` and term `t`, and the rows it poisons. -/
structure AIn where
  data : BitVec 12288
  scale : Nat → Nat → Nat
  psn : BitVec 64

/-- Rows of a tile are read: a latent uncorrectable error sets the row's poison bit, a correctable one is corrected (R45). -/
def touchRows (t : Tile) (rows : List Nat) : Tile :=
  if t.errs.isEmpty then t
  else
    let hit := t.errs.filter (fun p => rows.contains p.1)
    { t with
      errs := t.errs.filter (fun p => !rows.contains p.1)
      poison := (hit.filter (fun p => p.2 == .unc)).foldl (fun x p => x ||| BitVec.ofNat 64 (2 ^ p.1)) t.poison }

/-- One step on a tile (R133, R135, R236): elements, flag plane, row poison and ovf. -/
def stepTile (t : Tile) (p : MPar) (a : AIn) (b : Bank) (r : Nat) : Tile :=
  let cls := (mxClass p.fa).getD 1
  let brow := bankRow b r
  let bsc := bankScale b r
  let cols := (List.range 64).map (fun j => scaledElems p.fb (group24 brow j) (bScale cls bsc j))
  let out := (List.range 64).flatMap (fun i =>
    let av := scaledElems p.fa (group24 a.data i) (a.scale i)
    cols.mapIdx (fun j bv =>
      let c := (sget 0 t.el (64 * i + j)).toNat
      if cls < 3 then fstep c (av.zip bv) ((windowWidth p.w).getD 40)
      else istep c ((av.zip bv).map (fun q => (intOf q.1, intOf q.2))) p.sat))
  let all := out.mapIdx (fun e q => (e, q))
  { t with
    el := all.filterMap (fun q => if q.2.1 = 0 then none else some (q.1, BitVec.ofNat 32 q.2.1))
    lost := if cls < 3 then all.foldl (fun x q => if q.2.2 then x ||| BitVec.ofNat 4096 (2 ^ q.1) else x) t.lost else t.lost
    ovf := t.ovf || (decide (3 ≤ cls) && all.any (fun q => q.2.2))
    poison := t.poison ||| a.psn ||| (if bit b.poison.toNat r then BitVec.allOnes 64 else 0) }

/-! ## Banks -/

/-- The pieces of 128 bytes that weight row `r`, or scale row `r`, is fetched in (R61): offsets and lengths. -/
def rowPieces (d : Nat) (sc : Bool) (r n : Nat) : List (Nat × Nat) :=
  (List.range ((n + 127) / 128)).map (fun j => (bOffset d sc r (128 * j), min 128 (n - 128 * j)))

/-- Fetch weight row `r` and its scale row into a bank (R229, R240): rows beyond the descriptor's are zero weights. A scale
row of 64 bytes leaves the other 64 scale bytes of the row as they stand. -/
def fetchRow (s : State) (cl : Nat) (d : W64) (fb : Nat) (b : Bank) (r : Nat) : Bank × State :=
  let x := d.toNat
  if bits x 0 6 < r then ({ b with w := serase b.w r, sc := sset 0 b.sc r (BitVec.ofNat 1024 (ofBytes (List.replicate 128 127)))
                                   poison := b.poison &&& ~~~ (BitVec.ofNat 64 (2 ^ r)) }, s)
  else
    let ns := bScales fb
    let rd := fun (t : State) (l : List (Nat × Nat)) => l.foldl (fun (p : List (Byte × Bool) × State) q =>
      let (i, t) := readLoc p.2 (.chip (clBase cl + q.1)) q.2; (p.1 ++ i, t)) ([], t)
    let (w, s1) := rd s (rowPieces x false r 1536)
    let (sc, s2) := rd s1 (if ns = 0 then [] else rowPieces x true r ns)
    let scb := if ns = 0 then List.replicate 128 127
      else sc.map Prod.fst ++ (toBytes (bankScale b r).toNat 128).drop ns
    let psn := (w ++ sc).any (fun q => q.2)
    ({ b with
        w := sset 0 b.w r (BitVec.ofNat 12288 (ofBytes (w.map Prod.fst)))
        sc := sset 0 b.sc r (BitVec.ofNat 1024 (ofBytes scb))
        poison := if psn then b.poison ||| BitVec.ofNat 64 (2 ^ r) else b.poison &&& ~~~ (BitVec.ofNat 64 (2 ^ r)) }, s2)

/-- Change a unit's matrix engine. -/
def modMx (s : State) (k : Nat) (f : Mx → Mx) : State := modUnit s k (fun u => { u with mx := f u.mx })

/-- The load side in one clk (R229): the next row is fetched; after the last, its completion is 12 clk away. -/
def wldFetch (s : State) (k : Nat) : State :=
  let mx := (getUnit s k).mx
  match mx.wld with
  | none => s
  | some w =>
    let d := ((w.cmd.x.map (fun x => x.a)).getD 0)
    let rows := bits d.toNat 0 6
    if w.doneAt.isSome then s
    else
      let (b, s1) := fetchRow s (k / 8) d w.cmd.par.fb mx.shadow w.row
      modMx s1 k (fun mx => { mx with shadow := b, wld := some { w with row := w.row + 1, doneAt := if w.row = rows then some (s.clk + 12) else none } })

/-- The shadow bank once a WLD is complete (R240): rows above are zero weights, and the record takes the descriptor. -/
def wldBank (b : Bank) (d : W64) (fb : Nat) : Bank :=
  let rows := bits d.toNat 0 6
  let above := (List.range 64).filter (fun r => decide (rows < r))
  { w := b.w.filter (fun p => decide (p.1 ≤ rows))
    sc := above.foldl (fun x r => sset 0 x r (BitVec.ofNat 1024 (ofBytes (List.replicate 128 127)))) b.sc
    poison := b.poison &&& BitVec.ofNat 64 (2 ^ (rows + 1) - 1)
    valid := true
    desc := d
    fmt := fb
    undef := none }

/-- A command of the engine is complete (R83, R84): its token may fire. The error status of an MMA says that it was settled
by POISON (R86, R113); a remote A fetch that ended in TIMEOUT leaves poisoned bytes and no status (log entry 44). -/
def mxDone (mx : Mx) (seq : Nat) (err : Bool) : Mx :=
  { mx with toks := mx.toks.map (fun t => if t.seq = seq then { t with done := true, err := err } else t)
            comp := mx.comp.filter (fun c => c.seq != seq) }

/-- Whether this command left the queue in this clk: its first row was taken as it left. -/
def leftNow (s : State) (k seq : Nat) : Bool :=
  let mx := (getUnit s k).mx
  mx.leftAt == some s.clk && decide (mx.seq = seq + 1)

/-- WLD_COMPLETE (R229, R240): the load side's row of this clk, and its completion when that is due. -/
def execWldComplete (s : State) : Out :=
  let k := s.arg.k.toNat
  .next (match (getUnit s k).mx.wld with
  | none => s
  | some w =>
    if ended s then s
    else match w.doneAt with
      | none => if leftNow s k w.seq then s else wldFetch s k
      | some t =>
        if s.clk < t then s
        else modMx s k (fun mx => mxDone { mx with
          shadow := wldBank mx.shadow ((w.cmd.x.map (fun x => x.a)).getD 0) w.cmd.par.fb
          loaded := true, loadedAt := s.clk, wld := none } w.seq false))

/-! ## Leaving the queue -/

/-- Whether a command's own condition for leaving holds (R229). -/
def leaveOk (mx : Mx) (i : Instr) : Bool :=
  let mmas := !mx.comp.any stepsLeft && mx.comp.all (fun c => isMma c.cmd.ins)
  match i with
  | .wld _ => mx.wld.isNone && (!mx.loaded || !mx.comp.any stepsLeft)
  | .swap _ => mmas && mx.wld.isNone
  | .zero _ | .drain _ | .drainZ1 _ | .drainZ2 _ => mx.comp.isEmpty
  | _ => mmas

/-- The engine state of a new instance (R228), whose bank contents are undefined. -/
def mxFresh (s : State) (k inst : Nat) : State :=
  let d := s.draws
  let bank : Nat → Bank := fun n => { undef := some (d + 106496 * n) }
  modMx { s with draws := d + 212992 } k (fun mx => { mx with
    act := bank 0, shadow := bank 1, loaded := false, wrow := 64, latch := none, inst := inst })

/-- A row of a tile as DRAIN writes it (R242): bytes with poison. -/
def drainRow (t : Tile) (p : MPar) (i : Nat) : List (Byte × Bool) :=
  let int := match fmtKind p.fa with | some (.int _ _) => true | _ => false
  let w := fmtW p.fa
  let psn := t.poison.getLsbD i
  let codes := (List.range 64).map (fun j =>
    let e := (sget 0 t.el (64 * i + j)).toNat
    (roundTo p.fa (if int then valOf 0x0B e else valOf 0 e) p.rm).1)
  let x := codes.foldr (fun c a => c % 2 ^ w + a * 2 ^ w) 0
  (toBytes x (8 * w)).map (fun b => (b, psn))

/-- The histogram after a drained row (R140): keys 64 * set + bin, the special count at bin 32. -/
def histRow (h : SMap Nat) (t : Tile) (p : MPar) (i : Nat) : SMap Nat :=
  if !p.hen || t.poison.getLsbD i then h
  else
    let int := match fmtKind p.fa with | some (.int _ _) => true | _ => false
    (List.range 64).foldl (fun h j =>
      let e := (sget 0 t.el (64 * i + j)).toNat
      smod 0 h (64 * p.hset + histBin (if int then valOf 0x0B e else valOf 0 e) p.hbase) (fun n => min (2 ^ 32 - 1) (n + 1))) h

/-- Codec of a DRAIN: 0 none. -/
def drainCodec (i : Instr) : Nat := match i with | .drainZ1 _ => 1 | .drainZ2 _ => 2 | _ => 0

/-- A compressed output chunk (R242, R254, R255): coded bytes. -/
def drainZip (s : State) (codec : Nat) (b : List (Byte × Bool)) : List (Byte × Bool) × State :=
  zipImg s { xfer0 0x07 with desc := BitVec.ofNat 512 (codec * 2 ^ 111) } b

/-- The next row of a DRAIN (R229, R242). -/
def drainStep (s : State) (k : Nat) (c : CompRun) : State :=
  let u := getUnit s k
  let x := (c.cmd.x).getD (xfer0 0)
  let rows := x.a.toNat
  if rows ≤ c.step then s
  else
    let t := touchRows (sget {} u.tiles (tileIx c.cmd.ins)) [c.step]
    let p := c.cmd.par
    let row := drainRow t p c.step
    let codec := drainCodec c.cmd.ins
    let psn := row.any (fun b => b.2)
    let buf := if codec = 0 then [] else c.abuf ++ row
    let full := decide (2048 ≤ buf.length)
    let at0 := unitBase k + x.dst + 8 * fmtW p.fa * c.step
    let s1 := if codec = 0 then modMem s (fun m => writeImg m at0 row)
      else if full then
        let (z, t) := drainZip s codec (buf.take 2048)
        modMem t (fun m => writeImg m (unitBase k + x.dst + (8 * fmtW p.fa * (c.step + 1) / 2048 - 1) * 2048) z)
      else s
    let bad := psn || (full && decide (codec = 1) && (codeZwe (wordsOf ((buf.take 2048).map Prod.fst))).isNone)
    modUnit s1 k (fun u => { u with
      tiles := sset {} u.tiles (tileIx c.cmd.ins) t
      hist := histRow u.hist t p c.step
      mx := { u.mx with comp := u.mx.comp.map (fun d => if d.seq = c.seq then
        { d with step := c.step + 1, abuf := if full then buf.drop 2048 else buf, psnRows := d.psnRows || bad
                 doneAt := if c.step + 1 = rows then some (s.clk + 10) else none } else d) } })

/-- ZERO (R241). -/
def zeroTile (u : Unit) (t : Nat) : Unit := { u with tiles := serase u.tiles t }

/-- SWAP (R241). -/
def swapBanks (mx : Mx) : Mx := { mx with act := mx.shadow, shadow := mx.act, loaded := false, wrow := 0 }

/-- MATRIX_COMMAND_LEAVE (R229): the head of the queue leaves when its condition held at the start of the clk, takes its
counts, and starts: a WLD fetches row 0, SWAP and ZERO act, a DRAIN reads row 0. -/
def execMatrixCommandLeave (s : State) : Out :=
  let k := s.arg.k.toNat
  let u := getUnit s k
  .next (match u.mx.q with
  | [] => s
  | c :: rest =>
    let fresh := c.inst != u.mx.inst
    if c.x.isNone || decide (s.clk ≤ c.issued) || u.mx.leftAt == some s.clk || ended s || engStopped s (.mat s.arg.k)
        || (fresh && !(u.mx.comp.isEmpty && u.mx.wld.isNone)) || !leaveOk u.mx c.ins || !takeOk u (tokTake (tokOf c.ins)) then s
    else
      let s0 := if fresh then mxFresh s k c.inst else s
      let s1 := modUnit s0 k (fun u =>
        let u := takeTokens u (tokTake (tokOf c.ins))
        { u with mx := { u.mx with
          q := rest, seq := u.mx.seq + 1, leftAt := some s.clk
          toks := u.mx.toks ++ [⟨u.mx.seq, tokGive (tokOf c.ins), c.inst, false, false, c.x⟩] } })
      let n := u.mx.seq
      let run : CompRun := ⟨c, n, 1, none, false, false, false, false, [], [], false⟩
      match c.ins with
      | .wld _ => wldFetch (modMx s1 k (fun mx => { mx with wld := some ⟨c, 0, n, none⟩ })) k
      | .swap _ => modMx s1 k (fun mx => mxDone (swapBanks mx) n false)
      | .zero _ => modUnit s1 k (fun u => let u := zeroTile u (tileIx c.ins); { u with mx := mxDone u.mx n false })
      | .drain _ | .drainZ1 _ | .drainZ2 _ =>
        let d := { run with step := 0 }
        drainStep (modMx s1 k (fun mx => { mx with comp := mx.comp ++ [d] })) k d
      | _ => modMx s1 k (fun mx => { mx with comp := mx.comp ++ [run] }))

/-! ## Steps -/

/-- Steps of an MMA (R237). -/
def mmaSteps (c : CompRun) : Nat :=
  match c.cmd.ins with
  | .mmaQ _ => bits ((c.cmd.x.map (fun x => x.a.toNat)).getD 0) 0 16
  | .mmaR _ => 64
  | _ => 1

/-- A bytes of MMA.R that step `n` needs: row data, then its scale bytes (R234, R235), row by row. -/
def mmaRanges (c : CompRun) (n : Nat) : List (Nat × Nat) :=
  let x := c.cmd.x.getD (xfer0 0)
  let fa := c.cmd.par.fa
  let cls := (mxClass fa).getD 1
  let ns : Nat := if !fmtScaled fa then 0 else if cls = 2 then 2 else 1
  (List.range 64).flatMap (fun i =>
    let row := x.src + i * x.a.toNat
    (row + 24 * (n - 1), 24) :: (if ns = 0 then [] else [(row + 1536 + blk cls n 0, ns)]))

/-- The A operand of MMA.R from the bytes of its ranges. -/
def mmaRIn (c : CompRun) (img : List (Byte × Bool)) : AIn :=
  let cls := (mxClass c.cmd.par.fa).getD 1
  let ns : Nat := if !fmtScaled c.cmd.par.fa then 0 else if cls = 2 then 2 else 1
  let per := 24 + ns
  let rows := (List.range 64).map (fun i => (img.drop (per * i)).take per)
  { data := BitVec.ofNat 12288 (ofBytes (rows.flatMap (fun r => (r.take 24).map Prod.fst)))
    scale := fun i t => (((((rows[i]?).getD [])[24 + (if ns = 2 then t / 24 else 0)]?).getD (127, false)).1).toNat
    psn := (rows.mapIdx (fun i r => (i, r))).foldl (fun x q => if q.2.any (fun b => b.2) then x ||| BitVec.ofNat 64 (2 ^ q.1) else x) 0 }

/-- The A operand of MMA.V from its captured registers (R234, R235). -/
def mmaVIn (c : CompRun) : AIn :=
  let d := (c.cmd.x.getD (xfer0 0)).data
  let cls := (mxClass c.cmd.par.fa).getD 1
  let sc := ofBytes (d.drop 1536)
  { data := BitVec.ofNat 12288 (ofBytes (d.take 1536))
    scale := fun i t => bits sc (8 * (if cls = 2 then 2 * i + t / 24 else i)) 8
    psn := 0 }

/-- The A operand of a step of MMA.Q: the head entries of qa; the queue and latch after it. None where they are not
filled. -/
def mmaQIn (u : Unit) (c : CompRun) : Option (AIn × List QEntry × Option (BitVec 12288 × Bool)) :=
  let fa := c.cmd.par.fa
  let cls := (mxClass fa).getD 1
  let q := sget [] u.queues 8
  let due := scaleDue fa c.step
  let sc : Option ((BitVec 12288 × Bool) × List QEntry) :=
    if !due then some ((u.mx.latch.getD (0, false)), q)
    else match q with | e :: r => if e.filled then some ((e.val, e.poison), r) else none | [] => none
  match sc with
  | none => none
  | some (l, q1) =>
    match q1 with
    | e :: r =>
      if !e.filled then none
      else
        let all : BitVec 64 := if e.poison || (fmtScaled fa && l.2) then BitVec.allOnes 64 else 0
        some (⟨e.val, fun i t => bits l.1.toNat (8 * (64 * (blk cls c.step t % 24) + i)) 8, all⟩, r, if due then some l else u.mx.latch)
    | [] => none

/-- A step with its operands ready runs (R236). -/
def runStep (s : State) (k : Nat) (c : CompRun) (a : AIn) : State :=
  modUnit s k (fun u =>
    let mx := if u.mx.wrow = 64 then swapBanks u.mx else u.mx
    let t := tileIx c.cmd.ins
    let tl := sget {} u.tiles t
    let a := if c.psnRows then { a with data := 0, scale := fun _ _ => 127, psn := BitVec.allOnes 64 } else a
    let tl := stepTile (touchRows tl (List.range 64)) c.cmd.par a mx.act mx.wrow
    let last := decide (mmaSteps c ≤ c.step)
    { u with
      tiles := sset {} u.tiles t { tl with prog := c.step, stop := false }
      core := if u.inst.all (fun i => i.serial == c.cmd.inst) then bump u.core 3 1 else u.core
      mx := { mx with
        wrow := mx.wrow + 1
        stepAt := some s.clk
        comp := mx.comp.map (fun d => if d.seq = c.seq then
          { d with step := c.step + 1, stopped := false, retried := false, abuf := [], rids := [], asked := false
                   doneAt := if last then some (s.clk + 130) else none } else d) } })

/-- The bytes of a remote A operand that a step waits for (R237): asked for, and read where they lie here. -/
def mmaFetch (s : State) (k : Nat) (c : CompRun) : Except (Nat × Nat × Nat) (State × Option (List (Byte × Bool))) :=
  if c.asked then .ok (s, if c.rids.isEmpty then some c.abuf else none)
  else
    let rs := resRuns s ((mmaRanges c c.step).flatMap cutRun) .rd
    match rs.findSome? (fun r => match r.2.2.2 with | .fault f => some (r.2.1, r.2.2.1, f) | _ => none) with
    | some f => .error f
    | none =>
      match runMiss rs with
      | some (p, a) => .ok (rpcMiss s p a, none)
      | none =>
        let t := rs.foldl (fun (p : List (Byte × Bool) × List Nat × State) q =>
          match q.2.2.2 with
          | .peer m a =>
            let (rid, t) := request p.2.2 (rdPkt p.2.2 m a q.2.2.1) (.mxA (BitVec.ofNat 8 k) p.1.length)
            (p.1 ++ List.replicate q.2.2.1 (0, false), p.2.1 ++ [rid], t)
          | .ok loc => let (b, t) := readLoc p.2.2 loc q.2.2.1; (p.1 ++ b, p.2.1, t)
          | _ => p) ([], [], s)
        if t.2.1.isEmpty then .ok (t.2.2, some t.1)
        else .ok (modMx t.2.2 k (fun mx => { mx with comp := mx.comp.map (fun d => if d.seq = c.seq then
          { d with abuf := t.1, rids := t.2.1, asked := true } else d) }), none)

/-- MMA_STEP (R236): the MMA that has a step to start runs it once its inputs are ready. -/
def execMmaStep (s : State) : Out :=
  let k := s.arg.k.toNat
  let u := getUnit s k
  .next (match u.mx.comp.find? stepsLeft with
  | none => s
  | some c =>
    if u.mx.stepAt == some s.clk || c.fault || ended s || engStopped s (.mat s.arg.k)
        || (decide (u.mx.wrow = 64) && !(u.mx.loaded && decide (u.mx.loadedAt < s.clk))) then s
    else if c.psnRows then runStep s k c ⟨0, fun _ _ => 127, 0⟩
    else match c.cmd.ins with
      | .mmaQ _ =>
        match mmaQIn u c with
        | none => s
        | some (a, q, l) =>
          runStep (modUnit s k (fun u => { u with queues := sset [] u.queues 8 q, mx := { u.mx with latch := l } })) k c a
      | .mmaR _ =>
        asking s (.mxA s.arg.k 0) (fun s => match mmaFetch s k c with
        | .error _ => s
        | .ok (t, none) => t
        | .ok (t, some img) => runStep t k c (mmaRIn c img))
      | _ => runStep s k c (mmaVIn c))

/-- MMA_COMPLETE (R229): 130 clk after its last step started, an MMA is complete. -/
def execMmaComplete (s : State) : Out :=
  let k := s.arg.k.toNat
  .next (match (getUnit s k).mx.comp.find? (fun c => isMma c.cmd.ins && c.doneAt.any (fun t => decide (t ≤ s.clk))) with
  | none => s
  | some c => if ended s then s else modMx s k (fun mx => mxDone mx c.seq c.psnRows))

/-- DRAIN_COMPLETE (R229, R242): the DRAIN's row of this clk, and its completion when that is due. -/
def execDrainComplete (s : State) : Out :=
  let k := s.arg.k.toNat
  .next (match (getUnit s k).mx.comp.find? (fun c => !isMma c.cmd.ins) with
  | none => s
  | some c =>
    if ended s then s
    else match c.doneAt with
      | none => if leftNow s k c.seq then s else drainStep s k c
      | some t => if s.clk < t then s else modMx s k (fun mx => mxDone mx c.seq c.psnRows))

/-- The tokens of the matrix engine that may fire do (R84): those of the complete commands that no incomplete one with a
token precedes. -/
def mxTokenFire (s : State) (k : Nat) : State :=
  if ended s then s
  else modUnit s k (fun u =>
    let fire := u.mx.toks.takeWhile (fun t => t.done || t.gv.isNone)
    let u1 := fire.foldl (fun u t => match t.gv with | some g => giveToken u t.inst g t.err | none => u) u
    { u1 with mx := { u1.mx with
      toks := fire.filter (fun t => !t.done) ++ (u.mx.toks.drop fire.length).filter (fun t => !(t.done && t.gv.isNone)) } })

/-- A fault of a remote A fetch stops the MMA at the last step whose rows are bound (R113, R104). -/
def mmaFault (s : State) (k : Nat) : State :=
  let u := getUnit s k
  let e := Eng.mat (BitVec.ofNat 8 k)
  match u.mx.comp.find? stepsLeft with
  | none => s
  | some c =>
    if c.fault || ended s || c.psnRows || c.asked || engStopped s e then s
    else match c.cmd.ins with
      | .mmaR _ =>
        asking s (.mxA (BitVec.ofNat 8 k) 0) (fun s => match mmaFetch s k c with
        | .ok _ => s
        | .error (a, n, kind) =>
          let t := tileIx c.cmd.ins
          let s1 := modUnit s k (fun u => { u with
            tiles := smod {} u.tiles t (fun tl => { tl with stop := true, prog := c.step - 1 })
            mx := { u.mx with comp := u.mx.comp.map (fun d => if d.seq = c.seq then { d with fault := true } else d) } })
          let row := ((mmaRanges c c.step).find? (fun r => decide (r.1 ≤ a) && decide (a < r.1 + r.2))).elim a Prod.fst
          ringRecord (failTaken s1 (.mxA (BitVec.ofNat 8 k) 0)) (k / 8) ⟨e, 7, c.seq, 0, false, 0, n, kind⟩ (ringBits s1
            { fia := fiaOf s [(a, n)] a, sia := row, cseq := c.seq, eng := e, cls := 7, kind := kind, side := 0, len := n, tile := t, prog := c.step - 1 }))
      | _ => s

end Sys2Proof.Machine
end

