-- ==== Sys2Proof/Machine/LanAcc.lean ====
section
/-! DEFINITION. The accesses a Lantern core makes by VA after their words execute: loads, stores, atomics and token reads (spec 15 R270 to R272, R276, R281; 06 R104, R108). -/

namespace Sys2Proof.Machine

/-- An access of a Lantern core. -/
def findAcc (s : State) (m seq : Nat) : Option LAcc := (getCl s m).lan.accs.find? (fun a => a.seq == seq)
/-- Change an access. -/
def modAcc (s : State) (m seq : Nat) (f : LAcc → LAcc) : State :=
  modLan s m (fun l => { l with accs := l.accs.map (fun a => if a.seq = seq then f a else a) })
/-- An access is over. -/
def dropAcc (s : State) (m seq : Nat) : State :=
  modLan s m (fun l => { l with accs := l.accs.filter (fun a => a.seq != seq) })

/-- Bytes of an access (R270, R271). -/
def accLen (op : Nat) : Nat := if op = 5 ∨ op = 6 then 32 else 8
/-- Whether it returns a value. -/
def accReturns (a : LAcc) : Bool := decide (a.op = 0 ∨ a.op = 5 ∨ a.op = 7) || a.tag.isSome
/-- Whether it reads, and returns what it read. -/
def accRead (op : Nat) : Bool := decide (op = 0 ∨ op = 5)
/-- Whether it is a plain store. -/
def accStore (op : Nat) : Bool := decide (op = 1 ∨ op = 6)

/-- Whether an earlier access touches a common 16-byte part (R272). -/
def accBehind (s : State) (m : Nat) (a : LAcc) : Bool :=
  !redoTurn s (.lantern (BitVec.ofNat 5 m)) a.seq 0 || a.op != 7 && ((getCl s m).lan.accs.takeWhile (fun b => b.seq != a.seq)).any (fun b =>
    b.op != 7 && decide (b.ia / 16 ≤ (a.ia + accLen a.op - 1) / 16) && decide (a.ia / 16 ≤ (b.ia + accLen b.op - 1) / 16))

/-- The value of a token (R281). -/
def tokenVal (t : Token) : Nat := t.cnt * 65536 + (if t.fired then 1 else 0)

/-- A token of a cluster (R276). -/
def getTok (s : State) (cl t : Nat) : Token := sget {} (getCl s cl).tokens t

/-- A returned value arrives (R68, R72): register, poison (of a load, of its address too: R111), tag. -/
def accArrive (s : State) (m : Nat) (a : LAcc) (img : List (Byte × Bool)) : State :=
  let psn := img.any (fun b => b.2) || (accRead a.op && decide (a.b = 1))
  let v := ofBytes (img.map Prod.fst)
  dropAcc (modLan s m (fun l =>
    let c := arriveMeta l.core a.tag a.rd (decide (a.rd ≠ 0)) psn
    if a.rd = 0 then { l with core := c }
    else if a.rd < 64 then { l with core := wrS c a.rd (BitVec.ofNat 64 v) }
    else { l with core := c, d := sset 0 l.d (a.rd - 128) (BitVec.ofNat 256 v) })) m a.seq

/-- An access that got no answer in time (R341): a value is poisoned, a store counts as performed. -/
def accTimeout (s : State) (m : Nat) (a : LAcc) : State :=
  if accReturns a then accArrive s m a (List.replicate (accLen a.op) (0, true)) else dropAcc s m a.seq

/-- The atomic of an access (R271). -/
def accAtom (a : LAcc) : AtomOp := amoOp (match a.op with | 2 => 0 | 3 => 8 | _ => 9) 8 a.a a.b

/-- The data of a store: its own, what a SUPPLY gave it, or undefined poisoned bytes once POISON settled it (R106). -/
def accData (s : State) (a : LAcc) (n : Nat) : List (Byte × Bool) × State :=
  if a.b = 1 then let (fr, s1) := freeBytes s n; (fr.map (fun b => (b, true)), s1)
  else (if a.out.isEmpty then (toBytes a.a n).map (fun b => (b, false)) else a.out, s)

/-- Where a store writes and what: its data, or, once POISON settled it, its poisoned sectors (R106). -/
def accStoreImg (s : State) (a : LAcc) : Nat × List (Byte × Bool) × State :=
  let n := accLen a.op
  if a.b = 1 then
    let lo := a.ia / 32 * 32
    (lo, accData s a ((a.ia + n + 31) / 32 * 32 - lo))
  else (a.ia, accData s a n)

/-- A fault of an access at byte `at1` goes on the ring (R104, R272): a store waits for a hold slot and keeps its data there. -/
def accFault (s : State) (m : Nat) (a : LAcc) (at1 kind : Nat) : State :=
  let e := Eng.lantern (BitVec.ofNat 5 m)
  let n := accLen a.op
  let cls := if accRead a.op then 6 else if accStore a.op then 0 else 5
  let h := if accStore a.op then freeHold (getX s e) else none
  if accStore a.op && h.isNone then modAcc s m a.seq (fun a => { a with phase := .refused at1 kind })
  else
    let s1 := match h with
      | some j => let (img, t) := accData s a n; modX t e (fun x => { x with holds := sput x.holds j ⟨img, true⟩ })
      | none => s
    let s2 := modAcc (failTaken s1 (.acc (BitVec.ofNat 5 m) a.seq 0)) m a.seq (fun a => { a with phase := .faulted, hslot := h })
    ringRecord s2 m ⟨e, cls, a.seq, 0, h.isSome, h.getD 0, n, kind⟩ (ringBits s2
      { fia := if cls = 0 then fiaOf s [(a.ia, n)] at1 else targetFia s a.ia n at1, dia := if cls = 0 then a.ia else 0, cseq := a.seq
        eng := e, cls := cls, kind := kind, side := if cls = 6 then 0 else 1, hslot := h, len := n, tag := (a.tag.map Prod.fst).getD 0 })

/-- A store writes what lies on this module of its destination; packets to peers have been answered. -/
def accWriteHere (s : State) (rs : List (Nat × Nat × Nat × Res)) (img : List (Byte × Bool)) : State :=
  rs.foldl (fun t q => match q.2.2.2 with
    | .peer _ _ => t
    | _ => writeIa t t.chip.slot t.chip.pasid q.2.1 ((img.drop q.1).take q.2.2.1)) s

/-- What an access comes to: its state after it, or a fault with its first byte. -/
def accTry (s : State) (m : Nat) (a : LAcc) : Except (Nat × Nat) State :=
  let mix := BitVec.ofNat 5 m
  let n := accLen a.op
  let rids := fun (t : State) (l : List Nat) (img : List (Byte × Bool)) (wr : Bool) =>
    modAcc t m a.seq (fun a => { a with phase := if wr then .writing l else .reading l, out := img })
  if accRead a.op then
    let rs := resRuns s (runsOf [(a.ia, n)]) .rd
    match runFault rs with
    | some (f, k) => .error (f, k)
    | none =>
      match runMiss rs with
      | some (p, q) => .ok (rpcMiss s p q)
      | none =>
        let t := rs.foldl (fun (p : List (Byte × Bool) × List Nat × State) q =>
          match q.2.2.2 with
          | .peer pm pa =>
            let (rid, t) := request p.2.2 (rdPkt p.2.2 pm pa q.2.2.1) (.acc mix a.seq p.1.length)
            (p.1 ++ List.replicate q.2.2.1 (0, false), p.2.1 ++ [rid], t)
          | .ok loc => let (b, t) := readLoc p.2.2 loc q.2.2.1; (p.1 ++ b, p.2.1, t)
          | _ => p) ([], [], s)
        if t.2.1.isEmpty then .ok (accArrive t.2.2 m a t.1) else .ok (rids t.2.2 t.2.1 t.1 false)
  else if accStore a.op then
    let (at0, img, s) := accStoreImg s a
    let rs := resRuns s (runsOf [(at0, img.length)]) .wr
    match runFault rs with
    | some (f, k) => .error (f, k)
    | none =>
      match runMiss rs with
      | some (p, q) => .ok (rpcMiss s p q)
      | none =>
        let t := rs.foldl (fun (p : List Nat × State) q =>
          match q.2.2.2 with
          | .peer pm pa =>
            let (rid, t) := request p.2 (wrPkt p.2 pm pa ((img.drop q.1).take q.2.2.1)) (.acc mix a.seq q.1)
            (p.1 ++ [rid], t)
          | _ => p) ([], s)
        if a.phase = .writing [] ∨ t.1.isEmpty then .ok (dropAcc (accWriteHere s rs img) m a.seq)
        else .ok (rids t.2 t.1 a.out true)
  else match atomicIa s s.chip.slot s.chip.pasid a.ia (accAtom a) Sync.plain with
    | .fault k => .error (a.ia, k)
    | .miss p q => .ok (rpcMiss s p q)
    | .peer pm pa =>
      let x := { xfer0 (match a.op with | 2 => 0x10 | 3 => 0x18 | _ => 0x19) with len := 8, a := BitVec.ofNat 64 a.a, b := BitVec.ofNat 64 a.b }
      let (rid, t) := request s (atomPkt s pm pa x) (.acc mix a.seq 0)
      .ok (rids t [rid] (List.replicate 8 (0, false)) false)
    | .done old psn t _ =>
      if a.tag.isSome then .ok (accArrive t m a ((toBytes old 8).map (fun b => (b, psn)))) else .ok (dropAcc t m a.seq)

/-- A token read, performed at its home on this module (R281); the word of a remote one waits for its answer, which it
leaves here as bytes that have come. -/
def accToken (s : State) (m : Nat) (a : LAcc) : State :=
  let h := handleAt s.partMod a.ia
  accArrive s m a ((toBytes (tokenVal (getTok s h.2.1 h.2.2)) 8).map (fun b => (b, false)))

/-- An access of a Lantern core goes on as far as it can (R272). -/
def accStep (s : State) (m seq : Nat) : State :=
  match findAcc s m seq with
  | none => s
  | some a =>
    if ended s || accBehind s m a || engStopped s (.lantern (BitVec.ofNat 5 m)) then s
    else match a.phase with
      | .fresh | .bound | .writing [] =>
        if a.op = 7 then accToken s m a
        else asking s (.acc (BitVec.ofNat 5 m) seq 0) (fun s => match accTry s m a with
          | .ok t => t
          | .error (_, k) => if k = fkTimeout then accTimeout s m a else s)
      | .reading [] => if accReturns a then accArrive s m a a.out else dropAcc s m seq
      | _ => s

/-- MEMORY_SIDE_FAULT (R104) of an access of a Lantern core. -/
def accFaultEvent (s : State) (m seq : Nat) : State :=
  match findAcc s m seq with
  | none => s
  | some a =>
    if ended s || accBehind s m a || engStopped s (.lantern (BitVec.ofNat 5 m)) || a.op == 7 then s
    else match a.phase with
      | .fresh | .bound | .writing [] =>
        asking s (.acc (BitVec.ofNat 5 m) seq 0) (fun s => match accTry s m a with
        | .error (f, k) => if k = fkTimeout then s else accFault s m a f k
        | .ok _ => s)
      | .refused f k => if (freeHold (getX s (.lantern (BitVec.ofNat 5 m)))).isSome then accFault s m a f k else s
      | _ => s

end Sys2Proof.Machine
end

