-- ==== Sys2Proof/Machine/CopyOps.lean ====
section
/-! DEFINITION. The commands of slots 4 and 5 as they issue: each enters its copy engine's queue (spec 14 R245 to R265). -/

namespace Sys2Proof.Machine

/-- What CP does (R248). -/
def semCp (f : CF) : Sem :=
  cmdSem (.cp f)

/-- CP (R248): Copy a run of bytes. -/
def execCp (f : CF) (s : State) : Out :=
  runOne (.cp f) 4 (semCp f) s

/-- What CP_P does (R248). -/
def semCpP (f : CF) : Sem :=
  cmdSem (.cpP f)

/-- CP_P (R248): Copy a run of bytes in POISON mode. -/
def execCpP (f : CF) (s : State) : Out :=
  runOne (.cpP f) 4 (semCpP f) s

/-- What CP_BOX does (R251). -/
def semCpBox (f : CF) : Sem :=
  cmdSem (.cpBox f)

/-- CP_BOX (R251): Copy a box with halo by move descriptor. -/
def execCpBox (f : CF) (s : State) : Out :=
  runOne (.cpBox f) 4 (semCpBox f) s

/-- What CP_GTH does (R253). -/
def semCpGth (f : CF) : Sem :=
  cmdSem (.cpGth f)

/-- CP_GTH (R253): Gather elements by index list. -/
def execCpGth (f : CF) (s : State) : Out :=
  runOne (.cpGth f) 4 (semCpGth f) s

/-- What CP_SCT does (R253). -/
def semCpSct (f : CF) : Sem :=
  cmdSem (.cpSct f)

/-- CP_SCT (R253): Scatter elements by index list. -/
def execCpSct (f : CF) (s : State) : Out :=
  runOne (.cpSct f) 4 (semCpSct f) s

/-- What CP_CVT does (R251). -/
def semCpCvt (f : CF) : Sem :=
  cmdSem (.cpCvt f)

/-- CP_CVT (R251): Copy a box while converting its elements. -/
def execCpCvt (f : CF) (s : State) : Out :=
  runOne (.cpCvt f) 4 (semCpCvt f) s

/-- What CP_ZIP does (R256). -/
def semCpZip (f : CF) : Sem :=
  cmdSem (.cpZip f)

/-- CP_ZIP (R256): Compress 2 KiB chunks into slots. -/
def execCpZip (f : CF) (s : State) : Out :=
  runOne (.cpZip f) 4 (semCpZip f) s

/-- What CP_UNZ does (R256). -/
def semCpUnz (f : CF) : Sem :=
  cmdSem (.cpUnz f)

/-- CP_UNZ (R256): Decompress slots into 2 KiB chunks. -/
def execCpUnz (f : CF) (s : State) : Out :=
  runOne (.cpUnz f) 4 (semCpUnz f) s

/-- What CP_XP does (R252). -/
def semCpXp (f : CF) : Sem :=
  cmdSem (.cpXp f)

/-- CP_XP (R252): Transpose a rank-2 box on the XE. -/
def execCpXp (f : CF) (s : State) : Out :=
  runOne (.cpXp f) 4 (semCpXp f) s

/-- What MCRED does (R257). -/
def semMcred (f : CF) : Sem :=
  cmdSem (.mcred f)

/-- MCRED (R257): Multicast load-and-reduce BF16 data into FP32 in fixed order. -/
def execMcred (f : CF) (s : State) : Out :=
  runOne (.mcred f) 4 (semMcred f) s

/-- What AMO_ADD does (R258). -/
def semAmoAdd (f : CF) : Sem :=
  cmdSem (.amoAdd f)

/-- AMO_ADD (R258): Atomic integer add. -/
def execAmoAdd (f : CF) (s : State) : Out :=
  runOne (.amoAdd f) 4 (semAmoAdd f) s

/-- What AMO_AND does (R258). -/
def semAmoAnd (f : CF) : Sem :=
  cmdSem (.amoAnd f)

/-- AMO_AND (R258): Atomic and. -/
def execAmoAnd (f : CF) (s : State) : Out :=
  runOne (.amoAnd f) 4 (semAmoAnd f) s

/-- What AMO_OR does (R258). -/
def semAmoOr (f : CF) : Sem :=
  cmdSem (.amoOr f)

/-- AMO_OR (R258): Atomic or. -/
def execAmoOr (f : CF) (s : State) : Out :=
  runOne (.amoOr f) 4 (semAmoOr f) s

/-- What AMO_XOR does (R258). -/
def semAmoXor (f : CF) : Sem :=
  cmdSem (.amoXor f)

/-- AMO_XOR (R258): Atomic exclusive or. -/
def execAmoXor (f : CF) (s : State) : Out :=
  runOne (.amoXor f) 4 (semAmoXor f) s

/-- What AMO_MIN does (R258). -/
def semAmoMin (f : CF) : Sem :=
  cmdSem (.amoMin f)

/-- AMO_MIN (R258): Atomic signed minimum. -/
def execAmoMin (f : CF) (s : State) : Out :=
  runOne (.amoMin f) 4 (semAmoMin f) s

/-- What AMO_MAX does (R258). -/
def semAmoMax (f : CF) : Sem :=
  cmdSem (.amoMax f)

/-- AMO_MAX (R258): Atomic signed maximum. -/
def execAmoMax (f : CF) (s : State) : Out :=
  runOne (.amoMax f) 4 (semAmoMax f) s

/-- What AMO_MINU does (R258). -/
def semAmoMinu (f : CF) : Sem :=
  cmdSem (.amoMinu f)

/-- AMO_MINU (R258): Atomic unsigned minimum. -/
def execAmoMinu (f : CF) (s : State) : Out :=
  runOne (.amoMinu f) 4 (semAmoMinu f) s

/-- What AMO_MAXU does (R258). -/
def semAmoMaxu (f : CF) : Sem :=
  cmdSem (.amoMaxu f)

/-- AMO_MAXU (R258): Atomic unsigned maximum. -/
def execAmoMaxu (f : CF) (s : State) : Out :=
  runOne (.amoMaxu f) 4 (semAmoMaxu f) s

/-- What AMO_SWP does (R258). -/
def semAmoSwp (f : CF) : Sem :=
  cmdSem (.amoSwp f)

/-- AMO_SWP (R258): Atomic swap. -/
def execAmoSwp (f : CF) (s : State) : Out :=
  runOne (.amoSwp f) 4 (semAmoSwp f) s

/-- What AMO_CAS does (R258). -/
def semAmoCas (f : CF) : Sem :=
  cmdSem (.amoCas f)

/-- AMO_CAS (R258): Atomic compare-and-swap. -/
def execAmoCas (f : CF) (s : State) : Out :=
  runOne (.amoCas f) 4 (semAmoCas f) s

/-- What AMO_FADD_F32 does (R259). -/
def semAmoFaddF32 (f : CF) : Sem :=
  cmdSem (.amoFaddF32 f)

/-- AMO_FADD_F32 (R259): Add an FP32 value into an accumulation cell. -/
def execAmoFaddF32 (f : CF) (s : State) : Out :=
  runOne (.amoFaddF32 f) 4 (semAmoFaddF32 f) s

/-- What AMO_FADD_BF16 does (R259). -/
def semAmoFaddBf16 (f : CF) : Sem :=
  cmdSem (.amoFaddBf16 f)

/-- AMO_FADD_BF16 (R259): Add a BF16 value into an accumulation cell. -/
def execAmoFaddBf16 (f : CF) (s : State) : Out :=
  runOne (.amoFaddBf16 f) 4 (semAmoFaddBf16 f) s

/-- What AMO_FADD_F16 does (R259). -/
def semAmoFaddF16 (f : CF) : Sem :=
  cmdSem (.amoFaddF16 f)

/-- AMO_FADD_F16 (R259): Add an FP16 value into an accumulation cell. -/
def execAmoFaddF16 (f : CF) (s : State) : Out :=
  runOne (.amoFaddF16 f) 4 (semAmoFaddF16 f) s

/-- What SIG does (R261). -/
def semSig (f : CF) : Sem :=
  cmdSem (.sig f)

/-- SIG (R261): Signal a semaphore of a unit of the cluster. -/
def execSig (f : CF) (s : State) : Out :=
  runOne (.sig f) 4 (semSig f) s

/-- What SWAIT does (R261). -/
def semSwait (f : CF) : Sem :=
  cmdSem (.swait f)

/-- SWAIT (R261): Wait on and decrement an own semaphore in the UCE queue. -/
def execSwait (f : CF) (s : State) : Out :=
  runOne (.swait f) 4 (semSwait f) s

/-- What BPOST does (R261). -/
def semBpost (f : CF) : Sem :=
  cmdSem (.bpost f)

/-- BPOST (R261): Post an expected byte count to a barrier. -/
def execBpost (f : CF) (s : State) : Out :=
  runOne (.bpost f) 4 (semBpost f) s

/-- What BWAIT does (R261). -/
def semBwait (f : CF) : Sem :=
  cmdSem (.bwait f)

/-- BWAIT (R261): Wait for a barrier phase. -/
def execBwait (f : CF) (s : State) : Out :=
  runOne (.bwait f) 4 (semBwait f) s

/-- What BARRIVE does (R261). -/
def semBarrive (f : CF) : Sem :=
  cmdSem (.barrive f)

/-- BARRIVE (R261): Arrive at a barrier with a byte count. -/
def execBarrive (f : CF) (s : State) : Out :=
  runOne (.barrive f) 4 (semBarrive f) s

/-- What SEMRD does (R261). -/
def semSemrd (f : CF) : Sem :=
  cmdSem (.semrd f)

/-- SEMRD (R261): Read an own semaphore as a tagged read. -/
def execSemrd (f : CF) (s : State) : Out :=
  runOne (.semrd f) 4 (semSemrd f) s

/-- What CPOST does (R264). -/
def semCpost (f : CF) : Sem :=
  cmdSem (.cpost f)

/-- CPOST (R264): Post a child task from a unit's task image. -/
def execCpost (f : CF) (s : State) : Out :=
  runOne (.cpost f) 4 (semCpost f) s

/-- What LDR does (R263). -/
def semLdr (f : CF) : Sem :=
  cmdSem (.ldr f)

/-- LDR (R263): Read 8 bytes from any reachable space into a scalar register. -/
def execLdr (f : CF) (s : State) : Out :=
  runOne (.ldr f) 4 (semLdr f) s

/-- What LDR_V does (R263). -/
def semLdrV (f : CF) : Sem :=
  cmdSem (.ldrV f)

/-- LDR_V (R263): Read 512 bytes into a vector register. -/
def execLdrV (f : CF) (s : State) : Out :=
  runOne (.ldrV f) 4 (semLdrV f) s

/-- What STR does (R263). -/
def semStr (f : CF) : Sem :=
  cmdSem (.str f)

/-- STR (R263): Store a scalar register to any reachable space. -/
def execStr (f : CF) (s : State) : Out :=
  runOne (.str f) 4 (semStr f) s

/-- What STR_V does (R263). -/
def semStrV (f : CF) : Sem :=
  cmdSem (.strV f)

/-- STR_V (R263): Store a vector register to any reachable space. -/
def execStrV (f : CF) (s : State) : Out :=
  runOne (.strV f) 4 (semStrV f) s

end Sys2Proof.Machine
end

