-- ==== Sys2Proof/Machine/ScalarMem.lean ====
section
/-! DEFINITION. Scalar loads and stores (spec 11 R189, R190). -/

namespace Sys2Proof.Machine

/-- Offset of a scalar access (R189). -/
def smemOff (v : View) (a : Reg) (i : Int) : Nat := wrap ((v.sr a).toNat + i) 64

/-- Whether a register is poisoned. -/
def regPsn (v : View) (r : Reg) : Bool := (hmeta v.core (hS r.toNat)).poison

/-- The result of a scalar load of `n` bytes at offset `o` (R189): the value and the poison of the sectors read. -/
def loadVal (v : View) (o n : Nat) : Nat × Bool :=
  let img := (readLoc v.s (.chip (v.base + o)) n).1
  (ofBytes (img.map Prod.fst), img.any (fun b => b.2))

/-- Scalar load of `n` bytes (R189): checked, performed at issue, landing at latency 5. -/
def loadSem (d a : Reg) (imm : BitVec 14) (n : Nat) (ext : Nat → W64) : Sem := fun v =>
  let o := smemOff v a imm.toInt
  { wr := [hS d.toNat]
    reads := [hS a.toNat]
    gate := [hS a.toNat]
    acc := [(false, o, n)]
    chk := needRange (decide (o + n ≤ v.size)) o
    eff := fun t =>
      let r := loadVal v o n
      putResult (touchChip t (v.base + o) n) v.g v.core (hS d.toNat) 5 ((ext r.1).setWidth 4096) [hS a.toNat] r.2 0 }

/-- Zero extension. -/
def zextW (x : Nat) : W64 := BitVec.ofNat 64 x
/-- Sign extension from `n` bits. -/
def sextW (n x : Nat) : W64 := BitVec.ofInt 64 (sextN x n)

/-- Scalar store of the low `n` bytes of the data register (R189). -/
def storeSem (d a : Reg) (imm : BitVec 14) (n : Nat) : Sem := fun v =>
  let o := smemOff v a imm.toInt
  { reads := [hS a.toNat, hS d.toNat]
    gate := [hS a.toNat, hS d.toNat]
    acc := [(true, o, n)]
    chk := ((needRange (decide (o + n ≤ v.size)) o).unless (regPsn v a)).and
      ((psnOf (regPsn v d) 0 d.toNat).and (psnOf (regPsn v a) 0 a.toNat))
    eff := fun t => modMem t (fun m => writeNat m (v.base + o) n (v.sr d).toNat) }

/-- Registers of an LDM or STM (R190). -/
def runRegs (d n : BitVec 6) : List Nat := (List.range (n.toNat + 1)).map (fun j => d.toNat + j)

/-- What LD_B does (R189). -/
def semLdB (d : BitVec 6) (a : BitVec 6) (imm : BitVec 14) : Sem :=
  loadSem d a imm 1 (sextW 8)

/-- LD_B (R189): Load a sign-extended byte from own scratchpad. -/
def execLdB (d : BitVec 6) (a : BitVec 6) (imm : BitVec 14) (s : State) : Out :=
  runOne (.ldB d a imm) 0 (semLdB d a imm) s

/-- What LD_BU does (R189). -/
def semLdBu (d : BitVec 6) (a : BitVec 6) (imm : BitVec 14) : Sem :=
  loadSem d a imm 1 zextW

/-- LD_BU (R189): Load a zero-extended byte. -/
def execLdBu (d : BitVec 6) (a : BitVec 6) (imm : BitVec 14) (s : State) : Out :=
  runOne (.ldBu d a imm) 0 (semLdBu d a imm) s

/-- What LD_H does (R189). -/
def semLdH (d : BitVec 6) (a : BitVec 6) (imm : BitVec 14) : Sem :=
  loadSem d a imm 2 (sextW 16)

/-- LD_H (R189): Load a sign-extended halfword. -/
def execLdH (d : BitVec 6) (a : BitVec 6) (imm : BitVec 14) (s : State) : Out :=
  runOne (.ldH d a imm) 0 (semLdH d a imm) s

/-- What LD_HU does (R189). -/
def semLdHu (d : BitVec 6) (a : BitVec 6) (imm : BitVec 14) : Sem :=
  loadSem d a imm 2 zextW

/-- LD_HU (R189): Load a zero-extended halfword. -/
def execLdHu (d : BitVec 6) (a : BitVec 6) (imm : BitVec 14) (s : State) : Out :=
  runOne (.ldHu d a imm) 0 (semLdHu d a imm) s

/-- What LD_W does (R189). -/
def semLdW (d : BitVec 6) (a : BitVec 6) (imm : BitVec 14) : Sem :=
  loadSem d a imm 4 (sextW 32)

/-- LD_W (R189): Load a sign-extended word. -/
def execLdW (d : BitVec 6) (a : BitVec 6) (imm : BitVec 14) (s : State) : Out :=
  runOne (.ldW d a imm) 0 (semLdW d a imm) s

/-- What LD_WU does (R189). -/
def semLdWu (d : BitVec 6) (a : BitVec 6) (imm : BitVec 14) : Sem :=
  loadSem d a imm 4 zextW

/-- LD_WU (R189): Load a zero-extended word. -/
def execLdWu (d : BitVec 6) (a : BitVec 6) (imm : BitVec 14) (s : State) : Out :=
  runOne (.ldWu d a imm) 0 (semLdWu d a imm) s

/-- What LD_D does (R189). -/
def semLdD (d : BitVec 6) (a : BitVec 6) (imm : BitVec 14) : Sem :=
  loadSem d a imm 8 zextW

/-- LD_D (R189): Load a doubleword. -/
def execLdD (d : BitVec 6) (a : BitVec 6) (imm : BitVec 14) (s : State) : Out :=
  runOne (.ldD d a imm) 0 (semLdD d a imm) s

/-- What LDM does (R190). -/
def semLdm (d : BitVec 6) (a : BitVec 6) (n : BitVec 6) (o : BitVec 8) : Sem :=
  fun v =>
  let at0 := smemOff v a (8 * o.toNat : Nat)
  let rs := runRegs d n
  { wr := rs.map hS
    reads := [hS a.toNat]
    gate := [hS a.toNat]
    acc := [(false, at0, 8 * rs.length)]
    chk := needRange (decide (at0 + 8 * rs.length ≤ v.size)) at0
    eff := fun t => (rs.mapIdx (fun j r => (j, r))).foldl (fun t p =>
      let x := loadVal v (at0 + 8 * p.1) 8
      putResult t v.g v.core (hS p.2) 5 (BitVec.ofNat 4096 x.1) [hS a.toNat] x.2 0) (touchChip t (v.base + at0) (8 * rs.length)) }

/-- LDM (R190): Load n consecutive scalar registers. -/
def execLdm (d : BitVec 6) (a : BitVec 6) (n : BitVec 6) (o : BitVec 8) (s : State) : Out :=
  runOne (.ldm d a n o) 0 (semLdm d a n o) s

/-- What ST_B does (R189). -/
def semStB (d : BitVec 6) (a : BitVec 6) (imm : BitVec 14) : Sem :=
  storeSem d a imm 1

/-- ST_B (R189): Store a byte. -/
def execStB (d : BitVec 6) (a : BitVec 6) (imm : BitVec 14) (s : State) : Out :=
  runOne (.stB d a imm) 0 (semStB d a imm) s

/-- What ST_H does (R189). -/
def semStH (d : BitVec 6) (a : BitVec 6) (imm : BitVec 14) : Sem :=
  storeSem d a imm 2

/-- ST_H (R189): Store a halfword. -/
def execStH (d : BitVec 6) (a : BitVec 6) (imm : BitVec 14) (s : State) : Out :=
  runOne (.stH d a imm) 0 (semStH d a imm) s

/-- What ST_W does (R189). -/
def semStW (d : BitVec 6) (a : BitVec 6) (imm : BitVec 14) : Sem :=
  storeSem d a imm 4

/-- ST_W (R189): Store a word. -/
def execStW (d : BitVec 6) (a : BitVec 6) (imm : BitVec 14) (s : State) : Out :=
  runOne (.stW d a imm) 0 (semStW d a imm) s

/-- What ST_D does (R189). -/
def semStD (d : BitVec 6) (a : BitVec 6) (imm : BitVec 14) : Sem :=
  storeSem d a imm 8

/-- ST_D (R189): Store a doubleword. -/
def execStD (d : BitVec 6) (a : BitVec 6) (imm : BitVec 14) (s : State) : Out :=
  runOne (.stD d a imm) 0 (semStD d a imm) s

/-- What STM does (R190). -/
def semStm (d : BitVec 6) (a : BitVec 6) (n : BitVec 6) (o : BitVec 8) : Sem :=
  fun v =>
  let at0 := smemOff v a (8 * o.toNat : Nat)
  let rs := runRegs d n
  { reads := hS a.toNat :: rs.map hS
    gate := hS a.toNat :: rs.map hS
    acc := [(true, at0, 8 * rs.length)]
    chk := ((needRange (decide (at0 + 8 * rs.length ≤ v.size)) at0).unless (regPsn v a)).and
      ((rs.foldl (fun (c : Chk) r => c.and (psnOf (hmeta v.core (hS r)).poison 0 r)) {}).and (psnOf (regPsn v a) 0 a.toNat))
    eff := fun t => modMem t (fun m => writeImg m (v.base + at0) (rs.flatMap (fun r => (toBytes (rdS v.core r).toNat 8).map (fun b => (b, false))))) }

/-- STM (R190): Store n consecutive scalar registers. -/
def execStm (d : BitVec 6) (a : BitVec 6) (n : BitVec 6) (o : BitVec 8) (s : State) : Out :=
  runOne (.stm d a n o) 0 (semStm d a n o) s

end Sys2Proof.Machine
end

