-- ==== Sys2Proof/Machine/Control.lean ====
section
/-! DEFINITION. Branches, jumps, hardware loops, TRAP, ERET, TAIL, taint control and FENCE (spec 11 R191 to R196, R202; 04 R76, R79). -/

namespace Sys2Proof.Machine

/-- A conditional branch (R191, R193). -/
def branchSem (a b : Reg) (o : BitVec 14) (f : W64 → W64 → Bool) : Sem := fun v =>
  let taken := f (v.sr a) (v.sr b)
  let t : Int := (v.addr : Int) + o.toInt * 4
  let p := regPsn v a || regPsn v b
  { reads := [hS a.toNat, hS b.toNat]
    chk := ((needIll (!taken || targetOk t)).unless p).and ((psnOf (regPsn v a) 0 a.toNat).and (psnOf (regPsn v b) 0 b.toNat))
    xfer := true
    ctl := if taken then .jump t.toNat else .seq }

/-- A jump that writes its link (R192). -/
def jumpSem (d : Reg) (rs : List Reg) (t : View → Int) : Sem := fun v =>
  let p := rs.any (regPsn v)
  { wr := [hS d.toNat]
    reads := rs.map (fun r => hS r.toNat)
    chk := ((needIll (targetOk (t v))).unless p).and (rs.foldl (fun (c : Chk) r => c.and (psnOf (regPsn v r) 0 r.toNat)) {})
    xfer := true
    ctl := .jump (t v).toNat
    eff := fun s => putResult s v.g v.core (hS d.toNat) 1 (BitVec.ofNat 4096 v.link) (rs.map (fun r => hS r.toNat)) false 0 }

/-- Loop set-up (R194): in a unit alone. -/
def loopSem (n : View → Nat) (rs : List Reg) : Sem := unitOnly (fun v =>
  { reads := rs.map (fun r => hS r.toNat)
    chk := ((needIll (decide (0 < n v) && decide (n v < 2 ^ 32))).unless (rs.any (regPsn v))).and
      (rs.foldl (fun (c : Chk) r => c.and (psnOf (regPsn v r) 0 r.toNat)) {})
    xfer := true
    setup := true
    ctl := .loop (n v) })

/-- Holder of a class code and register number (R165): none where the code is unassigned or a bit above the register is
set; a queue has none. -/
def classHolder (lan : Bool) (cls x : Nat) : Option Nat :=
  match cls, lan with
  | 0, _ => some (hS x)
  | 1, false => if x < 32 then some (hV x) else none
  | 2, false => if x < 8 then some (hM x) else none
  | 1, true => if x < 16 then some (hD x) else none
  | _, _ => none

/-- Taint of a queue (R76): the tags of its entries that wait for their value. -/
def queueTaint (u : Unit) (q : Nat) : BitVec 16 :=
  (sget [] u.queues q).foldl (fun x e =>
    if !e.filled && tagLive u.core e.tag e.gen then x ||| BitVec.ofNat 16 (2 ^ e.tag) else x) 0

/-- Write a holder's taint and saturation, its poison unchanged (R76): in a unit one clk after issue. -/
def putTaint (s : State) (g : Agent) (c : Core) (h : Nat) (taint : BitVec 16) (sat : Bool) : State :=
  if !holds h then s
  else match g with
    | .lantern m => modLan s m.toNat (fun l => { l with core := giveTaint l.core h taint sat })
    | .unit k => modUnit s k.toNat (fun u => { u with flight := u.flight ++ [{
        cls := 4, reg := h, val := 0, r := 1, tags := tagsOf c taint, sat := sat, poison := false, order := u.bundle
        emask := 0, mz := false, idx := 0, rc := false, flags := 0 }] })

/-- The y operand of TJOIN: its taint and saturation; none where it names nothing. -/
def joinSource (v : View) (cls y : Nat) : Option (BitVec 16 × Bool) :=
  if cls = 3 ∧ !v.lan then (if y ≤ 8 then some (queueTaint v.u y, false) else none)
  else (classHolder v.lan cls y).map (fun h => ((hmeta v.core h).taint, (hmeta v.core h).sat))

/-- What BEQ does (R191). -/
def semBeq (a : BitVec 6) (b : BitVec 6) (o : BitVec 14) : Sem :=
  branchSem a b o (fun x y => x == y)

/-- BEQ (R191): Branch if equal. -/
def execBeq (a : BitVec 6) (b : BitVec 6) (o : BitVec 14) (s : State) : Out :=
  runOne (.beq a b o) 0 (semBeq a b o) s

/-- What BNE does (R191). -/
def semBne (a : BitVec 6) (b : BitVec 6) (o : BitVec 14) : Sem :=
  branchSem a b o (fun x y => x != y)

/-- BNE (R191): Branch if not equal. -/
def execBne (a : BitVec 6) (b : BitVec 6) (o : BitVec 14) (s : State) : Out :=
  runOne (.bne a b o) 0 (semBne a b o) s

/-- What BLT does (R191). -/
def semBlt (a : BitVec 6) (b : BitVec 6) (o : BitVec 14) : Sem :=
  branchSem a b o (fun x y => x.slt y)

/-- BLT (R191): Branch if signed less than. -/
def execBlt (a : BitVec 6) (b : BitVec 6) (o : BitVec 14) (s : State) : Out :=
  runOne (.blt a b o) 0 (semBlt a b o) s

/-- What BGE does (R191). -/
def semBge (a : BitVec 6) (b : BitVec 6) (o : BitVec 14) : Sem :=
  branchSem a b o (fun x y => !(x.slt y))

/-- BGE (R191): Branch if signed greater or equal. -/
def execBge (a : BitVec 6) (b : BitVec 6) (o : BitVec 14) (s : State) : Out :=
  runOne (.bge a b o) 0 (semBge a b o) s

/-- What BLTU does (R191). -/
def semBltu (a : BitVec 6) (b : BitVec 6) (o : BitVec 14) : Sem :=
  branchSem a b o (fun x y => x.ult y)

/-- BLTU (R191): Branch if unsigned less than. -/
def execBltu (a : BitVec 6) (b : BitVec 6) (o : BitVec 14) (s : State) : Out :=
  runOne (.bltu a b o) 0 (semBltu a b o) s

/-- What BGEU does (R191). -/
def semBgeu (a : BitVec 6) (b : BitVec 6) (o : BitVec 14) : Sem :=
  branchSem a b o (fun x y => !(x.ult y))

/-- BGEU (R191): Branch if unsigned greater or equal. -/
def execBgeu (a : BitVec 6) (b : BitVec 6) (o : BitVec 14) (s : State) : Out :=
  runOne (.bgeu a b o) 0 (semBgeu a b o) s

/-- What JAL does (R192). -/
def semJal (d : BitVec 6) (o : BitVec 20) : Sem :=
  jumpSem d [] (fun v => (v.addr : Int) + o.toInt * 4)

/-- JAL (R192): Jump relative and write the link. -/
def execJal (d : BitVec 6) (o : BitVec 20) (s : State) : Out :=
  runOne (.jal d o) 0 (semJal d o) s

/-- What JALR does (R192). -/
def semJalr (d : BitVec 6) (a : BitVec 6) (imm : BitVec 14) : Sem :=
  jumpSem d [a] (fun v => (wrap ((v.sr a).toNat + imm.toInt * 4) 64 : Int))

/-- JALR (R192): Jump to a register address and write the link. -/
def execJalr (d : BitVec 6) (a : BitVec 6) (imm : BitVec 14) (s : State) : Out :=
  runOne (.jalr d a imm) 0 (semJalr d a imm) s

/-- What LOOP does (R194). -/
def semLoop (a : BitVec 6) : Sem :=
  loopSem (fun v => (v.sr a).toNat) [a]

/-- LOOP (R194): Set up a hardware loop with its count in a register (unit only). -/
def execLoop (a : BitVec 6) (s : State) : Out :=
  runOne (.loop a) 0 (semLoop a) s

/-- What LOOPI does (R194). -/
def semLoopi (imm : BitVec 14) : Sem :=
  loopSem (fun _ => imm.toNat) []

/-- LOOPI (R194): Set up a hardware loop with an immediate count (unit only). -/
def execLoopi (imm : BitVec 14) (s : State) : Out :=
  runOne (.loopi imm) 0 (semLoopi imm) s

/-- What TJOIN does (R76). -/
def semTjoin (x : BitVec 6) (y : BitVec 6) (p : BitVec 2) (q : BitVec 2) : Sem :=
  fun v =>
  match classHolder v.lan p.toNat x.toNat, joinSource v q.toNat y.toNat with
  | some h, some src =>
    let m := hmeta v.core h
    { wr := [h], eff := fun t => putTaint t v.g v.core h (m.taint ||| src.1) (m.sat || src.2) }
  | _, _ => { bad := some (if p = 3 ∧ !v.lan then 5 else 2) }

/-- TJOIN (R76): Join the taint of y into x. -/
def execTjoin (x : BitVec 6) (y : BitVec 6) (p : BitVec 2) (q : BitVec 2) (s : State) : Out :=
  runOne (.tjoin x y p q) 0 (semTjoin x y p q) s

/-- What TCLR does (R76). -/
def semTclr (x : BitVec 6) (p : BitVec 2) : Sem :=
  fun v =>
  match classHolder v.lan p.toNat x.toNat with
  | some h => { wr := [h], eff := fun t => putTaint t v.g v.core h 0 false }
  | none => { bad := some (if p = 3 ∧ !v.lan then 5 else 2) }

/-- TCLR (R76): Clear the taint and saturation of x. -/
def execTclr (x : BitVec 6) (p : BitVec 2) (s : State) : Out :=
  runOne (.tclr x p) 0 (semTclr x p) s

/-- What TWAIT does (R76). -/
def semTwait (c : BitVec 2) (x : BitVec 6) (k : BitVec 16) : Sem :=
  fun v =>
  match classHolder v.lan c.toNat x.toNat with
  | some h =>
    if v.lan && decide (256 ≤ k.toNat) then { bad := some 2 } else { tw := some ((hmeta v.core h).taint ||| k) }
  | none => { bad := some 2 }

/-- TWAIT (R76): Hold the bundle until no tag of x's taint and the mask remains assigned. -/
def execTwait (c : BitVec 2) (x : BitVec 6) (k : BitVec 16) (s : State) : Out :=
  runOne (.twait c x k) 0 (semTwait c x k) s

/-- What FENCE does (R79). -/
def semFence (sc : BitVec 3) (k : BitVec 5) : Sem :=
  fun _ => { fence := some (sc.toNat, k.toNat) }

/-- FENCE (R79): Order earlier accesses of selected kinds before later ones within a scope. -/
def execFence (sc : BitVec 3) (k : BitVec 5) (s : State) : Out :=
  runOne (.fence sc k) 0 (semFence sc k) s

/-- What TRAP does (R202). -/
def semTrap (c : BitVec 16) : Sem :=
  fun _ => { xfer := true, ctl := .trap c.toNat }

/-- TRAP (R202): Raise the TRAP cause with a 16-bit code. -/
def execTrap (c : BitVec 16) (s : State) : Out :=
  runOne (.trap c) 0 (semTrap c) s

/-- What ERET does (R202). -/
def semEret : Sem :=
  fun _ => { xfer := true, ctl := .eret }

/-- ERET (R202): Return from a handler, clearing hm. -/
def execEret (s : State) : Out :=
  runOne .eret 0 semEret s

/-- What TAIL does (R202). -/
def semTail : Sem :=
  fun _ => { xfer := true, ctl := .tail }

/-- TAIL (R202): End the instance or graph program, freeing registers and handing outstanding work to the retirement tracker. -/
def execTail (s : State) : Out :=
  runOne .tail 0 semTail s

end Sys2Proof.Machine
end

