-- ==== Sys2Proof/Machine/Ring.lean ====
section
/-! DEFINITION. Settling retry ring entries: RETRY and the completion port, the consumer count, and the asynchronous traps of a Lantern core (spec 06 R103 to R113, 15 R283, 17 R312 to R316). -/

namespace Sys2Proof.Machine

/-! ## What a ring position names -/

/-- Whether a faulted access is one of a Lantern core's own loads, stores or atomics. -/
def isAcc (s : State) (f : FaultRec) : Bool :=
  match f.eng with
  | .lantern m => (findAcc s m.toNat f.run).isSome
  | _ => false

/-- Change the chunk a faulted access is. -/
def modFaultChunk (s : State) (f : FaultRec) (g : Chunk → Chunk) : State :=
  modRun s f.eng f.run (fun r => { r with chunks := r.chunks.map (fun c => if c.idx = f.chunk then g c else c) })

/-- The hold slot of an entry is freed (R108); a held image that the start of a graph program took out of its slot is kept
with its chunk (R267). -/
def holdFree (s : State) (f : FaultRec) : State :=
  if f.held && decide (f.hslot < 8) then modX s f.eng (fun x => { x with holds := serase x.holds f.hslot }) else s

/-- What a hold slot keeps. -/
def holdImg (s : State) (f : FaultRec) : List (Byte × Bool) :=
  if f.hslot < 8 then (sget {} (getX s f.eng).holds f.hslot).img
  else (((findRun s f.eng f.run).bind (fun r => r.chunks.find? (fun c => c.idx == f.chunk))).map (fun c => c.img)).getD []

/-- An MMA resumes where a fault stopped it (R113, R238): stop clears as it does. -/
def resumeMma (s : State) (f : FaultRec) (g : CompRun → CompRun) : State :=
  match f.eng with
  | .mat k => modUnit s k.toNat (fun u =>
    match u.mx.comp.find? (fun c => c.seq == f.run) with
    | none => u
    | some c => { u with
        tiles := smod {} u.tiles (tileIx c.cmd.ins) (fun x => { x with stop := false })
        mx := { u.mx with comp := u.mx.comp.map (fun c => if c.seq = f.run then g { c with fault := false } else c) } })
  | _ => s

/-- Change the Lantern access whose fault an entry records. -/
def modFaultAcc (s : State) (f : FaultRec) (g : LAcc → LAcc) : State := modAcc s (Eng.cl f.eng) f.run g

/-! ## Settling -/

/-- The reissue of what an entry names (R105, R108): a held image is written, anything else starts afresh. Until it is
performed it counts as a store of the Lantern core for FENCE (R79). -/
def retryOne (s : State) (f : FaultRec) : State :=
  if f.cls = 7 then resumeMma s f (fun c => { c with retried := true })
  else if isAcc s f then holdFree (modFaultAcc s f (fun a => { a with phase := .fresh, hslot := some portMark })) f
  else
    let img := holdImg s f
    holdFree (modFaultChunk s f (fun c =>
      if f.held then { c with phase := .bound, img := img, hslot := some portMark }
      else { c with phase := .fresh, img := [], hslot := some portMark })) f

/-- WRITE (R106): the held bytes go to the destination. -/
def portWrite (s : State) (f : FaultRec) : State :=
  retryOne s f

/-- SUPPLY (R106): the bytes of a buffer are the destination image, or the value of a register. -/
def portSupply (s : State) (m : Nat) (f : FaultRec) (buf : Nat) : State :=
  let (img, s1) := readLoc s (.chip (clBase m + buf)) f.img
  if isAcc s f then
    holdFree (modFaultAcc s1 f (fun a => { a with phase := if f.cls = 6 then .reading [] else .fresh, hslot := some portMark, b := if f.cls = 6 then a.b else 0, out := img })) f
  else holdFree (modFaultChunk s1 f (fun c => { c with phase := .bound, img := img, hslot := some portMark })) f

/-- POISON (R106, R113): destination sectors, a returned value or the rest of an MMA are poisoned. An atomic that returns no
value completes as it would have (R86). -/
def portPoison (s : State) (f : FaultRec) : State :=
  if f.cls = 7 then resumeMma s f (fun c => { c with psnRows := true })
  else
    let (fr, s1) := freeBytes s f.img
    let img := fr.map (fun b => (b, true))
    if isAcc s f then
      match findAcc s (Eng.cl f.eng) f.run with
      | none => s
      | some a =>
        if accStore a.op then holdFree (modFaultAcc s f (fun a => { a with phase := .fresh, hslot := some portMark, b := 1 })) f
        else if accReturns a then accArrive s1 (Eng.cl f.eng) a img
        else dropAcc s (Eng.cl f.eng) f.run
    else if 5 ≤ f.cls then modFaultChunk s1 f (fun c => { c with phase := .bound, img := img, hslot := some portMark })
    else
      let s2 := holdFree (modFaultChunk s f (fun c => { c with phase := .bound, img := [], hslot := some portMark })) f
      match findRun s2 f.eng f.run with
      | none => s2
      | some r =>
        match r.chunks.find? (fun c => c.idx == f.chunk) with
        | none => s2
        | some c => asking s2 (.chunk f.eng f.run f.chunk 0) (fun s2 => chunkRun s2 f.eng r c (chunkPoison s2 f.eng r c))

/-- An entry ceases to be pending. -/
def unpend (s : State) (m pos : Nat) : State := modCl s m (fun c => { c with pend := serase c.pend pos })

/-- The entry at a ring position, where it is pending. -/
def pendAt (s : State) (m pos : Nat) : Option FaultRec := ((getCl s m).pend.find? (fun p => p.1 == pos)).map Prod.snd

/-- A rejected settlement sets cerr, with the first cause (R103, R106, R283). -/
def ringReject (s : State) (m code : Nat) : State :=
  modLan s m (fun l =>
    let v := (rdCsr l.core 0x141).toNat
    if bit v 31 then l else { l with core := wrCsr l.core 0x141 (BitVec.ofNat 64 (bits v 0 28 + code * 2 ^ 28 + 2 ^ 31)) })

/-- RETRY of a ring position (R283). -/
def ringRetry (s : State) (m pos : Nat) : State :=
  match pendAt s m pos with
  | none => ringReject s m 1
  | some f => retryOne (unpend s m pos) f

/-- A write to ring.cmp (R106). -/
def ringCmp (s : State) (m v : Nat) : State :=
  let op := bits v 0 2
  let pos := bits v 2 10
  let buf := bits v 40 24
  if op = 0 then s
  else match pendAt s m pos with
    | none => ringReject s m 1
    | some f =>
      if op = 2 ∧ ¬ (f.cls = 0 ∨ f.cls = 1 ∨ f.cls = 4 ∨ f.cls = 6) then ringReject s m 2
      else if op = 1 ∧ f.held = false then ringReject s m 3
      else if op = 2 ∧ (buf % 64 ≠ 0 ∨ clSize < buf + f.img) then ringReject s m 4
      else
        let s1 := unpend s m pos
        if op = 1 then portWrite s1 f else if op = 2 then portSupply s1 m f buf else portPoison s1 f

/-- Entries that a write of `n` to ring.head consumes from count `h` on: it stops at the first pending one (R105). -/
def headStop (s : State) (m h n : Nat) : Nat :=
  let L := ringL s m
  let adv := (n + 2 ^ (L + 1) - h) % 2 ^ (L + 1)
  match (List.range (min adv (ringUsed s m))).find? (fun j => (pendAt s m ((h + j) % 2 ^ L)).isSome) with
  | some j => (h + j) % 2 ^ (L + 1)
  | none => n

/-- A write to ring.head (R105); faults of stopped agents are then recorded (R104). -/
def ringHeadSet (s : State) (m v : Nat) : State :=
  let n := headStop s m (ringHead s m) (v % 2 ^ (ringL s m + 1))
  let s1 := modLan s m (fun l => { l with core := wrCsr l.core 0x143 (BitVec.ofNat 64 n) })
  ringDrain s1 m (getCl s1 m).ringWait.length

/-- A write to ring.cmp with the operation of the event, its other fields in arg.v. -/
def cmpEvent (s : State) (op : Nat) : Out := .next (ringCmp s s.arg.m.toNat (s.arg.v.toNat / 4 * 4 + op))

/-- RING_CMP_WRITE (R106). -/
def execRingCmpWrite (s : State) : Out := cmpEvent s 1
/-- RING_CMP_SUPPLY (R106). -/
def execRingCmpSupply (s : State) : Out := cmpEvent s 2
/-- RING_CMP_POISON (R106). -/
def execRingCmpPoison (s : State) : Out := cmpEvent s 3
/-- RING_HEAD_WRITE (R105). -/
def execRingHeadWrite (s : State) : Out := .next (ringHeadSet s s.arg.m.toNat (bits s.arg.v.toNat 0 11))

/-! ## Asynchronous traps of a Lantern core -/

/-- Whether a Lantern core can be given an asynchronous cause at this boundary; one with a transfer recorded behind its
delay word takes none there, since trap.npc holds one transfer (log entry 32). A word whose post or signal has left the
core completes first, so that one that is interrupted has posted nothing (R285, log entry 33). -/
def asyncOk (l : Lan) : Bool :=
  l.on && !hm l.core && l.core.after.isNone && (match l.wait with | some (.post _ _) | some (.arm _ _) => false | _ => true)

/-- The stopped unit whose UNIT_TRAP is next, in order of local index (R314). -/
def nextStop (s : State) (m : Nat) : Option (Nat × Stop) :=
  (List.range 8).findSome? (fun j => match (getUnit s (8 * m + j)).stop with
    | some x => if x.told then none else some (j, x)
    | none => none)

/-- The UNIT_TRAP value (R312). -/
def unitTrapVal (j : Nat) (x : Stop) : Nat :=
  (if x.dfr then 2 ^ 63 else 0) + bits x.cause 0 8 * 2 ^ 32 + bits x.slot 0 3 * 2 ^ 24 + j * 2 ^ 21 + bits x.addr 0 21

/-- UNIT_TRAP (R314 to R316, R403): the Lantern core of a cluster takes the trap of its next stopped unit at a word
boundary; with no handler installed the job ends. -/
def execUnitTrap (s : State) : Out :=
  let m := s.arg.m.toNat
  let l := (getCl s m).lan
  .next (match nextStop s m with
  | none => s
  | some (j, x) =>
    if !asyncOk l || ended s || frozen s then s
    else
      let s1 := modUnit s (8 * m + j) (fun u => { u with stop := some { x with told := true } })
      modLan (lanTrap s1 m cUnitTrap (unitTrapVal j x) l.core.pc l.core.delay) m (fun l => { l with trapUnit := some j }))

/-- RING_TRAP (R104, R312, R316): taken where a handler is installed; dropped where the ring has been emptied. -/
def execRingTrap (s : State) : Out :=
  let m := s.arg.m.toNat
  let l := (getCl s m).lan
  .next (if !l.ring || !asyncOk l || !trapEn l.core || ended s || frozen s then s
  else
    let s1 := modLan s m (fun l => { l with ring := false })
    if ringUsed s m = 0 then s1 else lanTrap s1 m cRing (ringTail s m) l.core.pc l.core.delay)

/-! ## Events of engines of every kind -/

/-- MEMORY_SIDE_FAULT (R104): of a copy engine's command j (chunk n), of access or LCP j of a Lantern core, of an MMA's
fetch. -/
def execMemorySideFault (s : State) : Out :=
  .next (match s.arg.eng with
  | .mat k => mmaFault s k.toNat
  | .stream _ => s
  | .lantern m => if (findAcc s m.toNat s.arg.j).isSome then accFaultEvent s m.toNat s.arg.j
                  else chunkFaultEvent s s.arg.eng s.arg.j s.arg.n
  | _ => copyFault s)

/-- CHUNK_COMPLETE (R107): chunk n of command j of a copy engine, or an access of a Lantern core, goes on. -/
def execChunkComplete (s : State) : Out :=
  .next (match s.arg.eng with
  | .mat _ | .stream _ => s
  | .lantern m => if (findAcc s m.toNat s.arg.j).isSome then accStep s m.toNat s.arg.j else copyChunkComplete s
  | _ => copyChunkComplete s)

/-- ENGINE_TOKEN_FIRE (R84). -/
def execEngineTokenFire (s : State) : Out :=
  .next (match s.arg.eng with
  | .mat k => mxTokenFire s k.toNat
  | .uce _ _ => uceTokenFire s
  | _ => s)

end Sys2Proof.Machine
end

