-- ==== Sys2Proof/Machine/Csr.lean ====
section
/-! DEFINITION. Control and status registers: what a read returns and what a write does (spec 11 R197 to R200, and the rules that lay each register out). -/

namespace Sys2Proof.Machine

/-! ## Reads -/

/-- acc.stt (R46). -/
def tileStatus (u : Unit) (t : Nat) : Nat :=
  let x := sget {} u.tiles t
  (if tileBusy u t then 2 ^ 31 else 0) + (if x.stop then 2 ^ 30 else 0) + (if x.ovf then 2 ^ 29 else 0)
    + (if x.lost ≠ 0 then 2 ^ 28 else 0) + x.prog % 2 ^ 16

/-- One bit of every semaphore (R89). -/
def semBits (u : Unit) (f : SemSt → Bool) : Nat :=
  (List.range 32).foldl (fun a i => if f (sget {} u.sems i) then a + 2 ^ i else a) 0

/-- Key of a histogram count: bins 0 to 31, 32 the special count (R140). -/
def histKey (set bin : Nat) : Nat := 64 * set + bin

/-- id.loc of an agent (R199). -/
def idLoc : Agent → Nat
  | .lantern m => 2 ^ 31 + m.toNat / 8 * 2 ^ 16 + m.toNat * 2 ^ 8
  | .unit k => k.toNat / 64 * 2 ^ 16 + k.toNat / 8 * 2 ^ 8 + k.toNat

/-- The value a CSRR returns (R197). A tag cleared earlier in the clk was assigned at its start. -/
def csrRead (s : State) (g : Agent) (c : Core) (u : Unit) (n : Nat) : W64 :=
  let nat := fun (x : Nat) => BitVec.ofNat 64 x
  if 0x30 ≤ n ∧ n ≤ 0x3F then nat (tileStatus u (n - 0x30))
  else if n = 0x43 then nat (sget 0 u.hist (histKey (rdCsr c 0x41).toNat 32))
  else if 0x60 ≤ n ∧ n ≤ 0x7F then nat (sget 0 u.hist (histKey (rdCsr c 0x41).toNat (n - 0x60)))
  else if 0x80 ≤ n ∧ n ≤ 0x83 then nat (loopCnt u (n - 0x80))
  else if n = 0x90 then (tagsOut c ||| c.freed).zeroExtend 64
  else if n = 0x93 then nat (semBits u (fun x => x.err))
  else if n = 0x94 then nat (semBits u (fun x => x.ovf))
  else if n = 0xB0 then nat s.partMod
  else if n = 0xB1 then nat s.partSize
  else if n = 0xB2 then nat (s.chip.slot % 1024)
  else if n = 0xB3 then nat (idLoc g)
  else if 0x100 ≤ n ∧ n ≤ 0x12F then rdCsr (getCl s g.cl).lan.core n
  else if n = 0x132 then rdCsr c n + (if (getCl s g.cl).lan.rpcOp = 0 then 0 else nat (2 ^ 63))
  else if n = 0x133 then nat (if s.wbLoss then 1 else 0)
  else if n = 0x134 then nat s.wbCount
  else rdCsr c n

/-! ## Writes -/

/-- A plain CSR takes its writable bits; the others keep theirs (R197). -/
def csrPlain (c : Core) (n : Nat) (v : W64) : Core :=
  let k := BitVec.ofNat 64 (((csrMap n).map (fun x => x.2.2)).getD 0)
  wrCsr c n ((rdCsr c n &&& ~~~ k) ||| (v &&& k))

/-- A write to rngi.va or rngi.lim stages its value (R19). -/
def rangeStage (s : State) (m n : Nat) (v : W64) : State :=
  modLan s m (fun l => { l with stage := sset (rdCsr l.core n) l.stage n (v &&& 0xFFFFFFFFE000) })

/-- A write to rngi.ia commits the staged base and limit with it (R19). -/
def rangeCommit (s : State) (m n : Nat) (v : W64) : State :=
  modLan s m (fun l =>
    let va := sget (rdCsr l.core (n - 2)) l.stage (n - 2)
    let lim := sget (rdCsr l.core (n - 1)) l.stage (n - 1)
    { l with
      core := csrPlain (wrCsr (wrCsr l.core (n - 2) va) (n - 1) lim) n v
      stage := serase (serase l.stage (n - 2)) (n - 1) })

/-- hist.clr (R141). -/
def histClear (u : Unit) (mask : Nat) : Unit := { u with hist := u.hist.filter (fun p => !bit mask (p.1 / 64)) }

/-- A write to acc.stt (R46). -/
def tileWrite (u : Unit) (t v : Nat) : Unit :=
  { u with tiles := smod {} u.tiles t (fun x => { x with stop := bit v 30, ovf := bit v 29, prog := bits v 0 16 }) }

/-- Write one bit of every semaphore (R89). -/
def semWrite (u : Unit) (f : SemSt → Bool → SemSt) (v : Nat) : Unit :=
  { u with sems := (List.range 32).foldl (fun x i => smod {} x i (fun y => f y (bit v i))) u.sems }

/-- What a CSRW does (R197). rpc.wbloss and rpc.wbcount are one pair for the module, whichever core writes them (log entry 49). -/
def csrWrite (s : State) (g : Agent) (n : Nat) (v : W64) : State :=
  match g with
  | .unit k =>
    let k := k.toNat
    if 0x30 ≤ n ∧ n ≤ 0x3F then modUnit s k (fun u => tileWrite u (n - 0x30) v.toNat)
    else if n = 0x42 then modUnit s k (fun u => histClear u (bits v.toNat 0 4))
    else if n = 0x93 then modUnit s k (fun u => semWrite u (fun y b => { y with err := b }) v.toNat)
    else if n = 0x94 then modUnit s k (fun u => semWrite u (fun y b => { y with ovf := b }) v.toNat)
    else modUnit s k (fun u => { u with core := csrPlain u.core n v })
  | .lantern m =>
    let m := m.toNat
    if 0x100 ≤ n ∧ n ≤ 0x12F then (if (n - 0x100) % 3 = 2 then rangeCommit s m n v else rangeStage s m n v)
    else if n = 0x132 then rpcStart (modLan s m (fun l => { l with core := csrPlain l.core n v })) m (bits v.toNat 0 2)
    else if n = 0x133 then { s with wbLoss := bit v.toNat 0 }
    else if n = 0x134 then { s with wbCount := bits v.toNat 0 32 }
    else if n = 0x143 then ringHeadSet s m (bits v.toNat 0 11)
    else if n = 0x144 then ringCmp s m v.toNat
    else modLan s m (fun l => { l with core := csrPlain l.core n v })

/-- Whether a CSR accepts a value (R103, R136, R300). -/
def csrOk (s : State) (g : Agent) (c : Core) (n : Nat) (v : W64) : Bool :=
  let x := v.toNat
  let open0 := decide (ringHead s g.cl ≠ ringTail s g.cl)
  if n = 0x11 then decide (bits x 0 3 ≤ 5)
  else if n = 0x140 then !open0 || decide (bits x 6 18 = bits (rdCsr c 0x140).toNat 6 18)
  else if n = 0x141 then decide (4 ≤ bits x 0 4 ∧ bits x 0 4 ≤ 10) && (!open0 || decide (bits x 0 4 = ringL s g.cl))
  else if n = 0x150 then decide (bits x 0 9 ≤ 256) && decide (bits x 16 11 ≤ 1024)
  else true

/-- Whether an agent may read or write a CSR (R197). A read of ring.cmp or hist.clr is ILLEGAL, as R197 and R158 say of a
number marked W, though R106 and R141 write "reads return zero" over their layouts (log entry 64). -/
def csrMay (lan : Bool) (n : Nat) (wr : Bool) : Bool :=
  match csrMap n with
  | none => true
  | some (u, l, _) =>
    match (if lan then l else u), wr with
    | .rw, _ => true
    | .r, false => true
    | .w, true => true
    | _, _ => false

/-- What CSRR does (R197). -/
def semCsrr (d : BitVec 6) (c : BitVec 14) : Sem :=
  fun v =>
  let n := c.toNat
  { bad := if csrMay v.lan n false then none else some 1
    wr := [hS d.toNat]
    eff := fun t => putResult t v.g v.core (hS d.toNat) 1 ((csrRead v.s v.g v.core v.u n).setWidth 4096) [] false 0 }

/-- CSRR (R197): Read a control and status register. -/
def execCsrr (d : BitVec 6) (c : BitVec 14) (s : State) : Out :=
  runOne (.csrr d c) 0 (semCsrr d c) s

/-- What CSRW does (R197). -/
def semCsrw (a : BitVec 6) (c : BitVec 14) : Sem :=
  fun v =>
  let n := c.toNat
  { bad := if csrMay v.lan n true then none else some 1
    reads := [hS a.toNat]
    gate := [hS a.toNat]
    tiles := if 0x30 ≤ n ∧ n ≤ 0x3F then [n - 0x30] else []
    chk := ((needIll (csrOk v.s v.g v.core n (v.sr a))).unless (regPsn v a)).and (psnOf (regPsn v a) 0 a.toNat)
    hold := v.lan && decide (n = 0x132) && decide ((getCl v.s v.g.cl).lan.rpcOp ≠ 0)
    eff := fun t => csrWrite t v.g n (v.sr a) }

/-- CSRW (R197): Write a control and status register with no behaviour of its own. -/
def execCsrw (a : BitVec 6) (c : BitVec 14) (s : State) : Out :=
  runOne (.csrw a c) 0 (semCsrw a c) s

/-! ## Writes as events of their own -/

/-- RANGE_STAGE_WRITE (R19): cluster m, CSR number n (an rngi.va or rngi.lim), value v. -/
def execRangeStageWrite (s : State) : Out :=
  let n := s.arg.n
  .next (if 0x100 ≤ n ∧ n ≤ 0x12F ∧ (n - 0x100) % 3 ≠ 2 then rangeStage s s.arg.m.toNat n s.arg.v else s)

/-- RANGE_COMMIT (R19): cluster m, CSR number n (an rngi.ia), value v. -/
def execRangeCommit (s : State) : Out :=
  let n := s.arg.n
  .next (if 0x100 ≤ n ∧ n ≤ 0x12F ∧ (n - 0x100) % 3 = 2 then rangeCommit s s.arg.m.toNat n s.arg.v else s)

/-- HIST_CLR (R141): unit k, value v. -/
def execHistClr (s : State) : Out :=
  .next (modUnit s s.arg.k.toNat (fun u => histClear u (bits s.arg.v.toNat 0 4)))

/-- TILE_STATUS_WRITE (R46): unit k, tile j, value v; it waits for busy to clear. -/
def execTileStatusWrite (s : State) : Out :=
  let k := s.arg.k.toNat
  let t := s.arg.j % 16
  .next (if tileBusy (getUnit s k) t then s else modUnit s k (fun u => tileWrite u t s.arg.v.toNat))

end Sys2Proof.Machine
end

