-- ==== Sys2Proof/Machine/Tasks.lean ====
section
/-! DEFINITION. The scoreboard: placement and entry of posts, edges, renaming, tokens, dispatch, drain and release (spec 16 R287 to R311, 15 R274 to R276, 05 R90 to R92). -/

namespace Sys2Proof.Machine

/-! ## The window -/

/-- Free task entries (R299). -/
def freeTasks (c : Cluster) : Nat := 512 - c.tasks.length
/-- Free region entries (R299). -/
def freeRegs (c : Cluster) : Nat := 2048 - (c.tasks.map (fun t => t.regs.length)).foldl (· + ·) 0
/-- An overflow queue: 0 the Lantern core's, 1 + j unit j's (R301). -/
def ovfQ (c : Cluster) (o : Nat) : List Post := sget [] c.ovf o
/-- win.reserve: tasks, regions (R300). -/
def reserve (c : Cluster) : Nat × Nat :=
  let v := (rdCsr c.lan.core 0x150).toNat
  (bits v 0 9, bits v 16 11)

/-- The window condition of a poster for `k` region entries, its queue left out (R301, R302). -/
def windowOk (c : Cluster) (o k : Nat) : Bool :=
  let r := reserve c
  if 1 ≤ o ∧ o ≤ 8 then decide (1 ≤ freeTasks c) && decide (k ≤ freeRegs c)
  else decide (r.1 + 1 ≤ freeTasks c) && decide (r.2 + k ≤ freeRegs c)

/-- Where a post goes (R301): 0 window, 1 its overflow queue, 2 full. -/
def placeOf (c : Cluster) (o k : Nat) : Nat :=
  let empty := if o = 9 then c.ovf.all (fun p => p.2.isEmpty) else (ovfQ c o).isEmpty
  if empty && windowOk c o k then 0
  else if o ≠ 9 ∧ (ovfQ c o).length < c.ovfCap then 1 else 2

/-! ## Tokens -/

/-- A post whose consumed slots that `f` holds for are satisfied (R295). -/
def satPost (f : Nat → Bool) (p : Post) : Post := { p with sat := p.sat.mapIdx (fun k b => b || f k) }
/-- Every accepted post of a cluster whose consumed slots that `f` holds for are satisfied: of its tasks and its queues. -/
def satPosts (f : Post → Nat → Bool) (c : Cluster) : Cluster :=
  { c with tasks := c.tasks.map (fun (t : Task) => { t with post := satPost (f t.post) t.post })
           ovf := c.ovf.map (fun q => (q.1, q.2.map (fun p => satPost (f p) p))) }

/-- Whether slot k of a post consumes a token of this module. -/
def slotNames (s : State) (cl t : Nat) (p : Post) (k : Nat) : Bool :=
  let h := imTok p.img.toNat k
  bit h 47 && decide (handleAt s.partMod h = (s.partMod, cl, t))

/-- A token is signalled (R276); the posts of its own cluster that consume it find it fired (R295). -/
def tokFire (s : State) (cl t : Nat) : State :=
  modCl s cl (fun c => satPosts (slotNames s cl t)
    { c with tokens := smod {} c.tokens t (fun x => { fired := true, cnt := min 65535 (x.cnt + 1) }) })
/-- A token is armed (R276). -/
def tokArm (s : State) (cl t : Nat) : State := modCl s cl (fun c => { c with tokens := serase c.tokens t })

/-- A packet that names a token by its handle (R336). -/
def tokPkt (s : State) (type h : Nat) : Packet :=
  { pkt0 s 0 type with ia := BitVec.ofNat 48 (bits h 0 17), dmod := BitVec.ofNat 16 (handleAt s.partMod h).1 }

/-- Consumed slots that the acceptance finds satisfied (R276, R295): those of the accepting cluster. -/
def acceptSat (s : State) (m : Nat) (p : Post) : Post :=
  { p with sat := (List.range 3).map (fun k =>
      let h := imTok p.img.toNat k
      let a := handleAt s.partMod h
      !bit h 47 || (decide (a.1 = s.partMod ∧ a.2.1 = m) && (getTok s m a.2.2).fired)) }

/-- The produced token is armed (R276): at once on this module, by a message elsewhere; `who` waits for its answer. -/
def armProduced (s : State) (p : Post) (who : Reqr) : State × Option Nat :=
  let h := imTok p.img.toNat 3
  if !bit h 47 then (s, none)
  else
    let a := handleAt s.partMod h
    if a.1 = s.partMod then (tokArm s a.2.1 a.2.2, none)
    else
      let (rid, t) := request s (tokPkt s 0x09 h) who
      (t, some rid)

/-- The produced token of a freed task is signalled (R90, R299). -/
def fireProduced (s : State) (m : Nat) (p : Post) : State :=
  let h := imTok p.img.toNat 3
  if !bit h 47 then s
  else
    let a := handleAt s.partMod h
    if a.1 = s.partMod then tokFire s a.2.1 a.2.2
    else (request s (tokPkt s 0x0A h) (.arm (BitVec.ofNat 5 m))).2

/-! ## Regions -/

/-- Whether a region entry writes. -/
def rgWrites (acc : Nat) : Bool := decide (2 ≤ acc)
/-- Whether an entry is a rename record (R297). -/
def isRecord (y : RegEnt) : Bool := y.buf.isSome
/-- Whether it is a home R region. -/
def isHomeR (y : RegEnt) : Bool := decide (y.acc = 1) && y.redir.isNone

/-- Whether two boxes share an element (R54). -/
def boxMeet (x y : RegEnt) : Bool :=
  (List.range 4).all (fun d => decide (x.lo.getD d 0 < y.hi.getD d 0) && decide (y.lo.getD d 0 < x.hi.getD d 0))
/-- Whether box `x` lies inside box `y`. -/
def boxIn (x y : RegEnt) : Bool :=
  (List.range 4).all (fun d => decide (y.lo.getD d 0 ≤ x.lo.getD d 0) && decide (x.hi.getD d 0 ≤ y.hi.getD d 0))

/-- Whether two regions conflict (R54, R55). -/
def rgConflict (s : State) (m : Nat) (x y : RegEnt) : Bool :=
  (rgWrites x.acc || rgWrites y.acc) &&
  (if x.tid = y.tid then boxMeet x y
   else
    let a := tAlias (tensorOf s m x.tid)
    decide (a ≠ 0 ∧ a = tAlias (tensorOf s m y.tid)) && decide (x.hullLo < y.hullHi) && decide (y.hullLo < x.hullHi))

/-- A region entry before its edges are known (R289, R293). -/
def regEnt (s : State) (m : Nat) (p : Post) (j r : Nat) : RegEnt :=
  let t := tensorOf s m (rgTid r)
  let b := rgBox p.img.toNat r
  let h := tHull t b.1 b.2
  let base := tBaseIa s m t
  { idx := j, tid := rgTid r, acc := rgAcc r, lo := b.1, hi := b.2, hullLo := base + h.1, hullHi := base + h.2
    deps := [], buf := none, redir := none, homeR := [], committed := false }

/-- The lowest pool offset that starts a free run of `n` bytes (R296). -/
def poolFit (c : Cluster) (n : Nat) : Option Nat :=
  let cand := (c.poolOff :: c.pool.map (fun b => b.off + b.len)).filter (fun o =>
    decide (o + n ≤ c.poolOff + c.poolLen) && c.pool.all (fun b => decide (o + n ≤ b.off) || decide (b.off + b.len ≤ o)))
  cand.foldl (fun a o => match a with | none => some o | some x => some (min x o)) none

/-- Free bytes of the rename pool (R282). -/
def poolFree (c : Cluster) : Nat := c.poolLen - (c.pool.map (fun b => b.len)).foldl (· + ·) 0

/-- The edge that a held region gives a new one (R294): a dependence, or the record that redirects it. -/
def edgeOf (c : Cluster) (x : RegEnt) (task : Nat) (y : RegEnt) : Option Dep × Option (Nat × Nat × Nat × Nat × Nat) :=
  if y.redir.isSome then (none, none)
  else if isRecord y then
    if x.acc = 1 ∧ x.tid = y.tid ∧ boxIn x y ∧ c.pool.any (fun b => b.task == task && b.reg == y.idx) then
      (some (.buffer task), some (task, y.idx, y.buf.getD 0, y.hullLo, y.hullHi))
    else (some (.commit task y.idx), none)
  else (some (.release task), none)

/-- A new region with its edges, its rename or its redirection (R294, R296): the cluster's pool after it. -/
def enterRegion (s : State) (m serial : Nat) (c : Cluster) (x : RegEnt) : Cluster × RegEnt :=
  let held := c.tasks.flatMap (fun t => (t.regs.filter (fun y => rgConflict s m x y)).map (fun y => (t.serial, y)))
  let t := tensorOf s m x.tid
  let n := (x.hullHi - x.hullLo + 127) / 128 * 128
  let elig := decide (x.acc = 2) && tRen t && !held.isEmpty && held.all (fun p => isHomeR p.2 && decide (p.2.tid = x.tid))
  match (if elig then poolFit c n else none) with
  | some o =>
    ({ c with pool := c.pool ++ [⟨o, n, serial, x.idx⟩] },
      { x with buf := some o, homeR := held.map (fun p => p.1) })
  | none =>
    let es := held.map (fun p => edgeOf c x p.1 p.2)
    match es.findSome? (fun e => e.2) with
    | some (tk, rg, o, lo, hi) =>
      (c, { x with deps := es.filterMap (fun e => e.1), redir := some (tk, rg, o)
                   hullLo := lo - tBaseIa s m t, hullHi := hi - tBaseIa s m t })
    | none => (c, { x with deps := es.filterMap (fun e => e.1) })

/-- A post enters the window (R293). -/
def enterWindow (s : State) (m : Nat) (p : Post) : State :=
  let c := getCl s m
  let serial := c.serial
  let r := (postRegs p).foldl (fun (q : Cluster × List RegEnt) y =>
    let (c1, x) := enterRegion s m serial q.1 (regEnt s m p y.1 y.2)
    (c1, q.2 ++ [x])) (c, [])
  setCl s m { r.1 with
    serial := serial + 1
    tasks := r.1.tasks ++ [⟨serial, p, .waiting, r.2, 0, 0, 0, none, []⟩] }

/-! ## States of tasks -/

/-- Whether every instance of a task has drained. -/
def taskDrained (t : Task) : Bool := decide (imCount t.post.img.toNat ≤ t.drained)

/-- Whether a dependence is satisfied (R294, R297). -/
def depOk (c : Cluster) : Dep → Bool
  | .release k => !c.tasks.any (fun t => t.serial == k)
  | .buffer k => c.tasks.all (fun t => t.serial != k || taskDrained t)
  | .commit k r => c.tasks.all (fun t => t.serial != k || t.regs.all (fun y => y.idx != r || y.committed))

/-- Transitions that need no event of their own (R299): WAITING to READY, DRAINING to COMMIT; and buffers that return to
the pool (R297). -/
def refreshCl (c : Cluster) : Cluster :=
  let c1 := { c with tasks := c.tasks.map (fun (t : Task) =>
    match t.st with
    | .waiting => if t.post.sat.all id && t.regs.all (fun y => y.deps.all (depOk c)) then { t with st := .ready, age := 0 } else t
    | .draining => if taskDrained t && t.regs.any isRecord then { t with st := .commit } else t
    | _ => t) }
  { c1 with pool := c1.pool.filter (fun b =>
      let commitDone := c1.tasks.all (fun t => t.serial != b.task || t.regs.all (fun y => y.idx != b.reg || y.committed))
      let used := c1.tasks.any (fun t => t.regs.any (fun y => match y.redir with | some (k, r, _) => k == b.task && r == b.reg | none => false))
      !commitDone || used) }

/-- Every cluster's transitions. -/
def refresh (s : State) (m : Nat) : State := modCl s m refreshCl

/-! ## Acceptance -/

/-- A post joins its overflow queue (R301): it keeps its captured content, and its 320 bytes are written where the queue lies,
at the place after that of the post before it (R362, log entry 52). -/
def enterQueue (s : State) (m : Nat) (p : Post) : State :=
  let c := getCl s m
  let n := sget 0 c.ovfAt p.origin
  let ia := c.ovfBase + 320 * (p.origin * c.ovfCap + n % max 1 c.ovfCap)
  let s1 := if (resolveAll s s.chip.slot s.chip.pasid ia 320 .wr).all (fun r => match r.2.2 with | .ok _ => true | _ => false) then
      writeIa s s.chip.slot s.chip.pasid ia ((toBytes (Config.queuedPost p.img p.regs p.mv).toNat 320).map (fun b => (b, false)))
    else s
  modCl s1 m (fun c => { c with
    serial := c.serial + 2
    ovfAt := sset 0 c.ovfAt p.origin (n + 1)
    ovf := smod [] c.ovf p.origin (fun q => q ++ [{ p with id := c.serial + 1 }]) })

/-- A post is accepted (R276, R293, R301): tokens examined, the produced one armed, then it enters the window or its
queue. The request whose answer its completion waits for. -/
def acceptPost (s : State) (m : Nat) (p : Post) (toQueue : Bool) (who : Reqr) : State × Option Nat :=
  let p1 := acceptSat s m p
  let (s1, rid) := armProduced s p1 who
  let s2 := if toQueue then enterQueue s1 m p1 else enterWindow s1 m p1
  (refresh s2 m, rid)

/-- The CPOST of a child is marked as accepted: the commands behind it in its queue may start (R293, R301). -/
def acceptedRun (s : State) (k key : Nat) : State :=
  let mark := fun (x : XEng) => { x with runs := x.runs.map (fun r => if r.x.op = 0x28 ∧ r.x.post = key then { r with next := 1 } else r) }
  modUnit s k (fun u => { u with uce0 := mark u.uce0, uce1 := mark u.uce1 })

/-- POST_ENTRY (R264, R293): a child handed off by a CPOST that has started (cluster m, its key j) is accepted. -/
def execPostEntry (s : State) : Out :=
  let m := s.arg.m.toNat
  let c := getCl s m
  .next (match c.child.find? (fun p => p.1 == s.arg.j) with
  | none => s
  | some (key, p) =>
    let k := 8 * m + (p.origin - 1)
    let u := getUnit s k
    let started := (u.uce0.runs ++ u.uce1.runs).any (fun r => decide (r.x.op = 0x28) && r.x.post == key)
    let pl := placeOf c p.origin (postRegs p).length
    if !started || p.id != 0 || pl == 2 || ended s then s
    else
      let (s1, rid) := acceptPost (acceptedRun s k key) m p (pl == 1) (.arm s.arg.m)
      match rid with
      | none => modCl s1 m (fun c => { c with child := serase c.child key })
      | some r => modCl s1 m (fun c => { c with child := sput c.child key { p with id := r + 1 } }))

/-- The overflow queue whose head enters next (R302): unit queues in rotation, then the Lantern core's. -/
def ovfNext (c : Cluster) : Option (Nat × Post) :=
  let ok := fun (o : Nat) => match ovfQ c o with
    | p :: _ => if windowOk c o (postRegs p).length then some (o, p) else none
    | [] => none
  ((List.range 8).findSome? (fun i => ok (1 + (c.rot + i) % 8))) <|> ok 0

/-- OVERFLOW_QUEUE_ENTRY (R302) of cluster m. -/
def execOverflowQueueEntry (s : State) : Out :=
  let m := s.arg.m.toNat
  .next (match ovfNext (getCl s m) with
  | none => s
  | some (o, p) =>
    if ended s then s
    else
      let s1 := modCl s m (fun c => { c with
        ovf := smod [] c.ovf o (fun q => q.drop 1)
        rot := if o = 0 then c.rot else o % 8 })
      refresh (enterWindow s1 m p) m)

/-- A watched token of the post that `key` names was found fired (R295): a task by its serial, a queued post by its number,
which it keeps when it enters the window. -/
def satSlot (s : State) (m : Nat) (key slot : Nat) : State :=
  refresh (modCl s m (fun c =>
    let c1 := satPosts (fun p k => decide (p.id = key) && k == slot) c
    { c1 with tasks := c1.tasks.map (fun (t : Task) => if t.serial = key then { t with post := satPost (· == slot) t.post } else t) })) m

/-- Accepted posts of a cluster, each with the number its watches name it by (R295). -/
def watched (c : Cluster) : List (Nat × Post) :=
  c.tasks.map (fun t => (t.serial, t.post)) ++ c.ovf.flatMap (fun q => q.2.map (fun p => (p.id, p)))

/-- TOKEN_WATCH (R295): slot n of the post j names in cluster m is watched: its token is read here, or asked for at its
home. -/
def execTokenWatch (s : State) : Out :=
  let m := s.arg.m.toNat
  .next (match (watched (getCl s m)).find? (fun p => p.1 == s.arg.j) with
  | none => s
  | some (key, p) =>
    let h := imTok p.img.toNat (s.arg.n % 3)
    let a := handleAt s.partMod h
    if !bit h 47 || (p.sat.getD (s.arg.n % 3) true) || ended s then s
    else if a.1 = s.partMod then (if (getTok s a.2.1 a.2.2).fired then satSlot s m key (s.arg.n % 3) else s)
    else (request s (tokPkt s 0x0B h) (.watch s.arg.m key (s.arg.n % 3))).2)

/-! ## Dispatch -/

/-- Effective priority (R303). -/
def effPrio (c : Cluster) (t : Task) : Nat :=
  let age := (rdCsr c.lan.core 0x152).toNat
  let p := imPrio t.post.img.toNat
  if age = 0 then p else min 3 (p + t.age / age)

/-- Whether an engine is free for a move instance or a commit copy (R304). -/
def engFree (s : State) (e : Eng) : Bool := (getX s e).q.isEmpty && (getX s e).runs.all (fun r => r.done)

/-- Whether the XE runs a CP.XP for a UCE queue of its cluster (R252, R304). -/
def xeBusy (s : State) (m : Nat) : Bool :=
  (List.range 8).any (fun j =>
    let u := getUnit s (8 * m + j)
    (u.uce0.runs ++ u.uce1.runs).any (fun r => decide (r.x.op = 0x0A) && !r.done))

/-- Whether a unit can take an instance (R304, R306); one that the module has disabled takes none. -/
def unitFree (s : State) (k : Nat) : Bool :=
  let u := getUnit s k
  u.inst.isNone && u.stop.isNone && decide (u.tracker.length < 8) && !s.svc.disabled.contains k

/-- Rename records of drained tasks whose commit copy can start (R297): task, region. -/
def commitsReady (s : State) (m : Nat) : List (Task × RegEnt) :=
  let c := getCl s m
  let going := fun (t : Task) (y : RegEnt) => [c.cce0, c.cce1].any (fun x =>
    x.runs.any (fun r => decide (r.x.op = 0x40) && r.task == some t.serial && r.x.a.toNat == y.idx))
  c.tasks.flatMap (fun t =>
    if t.st ≠ .commit then []
    else (t.regs.filter (fun y => isRecord y && !y.committed && !going t y
      && y.homeR.all (fun k => !c.tasks.any (fun q => q.serial == k)))).map (fun y => (t, y)))

/-- The resource an instance of a task takes now (R304): a unit's local index or an engine. -/
inductive Slot where
  | unit (j : Nat)
  | eng (e : Eng)
deriving DecidableEq, Repr

/-- A free resource for a task, if there is one. -/
def slotFor (s : State) (m : Nat) (t : Task) : Option Slot :=
  let x := t.post.img.toNat
  let mi := BitVec.ofNat 5 m
  match imKind x with
  | 0 => ((List.range 8).find? (fun j => bit (imAff x) j && unitFree s (8 * m + j))).map Slot.unit
  | 1 =>
    if !(commitsReady s m).isEmpty then none
    else ([Eng.cce mi 0, Eng.cce mi 1].find? (engFree s)).map Slot.eng
  | _ => if engFree s (.xe mi) && !xeBusy s m then some (.eng (.xe mi)) else none

/-- The task whose instance is dispatched next, with its resource (R303). -/
def nextDispatch (s : State) (m : Nat) : Option (Task × Slot) :=
  let c := getCl s m
  let rd := (c.tasks.filter (fun t => t.st = .ready ∨ t.st = .issuing)).filterMap (fun t => (slotFor s m t).map (fun x => (t, x)))
  rd.foldl (fun a p => match a with
    | none => some p
    | some q => if effPrio c q.1 < effPrio c p.1 then some p else some q) none

/-- The address word of a region record of an instance (R290). -/
def addrWord (s : State) (m : Nat) (t : Task) (j r n : Nat) : Nat :=
  let d := tensorOf s m (rgTid r)
  let b := fmtW (tFmt d)
  let disp := b * tElem d (rgOrigin r (imFields t.post.img.toNat n)) / 8
  let renamed : Option (Nat × Nat) := match t.regs.find? (fun y => y.idx == j) with
    | none => none
    | some y => match y.buf, y.redir with
      | some o, _ => some (o, b * tElem d y.lo / 8)
      | none, some (_, _, o) => some (o, y.hullLo)
      | none, none => none
  match tSpace d with
  | 0 => disp
  | 1 => tUnit d * 2 ^ 26 + tBase d + disp
  | sp => match renamed with
    | none => tBase d + disp
    | some (o, first) => o + disp - first + (if sp = 3 then 2 ^ 63 else 0)

/-- A unit as an instance finds it (R151, R305): files and counters cleared, scratchpad, tiles, formats and histogram kept. -/
def freshUnit (u : Unit) (i : Inst) (vol : Nat × Nat × Nat × Nat) : Unit :=
  let clr := [0, 1, 2, 3, 0x10, 0xA0, 0xA1, 0xA2, 0xA3, 0xA4].foldl (fun c n => serase c n) u.core.csr
  { u with
    core := { u.core with pc := codeAddr (i.entry + 4), delay := none, after := none, tw := none, dest := []
                          sreg := sset 0 [] 1 i.wid, md := [], csr := clr }
    v := [], m := [], flight := [], queues := [], loops := [], owed := none, sems := [], incs := [], decs := [], fpNew := 0
    inst := some i, stop := none, dfr := [], vol := vol }

/-- The volatile ranges a kernel header declares (R155). -/
def volOf (h : Nat) : Nat × Nat × Nat × Nat := (bits h 26 6, bits h 20 6, bits h 15 5, bits h 10 5)

/-- Dispatch of instance n of a kernel task to a unit (R305). -/
def dispatchKernel (s : State) (m k : Nat) (t : Task) (n : Nat) : State :=
  let x := t.post.img.toNat
  let c := getCl s m
  let words := (t.post.regs.mapIdx (fun j r => (j, r.toNat))).filter (fun p => rgAv p.2)
  let s1 := words.foldl (fun s p => modMem s (fun mm => writeNat mm (unitBase k + rgAof p.2) 8 (addrWord s m t p.1 p.2 n))) s
  let entry := imEntry x * 4
  let hd := ofBytes ((rdCode s1 m c.codeSeq entry 4).map Prod.fst)
  let s2 := modUnit s1 k (fun u => freshUnit u ⟨c.runId, t.serial, BitVec.ofNat 64 (imWid x n), entry, true, c.codeSeq⟩ (volOf hd))
  modCl s2 m (fun c => { c with runId := c.runId + 1 })

/-- Dispatch of instance n of a move task to an engine (R291). -/
def dispatchMove (s : State) (m : Nat) (e : Eng) (t : Task) (n : Nat) : State :=
  let b := t.post.mv.toNat
  let c := getCl s m
  let step := fun (a : Nat) (d : Int) => ((a : Int) + n * d).toNat
  let mv := moveOf (mvDesc b)
  let x : Xfer := { xfer0 (mvOp b) with
    dst := step t.post.mdst (mvDstep b), src := step t.post.msrc (mvSstep b), len := mvLen b, desc := BitVec.ofNat 512 (mvDesc b)
    bar := t.post.mbar, pm := if opDescribed (mvOp b) then mv.pm else mvOp b == 1
    ixk := if 1 ≤ t.post.origin ∧ t.post.origin ≤ 8 then 8 * m + (t.post.origin - 1) else ixUnit m b }
  let r : Run := { id := c.runId, x := x, cseq := (getX s e).cseq, inst := 0, slot := 0, gv := none, tag := none, next := 0, nchunk := 0
                   chunks := [], done := false, stP := false, stT := false, stA := false, task := some t.serial, after := [] }
  modCl (modX s e (fun q => { q with runs := q.runs ++ [r], cseq := (q.cseq + 1) % 2 ^ 32 })) m (fun c => { c with runId := c.runId + 1 })

/-- The command that carries a task's token runs on an engine behind those that carry the tokens of other tasks (R84). -/
def tokenBehind (c : Cluster) (serial : Nat) (e : Eng) : Cluster :=
  let first := (c.tasks.filter (fun t => t.last == some e && t.serial != serial)).map (fun t => t.serial)
  { c with tasks := c.tasks.map (fun (t : Task) =>
    if t.serial = serial && bit (imTok t.post.img.toNat 3) 47 then { t with last := some e, before := first } else t) }

/-- TASK_DISPATCH (R303 to R305) of cluster m: the next instance of the task that comes first. -/
def execTaskDispatch (s : State) : Out :=
  let m := s.arg.m.toNat
  .next (match nextDispatch s m with
  | none => s
  | some (t, r) =>
    if ended s then s
    else
      let s1 := match r with
        | .unit j => dispatchKernel s m (8 * m + j) t t.next
        | .eng e =>
          let s2 := dispatchMove s m e t t.next
          if imCount t.post.img.toNat ≤ t.next + 1 ∧ (t.regs.any isRecord) = false then modCl s2 m (fun c => tokenBehind c t.serial e) else s2
      modCl s1 m (fun c => { c with tasks := c.tasks.map (fun q => if q.serial = t.serial then
        { q with next := q.next + 1, st := if imCount t.post.img.toNat ≤ q.next + 1 then .draining else .issuing } else q) }))

/-! ## Drain and release -/

/-- INSTANCE_DRAIN (R306): of the instance of serial j that a unit's tracker holds (engine stream), or of a move instance,
run j of an engine, once nothing of it is outstanding. -/
def execInstanceDrain (s : State) : Out :=
  .next (if ended s then s else match s.arg.eng with
  | .stream k =>
    let k := k.toNat
    match (getUnit s k).tracker.find? (fun p => p.1 == s.arg.j) with
    | none => s
    | some (serial, task) =>
      if outstanding s k serial then s
      else
        let s1 := modUnit s k (fun u => { u with tracker := u.tracker.filter (fun p => p.1 != serial) })
        refresh (drainOne s1 (k / 8) task) (k / 8)
  | e =>
    match findRun s e s.arg.j with
    | none => s
    | some r =>
      match r.task with
      | none => s
      | some t =>
        if !r.done || decide (r.x.op = 0x40) then s
        else
          let s1 := codePass (modRun s e r.id (fun r => { r with task := none })) (Eng.cl e) (.run e r.id) (.task t)
          refresh (drainOne (cleanRuns s1 e) (Eng.cl e) t) (Eng.cl e))

/-- COMMIT_COPY_START (R297): the commit copy of region n of task j of cluster m, on the first free CCE. -/
def execCommitCopyStart (s : State) : Out :=
  let m := s.arg.m.toNat
  .next (match (commitsReady s m).find? (fun p => p.1.serial == s.arg.j && p.2.idx == s.arg.n),
      [Eng.cce s.arg.m 0, Eng.cce s.arg.m 1].find? (engFree s) with
  | some (t, y), some e =>
    if ended s then s
    else
      let c := getCl s m
      let d := tensorOf s m y.tid
      let len := (List.range 4).map (fun k => y.hi.getD k 0 - y.lo.getD k 0)
      let x : Xfer := { xfer0 0x40 with
        dst := tBaseIa s m d, src := fullIa s (clBase m + y.buf.getD 0), desc := ccDesc d y.lo len, a := BitVec.ofNat 64 y.idx }
      let r : Run := { id := c.runId, x := x, cseq := (getX s e).cseq, inst := 0, slot := 0, gv := none, tag := none, next := 0
                       nchunk := 0, chunks := [], done := false, stP := false, stT := false, stA := false, task := some t.serial, after := [] }
      let more := t.regs.any (fun z => isRecord z && !z.committed && z.idx != y.idx)
      modCl (modX s e (fun q => { q with runs := q.runs ++ [r], cseq := (q.cseq + 1) % 2 ^ 32 })) m (fun c =>
        let c1 := { c with runId := c.runId + 1 }
        if more then c1 else tokenBehind c1 t.serial e)
  | _, _ => s)

/-- COMMIT_COPY_COMPLETE (R297): run j of an engine was a commit copy and is complete; its home claim is released. -/
def execCommitCopyComplete (s : State) : Out :=
  let e := s.arg.eng
  .next (match findRun s e s.arg.j with
  | none => s
  | some r =>
    match r.task with
    | none => s
    | some k =>
      if r.x.op ≠ 0x40 ∨ r.done = false ∨ ended s then s
      else
        let s0 := codePass (modRun s e r.id (fun r => { r with task := none })) (Eng.cl e) (.run e r.id) (.task k)
        let s1 := cleanRuns s0 e
        refresh (modCl s1 (Eng.cl e) (fun c => { c with tasks := c.tasks.map (fun t => if t.serial = k then
          { t with regs := t.regs.map (fun y => if y.idx = r.x.a.toNat then { y with committed := true } else y) } else t) })) (Eng.cl e))

/-- Whether a task's entry can be freed (R299); its token stays behind those of earlier commands of its engine (R84). -/
def taskFreeable (c : Cluster) (t : Task) : Bool :=
  t.before.all (fun k => !c.tasks.any (fun q => q.serial == k)) &&
  match t.st with
  | .draining => taskDrained t && !t.regs.any isRecord
  | .commit => t.regs.all (fun y => !isRecord y || y.committed)
  | _ => false

/-- TASK_FREE (R299, R307): task j of cluster m releases its regions and entries, and its produced token is signalled. -/
def execTaskFree (s : State) : Out :=
  let m := s.arg.m.toNat
  .next (match (getCl s m).tasks.find? (fun t => t.serial == s.arg.j) with
  | none => s
  | some t =>
    if !taskFreeable (getCl s m) t || ended s then s
    else
      let s1 := codeShow s m (.task t.serial) (codeTok s m t.serial)
      let s2 := modCl s1 m (fun c => { c with tasks := c.tasks.filter (fun q => q.serial != t.serial) })
      refresh (fireProduced s2 m t.post) m)

end Sys2Proof.Machine
end

