-- ==== Sys2Proof/Machine/Lantern.lean ====
section
/-! DEFINITION. The words of the Lantern core alone: descriptors, accesses by VA, the tensor table, posts, tokens, signals, queries and RETRY (spec 15). -/

namespace Sys2Proof.Machine

/-! ## Descriptor forms -/

/-- The Lantern core of a view. -/
def View.core0 (v : View) : Lan := (getCl v.s v.g.cl).lan
/-- A descriptor register. -/
def View.dr (v : View) (n : BitVec 4) : Desc := sget 0 v.core0.d n.toNat
/-- Whether a descriptor register is poisoned. -/
def dPsn (v : View) (n : BitVec 4) : Bool := (hmeta v.core (hD n.toNat)).poison
/-- POISON of scalar registers. -/
def psnRegs (v : View) (l : List Reg) : Chk := l.foldl (fun (c : Chk) r => c.and (psnOf (regPsn v r) 0 r.toNat)) {}

/-- Replace `n` bits of a descriptor from bit `lo` (R269). -/
def setBits (d : Desc) (lo n x : Nat) : Desc :=
  BitVec.ofNat 256 (d.toNat / 2 ^ (lo + n) * 2 ^ (lo + n) + x % 2 ^ n * 2 ^ lo + d.toNat % 2 ^ lo)

/-- A form that writes part of a descriptor register from a scalar one (R268, R269). -/
def dsetSem (n : BitVec 4) (a : Reg) (f : Desc → W64 → Desc) : Sem := lanOnly (fun v =>
  { wr := [hD n.toNat]
    reads := [hD n.toNat, hS a.toNat]
    eff := fun t => putResult t v.g v.core (hD n.toNat) 1 ((f (v.dr n) (v.sr a)).setWidth 4096) [hD n.toNat, hS a.toNat] false 0 })

/-- A form that reads part of a descriptor register (R269). -/
def dgetSem (d : Reg) (n : BitVec 4) (f : Nat → Nat) : Sem := lanOnly (fun v =>
  { wr := [hS d.toNat]
    reads := [hD n.toNat]
    eff := fun t => putResult t v.g v.core (hS d.toNat) 1 (BitVec.ofNat 4096 (f (v.dr n).toNat)) [hD n.toNat] false 0 })

/-! ## Accesses -/

/-- Address of DLD and DST (R270). -/
def descAddr (v : View) (a : Reg) (imm : BitVec 14) : Nat := wrap ((v.sr a).toNat + imm.toInt * 32) 64

/-- An access by VA is issued (R69, R71, R272): `h` the holder a tagged read will write. -/
def accIssue (t : State) (m op ia h a b : Nat) (tagged : Bool) : State :=
  modLan t m (fun l =>
    let tg := (freeTag l.core 8).getD 0
    let core := if tagged then takeTagFor l.core tg h else l.core
    { l with
      core := core
      x := { l.x with cseq := (l.x.cseq + 1) % 2 ^ 32 }
      accs := l.accs ++ [{ seq := l.x.cseq, op := op, ia := ia, rd := h, a := a, b := b
                           tag := if tagged then some (tg, l.core.gen) else none, phase := .fresh, hslot := none, out := [] }] })

/-- RANGE_MISS of an access by VA (R18). -/
def vaChk (r : Option Nat) (va : Nat) : Chk := needRange r.isSome va

/-- A tagged read by VA (R270, R271): its address may be poisoned, and its value then is (R111). -/
def ldgSem (op h : Nat) (n : Nat) (a : Reg) (va : View → Nat) : Sem := lanOnly (fun v =>
  let r := reached v.s v.g.cl false (translate v.s v.g.cl (va v) n .rd)
  { wr := [h]
    reads := [hS a.toNat]
    gate := [hS a.toNat]
    tag := true
    chk := vaChk r (va v)
    eff := fun t => accIssue t v.g.cl op (r.getD 0) h 0 (if regPsn v a then 1 else 0) true })

/-- A store by VA (R270, R271): `x` its data, with its holder and POISON. -/
def stgSem (op n : Nat) (a : Reg) (va x : View → Nat) (h : Nat) (px : View → Chk) : Sem := lanOnly (fun v =>
  let r := reached v.s v.g.cl false (translate v.s v.g.cl (va v) n .wr)
  { reads := [hS a.toNat, h]
    gate := [hS a.toNat, h]
    chk := ((vaChk r (va v)).unless (regPsn v a)).and ((psnRegs v [a]).and (px v))
    eff := fun t => accIssue t v.g.cl op (r.getD 0) 0 (x v) 0 false })

/-- An atomic by VA (R271); `cas` compares with the prior value of rd. -/
def amogSem (op : Nat) (d a b : Reg) (cas : Bool) : Sem := lanOnly (fun v =>
  let va := (v.sr a).toNat
  let r := reached v.s v.g.cl false (translate v.s v.g.cl va 8 .at)
  let rs := if cas then [a, b, d] else [a, b]
  { wr := [hS d.toNat]
    reads := rs.map (fun r => hS r.toNat)
    gate := rs.map (fun r => hS r.toNat)
    tag := d != 0
    chk := (((needIll (decide (va % 8 = 0))).and (vaChk r va)).unless (regPsn v a)).and (psnRegs v rs)
    eff := fun t => accIssue t v.g.cl op (r.getD 0) (hS d.toNat) (v.sr b).toNat (if cas then (v.sr d).toNat else 0) (d != 0) })

/-- LCP starts (R271): it joins the core's commands, numbered with its accesses. -/
def lcpStart (t : State) (m dst src len : Nat) : State :=
  modLan t m (fun l =>
    let r : Run := { id := l.x.cseq, x := { xfer0 0x41 with dst := dst, src := src, len := len }, cseq := l.x.cseq, inst := 0, slot := 0
                     gv := none, tag := none, next := 0, nchunk := 0, chunks := [], done := false, stP := false, stT := false
                     stA := false, task := none, after := [] }
    { l with x := { l.x with cseq := (l.x.cseq + 1) % 2 ^ 32, runs := l.x.runs ++ [r] } })

/-! ## Tensor table -/

/-- TDECL (R273). -/
def tdeclSem (n : BitVec 4) (b : Reg) : Sem := lanOnly (fun v =>
  let x := v.dr n
  let i := (v.sr b).toNat
  let p := dPsn v n || regPsn v b
  let glob := decide (tSpace x = 0)
  let r := translate v.s v.g.cl (tBase x) (tWhole x).2 .rw
  let bad : Option Nat := if !tValid x then some 1 else if tLive (tensorOf v.s v.g.cl i) then some 2 else none
  let y := setBits (if glob then setBits x 192 64 (r.getD 0) else x) 0 1 1
  { reads := [hD n.toNat, hS b.toNat]
    gate := [hD n.toNat, hS b.toNat]
    chk := ((needIll (decide (i < 256))).unless (regPsn v b)).and
      (((vaChk r (tBase x)).unless (p || bad.isSome || !glob)).and ((psnOf (dPsn v n) 1 n.toNat).and (psnRegs v [b])))
    trap := bad.map (fun k => (cTensor, k))
    eff := fun t => modCl t v.g.cl (fun c => { c with tensors := sset 0 c.tensors i y }) })

/-- Whether a non-empty region that names a tensor is live (R274). -/
def tensorLive (c : Cluster) (i : Nat) : Bool :=
  let names := fun (p : Post) => (postRegs p).any (fun q => rgTid q.2 == i)
  c.tasks.any (fun t => t.regs.any (fun y => y.tid == i)) || c.ovf.any (fun q => q.2.any names)
    || c.child.any (fun q => q.2.id == 0 && names q.2)

/-- TREL (R274). -/
def trelSem (a : Reg) : Sem := lanOnly (fun v =>
  let i := (v.sr a).toNat
  { reads := [hS a.toNat]
    gate := [hS a.toNat]
    chk := ((needIll (decide (i < 256))).unless (regPsn v a)).and (psnRegs v [a])
    trap := if tLive (tensorOf v.s v.g.cl i) && tensorLive (getCl v.s v.g.cl) i then some (cTensor, 3) else none
    eff := fun t => modCl t v.g.cl (fun c => { c with tensors := serase c.tensors i }) })

/-! ## Posts -/

/-- What a post comes to when its word is looked at. -/
inductive PRes where
  /-- It is settled, with a status of R279. -/
  | done (code : Nat) (f : State → State)
  /-- It waits. -/
  | wait (f : State → State)
  /-- It is full: POST and POST.R look again. -/
  | full (f : State → State)

/-- The answer to what a word has sent (R280). -/
def wordAsk (t : State) (m : Nat) (p : Packet) (w : Nat → LWait) : State :=
  let (rid, t1) := request t p (.word (BitVec.ofNat 5 m))
  modLan t1 m (fun l => { l with wait := some (w rid), ans := none })
/-- A word gives up what it has sent, and starts again. -/
def wordAgain (t : State) (m : Nat) : State := modLan t m (fun l => { l with wait := none, ans := none })

/-- A post that is taken (R276, R293): it is complete once a remote arming is acknowledged. -/
def postTake (v : View) (cl : Nat) (p : Post) (code : Nat) : PRes :=
  let m := v.g.cl
  let r := acceptPost v.st cl p (code == 1) (.word (BitVec.ofNat 5 m))
  match r.2 with
  | none => .done code (fun t => (acceptPost t cl p (code == 1) (.word (BitVec.ofNat 5 m))).1)
  | some _ => .wait (fun t =>
    let r := acceptPost t cl p (code == 1) (.word (BitVec.ofNat 5 m))
    modLan r.1 m (fun l => { l with wait := some (.arm (r.2.getD 0) code), ans := none }))

/-- A post to the core's own window (R279, R301). -/
def postHere (v : View) (o : PostObj) : PRes :=
  let m := v.g.cl
  let reason := postReason v.s m clSize o.img o.regs o.mv
  let p := mkPost v.s m 0 o
  if reason ≠ 0 then .done (3 + 256 * reason) id
  else match placeOf (getCl v.s m) 0 (postRegs p).length with
    | 0 => postTake v m p 0
    | 1 => postTake v m p 1
    | _ => .full id

/-- What the target of a remote post answers (R278, R301, R308): the reason of a rejection, full, or the post it takes. Its
move block is read in the target cluster's scratchpad. -/
def remotePlace (s : State) (cl : Nat) (o : PostObj) : Except Nat Post :=
  let reason := postReason s cl clSize o.img o.regs o.mv
  let p := mkPost s cl 9 o
  if reason ≠ 0 then .error (3 + 256 * reason)
  else if placeOf (getCl s cl) 9 (postRegs p).length = 0 then .ok p else .error 2

/-- The move block an image names in a cluster's scratchpad. -/
def moveBlock (s : State) (cl x : Nat) : Nat :=
  let mo := bits (imEntry x) 0 18 * 64
  if imReason1 x && (decide (imKind x ≠ 0) && decide (mo + 128 ≤ clSize)) then rdMem s.chip.mem.cells (clBase cl + mo) 128 else 0

/-- Whether that move block is poisoned (R111). -/
def moveBlockPsn (s : State) (cl x : Nat) : Bool :=
  let mo := bits (imEntry x) 0 18 * 64
  imReason1 x && (decide (imKind x ≠ 0) && decide (mo + 128 ≤ clSize)) && psnRange s.chip.mem (clBase cl + mo) 128

/-- The packet of a remote post (R336): the window handle stands in ia as a token handle does. -/
def postPkt (s : State) (h : Nat) (o : PostObj) : Packet :=
  { tokPkt s 0x08 h with
    nfl := 5
    payload := toBytes o.img 64 ++ (List.range 8).flatMap (fun j => toBytes (o.regs.getD j 0) 32) }

/-- A post to the window that a handle names (R280). -/
def postAway (v : View) (h : Nat) (o : PostObj) : PRes :=
  let m := v.g.cl
  let at0 := handleAt v.s.partMod h
  if at0.1 = v.s.partMod then
    match remotePlace v.s at0.2.1 { o with mv := moveBlock v.s at0.2.1 o.img } with
    | .ok p => postTake v at0.2.1 p 0
    | .error 2 => .full id
    | .error c => .done c id
  else .wait (fun t => wordAsk t m (postPkt t h o) (fun r => .post r 255))

/-- A post that has left the core or is accepted goes on by what is answered (R276, R280): neither reads its image again. -/
def postOn (v : View) (w : LWait) : PRes :=
  match w, v.core0.ans with
  | .arm _ code, some _ => .done code id
  | .post _ _, some (st, _) => if st = 2 then .full (fun t => wordAgain t v.g.cl) else .done st id
  | _, _ => .wait id

/-- Whether a word has stalled for win.timeout (R279, R300). -/
def postTimedOut (l : Lan) : Bool := decide (bits (rdCsr l.core 0x151).toNat 0 40 ≤ l.stall)

/-- The outcome of a post (R279, R280): a form with a destination returns its status, the other stalls or traps. -/
def postOut (v : View) (d : Option Reg) (r : PRes) (o : SlotOut) : SlotOut :=
  match r, d with
  | .done code f, some rd => { o with eff := fun t => putResult (f t) v.g v.core (hS rd.toNat) 1 (BitVec.ofNat 4096 code) [] false 0 }
  | .full f, some rd => { o with eff := fun t => putResult (f t) v.g v.core (hS rd.toNat) 1 2 [] false 0 }
  | .done code f, none =>
    if code % 256 = 3 then { o with trap := some (cPostReject, code / 256) }
    else if code = 4 then { o with trap := some (cRemoteFail, 4) }
    else { o with eff := f }
  | .full f, none => if postTimedOut v.core0 then { o with trap := some (cPostStall, 2) } else { o with hold := true, held := f }
  | .wait f, _ => { o with hold := true, held := f }

/-- A post (R277 to R280): image at `a`, the window handle in `b` where it is remote, the status in `d` where it has one. -/
def postSem (d : Option Reg) (a : Reg) (b : Option Reg) : Sem := lanOnly (fun v =>
  let off := (v.sr a).toNat
  let pa := regPsn v a
  let al := decide (off % 64 = 0)
  let inS := decide (off + 64 ≤ clSize)
  let o := readPost v.s.chip.mem (clBase v.g.cl) clSize off
  let h := (b.map (fun r => (v.sr r).toNat)).getD 0
  let pb := (b.map (regPsn v)).getD false
  let hOk := b.isNone || (handleOk v.s h && (!bit h 47 && decide (bits h 0 12 = 0)))
  let at0 := handleAt v.s.partMod h
  let pmv := if b.isNone then o.psnMv else decide (at0.1 = v.s.partMod) && moveBlockPsn v.s at0.2.1 o.img
  let pm := !(pa || !al || !inS) && (o.psnImg || o.psnRegs || pmv)
  let rs := a :: b.toList
  let out : SlotOut :=
    { wr := (d.map (fun r => hS r.toNat)).toList
      reads := rs.map (fun r => hS r.toNat)
      gate := rs.map (fun r => hS r.toNat)
      fence := some (4, 31)
      finds := if pa || !al || !inS then [] else postReads v.s.chip.mem (clBase v.g.cl) clSize off
      chk := ((needIll al).unless pa).and (((needIll hOk).unless pb).and (((needRange inS off).unless pa).and
        ((psnRegs v rs).and (psnMem pm a.toNat)))) }
  match v.core0.wait with
  | some w => postOut v d (postOn v w) { out with chk := {}, finds := [] }
  | none =>
    if !out.chk.ok then out
    else postOut v d (if b.isSome then postAway v h o else postHere v o) out)

/-! ## Tokens, signals and queries -/

/-- A token handle in a register (R275, R281). -/
def tokOk (s : State) (h : Nat) : Bool := handleOk s h && !bit h 47

/-- A token form (R281): `f` gives its outcome for a handle that is valid. -/
def tokSem (a : Reg) (f : View → Nat → SlotOut → SlotOut) : Sem := lanOnly (fun v =>
  let h := (v.sr a).toNat
  let out : SlotOut :=
    { reads := [hS a.toNat]
      gate := [hS a.toNat]
      chk := ((needIll (tokOk v.s h)).unless (regPsn v a)).and (psnRegs v [a]) }
  if !out.chk.ok then out else f v h out)

/-- Whether a handle names a token of this module. -/
def tokHere (s : State) (h : Nat) : Bool := decide ((handleAt s.partMod h).1 = s.partMod)

/-- What a remote token word does with its request (R281): the answer where it has come, the trap of one that timed out. -/
def tokAsk (v : View) (p : State → Packet) (w : Nat → LWait) (out : SlotOut) (f : Nat → SlotOut) : SlotOut :=
  let l := v.core0
  match l.wait, l.ans with
  | some _, some (st, x) => if st = 4 then { out with trap := some (cRemoteFail, 4) } else f x
  | some _, none => { out with hold := true }
  | none, _ => { out with hold := true, held := fun t => wordAsk t v.g.cl (p t) w }

/-- TKWAIT (R281): it acquires at partition scope once the token is fired (R80). -/
def tkwaitOut (v : View) (h : Nat) (out : SlotOut) : SlotOut :=
  let at0 := handleAt v.s.partMod h
  let acq : SlotOut := { out with
    hold := fenceHeld v.s v.g 4 19
    eff := fun t => if tokHere v.s h then codeWaited t v.g.cl (4096 * at0.2.1 + at0.2.2) else t }
  if tokHere v.s h then (if (getTok v.s at0.2.1 at0.2.2).fired then acq else { out with hold := true })
  else tokAsk v (fun t => tokPkt t 0x0B h) .tok out (fun x =>
    if bit x 0 then acq else { out with hold := true, held := fun t => wordAgain t v.g.cl })

/-- TKSIG (R281): a release at partition scope whose write is a signal of the token. -/
def tksigOut (v : View) (h : Nat) (out : SlotOut) : SlotOut :=
  let at0 := handleAt v.s.partMod h
  let o : SlotOut := { out with fence := some (4, 31) }
  if tokHere v.s h then { o with eff := fun t => tokFire t at0.2.1 at0.2.2 }
  else tokAsk v (fun t => tokPkt t 0x0A h) (fun r => .post r 0) o (fun _ => o)

/-- A token read is issued (R281): a tagged read outside the numbering of R104. -/
def tkrdIssue (t : State) (m h : Nat) (rd : Nat) (got : Option Nat) : State :=
  modLan t m (fun l =>
    let tg := (freeTag l.core 8).getD 0
    { l with
      core := takeTagFor l.core tg rd
      accs := l.accs ++ [{ seq := 2 ^ 32 + l.core.gen, op := 7, ia := h, rd := rd, a := 0, b := 0, tag := some (tg, l.core.gen)
                           phase := if got.isSome then .reading [] else .fresh, hslot := none
                           out := (toBytes (got.getD 0) 8).map (fun b => (b, false)) }] })

/-- TKRD (R281). -/
def tkrdOut (d : Reg) (v : View) (h : Nat) (out : SlotOut) : SlotOut :=
  let o : SlotOut := { out with wr := [hS d.toNat], tag := true }
  if tokHere v.s h then { o with eff := fun t => tkrdIssue t v.g.cl h (hS d.toNat) none }
  else tokAsk v (fun t => tokPkt t 0x0B h) .tok o (fun x => { o with eff := fun t => tkrdIssue t v.g.cl h (hS d.toNat) (some x) })

/-- USIG (R281): a release at cluster scope. -/
def usigSem (a : Reg) : Sem := lanOnly (fun v =>
  let x := (v.sr a).toNat
  let k := 8 * v.g.cl + bits x 0 3
  let px := proximity (whereAgent v.s v.g) (whereLia v.s (unitBase k))
  { reads := [hS a.toNat]
    gate := [hS a.toNat]
    fence := some (1, 31)
    chk := ((needIll (decide (bits x 14 50 = 0 ∧ bits x 9 3 = 0 ∧ bits x 3 1 = 0))).unless (regPsn v a)).and (psnRegs v [a])
    eff := fun t => modCl t v.g.cl (fun c => { c with signals := c.signals ++ [
      { unit := k, sem := bits x 4 5, k := bits x 12 2 + 1, slot := t.chip.slot, rel := some ⟨1, px⟩, run := none }] }) })

/-- A window quantity (R282). -/
def winQuery (s : State) (m k : Nat) : Nat :=
  let c := getCl s m
  let moves := fun (x : XEng) => x.runs.countP (fun r => r.task.isSome && (decide (r.x.op ≠ 0x40) && !r.done))
  match k with
  | 0 => freeTasks c
  | 1 => freeRegs c
  | 2 => c.tasks.countP (fun t => t.st == .ready)
  | 3 => (List.range 8).countP (fun j => (getUnit s (8 * m + j)).inst.isSome) + (moves c.cce0 + moves c.cce1 + moves c.xe)
  | 4 => (ovfQ c 0).length
  | 5 => c.ovfCap - (ovfQ c 0).length
  | 6 => c.tensors.countP (fun p => tLive p.2)
  | _ => poolFree c

/-- What DSETB does (R269). -/
def semDsetb (d : BitVec 4) (a : BitVec 6) : Sem :=
  dsetSem d a (fun x v => setBits x 192 64 v.toNat)

/-- DSETB (R269): Set the base of a descriptor register. -/
def execDsetb (d : BitVec 4) (a : BitVec 6) (s : State) : Out :=
  runOne (.dsetb d a) 0 (semDsetb d a) s

/-- What DSETE does (R269). -/
def semDsete (d : BitVec 4) (a : BitVec 6) (k : BitVec 6) : Sem :=
  dsetSem d a (fun x v => setBits x (112 + 20 * k.toNat) 20 v.toNat)

/-- DSETE (R269): Set extent k of a descriptor register. -/
def execDsete (d : BitVec 4) (a : BitVec 6) (k : BitVec 6) (s : State) : Out :=
  runOne (.dsete d a k) 0 (semDsete d a k) s

/-- What DSETS does (R269). -/
def semDsets (d : BitVec 4) (a : BitVec 6) (k : BitVec 6) : Sem :=
  dsetSem d a (fun x v => setBits x (28 * k.toNat) 28 v.toNat)

/-- DSETS (R269): Set stride k of a descriptor register. -/
def execDsets (d : BitVec 4) (a : BitVec 6) (k : BitVec 6) (s : State) : Out :=
  runOne (.dsets d a k) 0 (semDsets d a k) s

/-- What DSETA does (R269). -/
def semDseta (d : BitVec 4) (a : BitVec 6) : Sem :=
  dsetSem d a (fun x v => setBits x 0 28 v.toNat)

/-- DSETA (R269): Set the attribute bits 27:0 of a descriptor register. -/
def execDseta (d : BitVec 4) (a : BitVec 6) (s : State) : Out :=
  runOne (.dseta d a) 0 (semDseta d a) s

/-- What DGETB does (R269). -/
def semDgetb (d : BitVec 6) (n : BitVec 4) : Sem :=
  dgetSem d n (fun x => bits x 192 64)

/-- DGETB (R269): Read the base of a descriptor register. -/
def execDgetb (d : BitVec 6) (n : BitVec 4) (s : State) : Out :=
  runOne (.dgetb d n) 0 (semDgetb d n) s

/-- What DGETE does (R269). -/
def semDgete (d : BitVec 6) (n : BitVec 4) (k : BitVec 6) : Sem :=
  dgetSem d n (fun x => bits x (112 + 20 * k.toNat) 20)

/-- DGETE (R269): Read extent k of a descriptor register. -/
def execDgete (d : BitVec 6) (n : BitVec 4) (k : BitVec 6) (s : State) : Out :=
  runOne (.dgete d n k) 0 (semDgete d n k) s

/-- What DGETS does (R269). -/
def semDgets (d : BitVec 6) (n : BitVec 4) (k : BitVec 6) : Sem :=
  dgetSem d n (fun x => bits x (28 * k.toNat) 28)

/-- DGETS (R269): Read stride k of a descriptor register. -/
def execDgets (d : BitVec 6) (n : BitVec 4) (k : BitVec 6) (s : State) : Out :=
  runOne (.dgets d n k) 0 (semDgets d n k) s

/-- What DGETA does (R269). -/
def semDgeta (d : BitVec 6) (n : BitVec 4) : Sem :=
  dgetSem d n (fun x => bits x 0 28)

/-- DGETA (R269): Read the attribute bits of a descriptor register. -/
def execDgeta (d : BitVec 6) (n : BitVec 4) (s : State) : Out :=
  runOne (.dgeta d n) 0 (semDgeta d n) s

/-- What DMOV does (R269). -/
def semDmov (n : BitVec 4) (n2 : BitVec 4) : Sem :=
  lanOnly (fun v =>
    { wr := [hD n.toNat]
      reads := [hD n2.toNat]
      eff := fun t => putResult t v.g v.core (hD n.toNat) 1 ((v.dr n2).setWidth 4096) [hD n2.toNat] false 0 })

/-- DMOV (R269): Copy one descriptor register to another. -/
def execDmov (n : BitVec 4) (n2 : BitVec 4) (s : State) : Out :=
  runOne (.dmov n n2) 0 (semDmov n n2) s

/-- What DADDB does (R269). -/
def semDaddb (n : BitVec 4) (a : BitVec 6) : Sem :=
  dsetSem n a (fun x v => setBits x 192 64 (bits x.toNat 192 64 + v.toNat))

/-- DADDB (R269): Add a scalar to the base of a descriptor register. -/
def execDaddb (n : BitVec 4) (a : BitVec 6) (s : State) : Out :=
  runOne (.daddb n a) 0 (semDaddb n a) s

/-- What DLD does (R270). -/
def semDld (n : BitVec 4) (a : BitVec 6) (imm : BitVec 14) : Sem :=
  lanOnly (fun v =>
    let o := descAddr v a imm
    { wr := [hD n.toNat]
      reads := [hS a.toNat]
      gate := [hS a.toNat]
      chk := needRange (decide (o + 32 ≤ clSize)) o
      eff := fun t =>
        let r := loadVal v o 32
        putResult (touchChip t (v.base + o) 32) v.g v.core (hD n.toNat) 5 (BitVec.ofNat 4096 r.1) [hS a.toNat] r.2 0 })

/-- DLD (R270): Load a descriptor register from the cluster scratchpad. -/
def execDld (n : BitVec 4) (a : BitVec 6) (imm : BitVec 14) (s : State) : Out :=
  runOne (.dld n a imm) 0 (semDld n a imm) s

/-- What DLD_G does (R270). -/
def semDldG (n : BitVec 4) (a : BitVec 6) (imm : BitVec 14) : Sem :=
  ldgSem 5 (hD n.toNat) 32 a (fun v => descAddr v a imm)

/-- DLD_G (R270): Load a descriptor register by VA as a tagged read. -/
def execDldG (n : BitVec 4) (a : BitVec 6) (imm : BitVec 14) (s : State) : Out :=
  runOne (.dldG n a imm) 0 (semDldG n a imm) s

/-- What DST does (R270). -/
def semDst (n : BitVec 4) (a : BitVec 6) (imm : BitVec 14) : Sem :=
  lanOnly (fun v =>
    let o := descAddr v a imm
    { reads := [hS a.toNat, hD n.toNat]
      gate := [hS a.toNat, hD n.toNat]
      chk := ((needRange (decide (o + 32 ≤ clSize)) o).unless (regPsn v a)).and ((psnRegs v [a]).and (psnOf (dPsn v n) 1 n.toNat))
      eff := fun t => modMem t (fun m => writeNat m (v.base + o) 32 (v.dr n).toNat) })

/-- DST (R270): Store a descriptor register to the cluster scratchpad. -/
def execDst (n : BitVec 4) (a : BitVec 6) (imm : BitVec 14) (s : State) : Out :=
  runOne (.dst n a imm) 0 (semDst n a imm) s

/-- What DST_G does (R270). -/
def semDstG (n : BitVec 4) (a : BitVec 6) (imm : BitVec 14) : Sem :=
  stgSem 6 32 a (fun v => descAddr v a imm) (fun v => (v.dr n).toNat) (hD n.toNat) (fun v => psnOf (dPsn v n) 1 n.toNat)

/-- DST_G (R270): Store a descriptor register by VA. -/
def execDstG (n : BitVec 4) (a : BitVec 6) (imm : BitVec 14) (s : State) : Out :=
  runOne (.dstG n a imm) 0 (semDstG n a imm) s

/-- What LDG does (R271). -/
def semLdg (d : BitVec 6) (a : BitVec 6) : Sem :=
  ldgSem 0 (hS d.toNat) 8 a (fun v => (v.sr a).toNat)

/-- LDG (R271): Load 8 bytes by VA as a tagged read. -/
def execLdg (d : BitVec 6) (a : BitVec 6) (s : State) : Out :=
  runOne (.ldg d a) 0 (semLdg d a) s

/-- What STG does (R271). -/
def semStg (a : BitVec 6) (b : BitVec 6) : Sem :=
  stgSem 1 8 a (fun v => (v.sr a).toNat) (fun v => (v.sr b).toNat) (hS b.toNat) (fun v => psnRegs v [b])

/-- STG (R271): Store 8 bytes by VA. -/
def execStg (a : BitVec 6) (b : BitVec 6) (s : State) : Out :=
  runOne (.stg a b) 0 (semStg a b) s

/-- What AMOG_ADD does (R271). -/
def semAmogAdd (d : BitVec 6) (a : BitVec 6) (b : BitVec 6) : Sem :=
  amogSem 2 d a b false

/-- AMOG_ADD (R271): Atomic 8-byte add by VA. -/
def execAmogAdd (d : BitVec 6) (a : BitVec 6) (b : BitVec 6) (s : State) : Out :=
  runOne (.amogAdd d a b) 0 (semAmogAdd d a b) s

/-- What AMOG_SWP does (R271). -/
def semAmogSwp (d : BitVec 6) (a : BitVec 6) (b : BitVec 6) : Sem :=
  amogSem 3 d a b false

/-- AMOG_SWP (R271): Atomic 8-byte swap by VA. -/
def execAmogSwp (d : BitVec 6) (a : BitVec 6) (b : BitVec 6) (s : State) : Out :=
  runOne (.amogSwp d a b) 0 (semAmogSwp d a b) s

/-- What AMOG_CAS does (R271). -/
def semAmogCas (d : BitVec 6) (a : BitVec 6) (b : BitVec 6) : Sem :=
  amogSem 4 d a b true

/-- AMOG_CAS (R271): Atomic 8-byte compare-and-swap by VA. -/
def execAmogCas (d : BitVec 6) (a : BitVec 6) (b : BitVec 6) (s : State) : Out :=
  runOne (.amogCas d a b) 0 (semAmogCas d a b) s

/-- What LCP does (R271). -/
def semLcp (d : BitVec 6) (a : BitVec 6) (b : BitVec 6) : Sem :=
  lanOnly (fun v =>
    let n := (v.sr b).toNat
    let dst := opReached v.s v.g.cl false (v.sr d).toNat (operand v.s v.g.cl 3 (v.sr d).toNat 0 n .wr)
    let src := opReached v.s v.g.cl false (v.sr a).toNat (operand v.s v.g.cl 3 (v.sr a).toNat 0 n .rd)
    let pn := regPsn v b
    { reads := [hS d.toNat, hS a.toNat, hS b.toNat]
      gate := [hS d.toNat, hS a.toNat, hS b.toNat]
      chk := ((needIll (decide (n < 2 ^ 32))).unless pn).and (((opChk dst).unless (pn || regPsn v d)).and
        (((opChk src).unless (pn || regPsn v a)).and (psnRegs v [d, a, b])))
      eff := fun t => if n = 0 then t else lcpStart t v.g.cl (opIa dst) (opIa src) n })

/-- LCP (R271): Copy bytes between two VAs from the Lantern core. -/
def execLcp (d : BitVec 6) (a : BitVec 6) (b : BitVec 6) (s : State) : Out :=
  runOne (.lcp d a b) 0 (semLcp d a b) s

/-- What TDECL does (R273). -/
def semTdecl (n : BitVec 4) (b : BitVec 6) : Sem :=
  tdeclSem n b

/-- TDECL (R273): Declare a tensor into the cluster's tensor table. -/
def execTdecl (n : BitVec 4) (b : BitVec 6) (s : State) : Out :=
  runOne (.tdecl n b) 0 (semTdecl n b) s

/-- What TREL does (R274). -/
def semTrel (a : BitVec 6) : Sem :=
  trelSem a

/-- TREL (R274): Release a tensor table entry. -/
def execTrel (a : BitVec 6) (s : State) : Out :=
  runOne (.trel a) 0 (semTrel a) s

/-- What POST does (R279). -/
def semPost (a : BitVec 6) : Sem :=
  postSem none a none

/-- POST (R279): Post a task image into the core's own window or overflow queue, stalling while full. -/
def execPost (a : BitVec 6) (s : State) : Out :=
  runOne (.post a) 0 (semPost a) s

/-- What POST_TRY does (R279). -/
def semPostTry (d : BitVec 6) (a : BitVec 6) : Sem :=
  postSem (some d) a none

/-- POST_TRY (R279): Try to post a task image and return a status. -/
def execPostTry (d : BitVec 6) (a : BitVec 6) (s : State) : Out :=
  runOne (.postTry d a) 0 (semPostTry d a) s

/-- What POST_R does (R280). -/
def semPostR (a : BitVec 6) (b : BitVec 6) : Sem :=
  postSem none a (some b)

/-- POST_R (R280): Send a task image to a remote window, resending while FULL. -/
def execPostR (a : BitVec 6) (b : BitVec 6) (s : State) : Out :=
  runOne (.postR a b) 0 (semPostR a b) s

/-- What POST_RTRY does (R280). -/
def semPostRtry (d : BitVec 6) (a : BitVec 6) (b : BitVec 6) : Sem :=
  postSem (some d) a (some b)

/-- POST_RTRY (R280): Send a task image to a remote window once and return a status. -/
def execPostRtry (d : BitVec 6) (a : BitVec 6) (b : BitVec 6) (s : State) : Out :=
  runOne (.postRtry d a b) 0 (semPostRtry d a b) s

/-- What TKWAIT does (R281). -/
def semTkwait (a : BitVec 6) : Sem :=
  tokSem a tkwaitOut

/-- TKWAIT (R281): Stall until a token is fired, then acquire at partition scope. -/
def execTkwait (a : BitVec 6) (s : State) : Out :=
  runOne (.tkwait a) 0 (semTkwait a) s

/-- What TKSIG does (R281). -/
def semTksig (a : BitVec 6) : Sem :=
  tokSem a tksigOut

/-- TKSIG (R281): Signal a token as a release at partition scope. -/
def execTksig (a : BitVec 6) (s : State) : Out :=
  runOne (.tksig a) 0 (semTksig a) s

/-- What TKRD does (R281). -/
def semTkrd (d : BitVec 6) (a : BitVec 6) : Sem :=
  tokSem a (tkrdOut d)

/-- TKRD (R281): Read a token's fired bit and count as a tagged read. -/
def execTkrd (d : BitVec 6) (a : BitVec 6) (s : State) : Out :=
  runOne (.tkrd d a) 0 (semTkrd d a) s

/-- What USIG does (R281). -/
def semUsig (a : BitVec 6) : Sem :=
  usigSem a

/-- USIG (R281): Signal a semaphore of a unit of the cluster. -/
def execUsig (a : BitVec 6) (s : State) : Out :=
  runOne (.usig a) 0 (semUsig a) s

/-- What WINQ does (R282). -/
def semWinq (d : BitVec 6) (k : BitVec 6) : Sem :=
  lanOnly (fun v =>
    { wr := [hS d.toNat]
      eff := fun t => putResult t v.g v.core (hS d.toNat) 1 (BitVec.ofNat 4096 (winQuery v.s v.g.cl k.toNat)) [] false 0 })

/-- WINQ (R282): Return a snapshot of a window quantity. -/
def execWinq (d : BitVec 6) (k : BitVec 6) (s : State) : Out :=
  runOne (.winq d k) 0 (semWinq d k) s

/-- What RETRY does (R283). -/
def semRetry (a : BitVec 6) : Sem :=
  lanOnly (fun v =>
    let n := (v.sr a).toNat
    { reads := [hS a.toNat]
      gate := [hS a.toNat]
      chk := ((needIll (decide (n < 2 ^ ringL v.s v.g.cl))).unless (regPsn v a)).and (psnRegs v [a])
      eff := fun t => ringRetry t v.g.cl n })

/-- RETRY (R283): Settle a retry ring entry by reissuing what it names. -/
def execRetry (a : BitVec 6) (s : State) : Out :=
  runOne (.retry a) 0 (semRetry a) s

end Sys2Proof.Machine
end

