-- ==== Sys2Proof/Machine/MatrixOps.lean ====
section
/-! DEFINITION. The matrix instructions of slot 3 as they issue: each enters the matrix engine's queue (spec 13 R228 to R243). -/

namespace Sys2Proof.Machine

/-- What MMA_Q does (R237). -/
def semMmaQ (f : MF) : Sem :=
  cmdSem (.mmaQ f)

/-- MMA_Q (R237): Matrix multiply-accumulate with A from qa entries. -/
def execMmaQ (f : MF) (s : State) : Out :=
  runOne (.mmaQ f) 3 (semMmaQ f) s

/-- What MMA_V does (R237). -/
def semMmaV (f : MF) : Sem :=
  cmdSem (.mmaV f)

/-- MMA_V (R237): One matrix step with A from three vector registers. -/
def execMmaV (f : MF) (s : State) : Out :=
  runOne (.mmaV f) 3 (semMmaV f) s

/-- What MMA_R does (R237). -/
def semMmaR (f : MF) : Sem :=
  cmdSem (.mmaR f)

/-- MMA_R (R237): Matrix multiply-accumulate with a remote A tile by VA. -/
def execMmaR (f : MF) (s : State) : Out :=
  runOne (.mmaR f) 3 (semMmaR f) s

/-- What WLD does (R240). -/
def semWld (f : MF) : Sem :=
  cmdSem (.wld f)

/-- WLD (R240): Load the shadow weight bank under a B-descriptor. -/
def execWld (f : MF) (s : State) : Out :=
  runOne (.wld f) 3 (semWld f) s

/-- What SWAP does (R241). -/
def semSwap (f : MF) : Sem :=
  cmdSem (.swap f)

/-- SWAP (R241): Exchange active and shadow weight banks. -/
def execSwap (f : MF) (s : State) : Out :=
  runOne (.swap f) 3 (semSwap f) s

/-- What ZERO does (R241). -/
def semZero (f : MF) : Sem :=
  cmdSem (.zero f)

/-- ZERO (R241): Clear a tile with its flag plane, row poison and status. -/
def execZero (f : MF) (s : State) : Out :=
  runOne (.zero f) 3 (semZero f) s

/-- What DRAIN does (R242). -/
def semDrain (f : MF) : Sem :=
  cmdSem (.drain f)

/-- DRAIN (R242): Convert tile rows and write them to the unit scratchpad. -/
def execDrain (f : MF) (s : State) : Out :=
  runOne (.drain f) 3 (semDrain f) s

/-- What DRAIN_Z1 does (R242). -/
def semDrainZ1 (f : MF) : Sem :=
  cmdSem (.drainZ1 f)

/-- DRAIN_Z1 (R242): Drain tile rows compressed with codec 01. -/
def execDrainZ1 (f : MF) (s : State) : Out :=
  runOne (.drainZ1 f) 3 (semDrainZ1 f) s

/-- What DRAIN_Z2 does (R242). -/
def semDrainZ2 (f : MF) : Sem :=
  cmdSem (.drainZ2 f)

/-- DRAIN_Z2 (R242): Drain tile rows compressed with codec 10. -/
def execDrainZ2 (f : MF) (s : State) : Out :=
  runOne (.drainZ2 f) 3 (semDrainZ2 f) s

end Sys2Proof.Machine
end

