-- ==== Sys2Proof/Machine/Scalar.lean ====
section
/-! DEFINITION. Scalar arithmetic, immediates, divides and bit fields (spec 11 R185 to R188). -/

namespace Sys2Proof.Machine

/-- A scalar result of latency `lat` from scalar sources. -/
def aluOut (d : Reg) (rs : List Reg) (lat : Nat) (f : View → W64) : Sem := fun v =>
  { wr := [hS d.toNat]
    reads := rs.map (fun r => hS r.toNat)
    eff := fun t => putResult t v.g v.core (hS d.toNat) lat ((f v).setWidth 4096) (rs.map (fun r => hS r.toNat)) false 0 }

/-- A register form of two sources (R185). -/
def alu2 (d a b : Reg) (lat : Nat) (f : W64 → W64 → W64) : Sem := aluOut d [a, b] lat (fun v => f (v.sr a) (v.sr b))
/-- A register form of one source (R185). -/
def alu1 (d a : Reg) (f : W64 → W64) : Sem := aluOut d [a] 1 (fun v => f (v.sr a))
/-- An immediate form (R186): the immediate is sign-extended. -/
def aluI (d a : Reg) (imm : BitVec 14) (f : W64 → W64 → W64) : Sem := alu1 d a (fun x => f x (imm.signExtend 64))
/-- A divide (R187): it occupies the divider. -/
def aluDiv (d a b : Reg) (f : W64 → W64 → W64) : Sem := fun v => { alu2 d a b 20 f v with div := true }

/-- One or zero. -/
def flag (b : Bool) : W64 := if b then 1 else 0
/-- Rotate right (R185). -/
def rorW (a : W64) (n : Nat) : W64 := (a >>> n) ||| (a <<< (64 - n))
/-- Leading zero bits (R185). -/
def clzW (a : W64) : W64 := BitVec.ofNat 64 ((List.range 64).find? (fun j => a.getLsbD (63 - j)) |>.getD 64)
/-- Trailing zero bits (R185). -/
def ctzW (a : W64) : W64 := BitVec.ofNat 64 ((List.range 64).find? (fun j => a.getLsbD j) |>.getD 64)
/-- One bits (R185). -/
def popW (a : W64) : W64 := BitVec.ofNat 64 ((List.range 64).countP (fun j => a.getLsbD j))
/-- Bytes reversed (R185). -/
def bswapW (a : W64) : W64 := BitVec.ofNat 64 (ofBytes (toBytes a.toNat 8).reverse)
/-- The high half of a product (R185). -/
def mulHi (x y : Int) : W64 := BitVec.ofInt 64 (x * y / 2 ^ 64)
/-- Signed quotient and remainder (R187). -/
def divS (a b : W64) : W64 × W64 :=
  if b = 0 then (BitVec.allOnes 64, a)
  else (BitVec.ofInt 64 (a.toInt.tdiv b.toInt), BitVec.ofInt 64 (a.toInt.tmod b.toInt))
/-- Unsigned quotient and remainder (R187). -/
def divU (a b : W64) : W64 × W64 :=
  if b = 0 then (BitVec.allOnes 64, a)
  else (BitVec.ofNat 64 (a.toNat / b.toNat), BitVec.ofNat 64 (a.toNat % b.toNat))
/-- A field of `len` bits from `pos` up (R188). -/
def fieldW (a : W64) (pos len : Nat) : W64 := BitVec.ofNat 64 (bits a.toNat pos len)
/-- `d` with `len` bits from `pos` up replaced by the low bits of `a` (R188). -/
def insertW (d a : W64) (pos len : Nat) : W64 :=
  let m : W64 := BitVec.ofNat 64 ((2 ^ len - 1) * 2 ^ pos)
  (d &&& ~~~m) ||| ((a <<< pos) &&& m)

/-- What ADD does (R185). -/
def semAdd (d : BitVec 6) (a : BitVec 6) (b : BitVec 6) : Sem :=
  alu2 d a b 1 (fun x y => x + y)

/-- ADD (R185): Scalar add. -/
def execAdd (d : BitVec 6) (a : BitVec 6) (b : BitVec 6) (s : State) : Out :=
  runOne (.add d a b) 0 (semAdd d a b) s

/-- What SUB does (R185). -/
def semSub (d : BitVec 6) (a : BitVec 6) (b : BitVec 6) : Sem :=
  alu2 d a b 1 (fun x y => x - y)

/-- SUB (R185): Scalar subtract. -/
def execSub (d : BitVec 6) (a : BitVec 6) (b : BitVec 6) (s : State) : Out :=
  runOne (.sub d a b) 0 (semSub d a b) s

/-- What AND does (R185). -/
def semAnd (d : BitVec 6) (a : BitVec 6) (b : BitVec 6) : Sem :=
  alu2 d a b 1 (fun x y => x &&& y)

/-- AND (R185): Bitwise and. -/
def execAnd (d : BitVec 6) (a : BitVec 6) (b : BitVec 6) (s : State) : Out :=
  runOne (.and d a b) 0 (semAnd d a b) s

/-- What OR does (R185). -/
def semOr (d : BitVec 6) (a : BitVec 6) (b : BitVec 6) : Sem :=
  alu2 d a b 1 (fun x y => x ||| y)

/-- OR (R185): Bitwise or. -/
def execOr (d : BitVec 6) (a : BitVec 6) (b : BitVec 6) (s : State) : Out :=
  runOne (.or d a b) 0 (semOr d a b) s

/-- What XOR does (R185). -/
def semXor (d : BitVec 6) (a : BitVec 6) (b : BitVec 6) : Sem :=
  alu2 d a b 1 (fun x y => x ^^^ y)

/-- XOR (R185): Bitwise exclusive or. -/
def execXor (d : BitVec 6) (a : BitVec 6) (b : BitVec 6) (s : State) : Out :=
  runOne (.xor d a b) 0 (semXor d a b) s

/-- What ANDN does (R185). -/
def semAndn (d : BitVec 6) (a : BitVec 6) (b : BitVec 6) : Sem :=
  alu2 d a b 1 (fun x y => x &&& ~~~y)

/-- ANDN (R185): And with complement of rb. -/
def execAndn (d : BitVec 6) (a : BitVec 6) (b : BitVec 6) (s : State) : Out :=
  runOne (.andn d a b) 0 (semAndn d a b) s

/-- What ORN does (R185). -/
def semOrn (d : BitVec 6) (a : BitVec 6) (b : BitVec 6) : Sem :=
  alu2 d a b 1 (fun x y => x ||| ~~~y)

/-- ORN (R185): Or with complement of rb. -/
def execOrn (d : BitVec 6) (a : BitVec 6) (b : BitVec 6) (s : State) : Out :=
  runOne (.orn d a b) 0 (semOrn d a b) s

/-- What XNOR does (R185). -/
def semXnor (d : BitVec 6) (a : BitVec 6) (b : BitVec 6) : Sem :=
  alu2 d a b 1 (fun x y => ~~~(x ^^^ y))

/-- XNOR (R185): Complement of exclusive or. -/
def execXnor (d : BitVec 6) (a : BitVec 6) (b : BitVec 6) (s : State) : Out :=
  runOne (.xnor d a b) 0 (semXnor d a b) s

/-- What SHL does (R185). -/
def semShl (d : BitVec 6) (a : BitVec 6) (b : BitVec 6) : Sem :=
  alu2 d a b 1 (fun x y => x <<< (y.toNat % 64))

/-- SHL (R185): Shift left by rb[5:0]. -/
def execShl (d : BitVec 6) (a : BitVec 6) (b : BitVec 6) (s : State) : Out :=
  runOne (.shl d a b) 0 (semShl d a b) s

/-- What SHR does (R185). -/
def semShr (d : BitVec 6) (a : BitVec 6) (b : BitVec 6) : Sem :=
  alu2 d a b 1 (fun x y => x >>> (y.toNat % 64))

/-- SHR (R185): Logical shift right by rb[5:0]. -/
def execShr (d : BitVec 6) (a : BitVec 6) (b : BitVec 6) (s : State) : Out :=
  runOne (.shr d a b) 0 (semShr d a b) s

/-- What SRA does (R185). -/
def semSra (d : BitVec 6) (a : BitVec 6) (b : BitVec 6) : Sem :=
  alu2 d a b 1 (fun x y => x.sshiftRight (y.toNat % 64))

/-- SRA (R185): Arithmetic shift right by rb[5:0]. -/
def execSra (d : BitVec 6) (a : BitVec 6) (b : BitVec 6) (s : State) : Out :=
  runOne (.sra d a b) 0 (semSra d a b) s

/-- What ROR does (R185). -/
def semRor (d : BitVec 6) (a : BitVec 6) (b : BitVec 6) : Sem :=
  alu2 d a b 1 (fun x y => rorW x (y.toNat % 64))

/-- ROR (R185): Rotate right by rb[5:0]. -/
def execRor (d : BitVec 6) (a : BitVec 6) (b : BitVec 6) (s : State) : Out :=
  runOne (.ror d a b) 0 (semRor d a b) s

/-- What SLT does (R185). -/
def semSlt (d : BitVec 6) (a : BitVec 6) (b : BitVec 6) : Sem :=
  alu2 d a b 1 (fun x y => flag (x.slt y))

/-- SLT (R185): Set if signed less than. -/
def execSlt (d : BitVec 6) (a : BitVec 6) (b : BitVec 6) (s : State) : Out :=
  runOne (.slt d a b) 0 (semSlt d a b) s

/-- What SLTU does (R185). -/
def semSltu (d : BitVec 6) (a : BitVec 6) (b : BitVec 6) : Sem :=
  alu2 d a b 1 (fun x y => flag (x.ult y))

/-- SLTU (R185): Set if unsigned less than. -/
def execSltu (d : BitVec 6) (a : BitVec 6) (b : BitVec 6) (s : State) : Out :=
  runOne (.sltu d a b) 0 (semSltu d a b) s

/-- What MIN does (R185). -/
def semMin (d : BitVec 6) (a : BitVec 6) (b : BitVec 6) : Sem :=
  alu2 d a b 1 (fun x y => if x.slt y then x else y)

/-- MIN (R185): Signed minimum. -/
def execMin (d : BitVec 6) (a : BitVec 6) (b : BitVec 6) (s : State) : Out :=
  runOne (.min d a b) 0 (semMin d a b) s

/-- What MAX does (R185). -/
def semMax (d : BitVec 6) (a : BitVec 6) (b : BitVec 6) : Sem :=
  alu2 d a b 1 (fun x y => if x.slt y then y else x)

/-- MAX (R185): Signed maximum. -/
def execMax (d : BitVec 6) (a : BitVec 6) (b : BitVec 6) (s : State) : Out :=
  runOne (.max d a b) 0 (semMax d a b) s

/-- What MINU does (R185). -/
def semMinu (d : BitVec 6) (a : BitVec 6) (b : BitVec 6) : Sem :=
  alu2 d a b 1 (fun x y => if x.ult y then x else y)

/-- MINU (R185): Unsigned minimum. -/
def execMinu (d : BitVec 6) (a : BitVec 6) (b : BitVec 6) (s : State) : Out :=
  runOne (.minu d a b) 0 (semMinu d a b) s

/-- What MAXU does (R185). -/
def semMaxu (d : BitVec 6) (a : BitVec 6) (b : BitVec 6) : Sem :=
  alu2 d a b 1 (fun x y => if x.ult y then y else x)

/-- MAXU (R185): Unsigned maximum. -/
def execMaxu (d : BitVec 6) (a : BitVec 6) (b : BitVec 6) (s : State) : Out :=
  runOne (.maxu d a b) 0 (semMaxu d a b) s

/-- What CLZ does (R185). -/
def semClz (d : BitVec 6) (a : BitVec 6) : Sem :=
  alu1 d a clzW

/-- CLZ (R185): Count leading zero bits. -/
def execClz (d : BitVec 6) (a : BitVec 6) (s : State) : Out :=
  runOne (.clz d a) 0 (semClz d a) s

/-- What CTZ does (R185). -/
def semCtz (d : BitVec 6) (a : BitVec 6) : Sem :=
  alu1 d a ctzW

/-- CTZ (R185): Count trailing zero bits. -/
def execCtz (d : BitVec 6) (a : BitVec 6) (s : State) : Out :=
  runOne (.ctz d a) 0 (semCtz d a) s

/-- What POPC does (R185). -/
def semPopc (d : BitVec 6) (a : BitVec 6) : Sem :=
  alu1 d a popW

/-- POPC (R185): Count one bits. -/
def execPopc (d : BitVec 6) (a : BitVec 6) (s : State) : Out :=
  runOne (.popc d a) 0 (semPopc d a) s

/-- What BSWAP does (R185). -/
def semBswap (d : BitVec 6) (a : BitVec 6) : Sem :=
  alu1 d a bswapW

/-- BSWAP (R185): Reverse byte order. -/
def execBswap (d : BitVec 6) (a : BitVec 6) (s : State) : Out :=
  runOne (.bswap d a) 0 (semBswap d a) s

/-- What MUL does (R185). -/
def semMul (d : BitVec 6) (a : BitVec 6) (b : BitVec 6) : Sem :=
  alu2 d a b 3 (fun x y => x * y)

/-- MUL (R185): Multiply, low 64 bits. -/
def execMul (d : BitVec 6) (a : BitVec 6) (b : BitVec 6) (s : State) : Out :=
  runOne (.mul d a b) 0 (semMul d a b) s

/-- What MULH does (R185). -/
def semMulh (d : BitVec 6) (a : BitVec 6) (b : BitVec 6) : Sem :=
  alu2 d a b 3 (fun x y => mulHi x.toInt y.toInt)

/-- MULH (R185): Signed multiply, high 64 bits. -/
def execMulh (d : BitVec 6) (a : BitVec 6) (b : BitVec 6) (s : State) : Out :=
  runOne (.mulh d a b) 0 (semMulh d a b) s

/-- What MULHU does (R185). -/
def semMulhu (d : BitVec 6) (a : BitVec 6) (b : BitVec 6) : Sem :=
  alu2 d a b 3 (fun x y => mulHi x.toNat y.toNat)

/-- MULHU (R185): Unsigned multiply, high 64 bits. -/
def execMulhu (d : BitVec 6) (a : BitVec 6) (b : BitVec 6) (s : State) : Out :=
  runOne (.mulhu d a b) 0 (semMulhu d a b) s

/-- What MULHSU does (R185). -/
def semMulhsu (d : BitVec 6) (a : BitVec 6) (b : BitVec 6) : Sem :=
  alu2 d a b 3 (fun x y => mulHi x.toInt y.toNat)

/-- MULHSU (R185): Signed by unsigned multiply, high 64 bits. -/
def execMulhsu (d : BitVec 6) (a : BitVec 6) (b : BitVec 6) (s : State) : Out :=
  runOne (.mulhsu d a b) 0 (semMulhsu d a b) s

/-- What DIV does (R187). -/
def semDiv (d : BitVec 6) (a : BitVec 6) (b : BitVec 6) : Sem :=
  aluDiv d a b (fun x y => (divS x y).1)

/-- DIV (R187): Signed divide. -/
def execDiv (d : BitVec 6) (a : BitVec 6) (b : BitVec 6) (s : State) : Out :=
  runOne (.div d a b) 0 (semDiv d a b) s

/-- What DIVU does (R187). -/
def semDivu (d : BitVec 6) (a : BitVec 6) (b : BitVec 6) : Sem :=
  aluDiv d a b (fun x y => (divU x y).1)

/-- DIVU (R187): Unsigned divide. -/
def execDivu (d : BitVec 6) (a : BitVec 6) (b : BitVec 6) (s : State) : Out :=
  runOne (.divu d a b) 0 (semDivu d a b) s

/-- What REM does (R187). -/
def semRem (d : BitVec 6) (a : BitVec 6) (b : BitVec 6) : Sem :=
  aluDiv d a b (fun x y => (divS x y).2)

/-- REM (R187): Signed remainder. -/
def execRem (d : BitVec 6) (a : BitVec 6) (b : BitVec 6) (s : State) : Out :=
  runOne (.rem d a b) 0 (semRem d a b) s

/-- What REMU does (R187). -/
def semRemu (d : BitVec 6) (a : BitVec 6) (b : BitVec 6) : Sem :=
  aluDiv d a b (fun x y => (divU x y).2)

/-- REMU (R187): Unsigned remainder. -/
def execRemu (d : BitVec 6) (a : BitVec 6) (b : BitVec 6) (s : State) : Out :=
  runOne (.remu d a b) 0 (semRemu d a b) s

/-- What ADDI does (R186). -/
def semAddi (d : BitVec 6) (a : BitVec 6) (imm : BitVec 14) : Sem :=
  aluI d a imm (fun x i => x + i)

/-- ADDI (R186): Add immediate. -/
def execAddi (d : BitVec 6) (a : BitVec 6) (imm : BitVec 14) (s : State) : Out :=
  runOne (.addi d a imm) 0 (semAddi d a imm) s

/-- What ANDI does (R186). -/
def semAndi (d : BitVec 6) (a : BitVec 6) (imm : BitVec 14) : Sem :=
  aluI d a imm (fun x i => x &&& i)

/-- ANDI (R186): And immediate. -/
def execAndi (d : BitVec 6) (a : BitVec 6) (imm : BitVec 14) (s : State) : Out :=
  runOne (.andi d a imm) 0 (semAndi d a imm) s

/-- What ORI does (R186). -/
def semOri (d : BitVec 6) (a : BitVec 6) (imm : BitVec 14) : Sem :=
  aluI d a imm (fun x i => x ||| i)

/-- ORI (R186): Or immediate. -/
def execOri (d : BitVec 6) (a : BitVec 6) (imm : BitVec 14) (s : State) : Out :=
  runOne (.ori d a imm) 0 (semOri d a imm) s

/-- What XORI does (R186). -/
def semXori (d : BitVec 6) (a : BitVec 6) (imm : BitVec 14) : Sem :=
  aluI d a imm (fun x i => x ^^^ i)

/-- XORI (R186): Exclusive or immediate. -/
def execXori (d : BitVec 6) (a : BitVec 6) (imm : BitVec 14) (s : State) : Out :=
  runOne (.xori d a imm) 0 (semXori d a imm) s

/-- What SLTI does (R186). -/
def semSlti (d : BitVec 6) (a : BitVec 6) (imm : BitVec 14) : Sem :=
  aluI d a imm (fun x i => flag (x.slt i))

/-- SLTI (R186): Set if signed less than immediate. -/
def execSlti (d : BitVec 6) (a : BitVec 6) (imm : BitVec 14) (s : State) : Out :=
  runOne (.slti d a imm) 0 (semSlti d a imm) s

/-- What SLTIU does (R186). -/
def semSltiu (d : BitVec 6) (a : BitVec 6) (imm : BitVec 14) : Sem :=
  aluI d a imm (fun x i => flag (x.ult i))

/-- SLTIU (R186): Set if unsigned less than immediate. -/
def execSltiu (d : BitVec 6) (a : BitVec 6) (imm : BitVec 14) (s : State) : Out :=
  runOne (.sltiu d a imm) 0 (semSltiu d a imm) s

/-- What SHLI does (R186). -/
def semShli (d : BitVec 6) (a : BitVec 6) (n : BitVec 6) : Sem :=
  alu1 d a (fun x => x <<< n.toNat)

/-- SHLI (R186): Shift left by immediate. -/
def execShli (d : BitVec 6) (a : BitVec 6) (n : BitVec 6) (s : State) : Out :=
  runOne (.shli d a n) 0 (semShli d a n) s

/-- What SHRI does (R186). -/
def semShri (d : BitVec 6) (a : BitVec 6) (n : BitVec 6) : Sem :=
  alu1 d a (fun x => x >>> n.toNat)

/-- SHRI (R186): Logical shift right by immediate. -/
def execShri (d : BitVec 6) (a : BitVec 6) (n : BitVec 6) (s : State) : Out :=
  runOne (.shri d a n) 0 (semShri d a n) s

/-- What SRAI does (R186). -/
def semSrai (d : BitVec 6) (a : BitVec 6) (n : BitVec 6) : Sem :=
  alu1 d a (fun x => x.sshiftRight n.toNat)

/-- SRAI (R186): Arithmetic shift right by immediate. -/
def execSrai (d : BitVec 6) (a : BitVec 6) (n : BitVec 6) (s : State) : Out :=
  runOne (.srai d a n) 0 (semSrai d a n) s

/-- What RORI does (R186). -/
def semRori (d : BitVec 6) (a : BitVec 6) (n : BitVec 6) : Sem :=
  alu1 d a (fun x => rorW x n.toNat)

/-- RORI (R186): Rotate right by immediate. -/
def execRori (d : BitVec 6) (a : BitVec 6) (n : BitVec 6) (s : State) : Out :=
  runOne (.rori d a n) 0 (semRori d a n) s

/-- What LUI does (R186). -/
def semLui (d : BitVec 6) (imm : BitVec 20) : Sem :=
  aluOut d [] 1 (fun _ => (imm.signExtend 64) <<< 14)

/-- LUI (R186): Load a sign-extended 20-bit immediate shifted left by 14. -/
def execLui (d : BitVec 6) (imm : BitVec 20) (s : State) : Out :=
  runOne (.lui d imm) 0 (semLui d imm) s

/-- What ADDPC does (R186). -/
def semAddpc (d : BitVec 6) (imm : BitVec 20) : Sem :=
  aluOut d [] 1 (fun v => BitVec.ofNat 64 (codeAddr ((v.addr : Int) + imm.toInt * 4)))

/-- ADDPC (R186): Form a code offset relative to the current bundle or word. -/
def execAddpc (d : BitVec 6) (imm : BitVec 20) (s : State) : Out :=
  runOne (.addpc d imm) 0 (semAddpc d imm) s

/-- What BFXU does (R188). -/
def semBfxu (d : BitVec 6) (a : BitVec 6) (p : BitVec 6) (l : BitVec 6) : Sem :=
  alu1 d a (fun x => fieldW x p.toNat (l.toNat + 1))

/-- BFXU (R188): Extract an unsigned bit field. -/
def execBfxu (d : BitVec 6) (a : BitVec 6) (p : BitVec 6) (l : BitVec 6) (s : State) : Out :=
  runOne (.bfxu d a p l) 0 (semBfxu d a p l) s

/-- What BFXS does (R188). -/
def semBfxs (d : BitVec 6) (a : BitVec 6) (p : BitVec 6) (l : BitVec 6) : Sem :=
  alu1 d a (fun x => BitVec.ofInt 64 (sextN (fieldW x p.toNat (l.toNat + 1)).toNat (l.toNat + 1)))

/-- BFXS (R188): Extract a signed bit field. -/
def execBfxs (d : BitVec 6) (a : BitVec 6) (p : BitVec 6) (l : BitVec 6) (s : State) : Out :=
  runOne (.bfxs d a p l) 0 (semBfxs d a p l) s

/-- What BFI does (R188). -/
def semBfi (d : BitVec 6) (a : BitVec 6) (p : BitVec 6) (l : BitVec 6) : Sem :=
  aluOut d [a, d] 1 (fun v => insertW (v.sr d) (v.sr a) p.toNat (l.toNat + 1))

/-- BFI (R188): Insert a bit field into rd. -/
def execBfi (d : BitVec 6) (a : BitVec 6) (p : BitVec 6) (l : BitVec 6) (s : State) : Out :=
  runOne (.bfi d a p l) 0 (semBfi d a p l) s

end Sys2Proof.Machine
end

