-- ==== Sys2Proof/Machine/Vector.lean ====
section
/-! DEFINITION. Vector instructions: operand specifiers, masking, and what every lane-wise form shares (spec 10 R166, R167; 12 R204 to R206). -/

namespace Sys2Proof.Machine

/-! ## Operands -/

/-- Whether a specifier names a popped queue (R167). -/
def isQ (x : Nat) : Bool := decide (0x20 ≤ x) && decide (x < 0x28)
/-- Queues a slot pops, each once however often it is named (R153). -/
def srcPops (xs : List Nat) : List Nat := ((xs.filter isQ).map (fun x => x - 0x20)).dedup
/-- The entry a slot pops: the one behind those that earlier slots pop (R153). -/
def srcEntry (v : View) (x : Nat) : Option QEntry := queueEntry v.u (x - 0x20) (v.pops.count (x - 0x20))

/-- The broadcast lane of imm16 or of a scalar (R167). -/
def bcastLane (ty : Nat) (imm : Option (BitVec 16)) (r : W64) : Nat :=
  match imm with
  | none => bits r.toNat 0 (tyWidth ty)
  | some i =>
    if ty = 8 then i.toNat * 65536
    else if tyFloat ty then i.toNat
    else wrap i.toInt (tyWidth ty)

/-- The value a source specifier names (R167). -/
def vsrc (v : View) (f : VF) (x : Nat) : Vec :=
  let ty := f.ty.toNat
  if x < 0x20 then rdV v.u x
  else if isQ x then ((srcEntry v x).map (fun e => e.val.setWidth 4096)).getD 0
  else if x = 0x3E then ofLanes (tyWidth ty) (List.replicate (4096 / tyWidth ty) (bcastLane ty (some f.imm) 0))
  else if x = 0x3F then ofLanes (tyWidth ty) (List.replicate (4096 / tyWidth ty) (bcastLane ty none (v.sr f.sreg)))
  else 0

/-- Holders that source specifiers read (R71). -/
def srcHs (f : VF) (xs : List Nat) : List Nat :=
  xs.flatMap (fun x =>
    if x < 0x20 then [hV x] else if decide (0x30 ≤ x) && decide (x < 0x38) then [hM (x - 0x30)]
    else if x = 0x3F then [hS f.sreg.toNat] else [])

/-- Whether a popped entry is poisoned (R110). -/
def srcPsn (v : View) (xs : List Nat) : Bool := xs.any (fun x => isQ x && ((srcEntry v x).map (fun e => e.poison)).getD false)

/-- Holders a mask adds (R204): the mask register, and the destination where disabled lanes keep it. -/
def maskHs (f : VF) (dst : Nat) : List Nat :=
  if f.mask = 0 then [] else hM f.mask.toNat :: (if f.mz = 0 then [dst] else [])

/-- Enabled lanes of width `w` (R204). -/
def laneOn (v : View) (f : VF) (w : Nat) : List Bool := maskBits w (rdM v.u f.mask.toNat)

/-- The lanes of several operands side by side: row i holds lane i of each. -/
def laneRows (n : Nat) (ls : List (List Nat)) : List (List Nat) :=
  ls.foldr (fun l acc => List.zipWith (fun x r => x :: r) l acc) (List.replicate n [])

/-- The destination lanes (R204): enabled lanes take their result, disabled ones keep theirs or become zero; flags come
from enabled lanes alone. -/
def mergeLanes (op : List Nat → Nat × Flags) (mz : Bool) : List Bool → List Nat → List (List Nat) → List Nat × Flags
  | e :: es, o :: os, r :: rs =>
    let p := mergeLanes op mz es os rs
    if e then let x := op r; (x.1 :: p.1, x.2 ||| p.2) else ((if mz then 0 else o) :: p.1, p.2)
  | _, _, _ => ([], 0)

/-- A lane-wise form of a width (R204, R206). -/
def laneForm (f : VF) (srcs : List (BitVec 6)) (w lat : Nat) (rows : View → List (List Nat)) (op : List Nat → Nat × Flags) : Sem :=
  unitOnly (fun v =>
    let xs := srcs.map (fun x => x.toNat)
    let d := hV f.d.toNat
    { wr := [d]
      pops := srcPops xs
      eff := fun t =>
        let p := mergeLanes op (f.mz == 1) (laneOn v f w) (lanes w (rdV v.u f.d.toNat)) (rows v)
        putResult t v.g v.core d lat (ofLanes w p.1) (srcHs f xs ++ maskHs f d) (srcPsn v xs) p.2 })

/-- A lane-wise form in which lane i of the result depends on lane i of each source. -/
def laneSem (f : VF) (srcs : List (BitVec 6)) (lat : Nat) (op : List Nat → Nat × Flags) : Sem :=
  let w := tyWidth f.ty.toNat
  laneForm f srcs w lat (fun v => laneRows (4096 / w) (srcs.map (fun x => lanes w (vsrc v f x.toNat)))) op

/-- A whole-register form: no mask, every bit of the destination written. -/
def wholeSem (f : VF) (srcs : List (BitVec 6)) (lat : Nat) (op : View → Vec × Flags) : Sem := unitOnly (fun v =>
  let xs := srcs.map (fun x => x.toNat)
  { wr := [hV f.d.toNat]
    pops := srcPops xs
    eff := fun t => let r := op v; putResult t v.g v.core (hV f.d.toNat) lat r.1 (srcHs f xs) (srcPsn v xs) r.2 })

/-! ## Lane values -/

/-- val(x) of an integer lane (R207). -/
def tv (ty x : Nat) : Int := if tySigned ty then sextN x (tyWidth ty) else (x : Int)
/-- lo of a lane type (R207). -/
def tLo (ty : Nat) : Int := intLo (tyWidth ty) (tySigned ty)
/-- hi of a lane type (R207). -/
def tHi (ty : Nat) : Int := intHi (tyWidth ty) (tySigned ty)

/-- Element `n` of a row. -/
def arg (r : List Nat) (n : Nat) : Nat := r.getD n 0

/-- An integer lane result from the values of its operands, taken mod 2^w. -/
def intLane (ty : Nat) (g : (Nat → Int) → Int) : List Nat → Nat × Flags :=
  fun r => (wrap (g (fun n => tv ty (arg r n))) (tyWidth ty), 0)

/-- An integer lane result from the bits of its operands. -/
def bitLane (g : (Nat → Nat) → Nat) : List Nat → Nat × Flags := fun r => (g (arg r), 0)

/-- A rounded float lane result from the values of its operands: the terms of the exact sum (R209). -/
def flLane (f : VF) (g : (Nat → Val) → List (Option Val)) : List Nat → Nat × Flags :=
  let c := tyFmt f.ty.toNat
  fun r => flSum c f.rm.toNat (g (fun n => valOf c (arg r n)))

/-- Absolute value. -/
def Val.abs : Val → Val
  | .nan => .nan
  | .inf _ => .inf false
  | .zero _ => .zero false
  | .fin i e => .fin i.natAbs e

/-- VABD of float lanes (R209): the absolute difference, rounded once. -/
def flAbd (f : VF) : List Nat → Nat × Flags :=
  let c := tyFmt f.ty.toNat
  fun r =>
    let a := valOf c (arg r 0)
    let b := valOf c (arg r 1)
    if a == .nan || b == .nan then (canonNan c, 0)
    else match sumVals f.rm.toNat [a, b.neg] with
      | none => (canonNan c, flagNv)
      | some x => roundTo c x.abs f.rm.toNat

/-- VMIN and VMAX of float lanes (R210); `mx` for the larger. -/
def flMinMax (f : VF) (mx : Bool) (x y : Nat) : Nat :=
  let c := tyFmt f.ty.toNat
  let a := valOf c x
  let b := valOf c y
  if a == .nan || b == .nan then canonNan c
  else if (if mx then a.lt0 b else b.lt0 a) then y else x

/-- VABS and VNEG of float lanes (R210). -/
def flSign (f : VF) (g : Nat → Nat) : List Nat → Nat × Flags :=
  let c := tyFmt f.ty.toNat
  fun r => (if valOf c (arg r 0) == .nan then canonNan c else g (arg r 0), 0)

/-- Sign bit of a lane type. -/
def signBit (ty : Nat) : Nat := 2 ^ (tyWidth ty - 1)

/-- An operation with an integer and a float form (R207, R209, R210): latency 2 or `lf`. -/
def bothSem (f : VF) (srcs : List (BitVec 6)) (lf : Nat) (gi gf : List Nat → Nat × Flags) : Sem :=
  if tyFloat f.ty.toNat then laneSem f srcs lf gf else laneSem f srcs 2 gi

/-- Leading zero bits of a lane of `w` bits (R207). -/
def clzN (w x : Nat) : Nat := if x = 0 then w else w - 1 - Nat.log2 x
/-- One bits of a number below 2^w. -/
def popN (w x : Nat) : Nat := (List.range w).countP (fun i => bit x i)

/-- VRSHR of one lane (R208); an amount above the width acts as the width plus 1. -/
def rshrLane (ty x sh : Nat) : Nat :=
  let w := tyWidth ty
  let k := min sh (w + 1)
  if sh = 0 then x else wrap ((tv ty x + 2 ^ (k - 1)) / 2 ^ k) w

/-- Carry-less product of two 32-bit lanes (R216). -/
def clmul (a b : Nat) : Nat := (List.range 32).foldl (fun p j => if bit b j then Nat.xor p (a * 2 ^ j) else p) 0

end Sys2Proof.Machine
end

