-- ==== Sys2Proof/Machine/VecArith.lean ====
section
/-! DEFINITION. Lane-wise vector arithmetic, shifts and carry-less products (spec 12 R207 to R210, R216). -/

namespace Sys2Proof.Machine

/-- What VADD does (R207). -/
def semVadd (f : VF) : Sem :=
  bothSem f [f.a, f.b] 3 (intLane f.ty.toNat (fun x => x 0 + x 1)) (flLane f (fun x => [some (x 0), some (x 1)]))

/-- VADD (R207): Lane-wise add, integer or rounded float. -/
def execVadd (f : VF) (s : State) : Out :=
  runOne (.vadd f) 1 (semVadd f) s

/-- What VSUB does (R207). -/
def semVsub (f : VF) : Sem :=
  bothSem f [f.a, f.b] 3 (intLane f.ty.toNat (fun x => x 0 - x 1)) (flLane f (fun x => [some (x 0), some (x 1).neg]))

/-- VSUB (R207): Lane-wise subtract. -/
def execVsub (f : VF) (s : State) : Out :=
  runOne (.vsub f) 1 (semVsub f) s

/-- What VMUL does (R207). -/
def semVmul (f : VF) : Sem :=
  bothSem f [f.a, f.b] 3 (intLane f.ty.toNat (fun x => x 0 * x 1)) (flLane f (fun x => [(x 0).mul (x 1)]))

/-- VMUL (R207): Lane-wise multiply. -/
def execVmul (f : VF) (s : State) : Out :=
  runOne (.vmul f) 1 (semVmul f) s

/-- What VMULH does (R207). -/
def semVmulh (f : VF) : Sem :=
  laneSem f [f.a, f.b] 2 (intLane f.ty.toNat (fun x => x 0 * x 1 / 2 ^ tyWidth f.ty.toNat))

/-- VMULH (R207): Lane-wise integer multiply, high half. -/
def execVmulh (f : VF) (s : State) : Out :=
  runOne (.vmulh f) 1 (semVmulh f) s

/-- What VFMA does (R209). -/
def semVfma (f : VF) : Sem :=
  laneSem f [f.a, f.b, f.c] 4 (flLane f (fun x => [(x 0).mul (x 1), some (x 2)]))

/-- VFMA (R209): Fused multiply-add with one rounding. -/
def execVfma (f : VF) (s : State) : Out :=
  runOne (.vfma f) 1 (semVfma f) s

/-- What VFMS does (R209). -/
def semVfms (f : VF) : Sem :=
  laneSem f [f.a, f.b, f.c] 4 (flLane f (fun x => [(x 0).mul (x 1), some (x 2).neg]))

/-- VFMS (R209): Fused multiply-subtract with one rounding. -/
def execVfms (f : VF) (s : State) : Out :=
  runOne (.vfms f) 1 (semVfms f) s

/-- What VFNMA does (R209). -/
def semVfnma (f : VF) : Sem :=
  laneSem f [f.a, f.b, f.c] 4 (flLane f (fun x => [(x 0).neg.mul (x 1), some (x 2)]))

/-- VFNMA (R209): Negated fused multiply-add with one rounding. -/
def execVfnma (f : VF) (s : State) : Out :=
  runOne (.vfnma f) 1 (semVfnma f) s

/-- What VMAC does (R207). -/
def semVmac (f : VF) : Sem :=
  laneSem f [f.a, f.b, f.c] 2 (intLane f.ty.toNat (fun x => x 0 * x 1 + x 2))

/-- VMAC (R207): Lane-wise integer multiply-accumulate. -/
def execVmac (f : VF) (s : State) : Out :=
  runOne (.vmac f) 1 (semVmac f) s

/-- What VAND does (R207). -/
def semVand (f : VF) : Sem :=
  laneSem f [f.a, f.b] 2 (bitLane (fun x => Nat.land (x 0) (x 1)))

/-- VAND (R207): Lane-wise and. -/
def execVand (f : VF) (s : State) : Out :=
  runOne (.vand f) 1 (semVand f) s

/-- What VOR does (R207). -/
def semVor (f : VF) : Sem :=
  laneSem f [f.a, f.b] 2 (bitLane (fun x => Nat.lor (x 0) (x 1)))

/-- VOR (R207): Lane-wise or. -/
def execVor (f : VF) (s : State) : Out :=
  runOne (.vor f) 1 (semVor f) s

/-- What VXOR does (R207). -/
def semVxor (f : VF) : Sem :=
  laneSem f [f.a, f.b] 2 (bitLane (fun x => Nat.xor (x 0) (x 1)))

/-- VXOR (R207): Lane-wise exclusive or. -/
def execVxor (f : VF) (s : State) : Out :=
  runOne (.vxor f) 1 (semVxor f) s

/-- What VANDN does (R207). -/
def semVandn (f : VF) : Sem :=
  laneSem f [f.a, f.b] 2 (bitLane (fun x => Nat.land (x 0) (2 ^ tyWidth f.ty.toNat - 1 - x 1)))

/-- VANDN (R207): Lane-wise and with complement. -/
def execVandn (f : VF) (s : State) : Out :=
  runOne (.vandn f) 1 (semVandn f) s

/-- What VSHL does (R208). -/
def semVshl (f : VF) : Sem :=
  laneSem f [f.a, f.b] 2 (bitLane (fun x => if tyWidth f.ty.toNat ≤ x 1 then 0 else x 0 * 2 ^ x 1 % 2 ^ tyWidth f.ty.toNat))

/-- VSHL (R208): Lane-wise shift left. -/
def execVshl (f : VF) (s : State) : Out :=
  runOne (.vshl f) 1 (semVshl f) s

/-- What VSHR does (R208). -/
def semVshr (f : VF) : Sem :=
  laneSem f [f.a, f.b] 2 (bitLane (fun x => x 0 / 2 ^ min (x 1) (tyWidth f.ty.toNat)))

/-- VSHR (R208): Lane-wise logical shift right. -/
def execVshr (f : VF) (s : State) : Out :=
  runOne (.vshr f) 1 (semVshr f) s

/-- What VSRA does (R208). -/
def semVsra (f : VF) : Sem :=
  laneSem f [f.a, f.b] 2 (bitLane (fun x => wrap (sextN (x 0) (tyWidth f.ty.toNat) / 2 ^ min (x 1) (tyWidth f.ty.toNat)) (tyWidth f.ty.toNat)))

/-- VSRA (R208): Lane-wise arithmetic shift right. -/
def execVsra (f : VF) (s : State) : Out :=
  runOne (.vsra f) 1 (semVsra f) s

/-- What VRSHR does (R208). -/
def semVrshr (f : VF) : Sem :=
  laneSem f [f.a, f.b] 2 (bitLane (fun x => rshrLane f.ty.toNat (x 0) (x 1)))

/-- VRSHR (R208): Lane-wise rounding shift right. -/
def execVrshr (f : VF) (s : State) : Out :=
  runOne (.vrshr f) 1 (semVrshr f) s

/-- What VADDS does (R207). -/
def semVadds (f : VF) : Sem :=
  laneSem f [f.a, f.b] 2 (intLane f.ty.toNat (fun x => clampI (x 0 + x 1) (tLo f.ty.toNat) (tHi f.ty.toNat)))

/-- VADDS (R207): Lane-wise saturating add. -/
def execVadds (f : VF) (s : State) : Out :=
  runOne (.vadds f) 1 (semVadds f) s

/-- What VSUBS does (R207). -/
def semVsubs (f : VF) : Sem :=
  laneSem f [f.a, f.b] 2 (intLane f.ty.toNat (fun x => clampI (x 0 - x 1) (tLo f.ty.toNat) (tHi f.ty.toNat)))

/-- VSUBS (R207): Lane-wise saturating subtract. -/
def execVsubs (f : VF) (s : State) : Out :=
  runOne (.vsubs f) 1 (semVsubs f) s

/-- What VMIN does (R207). -/
def semVmin (f : VF) : Sem :=
  bothSem f [f.a, f.b] 3 (intLane f.ty.toNat (fun x => min (x 0) (x 1))) (bitLane (fun x => flMinMax f false (x 0) (x 1)))

/-- VMIN (R207): Lane-wise minimum. -/
def execVmin (f : VF) (s : State) : Out :=
  runOne (.vmin f) 1 (semVmin f) s

/-- What VMAX does (R207). -/
def semVmax (f : VF) : Sem :=
  bothSem f [f.a, f.b] 3 (intLane f.ty.toNat (fun x => max (x 0) (x 1))) (bitLane (fun x => flMinMax f true (x 0) (x 1)))

/-- VMAX (R207): Lane-wise maximum. -/
def execVmax (f : VF) (s : State) : Out :=
  runOne (.vmax f) 1 (semVmax f) s

/-- What VABS does (R207). -/
def semVabs (f : VF) : Sem :=
  bothSem f [f.a] 3 (intLane f.ty.toNat (fun x => (x 0).natAbs)) (flSign f (fun x => x % signBit f.ty.toNat))

/-- VABS (R207): Lane-wise absolute value. -/
def execVabs (f : VF) (s : State) : Out :=
  runOne (.vabs f) 1 (semVabs f) s

/-- What VNEG does (R207). -/
def semVneg (f : VF) : Sem :=
  bothSem f [f.a] 3 (intLane f.ty.toNat (fun x => -x 0)) (flSign f (fun x => Nat.xor x (signBit f.ty.toNat)))

/-- VNEG (R207): Lane-wise negation. -/
def execVneg (f : VF) (s : State) : Out :=
  runOne (.vneg f) 1 (semVneg f) s

/-- What VABD does (R207). -/
def semVabd (f : VF) : Sem :=
  bothSem f [f.a, f.b] 3 (intLane f.ty.toNat (fun x => (x 0 - x 1).natAbs)) (flAbd f)

/-- VABD (R207): Lane-wise absolute difference. -/
def execVabd (f : VF) (s : State) : Out :=
  runOne (.vabd f) 1 (semVabd f) s

/-- What VCLZ does (R207). -/
def semVclz (f : VF) : Sem :=
  laneSem f [f.a] 2 (bitLane (fun x => clzN (tyWidth f.ty.toNat) (x 0)))

/-- VCLZ (R207): Lane-wise count of leading zeros. -/
def execVclz (f : VF) (s : State) : Out :=
  runOne (.vclz f) 1 (semVclz f) s

/-- What VPOPC does (R207). -/
def semVpopc (f : VF) : Sem :=
  laneSem f [f.a] 2 (bitLane (fun x => popN (tyWidth f.ty.toNat) (x 0)))

/-- VPOPC (R207): Lane-wise count of one bits. -/
def execVpopc (f : VF) (s : State) : Out :=
  runOne (.vpopc f) 1 (semVpopc f) s

/-- What VCLMUL does (R216). -/
def semVclmul (f : VF) : Sem :=
  laneSem f [f.a, f.b] 3 (bitLane (fun x => clmul (x 0) (x 1) % 2 ^ 32))

/-- VCLMUL (R216): Carry-less multiply, low 32 bits per lane. -/
def execVclmul (f : VF) (s : State) : Out :=
  runOne (.vclmul f) 1 (semVclmul f) s

/-- What VCLMULH does (R216). -/
def semVclmulh (f : VF) : Sem :=
  laneSem f [f.a, f.b] 3 (bitLane (fun x => clmul (x 0) (x 1) / 2 ^ 32))

/-- VCLMULH (R216): Carry-less multiply, high 32 bits per lane. -/
def execVclmulh (f : VF) (s : State) : Out :=
  runOne (.vclmulh f) 1 (semVclmulh f) s

end Sys2Proof.Machine
end

