-- ==== Sys2Proof/Machine/VecMem.lean ====
section
/-! DEFINITION. Vector loads and stores on the fixed path, decoupled reads and tile slices (spec 12 R221 to R226; 04 R65, R66). -/

namespace Sys2Proof.Machine

/-- Address of a memory form (R169): sreg + sext(imm16), mod 2^64. -/
def vOff (v : View) (f : VF) : Nat := wrap ((v.sr f.sreg).toNat + f.imm.toInt) 64

/-- Whether a vector register is poisoned. -/
def vecPsn (v : View) (n : Nat) : Bool := (hmeta v.core (hV n)).poison
/-- Whether the mask register is poisoned; m0 never is. -/
def maskPsn (v : View) (f : VF) : Bool := (hmeta v.core (hM f.mask.toNat)).poison

/-- Where each enabled lane goes: lane, address. -/
def laneAts (v : View) (f : VF) (w : Nat) (at0 : Nat → Nat) : List (Nat × Nat) :=
  ((laneOn v f w).mapIdx (fun i e => (i, e))).filterMap (fun p => if p.2 then some (p.1, at0 p.1) else none)

/-- RANGE_MISS of lane accesses of `n` bytes (R22, R204): trap.val is the memory operand's address. -/
def laneRange (o n : Nat) (ats : List (Nat × Nat)) : Chk := needRange (ats.all (fun p => decide (p.2 + n ≤ unitSize))) o

/-- The loaded lanes of `n` bytes, and the poison of the sectors read. -/
def loadLanes (v : View) (n : Nat) (ats : List (Nat × Nat)) : List (Nat × Nat) × Bool :=
  ats.foldr (fun p acc => let x := loadVal v p.2 n; ((p.1, x.1) :: acc.1, x.2 || acc.2)) ([], false)

/-- Put loaded lanes over the destination's. -/
def overLanes (old : List Nat) (mz : Bool) (l : List (Nat × Nat)) : List Nat :=
  l.foldl (fun a p => a.set p.1 p.2) (if mz then old.map (fun _ => 0) else old)

/-- A load by lanes (R221, R223): `w`-bit lanes, `n` bytes each, at addresses of their own. `ix` are the holders of an index. -/
def laneLoad (f : VF) (w : Nat) (xs : List Nat) (at0 : View → Nat → Nat) : Sem := unitOnly (fun v =>
  let d := hV f.d.toNat
  let ats := laneAts v f w (at0 v)
  let hs := hS f.sreg.toNat :: srcHs f xs ++ (if f.mask = 0 then [] else [hM f.mask.toNat])
  { wr := [d]
    gate := hs
    pops := srcPops xs
    acc := ats.map (fun p => (false, p.2, w / 8))
    chk := laneRange (vOff v f) (w / 8) ats
    eff := fun t =>
      let l := loadLanes v (w / 8) ats
      putResult (ats.foldl (fun t p => touchChip t (v.base + p.2) (w / 8)) t) v.g v.core d 6
        (ofLanes w (overLanes (lanes w (rdV v.u f.d.toNat)) (f.mz == 1) l.1))
        (hs ++ (if f.mask ≠ 0 ∧ f.mz = 0 then [d] else [])) (srcPsn v xs || l.2) 0 })

/-- A store by lanes (R221, R223): ascending lanes, the higher lane's bytes remain. -/
def laneStore (f : VF) (w : Nat) (xs : List Nat) (at0 : View → Nat → Nat) : Sem := unitOnly (fun v =>
  let d := f.d.toNat
  let ats := laneAts v f w (at0 v)
  let ixP := srcPsn v xs || (srcHs f xs).any (fun h => (hmeta v.core h).poison)
  { gate := [hV d, hS f.sreg.toNat] ++ srcHs f xs ++ [hM f.mask.toNat]
    pops := srcPops xs
    acc := ats.map (fun p => (true, p.2, w / 8))
    chk := ((laneRange (vOff v f) (w / 8) ats).unless (regPsn v f.sreg || ixP || maskPsn v f)).and
      ((psnOf (vecPsn v d) 1 d).and ((psnOf (regPsn v f.sreg) 0 f.sreg.toNat).and
        ((psnOf ixP (if isQ f.a.toNat then 3 else 1) (if isQ f.a.toNat then f.a.toNat - 0x20 else f.a.toNat)).and
          (psnOf (maskPsn v f) 2 f.mask.toNat))))
    eff := fun t =>
      let ls := (lanes w (rdV v.u d)).toArray
      modMem t (fun m => writeSet m (ats.flatMap (fun p =>
        (toBytes (ls.getD p.1 0) (w / 8)).mapIdx (fun j b => (v.base + p.2 + j, b, false))))) })

/-! ## Decoupled reads -/

/-- Bytes of a QLD into a queue (R224). -/
def qldLen (q : Nat) : Nat := if q = 8 then 1536 else 512

/-- QLD in its three forms (R224, R225): the entry is reserved and the tag taken at issue. -/
def qldSem (f : VF) (codec : Nat) : Sem := unitOnly (fun v =>
  let q := f.d.toNat - 0x20
  let o := vOff v f
  let n := qldLen q
  let mk : BitVec 128 := if q = 8 ∨ codec ≠ 0 then BitVec.allOnes 128 else rdM v.u f.mask.toNat
  let parts := if q = 8 then [(o, n)] else (List.range 128).filterMap (fun i => if mk.getLsbD i then some (o + 4 * i, 4) else none)
  let al := decide (o % 512 = 0) && (decide (q ≠ 8) || decide (o % 2048 ≤ 512))
  let hs := [hS f.sreg.toNat, hM f.mask.toNat]
  { gate := hs
    tag := true
    push := some q
    chk := if codec = 0 then needRange (parts.all (fun p => decide (p.1 + p.2 ≤ unitSize))) o
      else (needIll al).and (needRange (decide (o - o % 2048 + 2048 ≤ unitSize)) o)
    eff := fun t => match v.g with
      | .lantern _ => t
      | .unit k => modUnit t k.toNat (fun u =>
        let tg := (freeTag u.core 16).getD 0
        { u with
          core := takeTag u.core tg
          queues := smod [] u.queues q (fun l => l ++ [⟨false, tg, u.core.gen, 0, (metaOf v.core hs).poison⟩])
          qlds := u.qlds ++ [⟨q, tg, u.core.gen, o, n, mk, codec, (u.inst.map (fun i => i.serial)).getD 0, []⟩] }) })

/-- The sectors of a slot that a decode of bytes `lo` to `lo + n - 1` of its chunk reads (R225, R254, R255), and the bytes;
none where the slot does not decode. -/
def slotDecode (rd : Nat → Byte) (codec lo n : Nat) : List Nat × Option (List Byte) :=
  let word := fun (k : Nat) => bits lo 2 9 + k
  let ks := (List.range (n / 4)).map word
  if codec = 2 then
    ((ks.flatMap (fun k => [3 * k / 32, (3 * k + 2) / 32])).dedup,
      some (ks.flatMap (fun k => toBytes (256 * ((rd (3 * k)).toNat + 256 * (rd (3 * k + 1)).toNat + 65536 * (rd (3 * k + 2)).toNat)) 4)))
  else match decodeZwe rd with
    | none => ([0, 1], none)
    | some (ws, _) =>
      let bm := fun (k : Nat) => bit (rd (k / 8)).toNat (k % 8)
      let rank := fun (k : Nat) => (List.range k).countP bm
      (([0, 1] ++ (ks.filter bm).map (fun k => (64 + 4 * rank k) / 32)).dedup, some (ks.flatMap (fun k => toBytes (ws.getD k 0) 4)))

/-- A byte as a QLD sees it (R63, R66): as it stood when its part was performed, else as it stands now. -/
def qldByte (s : State) (q : Qld) (a : Nat) : Byte × Bool :=
  match q.got.find? (fun p => p.1 == a / 16) with
  | some p => (p.2[a % 16]?).getD (0, false)
  | none => (rdByte s.chip.mem.cells a, psnAt s.chip.mem a)

/-- What a QLD reads under the bytes it sees (R224, R225): the ranges by local IA, and its value; none where a slot does not
decode. Disabled lanes are zero. -/
def qldReads (s : State) (k : Nat) (q : Qld) : List (Nat × Nat) × Option (List Byte) :=
  let base := unitBase k
  if q.codec = 0 then
    (if q.q = 8 then [(base + q.off, q.len)]
      else (List.range 128).filterMap (fun i => if q.mask.getLsbD i then some (base + q.off + 4 * i, 4) else none),
      some ((List.range q.len).map (fun j =>
        if decide (q.q = 8) || q.mask.getLsbD (j / 4) then (qldByte s q (base + q.off + j)).1 else 0)))
  else
    let sl := base + (q.off - q.off % 2048)
    let r := slotDecode (fun j => (qldByte s q (sl + j)).1) q.codec (q.off % 2048) q.len
    (r.1.map (fun i => (sl + 32 * i, 32)), r.2)

/-- Perform some of the parts a QLD still has to read, those that a draw chooses (R63, R66, log entries 3 and 43). -/
def qldParts (s : State) (k : Nat) (q : Qld) (all : Bool) : State × Qld :=
  let ps := (((qldReads s k q).1.flatMap (fun r => parts16 r.1 0 r.2)).map (fun p => p.1 / 16)).dedup
  ps.foldl (fun (x : State × Qld) p =>
    if x.2.got.any (fun g => g.1 == p) then x
    else if !all && Config.late x.1.draws then ({ x.1 with draws := x.1.draws + 1 }, x.2)
    else
      let s1 := touchChip { x.1 with draws := x.1.draws + 1 } (16 * p) 16
      (s1, { x.2 with got := sput x.2.got p (rdImg s1.chip.mem (16 * p) 16) })) (s, q)

/-- Whether an earlier QLD into the same queue is still to be performed (R66). -/
def qldBehind (u : Unit) (q : Qld) : Bool := (u.qlds.takeWhile (fun p => p.gen != q.gen)).any (fun p => p.q == q.q)

/-- A QLD performs some of its parts (R63, R66): what they hold then is what it returns. -/
def qldPull (s : State) (k gen : Nat) : State :=
  match (getUnit s k).qlds.find? (fun q => q.gen == gen) with
  | none => s
  | some q =>
    if qldBehind (getUnit s k) q || ended s then s
    else
      let x := qldParts s k q false
      modUnit x.1 k (fun u => { u with qlds := u.qlds.map (fun p => if p.gen = gen then x.2 else p) })

/-- A QLD's value arrives (R66, R72, R224): parts not yet performed are performed, its entry fills and its tag clears. A
compressed slot's further sectors follow from its bitmap, which is read first. -/
def qldArrive (s : State) (k gen : Nat) : State :=
  match (getUnit s k).qlds.find? (fun q => q.gen == gen) with
  | none => s
  | some q =>
    if qldBehind (getUnit s k) q || ended s then s
    else
      let x := qldParts s k q true
      let y := if q.codec = 0 then x else qldParts x.1 k x.2 true
      let rs := qldReads y.1 k y.2
      let psn := rs.1.any (fun r => (List.range r.2).any (fun j => (qldByte y.1 y.2 (r.1 + j)).2))
      let v : List Byte × Bool × State := match rs.2 with
        | some b => (b, psn, y.1)
        | none => let (fr, t) := freeBytes y.1 q.len; (fr, true, t)
      modUnit v.2.2 k (fun u => { u with
        core := if tagLive u.core q.tag gen then clearTag u.core q.tag else u.core
        qlds := u.qlds.filter (fun p => p.gen != gen)
        queues := smod [] u.queues q.q (fun l => l.map (fun e =>
          if e.gen = gen ∧ !e.filled then { e with filled := true, val := BitVec.ofNat 12288 (ofBytes v.1), poison := e.poison || v.2.1 } else e)) })

/-! ## Tile slices -/

/-- The slice a field names (R154, R169): tile, column, index. -/
def sliceOf (v : View) (f : VF) : Nat × Bool × Nat :=
  (bits f.imm.toNat 11 4, bit f.imm.toNat 15, ((v.sr f.sreg).toNat + bits f.imm.toNat 5 6) % 64)

/-- The place of element `e` of a slice (R45, R154). -/
def sliceAt (rc : Bool) (ix e : Nat) : Nat := if rc then 64 * e + ix else 64 * ix + e

/-- What VLD does (R221). -/
def semVld (f : VF) : Sem :=
  laneLoad f 32 [] (fun v i => vOff v f + 4 * i)

/-- VLD (R221): Load a vector register from own scratchpad. -/
def execVld (f : VF) (s : State) : Out :=
  runOne (.vld f) 1 (semVld f) s

/-- What VST does (R221). -/
def semVst (f : VF) : Sem :=
  laneStore f 32 [] (fun v i => vOff v f + 4 * i)

/-- VST (R221): Store the enabled lanes of a vector register. -/
def execVst (f : VF) (s : State) : Out :=
  runOne (.vst f) 1 (semVst f) s

/-- What VLDM does (R222). -/
def semVldm (f : VF) : Sem :=
  unitOnly (fun v =>
  let o := vOff v f
  let ds := (List.range (bits f.c.toNat 0 5 + 1)).map (fun j => f.d.toNat + j)
  { wr := ds.map hV
    gate := [hS f.sreg.toNat]
    acc := [(false, o, 512 * ds.length)]
    chk := needRange (decide (o + 512 * ds.length ≤ unitSize)) o
    eff := fun t => (ds.mapIdx (fun j d => (j, d))).foldl (fun t p =>
      let x := loadVal v (o + 512 * p.1) 512
      putResult t v.g v.core (hV p.2) 6 (BitVec.ofNat 4096 x.1) [hS f.sreg.toNat] x.2 0) (touchChip t (v.base + o) (512 * ds.length)) })

/-- VLDM (R222): Load consecutive vector registers. -/
def execVldm (f : VF) (s : State) : Out :=
  runOne (.vldm f) 1 (semVldm f) s

/-- What VSTM does (R222). -/
def semVstm (f : VF) : Sem :=
  unitOnly (fun v =>
  let o := vOff v f
  let ds := (List.range (bits f.c.toNat 0 5 + 1)).map (fun j => f.d.toNat + j)
  { gate := hS f.sreg.toNat :: ds.map hV
    acc := [(true, o, 512 * ds.length)]
    chk := ((needRange (decide (o + 512 * ds.length ≤ unitSize)) o).unless (regPsn v f.sreg)).and
      ((ds.foldl (fun (c : Chk) d => c.and (psnOf (vecPsn v d) 1 d)) {}).and (psnOf (regPsn v f.sreg) 0 f.sreg.toNat))
    eff := fun t => modMem t (fun m => writeImg m (v.base + o) (ds.flatMap (fun d => (vecBytes (rdV v.u d)).map (fun b => (b, false))))) })

/-- VSTM (R222): Store consecutive vector registers. -/
def execVstm (f : VF) (s : State) : Out :=
  runOne (.vstm f) 1 (semVstm f) s

/-- What VGTH does (R223). -/
def semVgth (f : VF) : Sem :=
  laneLoad f (tyWidth f.ty.toNat) [f.a.toNat] (fun v i =>
    vOff v f + ((lanes (tyWidth f.ty.toNat) (vsrc v f f.a.toNat)).getD i 0) * (tyWidth f.ty.toNat / 8))

/-- VGTH (R223): Gather lanes from indexed addresses. -/
def execVgth (f : VF) (s : State) : Out :=
  runOne (.vgth f) 1 (semVgth f) s

/-- What VSCT does (R223). -/
def semVsct (f : VF) : Sem :=
  laneStore f (tyWidth f.ty.toNat) [f.a.toNat] (fun v i =>
    vOff v f + ((lanes (tyWidth f.ty.toNat) (vsrc v f f.a.toNat)).getD i 0) * (tyWidth f.ty.toNat / 8))

/-- VSCT (R223): Scatter lanes to indexed addresses. -/
def execVsct (f : VF) (s : State) : Out :=
  runOne (.vsct f) 1 (semVsct f) s

/-- What QLD does (R224). -/
def semQld (f : VF) : Sem :=
  qldSem f 0

/-- QLD (R224): Start a tagged read into an operand queue. -/
def execQld (f : VF) (s : State) : Out :=
  runOne (.qld f) 1 (semQld f) s

/-- What QLD_Z1 does (R225). -/
def semQldZ1 (f : VF) : Sem :=
  qldSem f 1

/-- QLD_Z1 (R225): Start a tagged read that expands a slot of codec 01. -/
def execQldZ1 (f : VF) (s : State) : Out :=
  runOne (.qldZ1 f) 1 (semQldZ1 f) s

/-- What QLD_Z2 does (R225). -/
def semQldZ2 (f : VF) : Sem :=
  qldSem f 2

/-- QLD_Z2 (R225): Start a tagged read that expands a slot of codec 10. -/
def execQldZ2 (f : VF) (s : State) : Out :=
  runOne (.qldZ2 f) 1 (semQldZ2 f) s

/-- What VTRD does (R226). -/
def semVtrd (f : VF) : Sem :=
  unitOnly (fun v =>
  let (t0, rc, ix) := sliceOf v f
  let d := hV f.d.toNat
  let rows := if rc then List.range 64 else [ix]
  let tl := touchRows (sget {} v.u.tiles t0) rows
  { wr := [d]
    tiles := [t0]
    eff := fun t =>
      let t := match v.g with
        | .unit k => modUnit t k.toNat (fun u => { u with tiles := smod {} u.tiles t0 (fun tl => touchRows tl rows) })
        | .lantern _ => t
      let src := (List.range 64).map (fun e => (sget 0 tl.el (sliceAt rc ix e)).toNat) ++ List.replicate 64 0
      let r := mergeLanes (fun r => (arg r 0, 0)) (f.mz == 1) (laneOn v f 32) (lanes 32 (rdV v.u f.d.toNat)) (src.map (fun x => [x]))
      putResult t v.g v.core d 4 (ofLanes 32 r.1) (hS f.sreg.toNat :: maskHs f d) (rows.any (fun i => tl.poison.getLsbD i)) 0 })

/-- VTRD (R226): Read a tile row or column into a vector register. -/
def execVtrd (f : VF) (s : State) : Out :=
  runOne (.vtrd f) 1 (semVtrd f) s

/-- What VTWR does (R226). -/
def semVtwr (f : VF) : Sem :=
  unitOnly (fun v =>
  let (t0, rc, ix) := sliceOf v f
  let xs := [f.a.toNat]
  let x := metaOf v.core (hS f.sreg.toNat :: srcHs f xs ++ (if f.mask = 0 then [] else [hM f.mask.toNat]))
  let en := (laneOn v f 32).take 64
  { tiles := [t0]
    pops := srcPops xs
    eff := fun t => match v.g with
      | .lantern _ => t
      | .unit k => modUnit t k.toNat (fun u => { u with flight := u.flight ++ [{
          cls := 3, reg := t0 + (if rc then 16 else 0), val := vsrc v f f.a.toNat, r := 4, tags := [], sat := false
          poison := x.poison || srcPsn v xs, order := u.bundle
          emask := BitVec.ofNat 64 ((en.mapIdx (fun i e => (i, e))).foldl (fun a p => if p.2 then a + 2 ^ p.1 else a) 0)
          mz := f.mz == 1, idx := ix, rc := rc, flags := 0 }] }) })

/-- VTWR (R226): Write a vector register into a tile row or column. -/
def execVtwr (f : VF) (s : State) : Out :=
  runOne (.vtwr f) 1 (semVtwr f) s

/-- TAGGED_READ_ARRIVAL (R68, R72): the value of command j of a UCE queue, of access j of a Lantern core, or of the QLD of
read number j; with arg.flag = 0, parts of that QLD are performed before it arrives (R66). -/
def execTaggedReadArrival (s : State) : Out :=
  .next (match s.arg.eng with
  | .stream k => if s.arg.flag then qldArrive s k.toNat s.arg.j else qldPull s k.toNat s.arg.j
  | .lantern m => accStep s m.toNat s.arg.j
  | .uce _ _ => uceReadArrival s
  | _ => s)

end Sys2Proof.Machine
end

