-- ==== Sys2Proof/Machine/VecMove.lean ====
section
/-! DEFINITION. Vector conversion, permutation, moves, prefixes, reductions, compares and mask operations (spec 12 R211 to R220). -/

namespace Sys2Proof.Machine

/-! ## Conversion -/

/-- VCVT (R211). -/
def cvtVec (f : VF) (a : Vec) : Vec × Flags :=
  let s := bits f.imm.toNat 11 5
  let t := bits f.imm.toNat 6 5
  let bs := fmtW s
  let bt := fmtW t
  let rs := ((lanes bs a).take (4096 / max bs bt)).map (fun e => roundTo t (valOf s e) f.rm.toNat)
  (ofLanes bt (rs.map Prod.fst), rs.foldl (fun x r => x ||| r.2) 0)

/-- VRQ (R212, R130). -/
def rqVec (f : VF) (a b c : Vec) : Vec × Flags :=
  let g1 := fmtBase (bits f.imm.toNat 11 5)
  let g2 := fmtBase (bits f.imm.toNat 6 5)
  let bs := fmtW g1
  let bt := fmtW g2
  let nb := 4096 / (24 * max bs bt)
  let es := (lanes bs a).take (24 * nb)
  let rs := (List.range nb).flatMap (fun k =>
    ((es.drop (24 * k)).take 24).map (fun e =>
      requant g1 (bits b.toNat (8 * k) 8) g2 (bits c.toNat (8 * k) 8) e f.rm.toNat))
  (ofLanes bt (rs.map Prod.fst), rs.foldl (fun x r => x ||| r.2) 0)

/-! ## Permutation -/

/-- A permute (R214): lane i of the result is the lane of cat that `g` picks; `g` is given a lane list for every source. -/
def permSem (f : VF) (srcs : List (BitVec 6)) (g : Nat → List (List Nat) → List Nat) : Sem :=
  let w := tyWidth f.ty.toNat
  laneForm f srcs w 3 (fun v => (g (4096 / w) (srcs.map (fun x => lanes w (vsrc v f x.toNat)))).map (fun x => [x]))
    (fun r => (arg r 0, 0))

/-- The lanes of source `n`. -/
def ln (ls : List (List Nat)) (n : Nat) : List Nat := ls.getD n []
/-- Lane 0 of source `n` (R214). -/
def ln0 (ls : List (List Nat)) (n : Nat) : Nat := (ln ls n).getD 0 0
/-- a and b side by side (R214). -/
def cat (ls : List (List Nat)) : List Nat := ln ls 0 ++ ln ls 1
/-- Lanes of `l` at given indices. -/
def pick (l : List Nat) (ix : List Nat) : List Nat := let a := l.toArray; ix.map (fun i => a.getD i 0)

/-- Bit j of the result is the exclusive or of bits 0 to j (R217). -/
def prefixXor (a : Vec) : Vec := (List.range 12).foldl (fun x k => x ^^^ (x <<< (2 ^ k))) a

/-- VPSUM (R217). -/
def psumLanes (w : Nat) (mz : Bool) : Nat → List Bool → List Nat → List Nat → List Nat
  | acc, e :: es, o :: os, a :: as =>
    if e then let s := (acc + a) % 2 ^ w; s :: psumLanes w mz s es os as
    else (if mz then 0 else o) :: psumLanes w mz acc es os as
  | _, _, _, _ => []

/-! ## Reductions -/

/-- The enabled lanes of a source, each with its index. -/
def onLanes (v : View) (f : VF) : List (Nat × Nat) :=
  let w := tyWidth f.ty.toNat
  ((lanes w (vsrc v f f.a.toNat)).mapIdx (fun i x => (i, x))).zip (laneOn v f w) |>.filterMap (fun p => if p.2 then some p.1 else none)

/-- A reduction (R218): its value below the index, every other bit zero. -/
def redSem (f : VF) (g : List (Nat × Nat) → (Nat × Option Nat) × Flags) : Sem := unitOnly (fun v =>
  let xs := [f.a.toNat]
  { wr := [hV f.d.toNat]
    pops := srcPops xs
    eff := fun t =>
      let r := g (onLanes v f)
      putResult t v.g v.core (hV f.d.toNat) (if tyFloat f.ty.toNat then 6 else 4)
        (BitVec.ofNat 4096 (r.1.1 + (r.1.2.getD 0) % 2 ^ 32 * 2 ^ 32))
        (srcHs f xs ++ maskHs f (hV f.d.toNat)) (srcPsn v xs) r.2 })

/-- VRADD (R218). -/
def sumRed (f : VF) (l : List (Nat × Nat)) : (Nat × Option Nat) × Flags :=
  let ty := f.ty.toNat
  if tyFloat ty then
    let r := if l.isEmpty then (0, 0) else flSum (tyFmt ty) f.rm.toNat (l.map (fun p => some (valOf (tyFmt ty) p.2)))
    ((r.1, none), r.2)
  else ((l.foldl (fun a p => a + p.2) 0 % 2 ^ tyWidth ty, none), 0)

/-- VRMIN, VRMAX and their index forms (R218). -/
def minRed (f : VF) (mx ix : Bool) (l : List (Nat × Nat)) : (Nat × Option Nat) × Flags :=
  let ty := f.ty.toNat
  let c := tyFmt ty
  let better := fun (y x : Nat) => if tyFloat ty then (if mx then (valOf c x).lt0 (valOf c y) else (valOf c y).lt0 (valOf c x))
    else (if mx then decide (tv ty x < tv ty y) else decide (tv ty y < tv ty x))
  let out := fun (x i : Nat) => ((x, if ix then some i else none), (0 : Flags))
  match (if tyFloat ty then l.find? (fun p => valOf c p.2 == .nan) else none) with
  | some p => out (canonNan c) p.1
  | none =>
    match l with
    | [] => out (if tyFloat ty then (roundTo c (.inf (mx)) 0).1 else wrap (if mx then tLo ty else tHi ty) (tyWidth ty)) 0xFFFFFFFF
    | p :: r => let q := r.foldl (fun q y => if better y.2 q.2 then y else q) p; out q.2 q.1

/-! ## Compares -/

/-- The predicates of R219 over one pair of lanes, from equality and order. -/
def cmpLane (ty : Nat) (p : Bool → Bool → Bool → Bool) (x y : Nat) : Bool :=
  if tyFloat ty then
    let a := valOf (tyFmt ty) x
    let b := valOf (tyFmt ty) y
    if a == .nan || b == .nan then p true false false else p false (!a.lt b && !b.lt a) (a.lt b)
  else p false (decide (tv ty x = tv ty y)) (decide (tv ty x < tv ty y))

/-- A compare (R219): into a vector register all ones or zero by lane, into a mask register the AND of the lanes of each
32-bit position. `p` takes unordered, equal, less. -/
def cmpSem (f : VF) (p : Bool → Bool → Bool → Bool) : Sem :=
  let ty := f.ty.toNat
  let w := tyWidth ty
  let lat := if tyFloat ty then 3 else 2
  if f.d.toNat < 0x20 then
    laneSem f [f.a, f.b] lat (bitLane (fun x => if cmpLane ty p (x 0) (x 1) then 2 ^ w - 1 else 0))
  else unitOnly (fun v =>
    let xs := [f.a.toNat, f.b.toNat]
    let n := f.d.toNat - 0x30
    { wr := [hM n]
      pops := srcPops xs
      eff := fun t =>
        let rs := (List.zipWith (fun x y => cmpLane ty p x y) (lanes w (vsrc v f f.a.toNat)) (lanes w (vsrc v f f.b.toNat)))
        let k := 32 / w
        let en := rdM v.u f.mask.toNat
        let old := rdM v.u n
        let bit1 := fun (i : Nat) =>
          if en.getLsbD i then ((rs.drop (k * i)).take k).all id else (if f.mz = 1 then false else old.getLsbD i)
        let r := (List.range 128).foldl (fun a i => if bit1 i then a + 2 ^ i else a) 0
        putResult t v.g v.core (hM n) lat (BitVec.ofNat 4096 r) (srcHs f xs ++ maskHs f (hM n)) (srcPsn v xs) 0 })

/-- A mask operation (R220). -/
def maskSem (f : VF) (srcs : List (BitVec 6)) (g : BitVec 128 → BitVec 128 → BitVec 128) : Sem := unitOnly (fun v =>
  let rd := fun (x : BitVec 6) => rdM v.u (x.toNat - 0x30)
  let n := f.d.toNat - 0x30
  { wr := [hM n]
    eff := fun t => putResult t v.g v.core (hM n) 2 ((g (rd f.a) (rd f.b)).setWidth 4096) (srcHs f (srcs.map (fun x => x.toNat))) false 0 })

/-- What VCVT does (R211). -/
def semVcvt (f : VF) : Sem :=
  wholeSem f [f.a] 4 (fun v => cvtVec f (vsrc v f f.a.toNat))

/-- VCVT (R211): Convert elements between two unscaled formats. -/
def execVcvt (f : VF) (s : State) : Out :=
  runOne (.vcvt f) 1 (semVcvt f) s

/-- What VRQ does (R212). -/
def semVrq (f : VF) : Sem :=
  wholeSem f [f.a, f.b, f.c] 4 (fun v => rqVec f (vsrc v f f.a.toNat) (vsrc v f f.b.toNat) (vsrc v f f.c.toNat))

/-- VRQ (R212): Requantise blocks of 24 elements between scales. -/
def execVrq (f : VF) (s : State) : Out :=
  runOne (.vrq f) 1 (semVrq f) s

/-- What VWIDEN_LO does (R213). -/
def semVwidenLo (f : VF) : Sem :=
  let w := tyWidth f.ty.toNat
  laneForm f [f.a] (2 * w) 3 (fun v => ((lanes w (vsrc v f f.a.toNat)).take (2048 / w)).map (fun x => [x]))
    (bitLane (fun x => wrap (tv f.ty.toNat (x 0)) (2 * w)))

/-- VWIDEN_LO (R213): Widen the low half of integer lanes. -/
def execVwidenLo (f : VF) (s : State) : Out :=
  runOne (.vwidenLo f) 1 (semVwidenLo f) s

/-- What VWIDEN_HI does (R213). -/
def semVwidenHi (f : VF) : Sem :=
  let w := tyWidth f.ty.toNat
  laneForm f [f.a] (2 * w) 3 (fun v => ((lanes w (vsrc v f f.a.toNat)).drop (2048 / w)).map (fun x => [x]))
    (bitLane (fun x => wrap (tv f.ty.toNat (x 0)) (2 * w)))

/-- VWIDEN_HI (R213): Widen the high half of integer lanes. -/
def execVwidenHi (f : VF) (s : State) : Out :=
  runOne (.vwidenHi f) 1 (semVwidenHi f) s

/-- What VNARROW does (R213). -/
def semVnarrow (f : VF) : Sem :=
  let ty := f.ty.toNat
  let w := tyWidth ty
  laneForm f [f.a, f.b] (w / 2) 3
    (fun v => (lanes w (vsrc v f f.a.toNat) ++ lanes w (vsrc v f f.b.toNat)).map (fun x => [x]))
    (bitLane (fun x => wrap (clampI (tv ty (x 0)) (intLo (w / 2) (tySigned ty)) (intHi (w / 2) (tySigned ty))) (w / 2)))

/-- VNARROW (R213): Narrow two registers of integer lanes with clamping. -/
def execVnarrow (f : VF) (s : State) : Out :=
  runOne (.vnarrow f) 1 (semVnarrow f) s

/-- What VPERM does (R214). -/
def semVperm (f : VF) : Sem :=
  permSem f [f.a, f.b] (fun n ls => pick (ln ls 0) ((ln ls 1).map (fun i => i % n)))

/-- VPERM (R214): Permute lanes by index. -/
def execVperm (f : VF) (s : State) : Out :=
  runOne (.vperm f) 1 (semVperm f) s

/-- What VPERM2 does (R214). -/
def semVperm2 (f : VF) : Sem :=
  permSem f [f.a, f.b, f.c] (fun n ls => pick (cat ls) ((ln ls 2).map (fun i => i % (2 * n))))

/-- VPERM2 (R214): Permute lanes of two registers by index. -/
def execVperm2 (f : VF) (s : State) : Out :=
  runOne (.vperm2 f) 1 (semVperm2 f) s

/-- What VROT does (R214). -/
def semVrot (f : VF) : Sem :=
  permSem f [f.a, f.b] (fun n ls => pick (ln ls 0) ((List.range n).map (fun i => (i + ln0 ls 1 % n) % n)))

/-- VROT (R214): Rotate lanes. -/
def execVrot (f : VF) (s : State) : Out :=
  runOne (.vrot f) 1 (semVrot f) s

/-- What VSLIDE does (R214). -/
def semVslide (f : VF) : Sem :=
  permSem f [f.a, f.b, f.c] (fun n ls => pick (cat ls) ((List.range n).map (fun i => (i + ln0 ls 2 % (2 * n)) % (2 * n))))

/-- VSLIDE (R214): Slide lanes across two registers. -/
def execVslide (f : VF) (s : State) : Out :=
  runOne (.vslide f) 1 (semVslide f) s

/-- What VZIP_LO does (R214). -/
def semVzipLo (f : VF) : Sem :=
  permSem f [f.a, f.b] (fun n ls => pick (cat ls) ((List.range n).map (fun i => if i % 2 = 0 then i / 2 else n + i / 2)))

/-- VZIP_LO (R214): Interleave the low halves of two registers. -/
def execVzipLo (f : VF) (s : State) : Out :=
  runOne (.vzipLo f) 1 (semVzipLo f) s

/-- What VZIP_HI does (R214). -/
def semVzipHi (f : VF) : Sem :=
  permSem f [f.a, f.b] (fun n ls => pick (cat ls) ((List.range n).map (fun i => if i % 2 = 0 then i / 2 + n / 2 else n + i / 2 + n / 2)))

/-- VZIP_HI (R214): Interleave the high halves of two registers. -/
def execVzipHi (f : VF) (s : State) : Out :=
  runOne (.vzipHi f) 1 (semVzipHi f) s

/-- What VUNZIP_E does (R214). -/
def semVunzipE (f : VF) : Sem :=
  permSem f [f.a, f.b] (fun n ls => pick (cat ls) ((List.range n).map (fun i => 2 * i)))

/-- VUNZIP_E (R214): Take the even lanes of two registers. -/
def execVunzipE (f : VF) (s : State) : Out :=
  runOne (.vunzipE f) 1 (semVunzipE f) s

/-- What VUNZIP_O does (R214). -/
def semVunzipO (f : VF) : Sem :=
  permSem f [f.a, f.b] (fun n ls => pick (cat ls) ((List.range n).map (fun i => 2 * i + 1)))

/-- VUNZIP_O (R214): Take the odd lanes of two registers. -/
def execVunzipO (f : VF) (s : State) : Out :=
  runOne (.vunzipO f) 1 (semVunzipO f) s

/-- What VBCAST does (R214). -/
def semVbcast (f : VF) : Sem :=
  permSem f [f.a, f.b] (fun n ls => pick (ln ls 0) (List.replicate n (ln0 ls 1 % n)))

/-- VBCAST (R214): Broadcast one lane to every lane. -/
def execVbcast (f : VF) (s : State) : Out :=
  runOne (.vbcast f) 1 (semVbcast f) s

/-- What VMOV does (R215). -/
def semVmov (f : VF) : Sem :=
  laneSem f [f.a] 2 (bitLane (fun x => x 0))

/-- VMOV (R215): Move a register or broadcast. -/
def execVmov (f : VF) (s : State) : Out :=
  runOne (.vmov f) 1 (semVmov f) s

/-- What VEXT does (R215). -/
def semVext (f : VF) : Sem :=
  unitOnly (fun v =>
  let ty := f.ty.toNat
  let w := tyWidth ty
  let xs := [f.a.toNat, f.b.toNat]
  let l := lanes w (vsrc v f f.a.toNat)
  let x := l.getD ((lanes w (vsrc v f f.b.toNat)).getD 0 0 % (4096 / w)) 0
  { wr := [hS f.sreg.toNat]
    pops := srcPops xs
    eff := fun t => putResult t v.g v.core (hS f.sreg.toNat) 3 (BitVec.ofNat 4096 (wrap (tv ty x) 64)) (srcHs f xs) (srcPsn v xs) 0 })

/-- VEXT (R215): Extract one lane into a scalar register. -/
def execVext (f : VF) (s : State) : Out :=
  runOne (.vext f) 1 (semVext f) s

/-- What VINS does (R215). -/
def semVins (f : VF) : Sem :=
  unitOnly (fun v =>
  let w := tyWidth f.ty.toNat
  let xs := [f.b.toNat]
  let i := (lanes w (vsrc v f f.b.toNat)).getD 0 0 % (4096 / w)
  { wr := [hV f.d.toNat]
    pops := srcPops xs
    eff := fun t => putResult t v.g v.core (hV f.d.toNat) 2
      (ofLanes w ((lanes w (rdV v.u f.d.toNat)).set i ((v.sr f.sreg).toNat % 2 ^ w)))
      ([hV f.d.toNat, hS f.sreg.toNat] ++ srcHs f xs) (srcPsn v xs) 0 })

/-- VINS (R215): Insert a scalar into one lane. -/
def execVins (f : VF) (s : State) : Out :=
  runOne (.vins f) 1 (semVins f) s

/-- What VPXOR does (R217). -/
def semVpxor (f : VF) : Sem :=
  unitOnly (fun v =>
  let xs := [f.a.toNat]
  let p := prefixXor (vsrc v f f.a.toNat)
  { wr := [hV f.d.toNat]
    pops := srcPops xs
    eff := fun t => putResult t v.g v.core (hV f.d.toNat) 3 (if bit (v.sr f.sreg).toNat 0 then ~~~ p else p)
      (hS f.sreg.toNat :: srcHs f xs) (srcPsn v xs) 0 })

/-- VPXOR (R217): Prefix exclusive or over the whole register. -/
def execVpxor (f : VF) (s : State) : Out :=
  runOne (.vpxor f) 1 (semVpxor f) s

/-- What VPSUM does (R217). -/
def semVpsum (f : VF) : Sem :=
  unitOnly (fun v =>
  let w := tyWidth f.ty.toNat
  let xs := [f.a.toNat, f.b.toNat]
  let d := hV f.d.toNat
  { wr := [d]
    pops := srcPops xs
    eff := fun t => putResult t v.g v.core d 4
      (ofLanes w (psumLanes w (f.mz == 1) ((lanes w (vsrc v f f.b.toNat)).getD 0 0) (laneOn v f w) (lanes w (rdV v.u f.d.toNat))
        (lanes w (vsrc v f f.a.toNat))))
      (srcHs f xs ++ maskHs f d) (srcPsn v xs) 0 })

/-- VPSUM (R217): Inclusive prefix sum over lanes. -/
def execVpsum (f : VF) (s : State) : Out :=
  runOne (.vpsum f) 1 (semVpsum f) s

/-- What VRADD does (R218). -/
def semVradd (f : VF) : Sem :=
  redSem f (sumRed f)

/-- VRADD (R218): Reduce enabled lanes by sum. -/
def execVradd (f : VF) (s : State) : Out :=
  runOne (.vradd f) 1 (semVradd f) s

/-- What VRMIN does (R218). -/
def semVrmin (f : VF) : Sem :=
  redSem f (minRed f false false)

/-- VRMIN (R218): Reduce enabled lanes by minimum. -/
def execVrmin (f : VF) (s : State) : Out :=
  runOne (.vrmin f) 1 (semVrmin f) s

/-- What VRMAX does (R218). -/
def semVrmax (f : VF) : Sem :=
  redSem f (minRed f true false)

/-- VRMAX (R218): Reduce enabled lanes by maximum. -/
def execVrmax (f : VF) (s : State) : Out :=
  runOne (.vrmax f) 1 (semVrmax f) s

/-- What VRXOR does (R218). -/
def semVrxor (f : VF) : Sem :=
  redSem f (fun l => ((l.foldl (fun a p => Nat.xor a p.2) 0, none), 0))

/-- VRXOR (R218): Reduce enabled lanes by exclusive or. -/
def execVrxor (f : VF) (s : State) : Out :=
  runOne (.vrxor f) 1 (semVrxor f) s

/-- What VRMINI does (R218). -/
def semVrmini (f : VF) : Sem :=
  redSem f (minRed f false true)

/-- VRMINI (R218): Reduce to minimum with its lowest lane index. -/
def execVrmini (f : VF) (s : State) : Out :=
  runOne (.vrmini f) 1 (semVrmini f) s

/-- What VRMAXI does (R218). -/
def semVrmaxi (f : VF) : Sem :=
  redSem f (minRed f true true)

/-- VRMAXI (R218): Reduce to maximum with its lowest lane index. -/
def execVrmaxi (f : VF) (s : State) : Out :=
  runOne (.vrmaxi f) 1 (semVrmaxi f) s

/-- What VCEQ does (R219). -/
def semVceq (f : VF) : Sem :=
  cmpSem f (fun _ e _ => e)

/-- VCEQ (R219): Compare lanes for equality. -/
def execVceq (f : VF) (s : State) : Out :=
  runOne (.vceq f) 1 (semVceq f) s

/-- What VCNE does (R219). -/
def semVcne (f : VF) : Sem :=
  cmpSem f (fun _ e _ => !e)

/-- VCNE (R219): Compare lanes for inequality. -/
def execVcne (f : VF) (s : State) : Out :=
  runOne (.vcne f) 1 (semVcne f) s

/-- What VCLT does (R219). -/
def semVclt (f : VF) : Sem :=
  cmpSem f (fun _ _ l => l)

/-- VCLT (R219): Compare lanes for less than. -/
def execVclt (f : VF) (s : State) : Out :=
  runOne (.vclt f) 1 (semVclt f) s

/-- What VCLE does (R219). -/
def semVcle (f : VF) : Sem :=
  cmpSem f (fun _ e l => e || l)

/-- VCLE (R219): Compare lanes for less or equal. -/
def execVcle (f : VF) (s : State) : Out :=
  runOne (.vcle f) 1 (semVcle f) s

/-- What VCGT does (R219). -/
def semVcgt (f : VF) : Sem :=
  cmpSem f (fun u e l => !u && !e && !l)

/-- VCGT (R219): Compare lanes for greater than. -/
def execVcgt (f : VF) (s : State) : Out :=
  runOne (.vcgt f) 1 (semVcgt f) s

/-- What VCGE does (R219). -/
def semVcge (f : VF) : Sem :=
  cmpSem f (fun u _ l => !u && !l)

/-- VCGE (R219): Compare lanes for greater or equal. -/
def execVcge (f : VF) (s : State) : Out :=
  runOne (.vcge f) 1 (semVcge f) s

/-- What VCUN does (R219). -/
def semVcun (f : VF) : Sem :=
  cmpSem f (fun u _ _ => u)

/-- VCUN (R219): Compare float lanes for unordered. -/
def execVcun (f : VF) (s : State) : Out :=
  runOne (.vcun f) 1 (semVcun f) s

/-- What VSEL does (R220). -/
def semVsel (f : VF) : Sem :=
  unitOnly (fun v =>
  let w := tyWidth f.ty.toNat
  let xs := [f.a.toNat, f.b.toNat]
  { wr := [hV f.d.toNat]
    pops := srcPops xs
    eff := fun t => putResult t v.g v.core (hV f.d.toNat) 2
      (ofLanes w ((List.zipWith (fun e p => if e then p.1 else p.2) (laneOn v f w)
        ((lanes w (vsrc v f f.a.toNat)).zip (lanes w (vsrc v f f.b.toNat))))))
      (srcHs f xs ++ maskHs f (hV f.d.toNat)) (srcPsn v xs) 0 })

/-- VSEL (R220): Select lanes by mask. -/
def execVsel (f : VF) (s : State) : Out :=
  runOne (.vsel f) 1 (semVsel f) s

/-- What MAND does (R220). -/
def semMand (f : VF) : Sem :=
  maskSem f [f.a, f.b] (fun x y => x &&& y)

/-- MAND (R220): And two mask registers. -/
def execMand (f : VF) (s : State) : Out :=
  runOne (.mand f) 1 (semMand f) s

/-- What MOR does (R220). -/
def semMor (f : VF) : Sem :=
  maskSem f [f.a, f.b] (fun x y => x ||| y)

/-- MOR (R220): Or two mask registers. -/
def execMor (f : VF) (s : State) : Out :=
  runOne (.mor f) 1 (semMor f) s

/-- What MXOR does (R220). -/
def semMxor (f : VF) : Sem :=
  maskSem f [f.a, f.b] (fun x y => x ^^^ y)

/-- MXOR (R220): Exclusive or two mask registers. -/
def execMxor (f : VF) (s : State) : Out :=
  runOne (.mxor f) 1 (semMxor f) s

/-- What MANDN does (R220). -/
def semMandn (f : VF) : Sem :=
  maskSem f [f.a, f.b] (fun x y => x &&& ~~~ y)

/-- MANDN (R220): And a mask with the complement of another. -/
def execMandn (f : VF) (s : State) : Out :=
  runOne (.mandn f) 1 (semMandn f) s

/-- What MNOT does (R220). -/
def semMnot (f : VF) : Sem :=
  maskSem f [f.a] (fun x _ => ~~~ x)

/-- MNOT (R220): Complement a mask register. -/
def execMnot (f : VF) (s : State) : Out :=
  runOne (.mnot f) 1 (semMnot f) s

end Sys2Proof.Machine
end

