-- ==== Sys2Proof/Machine/Issue.lean ====
section
/-! DEFINITION. Fetch and issue: the bundle of a unit, the word of a Lantern core, results in flight and the divider (spec 09 R143 to R160, 02 R24, R44, 15 R279, R280). -/

namespace Sys2Proof.Machine

/-- What each slot word and Lantern word does; none for an event, a command or a packet. -/
def semOf (i : Instr) : Option Sem :=
  match i with
  | .add d a b => some (semAdd d a b)
  | .sub d a b => some (semSub d a b)
  | .and d a b => some (semAnd d a b)
  | .or d a b => some (semOr d a b)
  | .xor d a b => some (semXor d a b)
  | .andn d a b => some (semAndn d a b)
  | .orn d a b => some (semOrn d a b)
  | .xnor d a b => some (semXnor d a b)
  | .shl d a b => some (semShl d a b)
  | .shr d a b => some (semShr d a b)
  | .sra d a b => some (semSra d a b)
  | .ror d a b => some (semRor d a b)
  | .slt d a b => some (semSlt d a b)
  | .sltu d a b => some (semSltu d a b)
  | .min d a b => some (semMin d a b)
  | .max d a b => some (semMax d a b)
  | .minu d a b => some (semMinu d a b)
  | .maxu d a b => some (semMaxu d a b)
  | .clz d a => some (semClz d a)
  | .ctz d a => some (semCtz d a)
  | .popc d a => some (semPopc d a)
  | .bswap d a => some (semBswap d a)
  | .mul d a b => some (semMul d a b)
  | .mulh d a b => some (semMulh d a b)
  | .mulhu d a b => some (semMulhu d a b)
  | .mulhsu d a b => some (semMulhsu d a b)
  | .div d a b => some (semDiv d a b)
  | .divu d a b => some (semDivu d a b)
  | .rem d a b => some (semRem d a b)
  | .remu d a b => some (semRemu d a b)
  | .addi d a imm => some (semAddi d a imm)
  | .andi d a imm => some (semAndi d a imm)
  | .ori d a imm => some (semOri d a imm)
  | .xori d a imm => some (semXori d a imm)
  | .slti d a imm => some (semSlti d a imm)
  | .sltiu d a imm => some (semSltiu d a imm)
  | .shli d a n => some (semShli d a n)
  | .shri d a n => some (semShri d a n)
  | .srai d a n => some (semSrai d a n)
  | .rori d a n => some (semRori d a n)
  | .lui d imm => some (semLui d imm)
  | .addpc d imm => some (semAddpc d imm)
  | .bfxu d a p l => some (semBfxu d a p l)
  | .bfxs d a p l => some (semBfxs d a p l)
  | .bfi d a p l => some (semBfi d a p l)
  | .ldB d a imm => some (semLdB d a imm)
  | .ldBu d a imm => some (semLdBu d a imm)
  | .ldH d a imm => some (semLdH d a imm)
  | .ldHu d a imm => some (semLdHu d a imm)
  | .ldW d a imm => some (semLdW d a imm)
  | .ldWu d a imm => some (semLdWu d a imm)
  | .ldD d a imm => some (semLdD d a imm)
  | .ldm d a n o => some (semLdm d a n o)
  | .stB d a imm => some (semStB d a imm)
  | .stH d a imm => some (semStH d a imm)
  | .stW d a imm => some (semStW d a imm)
  | .stD d a imm => some (semStD d a imm)
  | .stm d a n o => some (semStm d a n o)
  | .beq a b o => some (semBeq a b o)
  | .bne a b o => some (semBne a b o)
  | .blt a b o => some (semBlt a b o)
  | .bge a b o => some (semBge a b o)
  | .bltu a b o => some (semBltu a b o)
  | .bgeu a b o => some (semBgeu a b o)
  | .jal d o => some (semJal d o)
  | .jalr d a imm => some (semJalr d a imm)
  | .loop a => some (semLoop a)
  | .loopi imm => some (semLoopi imm)
  | .tjoin x y p q => some (semTjoin x y p q)
  | .tclr x p => some (semTclr x p)
  | .twait c x k => some (semTwait c x k)
  | .fence sc k => some (semFence sc k)
  | .csrr d c => some (semCsrr d c)
  | .csrw a c => some (semCsrw a c)
  | .trap c => some (semTrap c)
  | .eret => some semEret
  | .tail => some semTail
  | .dsetb d a => some (semDsetb d a)
  | .dsete d a k => some (semDsete d a k)
  | .dsets d a k => some (semDsets d a k)
  | .dseta d a => some (semDseta d a)
  | .dgetb d n => some (semDgetb d n)
  | .dgete d n k => some (semDgete d n k)
  | .dgets d n k => some (semDgets d n k)
  | .dgeta d n => some (semDgeta d n)
  | .dmov n n2 => some (semDmov n n2)
  | .daddb n a => some (semDaddb n a)
  | .dld n a imm => some (semDld n a imm)
  | .dldG n a imm => some (semDldG n a imm)
  | .dst n a imm => some (semDst n a imm)
  | .dstG n a imm => some (semDstG n a imm)
  | .ldg d a => some (semLdg d a)
  | .stg a b => some (semStg a b)
  | .amogAdd d a b => some (semAmogAdd d a b)
  | .amogSwp d a b => some (semAmogSwp d a b)
  | .amogCas d a b => some (semAmogCas d a b)
  | .lcp d a b => some (semLcp d a b)
  | .tdecl n b => some (semTdecl n b)
  | .trel a => some (semTrel a)
  | .post a => some (semPost a)
  | .postTry d a => some (semPostTry d a)
  | .postR a b => some (semPostR a b)
  | .postRtry d a b => some (semPostRtry d a b)
  | .tkwait a => some (semTkwait a)
  | .tksig a => some (semTksig a)
  | .tkrd d a => some (semTkrd d a)
  | .usig a => some (semUsig a)
  | .winq d k => some (semWinq d k)
  | .retry a => some (semRetry a)
  | .vadd f => some (semVadd f)
  | .vsub f => some (semVsub f)
  | .vmul f => some (semVmul f)
  | .vmulh f => some (semVmulh f)
  | .vfma f => some (semVfma f)
  | .vfms f => some (semVfms f)
  | .vfnma f => some (semVfnma f)
  | .vmac f => some (semVmac f)
  | .vand f => some (semVand f)
  | .vor f => some (semVor f)
  | .vxor f => some (semVxor f)
  | .vandn f => some (semVandn f)
  | .vshl f => some (semVshl f)
  | .vshr f => some (semVshr f)
  | .vsra f => some (semVsra f)
  | .vrshr f => some (semVrshr f)
  | .vadds f => some (semVadds f)
  | .vsubs f => some (semVsubs f)
  | .vmin f => some (semVmin f)
  | .vmax f => some (semVmax f)
  | .vabs f => some (semVabs f)
  | .vneg f => some (semVneg f)
  | .vabd f => some (semVabd f)
  | .vclz f => some (semVclz f)
  | .vpopc f => some (semVpopc f)
  | .vcvt f => some (semVcvt f)
  | .vrq f => some (semVrq f)
  | .vwidenLo f => some (semVwidenLo f)
  | .vwidenHi f => some (semVwidenHi f)
  | .vnarrow f => some (semVnarrow f)
  | .vperm f => some (semVperm f)
  | .vperm2 f => some (semVperm2 f)
  | .vrot f => some (semVrot f)
  | .vslide f => some (semVslide f)
  | .vzipLo f => some (semVzipLo f)
  | .vzipHi f => some (semVzipHi f)
  | .vunzipE f => some (semVunzipE f)
  | .vunzipO f => some (semVunzipO f)
  | .vbcast f => some (semVbcast f)
  | .vclmul f => some (semVclmul f)
  | .vclmulh f => some (semVclmulh f)
  | .vpxor f => some (semVpxor f)
  | .vpsum f => some (semVpsum f)
  | .vradd f => some (semVradd f)
  | .vrmin f => some (semVrmin f)
  | .vrmax f => some (semVrmax f)
  | .vrxor f => some (semVrxor f)
  | .vrmini f => some (semVrmini f)
  | .vrmaxi f => some (semVrmaxi f)
  | .vceq f => some (semVceq f)
  | .vcne f => some (semVcne f)
  | .vclt f => some (semVclt f)
  | .vcle f => some (semVcle f)
  | .vcgt f => some (semVcgt f)
  | .vcge f => some (semVcge f)
  | .vcun f => some (semVcun f)
  | .vsel f => some (semVsel f)
  | .mand f => some (semMand f)
  | .mor f => some (semMor f)
  | .mxor f => some (semMxor f)
  | .mandn f => some (semMandn f)
  | .mnot f => some (semMnot f)
  | .vmov f => some (semVmov f)
  | .vext f => some (semVext f)
  | .vins f => some (semVins f)
  | .vld f => some (semVld f)
  | .vst f => some (semVst f)
  | .vldm f => some (semVldm f)
  | .vstm f => some (semVstm f)
  | .vgth f => some (semVgth f)
  | .vsct f => some (semVsct f)
  | .qld f => some (semQld f)
  | .qldZ1 f => some (semQldZ1 f)
  | .qldZ2 f => some (semQldZ2 f)
  | .vtrd f => some (semVtrd f)
  | .vtwr f => some (semVtwr f)
  | .mmaQ f => some (semMmaQ f)
  | .mmaV f => some (semMmaV f)
  | .mmaR f => some (semMmaR f)
  | .wld f => some (semWld f)
  | .swap f => some (semSwap f)
  | .zero f => some (semZero f)
  | .drain f => some (semDrain f)
  | .drainZ1 f => some (semDrainZ1 f)
  | .drainZ2 f => some (semDrainZ2 f)
  | .cp f => some (semCp f)
  | .cpP f => some (semCpP f)
  | .cpBox f => some (semCpBox f)
  | .cpGth f => some (semCpGth f)
  | .cpSct f => some (semCpSct f)
  | .cpCvt f => some (semCpCvt f)
  | .cpZip f => some (semCpZip f)
  | .cpUnz f => some (semCpUnz f)
  | .cpXp f => some (semCpXp f)
  | .mcred f => some (semMcred f)
  | .amoAdd f => some (semAmoAdd f)
  | .amoAnd f => some (semAmoAnd f)
  | .amoOr f => some (semAmoOr f)
  | .amoXor f => some (semAmoXor f)
  | .amoMin f => some (semAmoMin f)
  | .amoMax f => some (semAmoMax f)
  | .amoMinu f => some (semAmoMinu f)
  | .amoMaxu f => some (semAmoMaxu f)
  | .amoSwp f => some (semAmoSwp f)
  | .amoCas f => some (semAmoCas f)
  | .amoFaddF32 f => some (semAmoFaddF32 f)
  | .amoFaddBf16 f => some (semAmoFaddBf16 f)
  | .amoFaddF16 f => some (semAmoFaddF16 f)
  | .sig f => some (semSig f)
  | .swait f => some (semSwait f)
  | .bpost f => some (semBpost f)
  | .bwait f => some (semBwait f)
  | .barrive f => some (semBarrive f)
  | .semrd f => some (semSemrd f)
  | .cpost f => some (semCpost f)
  | .ldr f => some (semLdr f)
  | .ldrV f => some (semLdrV f)
  | .str f => some (semStr f)
  | .strV f => some (semStrV f)
  | .bundleIssue => none
  | .resultLanding => none
  | .dividerFree => none
  | .taggedReadArrival => none
  | .commandHandOff => none
  | .deferredCheckTrap => none
  | .engineCommandStart => none
  | .engineTokenFire => none
  | .signalArrival => none
  | .chunkComplete => none
  | .commandComplete => none
  | .memorySideFault => none
  | .ringTrap => none
  | .unitTrap => none
  | .matrixCommandLeave => none
  | .mmaStep => none
  | .wldComplete => none
  | .mmaComplete => none
  | .drainComplete => none
  | .barrierWaitComplete => none
  | .swaitGrant => none
  | .instanceDrain => none
  | .taskDispatch => none
  | .postEntry => none
  | .overflowQueueEntry => none
  | .tokenWatch => none
  | .commitCopyStart => none
  | .commitCopyComplete => none
  | .taskFree => none
  | .gangSwitch => none
  | .contextRestore => none
  | .jobStart => none
  | .deferredReissue => none
  | .traceSample => none
  | .rpcFillComplete => none
  | .rpcEviction => none
  | .hostSnoop => none
  | .rpcWriteBack => none
  | .rpcInvalidate => none
  | .rpcWriteBackInvalidate => none
  | .rpcOpDone => none
  | .rangeStageWrite => none
  | .rangeCommit => none
  | .ringCmpWrite => none
  | .ringCmpSupply => none
  | .ringCmpPoison => none
  | .ringHeadWrite => none
  | .histClr => none
  | .tileStatusWrite => none
  | .doorbell => none
  | .tailWordWrite => none
  | .queueReset => none
  | .hostRegisterWrite => none
  | .queueUnbind => none
  | .commandFetch => none
  | .completionRecordWrite => none
  | .nop => none
  | .launch => none
  | .launchSwapIn => none
  | .launchComplete => none
  | .wait => none
  | .waitWakeup => none
  | .signal => none
  | .indirect => none
  | .place => none
  | .map => none
  | .unmap => none
  | .mapx => none
  | .unmapx => none
  | .unitResume => none
  | .unitAbort => none
  | .belfry => none
  | .mcgrp => none
  | .trace => none
  | .nvmeRd => none
  | .nvmeWr => none
  | .nvmeCompletion => none
  | .nvmeTimeout => none
  | .jobCreate => none
  | .jobDestroy => none
  | .keyLoad => none
  | .gang => none
  | .part => none
  | .rpcCfg => none
  | .nvmeAtt => none
  | .cxlMemRead => none
  | .cxlMemWrite => none
  | .rd => none
  | .wr => none
  | .amo => none
  | .fadd => none
  | .postPacket => none
  | .tkarm => none
  | .tksigPacket => none
  | .tkrdPacket => none
  | .mcreq => none
  | .red => none
  | .data => none
  | .ack => none
  | .requestTimeout => none
  | .belfrySlotBoundary => none
  | .linkBringup => none
  | .laneFailure => none
  | .peerReset => none
  | .hotSwapRemove => none
  | .powerGood => none
  | .attestationRequest => none
  | .liveUpdate => none
  | .powerCapSet => none
  | .thermalTrip => none
  | .postTimeout => none
  | .postAnswer => none
  | .ptpLossOfLock => none
  | .powerCapThrottling => none
  | .partitionDissolved => none

/-! ## Units -/

/-- The 32-bit word at word index `j` of fetched bytes. -/
def wordAt (b : List Byte) (j : Nat) : Nat := ofBytes ((b.drop (4 * j)).take 4)
/-- The 64-bit word at word index `j` (R144). -/
def dwordAt (b : List Byte) (j : Nat) : Nat := ofBytes ((b.drop (4 * j)).take 8)

/-- An instruction of a slot from its decoded word. -/
def slotIn (slot : Nat) (r : Except Nat Instr) : SlotIn :=
  match r with
  | .error n => ⟨slot, some n, fun _ => {}⟩
  | .ok i => match semOf i with
    | some f => ⟨slot, none, f⟩
    | none => ⟨slot, some 1, fun _ => {}⟩

/-- The slots of a bundle's bytes (R144): slot, first word. -/
def slotPlaces (present : Nat) : List (Nat × Nat) :=
  ((List.range 6).foldl (fun (p : List (Nat × Nat) × Nat) j =>
    if bit present j then (p.1 ++ [(j, p.2)], p.2 + (if j = 0 then 1 else 2)) else p) ([], 1)).1

/-- Decode a slot's word. -/
def slotOf (b : List Byte) (p : Nat × Nat) : SlotIn :=
  slotIn p.1 (match p.1 with
    | 0 => decodeS (BitVec.ofNat 32 (wordAt b p.2))
    | 1 | 2 => decodeV (BitVec.ofNat 64 (dwordAt b p.2))
    | 3 => decodeM (BitVec.ofNat 64 (dwordAt b p.2))
    | _ => decodeC (BitVec.ofNat 64 (dwordAt b p.2)))

/-- The header's own encoding case (R144, R158, R160). -/
def headerBad (h : Nat) : Option Nat :=
  let tw := bits h 25 5
  let item := fun (w : Nat) => !bit w 8 && decide (w ≠ 0)
  if bits h 30 2 ≠ 0 ∨ ¬ (tw = 0 ∨ tw = 1 ∨ 16 ≤ tw) then some 2
  else if item (bits h 6 9) || item (bits h 15 9) then some 3 else none

/-- A bundle from its bytes (R144, R160). -/
def bundleOf (addr : Nat) (b : List Byte) : Bun :=
  let h := wordAt b 0
  let item := fun (w : Nat) => if bit w 8 then [(bits w 3 5, bits w 1 2 + 1, bit w 0)] else []
  { addr := addr
    len := bunLen (bits h 0 6)
    loopend := bit h 24
    twait := bits h 25 5
    waits := item (bits h 6 9) ++ item (bits h 15 9)
    bad := headerBad h
    slots := (slotPlaces (bits h 0 6)).map (slotOf b) }

/-- The bundle at a unit's pc: its bytes with poison, cut at the end of the code store. -/
def fetchBundle (s : State) (k : Nat) : List (Byte × Bool) :=
  let u := getUnit s k
  let seen := (u.inst.map (fun i => i.codeAt)).getD 0
  let m := k / 8
  let n := min 4 (codeSize - u.core.pc)
  let hd := rdCode s m seen u.core.pc n
  let len := bunLen (bits (ofBytes (hd.map Prod.fst)) 0 6)
  rdCode s m seen u.core.pc (if n < 4 then n else min len (codeSize - u.core.pc))

/-- The errors that the fetch of the bundle at a unit's pc finds (R44, R47). -/
def bundleFound (s : State) (k : Nat) : State := touchChip s (codeBase (k / 8) + (getUnit s k).core.pc) (fetchBundle s k).length

/-- Whether the kernel header of the running instance has a reserved bit set (R155). -/
def kernelBad (s : State) (k : Nat) (n : Inst) : Bool :=
  decide (ofBytes ((rdCode s (k / 8) n.codeAt n.entry 4).map Prod.fst) % 1024 ≠ 0)

/-- Whether a unit issues: an instance runs and is not stopped (R304, R314, R317). -/
def issues (s : State) (k : Nat) : Bool :=
  let u := getUnit s k
  u.inst.isSome && u.stop.isNone && !ended s && !frozen s

/-- BUNDLE_ISSUE (R144 to R146, R155, R158, R44) of unit k in one clk: the bundle at its pc traps, stalls or issues. -/
def execBundleIssue (s : State) : Out :=
  let k := s.arg.k.toNat
  let u := getUnit s k
  .next (match u.inst with
  | none => s
  | some n =>
    if !issues s k then s
    else
      let b := fetchBundle s k
      let s := bundleFound s k
      if b.any (fun p => p.2) then unitTrap s k cPoison 0 0xFF u.core.pc false
      else if n.first && kernelBad s k n then unitTrap s k cIllegal 0 2 u.core.pc false
      else
        let d := bundleOf u.core.pc (b.map Prod.fst)
        bunRun s k (if b.length < d.len then { d with slots := [] } else d) (unitLink s k (codeAddr (u.core.pc + d.len))))

/-- RESULT_LANDING (R147, R149) in unit k: results whose bundles have issued are written. -/
def execResultLanding (s : State) : Out :=
  let k := s.arg.k.toNat
  .next (if issues s k then modUnit s k landDue else s)

/-- DIVIDER_FREE (R148) of unit k: the occupancy has ended. -/
def execDividerFree (s : State) : Out :=
  let k := s.arg.k.toNat
  .next (if (getUnit s k).divFree ≤ s.clk then modUnit s k (fun u => { u with divFree := 0 }) else s)

/-! ## Lantern cores -/

/-- Whether a Lantern core runs a word in this fclk. -/
def lanRuns (s : State) (m : Nat) : Bool := (getCl s m).lan.on && !ended s && !frozen s

/-- The word at a Lantern core's pc (R44): ILLEGAL or POISON of its fetch, or its instruction. -/
def lanFetch (s : State) (m : Nat) : Except (Nat × Nat) Instr :=
  let l := (getCl s m).lan
  let pc := l.core.pc
  if pc % 4 ≠ 0 ∨ codeSize < pc + 4 then .error (cIllegal, 0)
  else
    let b := lanCode s m pc 4
    if b.any (fun p => p.2) then .error (cPoison, 0xFF)
    else match decodeS (BitVec.ofNat 32 (ofBytes (b.map Prod.fst))) with
      | .ok i => .ok i
      | .error _ => .error (cIllegal, 0)

/-- The errors that the fetch of the word at a Lantern core's pc finds (R44, R47). -/
def wordFound (s : State) (m : Nat) : State :=
  let pc := (getCl s m).lan.core.pc
  if pc % 4 ≠ 0 ∨ codeSize < pc + 4 then s else touchChip s (codeBase m + pc) 4

/-- A word whose fetch fails traps (R44, R176). -/
def fetchTrap (s : State) (m : Nat) (t : Nat × Nat) : State :=
  let c := (getCl s m).lan.core
  lanTrap s m t.1 t.2 c.pc c.delay

/-- Whether the word at a Lantern core's pc takes a synchronous trap where it stands. -/
def lanTraps (s : State) (m : Nat) : Bool :=
  match lanFetch s m with
  | .error _ => true
  | .ok i => (semOf i).any (fun f => (lanCause s m (illegal i) (lanOut s m f)).isSome)

/-- A synchronous trap that falls at the boundary of a pre-emption is taken first (R313). -/
def syncFirst (s : State) (m : Nat) : State :=
  if !lanRuns s m then s
  else
    let t := wordFound s m
    let c := (getCl s m).lan.core
    match lanFetch s m with
    | .error x => fetchTrap t m x
    | .ok i => match semOf i with
      | some f =>
        let o := lanOut t m f
        match lanCause t m (illegal i) o with
        | some (cause, val) => lanTrap (touchAll t o.finds) m cause val c.pc c.delay
        | none => s
      | none => s

/-- Run the post that stands at a Lantern core's pc; any other word is left alone. -/
def postWord (s : State) (m : Nat) : State :=
  match lanFetch s m with
  | .ok (.post a) => lanRun s m none (semPost a)
  | .ok (.postR a b) => lanRun s m none (semPostR a b)
  | .ok (.postTry d a) => lanRun s m none (semPostTry d a)
  | .ok (.postRtry d a b) => lanRun s m none (semPostRtry d a b)
  | .ok (.tksig a) => lanRun s m none (semTksig a)
  | _ => s

/-- POST_TIMEOUT (R279, R280): a POST or POST.R of cluster m that has stalled for win.timeout looks once more and traps. -/
def execPostTimeout (s : State) : Out :=
  let m := s.arg.m.toNat
  .next (if lanRuns s m && postTimedOut (getCl s m).lan then postWord s m else s)

/-- POST_ANSWER (R280, R276): the answer to what the word of cluster m sent has come; the word completes, sends again or
traps. -/
def execPostAnswer (s : State) : Out :=
  let m := s.arg.m.toNat
  .next (if lanRuns s m && (getCl s m).lan.ans.isSome then postWord s m else s)

end Sys2Proof.Machine
end

