-- ==== Sys2Proof/Machine/Save.lean ====
section
/-! DEFINITION. The bytes of a saved context in a job's save area (spec 17 R319 and R322, 18 R342 and R346). -/

namespace Sys2Proof.Machine

/-- A field of the save area: its offset, its length in bytes and its value. -/
abbrev SaveField := Nat × Nat × Nat

/-- The fields of a record that lies at an offset. -/
def fieldsAt (o : Nat) (l : List SaveField) : List SaveField := l.map (fun f => (o + f.1, f.2))

/-- Bytes in the save area of a job (R322). -/
def saveBytes : Nat := 0x32800000

/-! ## Memory state -/

/-- Offset of a local IA in the save area, of a byte that is saved (R322): no code store is (R321). -/
def saveOff (a : Nat) : Option Nat :=
  let part := fun (base stride size at0 : Nat) =>
    if (a - base) % stride < size then some (at0 + (a - base) / stride * size + (a - base) % stride) else none
  if codeBase 0 ≤ a then none
  else if unitBase 0 ≤ a then part (unitBase 0) 0x80000 unitSize 0x24000000
  else if dieBase 0 ≤ a then part (dieBase 0) 0x4000000 dieSize 0
  else if clBase 0 ≤ a then part (clBase 0) 0x1000000 clSize 0x0C000000
  else none

/-- The scratchpads (R322). -/
def saveMem (m : MemSt) : List SaveField :=
  m.cells.filterMap (fun c => (saveOff c.1).map (fun o => (o, 1, c.2.toNat)))

/-- The bits of the poison map (R322). -/
def savePsn (m : MemSt) : List Nat :=
  (m.poison.filter (fun p => p.2)).filterMap (fun p => (saveOff (32 * p.1)).map (fun o => o / 32))

/-- Accumulator memory (R322). -/
def saveTiles (k : Nat) (u : Unit) : List SaveField :=
  u.tiles.flatMap (fun t => t.2.el.map (fun e => (0x29000000 + k * 0x40000 + t.1 * 0x4000 + 4 * e.1, 4, e.2.toNat)))

/-! ## Records -/

/-- A holder's metadata word (R322). -/
def metaWord (x : Meta) : Nat := x.taint.toNat + (if x.sat then 2 ^ 16 else 0) + (if x.poison then 2 ^ 17 else 0)

/-- The address at which control resumes as `trap.npc` would hold it (R200, R322). -/
def npcWord : Option Nat → Nat
  | none => 0
  | some t => 2 ^ 63 + bits t 2 19 * 4

/-- The CSR block of an agent (R321, R322): every CSR that it can read or write but the identity CSRs. -/
def saveCsrs (s : State) (g : Agent) (c : Core) (u : Unit) (n : Nat) : List SaveField :=
  (List.range n).filterMap (fun i =>
    let lan := match g with | .lantern _ => true | _ => false
    if (csrMap i).isSome && (csrMay lan i false || csrMay lan i true) && !(decide (0xB0 ≤ i) && decide (i ≤ 0xB3))
    then some (8 * i, 8, (csrRead s g c u i).toNat) else none)

/-- A semaphore with its release record (R89, R322). -/
def semWord (x : SemSt) : Nat :=
  x.cnt % 256 + (if x.err then 2 ^ 8 else 0) + (if x.ovf then 2 ^ 9 else 0)
    + (match x.rel with | none => 0 | some r => 2 ^ 19 + r.rp % 8 * 2 ^ 16 + r.rs % 8 * 2 ^ 12)

/-- Whether the read that a tag names waits for an entry of the ring (R77). -/
def heldBy (s : State) (g : Agent) (t : Nat) (f : FaultRec) : Bool :=
  let at0 := fun (o : Option (Nat × Nat)) => o.any (fun p => p.1 == t)
  match g, f.eng with
  | .unit k, .uce j _ => j == k && ((findRun s f.eng f.run).map (fun r => at0 r.tag)).getD false
  | .lantern m, .lantern n => m == n && ((findAcc s m.toNat f.run).map (fun a => at0 a.tag)).getD false
  | _, _ => false

/-- The held-tag table (R77, R322). -/
def saveHeld (s : State) (g : Agent) (c : Core) : List SaveField :=
  c.tags.filterMap (fun p => ((getCl s g.cl).pend.find? (fun e => heldBy s g p.1 e.2)).map (fun e => (8 * p.1, 8, 2 ^ 63 + e.1)))

/-- Hold slots of 2 KiB (R108, R322). -/
def saveHolds (x : XEng) : List SaveField :=
  x.holds.flatMap (fun h => h.2.img.zipIdx.map (fun b => (0x800 * h.1 + b.2, 1, b.1.1.toNat)))

/-- The snapshot record of a result in flight (R319), in 16 bytes and its value: `first` is the oldest bundle with one. -/
def flightRecord (first : Nat) (f : Flight) : List SaveField :=
  let taint := f.tags.foldl (fun a t => a ||| 2 ^ t.1) 0
  let lo := f.cls + f.reg % 256 * 2 ^ 8 + f.r % 32 * 2 ^ 16 + (f.order - first) % 256 * 2 ^ 24 + taint * 2 ^ 32
    + (if f.sat then 2 ^ 48 else 0) + (if f.poison then 2 ^ 49 else 0) + (if f.cls = 3 then f.idx % 64 * 2 ^ 50 + (if f.mz then 2 ^ 56 else 0) else 0)
  let n := match f.cls with | 0 => 8 | 1 => 512 | 2 => 16 | _ => 256
  [(0, 8, lo), (8, 8, if f.cls = 3 then f.emask.toNat else 0), (16, n, f.val.toNat)]

/-- The register number of a record: of a tile slice, the tile and whether it is a column (R319). -/
def flightReg (f : Flight) : Flight := if f.cls = 3 then { f with reg := f.reg % 16 + (if f.rc then 16 else 0) } else f

/-- Whether a result in flight is saved: not one of the volatile range (R155, R319). -/
def savedFlight (vol : Nat × Nat × Nat × Nat) (f : Flight) : Bool :=
  decide (f.cls ≤ 3) && !(f.cls == 0 && decide (vol.1 ≤ f.reg) && decide (f.reg ≤ vol.2.1))
    && !(f.cls == 1 && decide (vol.2.2.1 ≤ f.reg) && decide (f.reg ≤ vol.2.2.2))

/-- The snapshot: the count, then the records in issue order (R319). -/
def saveSnapshot (u : Unit) : List SaveField :=
  let l := u.flight.filter (savedFlight u.vol)
  let first := l.foldl (fun a f => min a f.order) u.bundle
  let p := l.foldl (fun (a : Nat × List SaveField) f =>
    let r := flightRecord first (flightReg f)
    (a.1 + 16 + (match f.cls with | 0 => 8 | 1 => 512 | 2 => 16 | _ => 256), a.2 ++ fieldsAt a.1 r)) (0x10, [])
  (0, 8, l.length) :: p.2

/-- The parts of a unit record to which R322 gives a layout. -/
def saveUnitRec (s : State) (k : Nat) (u : Unit) : List SaveField :=
  let g := Agent.unit (BitVec.ofNat 8 k)
  let c := u.core
  fieldsAt 0 (saveCsrs s g c u 0xC2)
    ++ u.hist.map (fun p => (0x800 + 132 * (p.1 / 64) + 4 * (p.1 % 64), 4, p.2))
    ++ u.sems.map (fun p => (0xC00 + 8 * p.1, 8, semWord p.2))
    ++ u.loops.zipIdx.map (fun p => (0xD00 + 8 * p.2, 8, bits p.1.start 2 19 * 4 + 1))
    ++ [(0xD20, 8, c.pc), (0xD28, 8, npcWord c.delay)]
    ++ fieldsAt 0xD40 (saveHeld s g c)
    ++ c.sreg.map (fun p => (0x1000 + 8 * p.1, 8, p.2.toNat))
    ++ c.md.filterMap (fun p => if 1 ≤ p.1 ∧ p.1 < 104 then some (0x1200 + 4 * (if p.1 < 97 then p.1 - 1 else p.1 - 2), 4, metaWord p.2) else none)
    ++ u.m.map (fun p => (0x1400 + 16 * p.1, 16, p.2.toNat))
    ++ u.v.map (fun p => (0x2000 + 512 * p.1, 512, p.2.toNat))
    ++ u.queues.flatMap (fun p => p.2.zipIdx.flatMap (fun e =>
        if !e.1.filled then [] else if p.1 < 8 then [(0x6000 + 4096 * p.1 + 512 * e.2, 512, e.1.val.toNat % 2 ^ 4096)]
        else [(0xE000 + 1536 * e.2, 1536, e.1.val.toNat)]))
    ++ (match u.mx.latch with | some x => [(0x14000, 1536, x.1.toNat)] | none => [])
    ++ fieldsAt 0x16000 (saveHolds u.uce0) ++ fieldsAt 0x1A000 (saveHolds u.uce1)
    ++ u.tiles.flatMap (fun t => [(0x1E000 + 512 * t.1, 512, t.2.lost.toNat), (0x20000 + 8 * t.1, 8, t.2.poison.toNat)])
    ++ fieldsAt 0x21000 (saveSnapshot u)

/-- A task entry: image and move block, in the order in which R322 names them (log entry 56). -/
def saveTask (t : Task) : List SaveField := [(0, 64, t.post.img.toNat), (64, 128, t.post.mv.toNat)]

/-- The parts of a cluster record to which R322 gives a layout. -/
def saveClRec (s : State) (m : Nat) (c : Cluster) : List SaveField :=
  let g := Agent.lantern (BitVec.ofNat 5 m)
  let l := c.lan
  fieldsAt 0 (saveCsrs s g l.core {} 0x153)
    ++ l.core.sreg.map (fun p => (0x1000 + 8 * p.1, 8, p.2.toNat))
    ++ l.d.map (fun p => (0x1200 + 32 * p.1, 32, p.2.toNat))
    ++ l.core.md.filterMap (fun p =>
        if 1 ≤ p.1 ∧ p.1 < 64 then some (0x1400 + 4 * (p.1 - 1), 4, metaWord p.2)
        else if 128 ≤ p.1 then some (0x1400 + 4 * (63 + (p.1 - 128)), 4, metaWord p.2) else none)
    ++ fieldsAt 0x1600 (saveHeld s g l.core)
    ++ [(0x1640, 8, l.core.pc)]
    ++ ((List.range 16).flatMap (fun i =>
        [(0x1700 + 16 * i, 8, (sget (rdCsr l.core (0x100 + 3 * i)) l.stage (0x100 + 3 * i)).toNat),
         (0x1708 + 16 * i, 8, (sget (rdCsr l.core (0x101 + 3 * i)) l.stage (0x101 + 3 * i)).toNat)]))
    ++ fieldsAt 0x2000 (saveHolds l.x)
    ++ c.tensors.map (fun p => (0x6000 + 32 * p.1, 32, p.2.toNat))
    ++ c.tasks.zipIdx.flatMap (fun p => fieldsAt (0x8000 + 256 * p.2) (saveTask p.1))
    ++ c.tokens.map (fun p => (0x38000 + 4 * p.1, 4, tokenVal p.2))

/-- The die records: Belfry schedules and multicast groups (R342, R346). -/
def saveDieRecs (c : Chip) : List SaveField :=
  c.belfry.map (fun p => (0x32300000 + p.1 / 256 * 0x40000 + 16 * (p.1 % 256), 16, p.2.toNat))
    ++ (List.range 4).flatMap (fun n => c.mcg.map (fun p => (0x32300000 + n * 0x40000 + 0x1000 + 16 * p.1, 16, p.2.toNat)))

/-- Everything that R322 gives a place in the save area. -/
def saveFields (s : State) (c : Chip) : List SaveField :=
  saveMem c.mem ++ c.units.flatMap (fun p => saveTiles p.1 p.2)
    ++ c.clusters.flatMap (fun p => fieldsAt (0x2D300000 + p.1 * 0x80000) (saveClRec s p.1 p.2))
    ++ c.units.flatMap (fun p => fieldsAt (0x2E300000 + p.1 * 0x40000) (saveUnitRec s p.1 p.2))
    ++ saveDieRecs c

/-! ## Writing the area -/

/-- HBM with `n` bytes at `a` zero, and nothing else there. -/
def zeroHbm (s : State) (a n : Nat) : State :=
  let out := fun (x w : Nat) => !(decide (a / w ≤ x) && decide (x < (a + n) / w))
  { s with hbm := { s.hbm with
    cells := s.hbm.cells.filter (fun c => out c.1 1), poison := s.hbm.poison.filter (fun c => out c.1 32)
    recs := s.hbm.recs.filter (fun c => out c.1 16), errs := s.hbm.errs.filter (fun c => out c.1 32) } }

/-- Write the bytes of a field that are not zero. -/
def putField (m : Memory) (base : Nat) (f : SaveField) : Memory :=
  if f.2.2 = 0 then m
  else (toBytes f.2.2 f.2.1).zipIdx.foldr (fun b t => if b.1 = 0 then t else wrByte t (base + f.1 + b.2) b.1) m

/-- A context is written to its job's save area at `base` (R321, R322): zero, then each part that has a layout there (log
entry 56). -/
def saveArea (s : State) (c : Chip) (base : Nat) : State :=
  let t := zeroHbm s base saveBytes
  let m1 := (saveFields s c).foldr (fun f t => putField t base f) t.hbm.cells
  let m2 := (savePsn c.mem).foldl (fun t p =>
    let a := base + 0x2D000000 + p / 8
    wrByte t a (rdByte t a ||| BitVec.ofNat 8 (2 ^ (p % 8)))) m1
  { t with hbm := { t.hbm with cells := m2 } }

end Sys2Proof.Machine
end

