-- ==== Sys2Proof/Machine/Context.lean ====
section
/-! DEFINITION. Gang switches: freezing, saving, restoring and resuming a job on the module, and trace sampling (spec 17 R317 to R331, 13 R239). -/

namespace Sys2Proof.Machine

/-! ## Volatile registers and banks -/

/-- `n` undefined bits of 64 each. -/
def freeBits (s : State) (w : Nat) : Nat × State :=
  let n := (w + 63) / 64
  ((List.range n).foldl (fun a j => a + (Config.freeWord (s.draws + j)).toNat * 2 ^ (64 * j)) 0, { s with draws := s.draws + n })

/-- A resume leaves each volatile register undefined, untainted and unpoisoned, and loses what was in flight to it (R155). -/
def thawVolatile (s : State) (k : Nat) : State :=
  let (slo, shi, vlo, vhi) := (getUnit s k).vol
  let ss := (List.range 64).filter (fun r => decide (slo ≤ r ∧ r ≤ shi ∧ r ≠ 0))
  let vs := (List.range 32).filter (fun r => decide (vlo ≤ r ∧ r ≤ vhi))
  let s1 := modUnit s k (fun u => { u with flight := u.flight.filter (fun f =>
    !((f.cls == 0 || f.cls == 4) && ss.contains f.reg) && !(f.cls == 1 && vs.contains f.reg) && !(f.cls == 4 && vs.contains (f.reg - 64) && decide (64 ≤ f.reg ∧ f.reg < 96))) })
  let s2 := ss.foldl (fun t r =>
    let (v, t) := freeBits t 64
    modUnit t k (fun u => { u with core := setMeta (wrS u.core r (BitVec.ofNat 64 v)) (hS r) {} })) s1
  vs.foldl (fun t r =>
    let (v, t) := freeBits t 4096
    modUnit t k (fun u => { u with core := setMeta u.core (hV r) {}, v := sset 0 u.v r (BitVec.ofNat 4096 v) })) s2

/-- A bank after a freeze (R239): refetched where its record is valid, else undefined, as are scale bytes that no row fills
(R240). -/
def refetchBank (s : State) (cl : Nat) (b : Bank) : Bank × State :=
  if b.valid then
    let t := (List.range 64).foldl (fun p r => fetchRow p.2 cl b.desc b.fmt p.1 r)
      ({ b with w := [], sc := [], undef := some s.draws }, { s with draws := s.draws + 106496 })
    ({ t.1 with undef := none }, t.2)
  else ({ b with undef := some s.draws }, { s with draws := s.draws + 106496 })

/-- Both banks of a unit after a freeze. -/
def refetchUnit (s : State) (k : Nat) : State :=
  let (a, s1) := refetchBank s (k / 8) (getUnit s k).mx.act
  let (b, s2) := refetchBank s1 (k / 8) (getUnit s k).mx.shadow
  modMx s2 k (fun mx => { mx with act := a, shadow := b })

/-! ## Stop and save -/

/-- Every unit and every cluster that holds any state. -/
def liveUnits (s : State) : List Nat := skeys s.chip.units
/-- Clusters that hold any state. -/
def liveClusters (s : State) : List Nat := skeys s.chip.clusters

/-- The copy engines of the module. -/
def allEngines (s : State) : List XEng :=
  s.chip.clusters.flatMap (fun p => [p.2.cce0, p.2.cce1, p.2.xe, p.2.lan.x]) ++ s.chip.units.flatMap (fun p => [p.2.uce0, p.2.uce1])

/-- Whether packets of a phase are still to be answered. -/
def phaseOpen : CPhase → Bool
  | .reading _ | .writing _ => true
  | _ => false

/-- Whether a tagged read of a queue has started and is neither held by a fault nor put back by a DEFERRED answer (R77, R317,
R325). -/
def readOpen (r : Run) : Bool :=
  r.tag.isSome && !r.done && r.chunks.all (fun c => match c.phase with | .faulted | .deferred => false | _ => true)

/-- Whether an outstanding request keeps the save of its job waiting: not one of the scoreboard or the cache that is DEFERRED,
nor one that nobody waits for. -/
def reqOpen (s : State) (o : Outst) : Bool :=
  decide (o.job = s.chip.slot) && !o.deferred && (match o.who with | .granule _ _ | .gone => false | _ => true)

/-- A phase with one more packet answered. -/
def phaseLess (ph : CPhase) (rid : Nat) : CPhase :=
  match ph with
  | .reading l => .reading (l.erase rid)
  | .writing l => .writing (l.erase rid)
  | p => p
/-- Whether a phase waits for a packet. -/
def phaseHas (ph : CPhase) (rid : Nat) : Bool :=
  match ph with
  | .reading l | .writing l => l.contains rid
  | _ => false
/-- Whether it waits for bytes. -/
def phaseReads (ph : CPhase) : Bool := match ph with | .reading _ => true | _ => false

/-- The chunk a packet belongs to, while it waits for it. -/
def waitingChunk (s : State) (e : Eng) (run idx rid : Nat) : Option (Run × Chunk) :=
  match findRun s e run with
  | none => none
  | some r => (r.chunks.find? (fun c => c.idx == idx && phaseHas c.phase rid)).map (fun c => (r, c))

/-- The access of a Lantern core a packet belongs to. -/
def waitingAcc (s : State) (m seq rid : Nat) : Option LAcc := (findAcc s m seq).bind (fun a => if phaseHas a.phase rid then some a else none)

/-- Change the MMA that waits for a packet. -/
def modAsk (s : State) (k rid : Nat) (f : CompRun → CompRun) : State :=
  modMx s k (fun mx => { mx with comp := mx.comp.map (fun c => if c.rids.contains rid then f c else c) })

/-- A request is answered DEFERRED in this module's own switch (R325 to R327): it was not issued. -/
def answerDeferred (s : State) (o : Outst) (rid : Nat) : State :=
  match o.who with
  | .chunk e run idx _ | .mcred e run idx _ =>
    match waitingChunk s e run idx rid with
    | none => s
    | some (_, c) => putChunk (putRedo s e o.seq run idx) e run { c with phase := .deferred, img := [], todo := [] }
  | .acc m seq _ =>
    match waitingAcc s m.toNat seq rid with
    | none => s
    | some a => modAcc (putRedo s (.lantern m) o.seq seq 0) m.toNat seq (fun _ => { a with phase := .deferred, out := [] })
  | .word m => modLan s m.toNat (fun l => { l with wait := none, ans := none })
  | .mxA k _ => modAsk s k.toNat rid (fun c => { c with asked := false, abuf := [], rids := [] })
  | .trace => modTrace s (fun c => { c with stage := 0 })
  | _ => s

/-- Whether a DEFERRED request stays outstanding across this module's own switch: those of the scoreboard, a post's own arming
among them, and of the cache. -/
def keepsDeferred (o : Outst) : Bool :=
  match o.who with
  | .arm _ | .armAns _ | .granule _ _ => true
  | .word _ => o.pkt.type == 0x09
  | _ => false

/-- Requests of the job that stand DEFERRED as its switch begins are put back as not issued (R325, R327). -/
def putBack (s : State) : State :=
  (s.outst.filter (fun p => decide (p.2.job = s.chip.slot) && p.2.deferred && !keepsDeferred p.2)).foldl
    (fun t p => answerDeferred { t with outst := serase t.outst p.1 } p.2 p.1) s

/-- Whether the frozen job has nothing left that its save waits for (R239, R317, R325): packets, tagged reads that have
started, signals on their way, and matrix commands that run to completion. A job that has ended waits for nothing. -/
def quiesced (s : State) : Bool :=
  s.chip.ended.isSome ||
  ((allEngines s).all (fun x => x.runs.all (fun r => !readOpen r && r.chunks.all (fun c => !phaseOpen c.phase)))
    && s.chip.clusters.all (fun p => p.2.signals.isEmpty && p.2.lan.accs.all (fun a => !phaseOpen a.phase
        && !(a.tag.isSome && (match a.phase with | .faulted | .deferred => false | _ => true))))
    && s.chip.units.all (fun p => p.2.qlds.isEmpty && p.2.mx.comp.all (fun c => isMma c.cmd.ins && c.rids.isEmpty))
    && s.outst.all (fun p => !reqOpen s p.2))

/-- A record for every traced agent of the job (R331): type 3. -/
def traceSwitch (s : State) (out : Bool) : State :=
  let one := fun (t : State) (g : Agent) => traceRec t g 3 0 (if out then 1 else 0)
  let s1 := (List.range 256).foldl (fun t k => one t (.unit (BitVec.ofNat 8 k))) s
  (List.range 32).foldl (fun t m => one t (.lantern (BitVec.ofNat 5 m))) s1

/-- A unit as it is saved (R77): taint stays only where its read still holds its tag. -/
def saveUnit (u : Unit) : Unit :=
  { u with flight := u.flight.map (fun f => { f with tags := f.tags.filter (fun t => tagLive u.core t.1 t.2) }) }

/-- The switch to a staged patch (R376). -/
def patchSwitch (v : Service) : Service :=
  if v.upd then { v with upd := false, fwver := v.staged, patchHash := v.stagedHash } else v

/-- GANG_SWITCH (R313, R323 to R325): at its instant every agent of the job stops, a word that traps there first; once the stopped
job is quiet, its context is saved. A loss of PTP lock flags the switch. -/
def execGangSwitch (s : State) : Out :=
  .next (match s.cp.switch with
  | none =>
    match s.cp.gang with
    | (t, n) :: rest =>
      if ptp s < t then s
      else
        let s0 := (liveClusters s).foldl syncFirst s
        let s1 := traceSwitch s0 true
        putBack { s1 with
          cp := { s1.cp with gang := rest, gangLast := t, switch := some ⟨t, s1.chip.slot, n, 0⟩ }
          svc := patchSwitch { s1.svc with switchFlag := s1.svc.switchFlag || s1.svc.plock } }
    | [] => s
  | some w =>
    if w.phase ≠ 0 ∨ quiesced s = false then s
    else
      let c := { s.chip with units := s.chip.units.map (fun p => (p.1, saveUnit (stopMx p.2))) }
      let s1 := { s with cp := { s.cp with switch := some { w with phase := 1 } } }
      match s.cp.jobs.find? (fun p => p.1 == w.out) with
      | some (_, j) => saveArea { s1 with images := sput s.images w.out c } c j.save
      | none => s1)

/-! ## Restore and start -/

/-- Copy `n` bytes with their poison from a memory to on-chip bytes at `d`: what stood there goes. -/
def copyCells (s : State) (src : MemSt) (a d n : Nat) : State :=
  modMem s (fun m =>
    let keep := fun (x w : Nat) => !(decide (d / w ≤ x) && decide (x < (d + n) / w))
    let take := fun (x w : Nat) => decide (a / w ≤ x) && decide (x < (a + n) / w)
    { m with
      cells := (src.cells.filter (fun c => take c.1 1)).foldl (fun t c => wrByte t (c.1 - a + d) c.2) (m.cells.filter (fun c => keep c.1 1))
      poison := (src.poison.filter (fun c => take c.1 32)).foldl (fun t c => sset false t (c.1 - a / 32 + d / 32) c.2)
        (m.poison.filter (fun c => keep c.1 32))
      recs := m.recs.filter (fun c => keep c.1 16)
      errs := m.errs.filter (fun c => keep c.1 32) })

/-- A memory with nothing in it. -/
def memNone : MemSt := {}

/-- A code store rewritten at restore (R328): the image in force page by page; a page that faults leaves its sectors
poisoned, with undefined bytes; with no image, zero bytes. -/
def reloadCode (s : State) (m : Nat) : State :=
  let base := codeBase m
  let s1 := modCl (copyCells s memNone 0 base codeSize) m (fun c => { c with codeOld := [] })
  match (getCl s m).image with
  | none => s1
  | some ia =>
    (pieces ia.toNat codeSize).foldl (fun t p =>
      match resolve t t.chip.slot t.chip.pasid (fullIa t (ia.toNat % 2 ^ 48 + p.1)) p.2 .rd with
      | .ok (.hbm a) =>
        let (mm, ce, ue) := touch t.hbm a p.2
        let t := frameErr { t with hbm := mm } a ce ue
        copyCells t t.hbm a (base + p.1) p.2
      | _ =>
        let (fr, t) := freeBytes t p.2
        modMem t (fun mm => writeImg mm (base + p.1) (fr.map (fun b => (b, true))))) s1

/-- The context a slot starts with where nothing was saved for it (R276, R310). -/
def freshChip (s : State) (n : Nat) : Chip :=
  { slot := n, pasid := ((s.cp.jobs.find? (fun p => p.1 == n)).map (fun p => p.2.pasid)).getD 0 }

/-- CONTEXT_RESTORE (R324, R328): the incoming job's context is read back once the other's is saved. -/
def execContextRestore (s : State) : Out :=
  .next (match s.cp.switch with
  | some w =>
    if w.phase ≠ 1 then s
    else
      let c := ((s.images.find? (fun p => p.1 == w.inn)).map Prod.snd).getD (freshChip s w.inn)
      let s1 := { s with chip := c, images := serase s.images w.inn, cp := { s.cp with switch := some { w with phase := 2 } } }
      (liveClusters s1).foldl reloadCode s1
  | none => s)

/-- An engine resumes (R325): chunks answered DEFERRED start afresh. -/
def thawEng (x : XEng) : XEng :=
  { x with runs := x.runs.map (fun r => { r with chunks := r.chunks.map (fun c =>
    match c.phase with | .deferred => { c with phase := .fresh, img := [] } | _ => c) }) }

/-- A Lantern core resumes (R285, R327, R329): a word that waited starts again unless its answer has come or its post is
accepted, and the stopped unit whose handler had not returned raises its trap again. -/
def thawCl (s : State) (m : Nat) : State :=
  let l := (getCl s m).lan
  let s1 := modCl s m (fun c => { c with
    cce0 := thawEng c.cce0, cce1 := thawEng c.cce1, xe := thawEng c.xe
    lan := { c.lan with
      x := thawEng c.lan.x
      stall := 0
      wait := if c.lan.ans.isSome then c.lan.wait else match c.lan.wait with | some (.arm r k) => some (.arm r k) | _ => none
      accs := c.lan.accs.map (fun a => match a.phase with | .deferred => { a with phase := .fresh, out := [] } | _ => a) } })
  match l.trapUnit with
  | some j => if hm l.core then modUnit s1 (8 * m + j) (fun u => { u with stop := u.stop.map (fun x => { x with told := false }) }) else s1
  | none => s1

/-- A unit resumes (R155, R239, R325). -/
def thawUnit (s : State) (k : Nat) : State :=
  let s1 := modUnit s k (fun u =>
    let u := if u.stop.isNone then resumeMx u else u
    { u with uce0 := thawEng u.uce0, uce1 := thawEng u.uce1 })
  let s2 := if (getUnit s k).stop.isNone then refetchUnit s1 k else s1
  if (getUnit s2 k).inst.isSome && (getUnit s2 k).stop.isNone then thawVolatile s2 k else s2

/-- JOB_START (R324): 40 microseconds after the instant, once the phases have ended, the incoming job's agents start. -/
def execJobStart (s : State) : Out :=
  .next (match s.cp.switch with
  | some w =>
    if w.phase ≠ 2 ∨ ptp s < w.t + 40000 then s
    else
      let s1 := { s with cp := { s.cp with switch := none } }
      let s2 := (liveUnits s1).foldl thawUnit s1
      traceGo 65 (traceSwitch ((liveClusters s2).foldl thawCl s2) false)
  | none => s)

/-- The other requests of a load-and-reduce chunk go on round the ring with nobody waiting for them (R347). -/
def mcredGone (s : State) (e : Eng) (run chunk : Nat) (own : Nat × Outst) : State :=
  let t := { s with outst := s.outst.map (fun (p : Nat × Outst) => match p.2.who with
    | .mcred f r c _ => if f = e ∧ r = run ∧ c = chunk then (p.1, { p.2 with who := .gone, deferred := false }) else p
    | _ => p) }
  { t with outst := sput t.outst own.1 { own.2 with who := .gone, deferred := false } }

/-- Whether a request belongs to a job that is not switched in, whose agents it cannot reach. -/
def jobAway (s : State) (o : Outst) : Bool :=
  decide (o.job ≠ s.chip.slot) && (match o.who with | .granule _ _ => false | _ => true)

/-- Whether two requests leave from one agent for one module (R340). -/
def sameFlow (a b : Outst) : Bool :=
  a.pkt.dmod == b.pkt.dmod && decide (a.job = b.job) &&
  match a.who, b.who with
  | .chunk e _ _ _, .chunk f _ _ _ | .mcred e _ _ _, .mcred f _ _ _ | .chunk e _ _ _, .mcred f _ _ _ | .mcred e _ _ _, .chunk f _ _ _ => e == f
  | .acc m _ _, .acc n _ _ | .word m, .word n | .acc m _ _, .word n | .word m, .acc n _ _ => m == n
  | .mxA k _, .mxA l _ => k == l
  | .watch m _ _, .watch n _ _ | .arm m, .arm n => m == n
  | .granule _ _, .granule _ _ | .armAns _, .armAns _ | .trace, .trace => true
  | _, _ => false

/-- A chunk of a load-and-reduce starts whole again (R326). -/
def mcredAgain (s : State) (e : Eng) (run chunk : Nat) : State :=
  let s1 := { s with outst := s.outst.filterMap (fun (p : Nat × Outst) => match p.2.who with
    | .mcred f r c _ => if f = e ∧ r = run ∧ c = chunk then (if p.2.deferred then none else some (p.1, { p.2 with who := .gone })) else some p
    | _ => some p) }
  modRun s1 e run (fun r => { r with chunks := r.chunks.map (fun c => if c.idx = chunk then { c with phase := .fresh, img := [] } else c) })

/-- A request as it goes out again: a write of a UCE queue or CCE takes the circuit that stands then (R343). -/
def againPkt (s : State) (o : Outst) : Packet :=
  let p := { o.pkt with circ := 0 }
  match o.who with
  | .chunk e _ _ _ => if p.type = 0x02 then (match e with | .uce _ _ | .cce _ _ => takeCircuit s (Eng.cl e) p | _ => p) else p
  | _ => p

/-- DEFERRED_REISSUE (R325, R340): request j, answered DEFERRED, is sent again after a microsecond, once no earlier request of
its agent to that module is open. -/
def execDeferredReissue (s : State) : Out :=
  .next (match s.outst.find? (fun p => p.1 == s.arg.j) with
  | none => s
  | some (rid, o) =>
    if !o.deferred || decide (ptp s < o.since + 1000) || (frozen s && decide (o.job = s.chip.slot)) || jobAway s o
        || s.outst.any (fun p => sameFlow p.2 o && decide (p.2.seq < o.seq)) then s
    else match o.who with
      | .mcred e r c _ => mcredAgain s e r c
      | w => sendFrom { s with outst := sput s.outst rid { o with deferred := false, since := ptp s } } (reqDie w) (againPkt s o))

/-! ## Trace -/

/-- TRACE_SAMPLE (R330): each traced agent that runs writes a sample of its pc when the period expires. -/
def execTraceSample (s : State) : Out :=
  .next (if s.chip.trace.period = 0 ∨ s.clk % s.chip.trace.period ≠ 0 ∨ frozen s ∨ ended s then s
  else
    let s1 := (liveUnits s).foldl (fun t k => if issues s k then traceRec t (.unit (BitVec.ofNat 8 k)) 0 (getUnit s k).core.pc 0 else t) s
    (liveClusters s).foldl (fun t m => if lanRuns s m then traceRec t (.lantern (BitVec.ofNat 5 m)) 0 (getCl s m).lan.core.pc 0 else t) s1)

end Sys2Proof.Machine
end

