-- ==== Sys2Proof/Machine/Fabric.lean ====
section
/-! DEFINITION. The fabric at this module: requests of remote agents, responses and reductions, timeouts, circuits and links (spec 18 R332 to R353). -/

namespace Sys2Proof.Machine

/-! ## Arrival -/

/-- Whether a packet is one of a class and type with an allowed number of payload flits and that payload (R336). -/
def pktIs (p : Packet) (cls type lo hi : Nat) : Bool :=
  decide (p.cls.toNat = cls ∧ p.type.toNat = type ∧ lo ≤ p.nfl.toNat ∧ p.nfl.toNat ≤ hi ∧ p.payload.length = 64 * p.nfl.toNat)

/-- A packet that is dropped counts with the tag failures of its port (R336, R350, R351). -/
def tagFail (s : State) (port : Nat) : State :=
  { s with svc := { s.svc with tagFails := smod 0 s.svc.tagFails port (fun n => n + 1) } }

/-- Whether the tag of an arriving packet holds (R349, R351): it is the one its port makes of it. arg.flag stands for a packet
that crosses no link to get here, or whose tag was checked when it came. -/
def tagHolds (s : State) : Bool :=
  let q := s.arg.n
  s.arg.flag || decide (s.arg.pkt.tag = tagOf s (sget 0 s.svc.rxNonces q) (sget 0 s.svc.rxCtrs q) s.arg.pkt)

/-- A packet has come over the link of port arg.n: the direction's counter advances (R349). -/
def linkIn (s : State) : State :=
  if s.arg.flag then s else { s with svc := { s.svc with rxCtrs := smod 0 s.svc.rxCtrs s.arg.n (fun n => (n + 1) % 2 ^ 64) } }

/-- A packet for another module goes on from the die router whose port it came by (R334): arg.v is the slot in which the hop
before forwarded it on a circuit (R343). -/
def passOn (s : State) (p : Packet) : State := enterHop s (s.arg.n / 32 % 4) (1 + s.arg.n / 16 % 2) s.arg.v.toNat p

/-- The arrival of the packet of an event at port arg.n (R334, R350, R351). One for another module goes on; one whose tag fails,
that is malformed or of a job with no key here is dropped. -/
def onPacket (s : State) (ok : Packet → Bool) (f : State → Packet → State) : Out :=
  let p := s.arg.pkt
  let t := linkIn s
  .next (if !tagHolds s || !keyOk s p.slot.toNat || !ok p then tagFail t s.arg.n
    else if p.dmod.toNat ≠ s.partMod then passOn t p
    else f t p)

/-- What a request meets before it is performed (R325, R352): performed, or answered with a status and fault kind. A job
that is not switched in here, or is stopping, is DEFERRED. -/
def jobGate (s : State) (p : Packet) : Option (Nat × Nat) :=
  if p.slot.toNat = s.chip.slot ∧ p.pasid.toNat = s.chip.pasid then (if frozen s then some (1, 0) else none)
  else if s.cp.jobs.any (fun j => decide (j.1 = p.slot.toNat) && decide (j.2.pasid = p.pasid.toNat)) then some (1, 0)
  else some (2, fkNoJob)

/-- A response to a request (R335 to R337): its bytes with poison. -/
def respond (s : State) (p : Packet) (type st fk : Nat) (img : List (Byte × Bool)) : State :=
  sendPkt s { pkt0 s 1 type with
    ia := p.ia, dmod := p.smod, slot := p.slot, pasid := p.pasid, rid := p.rid
    nfl := BitVec.ofNat 4 ((img.length + 63) / 64), st := BitVec.ofNat 4 st, fk := BitVec.ofNat 4 fk
    psn := psnMask img, payload := padFlits (img.map Prod.fst) }

/-- A status with no bytes: DATA for a read, else ACK. -/
def respondSt (s : State) (p : Packet) (type : Nat) (q : Nat × Nat) : State := respond s p type q.1 q.2 []

/-- Whether a remote access of `n` bytes lies in one place of this module's map that peers can reach (R23, R32). -/
def remoteAt (s : State) (lo n : Nat) (k : AKind) : Bool :=
  aperture s s.partMod lo (lo + n - 1) k && !(iaRow lo == some 6 || iaRow lo == some 7)

/-- Perform a remote access (R339): its fault kind, or what `f` does at its full IA. -/
def remoteDo (s : State) (p : Packet) (type n : Nat) (k : AKind) (f : Nat → State) : State :=
  match jobGate s p with
  | some q => respondSt s p type q
  | none =>
    let lo := p.ia.toNat
    let ia := fullIa s lo
    if !remoteAt s lo n k then respondSt s p type (2, fkTable)
    else match faultOf (resolveAll s s.chip.slot s.chip.pasid ia n k) with
      | some (_, fk) => respondSt s p type (2, fk)
      | none => f ia

/-- Payload bytes with the poison of their sectors. -/
def payloadImg (p : Packet) (n : Nat) : List (Byte × Bool) := (p.payload.take n).mapIdx (fun j b => (b, p.psn.getLsbD (j / 32)))

/-! ## Requests -/

/-- RD (R336, R339). -/
def execRd (s : State) : Out := onPacket s (fun p => pktIs p 0 0x01 0 0) (fun s p =>
  let n := p.len.toNat + 1
  remoteDo s p 0x20 n .rd (fun ia =>
    let (img, t) := readIa s s.chip.slot s.chip.pasid ia n
    respond t p 0x20 0 0 img))

/-- WR (R336, R339). -/
def execWr (s : State) : Out := onPacket s (fun p => pktIs p 0 0x02 1 8) (fun s p =>
  let n := p.len.toNat + 1
  remoteDo s p 0x21 n .wr (fun ia => respond (writeIa s s.chip.slot s.chip.pasid ia (payloadImg p n)) p 0x21 0 0 []))

/-- How a remote atomic carries acquire and release (R78, R339): its agent lies at partition proximity. -/
def remoteSync (s : State) (p : Packet) (ia : Nat) : Sync :=
  ⟨p.ord.toNat, p.scope.toNat, ⟨none, none, none, some p.smod.toNat⟩, whereIa s ia⟩

/-- A remote atomic at its place: answered with the old value where `ret`. -/
def remoteAtom (s : State) (p : Packet) (o : AtomOp) (y : Nat → Sync) (ret : Bool) : State :=
  remoteDo s p (if ret then 0x20 else 0x21) o.w .at (fun ia =>
    match atomicIa s s.chip.slot s.chip.pasid ia o (y ia) with
    | .done old psn t _ => if ret then respond t p 0x20 0 0 ((toBytes old o.w).map (fun b => (b, psn))) else respond t p 0x21 0 0 []
    | .fault k => respondSt s p (if ret then 0x20 else 0x21) (2, k)
    | _ => respondSt s p (if ret then 0x20 else 0x21) (2, fkTable))

/-- AMO (R96, R336, R339): its old value is returned. An aop above 9 names no operation: the target answers as one that its
memory does not take (log entry 54). -/
def execAmo (s : State) : Out := onPacket s (fun p => pktIs p 0 0x03 1 1) (fun s p =>
  let w := if p.asz = 1 then 8 else 4
  if 9 < p.aop.toNat then remoteDo s p 0x20 w .at (fun _ => respondSt s p 0x20 (2, fkAtomic))
  else remoteAtom s p (amoOp p.aop.toNat w (ofBytes (p.payload.take 8)) (ofBytes ((p.payload.drop 8).take 8))) (remoteSync s p) true)

/-- FADD (R98, R336, R339). -/
def execFadd (s : State) : Out := onPacket s (fun p => pktIs p 0 0x04 1 1) (fun s p =>
  let b := p.payload
  let c := sextN (ofBytes ((b.drop 5).take 2)) 16
  remoteAtom s p (faddOp (ofBytes ((b.drop 4).take 1) % 3) (ofBytes (b.take 4)) c) (remoteSync s p) false)

/-- POST (R280, R308): checked and placed at the cluster its handle names, and answered once it is complete. -/
def execPostPacket (s : State) : Out := onPacket s (fun p => pktIs p 0 0x08 5 5) (fun s p =>
  match jobGate s p with
  | some q => respondSt s p 0x21 q
  | none =>
    let cl := bits p.ia.toNat 12 5
    let x := ofBytes (p.payload.take 64)
    let regs := (List.range (imNreg x)).map (fun j => ofBytes ((p.payload.drop (64 + 32 * j)).take 32))
    match remotePlace s cl { img := x, regs := regs, mv := moveBlock s cl x, psnImg := false, psnRegs := false, psnMv := false } with
    | .error c => if c = 2 then respondSt s p 0x21 (3, 0) else respondSt s p 0x21 (4, c / 256)
    | .ok q =>
      match acceptPost s cl q false (.armAns p) with
      | (t, none) => respond t p 0x21 0 0 []
      | (t, some _) => t)

/-- A packet that names a token of this module (R276, R336). -/
def onToken (s : State) (type resp : Nat) (f : State → Packet → Nat → Nat → State) : Out :=
  onPacket s (fun p => pktIs p 0 type 0 0) (fun s p =>
    match jobGate s p with
    | some q => respondSt s p resp q
    | none => f s p (bits p.ia.toNat 12 5) (bits p.ia.toNat 0 12))

/-- TKARM (R276). -/
def execTkarm (s : State) : Out := onToken s 0x09 0x21 (fun s p cl t => respond (tokArm s cl t) p 0x21 0 0 [])
/-- TKSIG (R276). -/
def execTksigPacket (s : State) : Out := onToken s 0x0A 0x21 (fun s p cl t => respond (tokFire s cl t) p 0x21 0 0 [])
/-- TKRD (R281, R336): one flit that holds the token's value. -/
def execTkrdPacket (s : State) : Out := onToken s 0x0B 0x20 (fun s p cl t =>
  respond s p 0x20 0 0 ((toBytes (tokenVal (getTok s cl t)) 64).map (fun b => (b, false))))

/-! ## Reductions -/

/-- Poison by 32-byte sectors. -/
def sectorPsn (l : List (Byte × Bool)) (n : Nat) : Bool := ((l.drop (n / 32 * 32)).take 32).any (fun b => b.2)

/-- FP32 elements of BF16 source bytes, converted exactly (R257, R348); a poisoned source sector poisons what it touches. -/
def redInit (src : List (Byte × Bool)) : List (Byte × Bool) :=
  (List.range (src.length / 2)).flatMap (fun k =>
    let b := (src.drop (2 * k)).take 2
    (toBytes (roundTo 0 (valOf 1 (ofBytes (b.map Prod.fst))) 0).1 4).map (fun v => (v, b.any (fun q => q.2))))

/-- One addition for each element (R257, R348). -/
def redAdd (acc src : List (Byte × Bool)) : List (Byte × Bool) :=
  (List.range (src.length / 2)).flatMap (fun k =>
    let a := (acc.drop (4 * k)).take 4
    let b := (src.drop (2 * k)).take 2
    let v := (flSum 0 0 [some (valOf 0 (ofBytes (a.map Prod.fst))), some (valOf 1 (ofBytes (b.map Prod.fst)))]).1
    (toBytes v 4).map (fun x => (x, a.any (fun q => q.2) || b.any (fun q => q.2))))

/-- Present positions of a packet's group, in order. -/
def presOf (p : Packet) : List Nat := (List.range (p.gp.toNat + 1)).filter (fun i => p.gpres.getLsbD i)

/-- The module at a ring position of a packet's group. -/
def memberMod (s : State) (p : Packet) (i : Nat) : Nat :=
  let d := p.gdim.toNat
  s.partMod - coordOf s s.partMod d * (dimStep s d).1 + bits p.gcoord.toNat (4 * i) 4 * (dimStep s d).1

/-- The partial sums after position `i` go to the next present position, or to the requester, which finds them at the first
present position again (R348): ABSENT where a position is absent. -/
def redNext (s : State) (p : Packet) (i : Nat) (img : List (Byte × Bool)) : State :=
  let img := img ++ List.replicate (512 - img.length) (0, false)
  let q : Packet := { p with
    cls := 2, type := 0x30, nfl := 8, circ := 0, psn := psnMask img, payload := img.map Prod.fst
    st := if (presOf p).length = p.gp.toNat + 1 then 0 else 5 }
  match (presOf p).find? (fun j => decide (i < j)) with
  | some j => sendPkt s { q with pos := BitVec.ofNat 4 j, dmod := BitVec.ofNat 16 (memberMod s p j) }
  | none => sendPkt s { q with pos := BitVec.ofNat 4 ((presOf p).headD 0), dmod := p.smod }

/-- MCREQ (R348): the request goes on round the ring, and a present member reads its bytes; the first one starts the
reduction, any other keeps them for its packet. -/
def execMcreq (s : State) : Out := onPacket s (fun p => pktIs p 0 0x10 0 0) (fun s p =>
  let s1 := if p.smod.toNat = s.partMod then s else mcreqTravel s p false 0
  match groupPos s p.gdim.toNat p.gp.toNat p.gcoord.toNat with
  | none => s1
  | some i =>
    if !p.gpres.getLsbD i then s1
    else
      let n := p.len.toNat + 1
      remoteDo s1 p 0x21 n .rd (fun ia =>
        let (img, t) := readIa s1 s1.chip.slot s1.chip.pasid ia n
        if (presOf p).head? = some i then redNext t p i (redInit img)
        else
          let key := fun (q : McRead) => decide (q.smod = p.smod.toNat ∧ q.rid = p.rid.toNat)
          { t with mcr := t.mcr.filter (fun q => !key q) ++ [⟨p.smod.toNat, p.rid.toNat, img⟩] }))

/-! ## Responses -/

/-- Bytes a response's request asked for. -/
def askedLen (o : Outst) : Nat :=
  match o.pkt.type.toNat with
  | 0x03 => if o.pkt.asz = 1 then 8 else 4
  | 0x10 => 2 * (o.pkt.len.toNat + 1)
  | _ => o.pkt.len.toNat + 1

/-- The answer of a Lantern word (R279 to R281). -/
def wordAnswer (s : State) (m rid code v : Nat) : State :=
  modLan s m (fun l => match l.wait with
    | some (.post r _) | some (.arm r _) | some (.tok r) => if r = rid then { l with ans := some (code, v) } else l
    | none => l)

/-- An arming is acknowledged (R276): the child post or remote post that waits for it is complete. -/
def armed (s : State) (m rid : Nat) : State := modCl s m (fun c => { c with child := c.child.filter (fun p => p.2.id != rid + 1) })

/-- A request is answered OK, with its bytes (R336, R348). -/
def answerOk (s : State) (rid : Nat) (o : Outst) (p : Packet) : State :=
  let img := payloadImg p (askedLen o)
  match o.who with
  | .chunk e run idx off =>
    match waitingChunk s e run idx rid with
    | none => s
    | some (_, c) => putChunk s e run { c with
        phase := phaseLess c.phase rid, img := if phaseReads c.phase && p.type.toNat == 0x20 then patch c.img off img else c.img }
  | .mcred e run idx off =>
    match waitingChunk s e run idx rid with
    | none => s
    | some (r, c) =>
      if p.st.toNat = 5 then chunkDone (modRun s e run (fun r => { r with stA := true })) e r c false
      else putChunk s e run { c with phase := phaseLess c.phase rid, img := patch c.img off (img.take (c.img.length - off)) }
  | .acc m seq off =>
    match waitingAcc s m.toNat seq rid with
    | none => s
    | some a => modAcc s m.toNat seq (fun _ => { a with
        phase := phaseLess a.phase rid, out := if phaseReads a.phase && p.type.toNat == 0x20 then patch a.out off img else a.out })
  | .word m => wordAnswer s m.toNat rid (match p.st.toNat with | 3 => 2 | 4 => 3 + 256 * p.fk.toNat | _ => 0) (ofBytes (p.payload.take 8))
  | .watch m task slot => if bit (ofBytes (p.payload.take 8)) 0 then satSlot s m.toNat task slot else s
  | .arm m => armed s m.toNat rid
  | .armAns q => respond s q 0x21 0 0 []
  | .granule j off =>
    let t := if off < 8192 then rpcInstall s j off img else s
    setGr t j { getGr t j with rids := (getGr t j).rids.erase rid }
  | .mxA k off => modAsk s k.toNat rid (fun c => { c with abuf := patch c.abuf off img, rids := c.rids.erase rid })
  | .trace => traceAnswer s true (ofBytes (p.payload.take 64))
  | .cp _ _ | .gone => s

/-- A write-back request that its target refuses or does not answer is lost, and counts as one (R35, log entry 48). -/
def wbLost (s : State) (j rid : Nat) : State :=
  setGr (countLost s 1) j { getGr s j with rids := (getGr s j).rids.erase rid }

/-- The full IA a request named. -/
def askedIa (o : Outst) : Nat := o.pkt.dmod.toNat * 2 ^ 48 + o.pkt.ia.toNat

/-- The IA at which an access asked a peer: the first of its bytes in the page that the request names there. -/
def askedAt (s : State) (l : List (Nat × Nat)) (o : Outst) (k : AKind) : Nat :=
  ((l.flatMap (fun p => (pieces p.1 p.2).map (fun q => (p.1 + q.1, q.2)))).find? (fun q =>
    match resolve s s.chip.slot s.chip.pasid q.1 q.2 k with
    | .peer m a => decide (m = o.pkt.dmod.toNat ∧ a / 8192 = o.pkt.ia.toNat / 8192)
    | _ => false)).elim ((l.head?).elim 0 Prod.fst) Prod.fst

/-- The piece of a remote A fetch that a request asked for. -/
def askedRow (s : State) (c : CompRun) (o : Outst) : Nat × Nat :=
  let l := (mmaRanges c c.step).flatMap cutRun
  (l.find? (fun q => match resolve s s.chip.slot s.chip.pasid q.1 q.2 .rd with
    | .peer m a => decide (m = o.pkt.dmod.toNat ∧ a = o.pkt.ia.toNat)
    | _ => false)).getD (l.headD (0, 0))

/-- The image a faulted write keeps. -/
def keptImg (s : State) (r : Run) (c : Chunk) : List (Byte × Bool) × State :=
  if c.img.isEmpty then
    let (fr, t) := freeBytes s (imgLen r.x (chunkItems s r.x c.lo c.hi))
    (fr.map (fun b => (b, true)), t)
  else (c.img, s)

/-- A request is answered FAULT (R104, R339, R348): its agent records the fault; a Lantern word's remote operation fails. -/
def answerFault (s : State) (rid : Nat) (o : Outst) (kind : Nat) : State :=
  match o.who with
  | .chunk e run idx off =>
    match waitingChunk s e run idx rid with
    | none => s
    | some (r, c) =>
      let l := chunkItems s r.x c.lo c.hi
      if !chunked r.x.op then accessFault s e r ((if xferCls r.x.op = 6 then r.x.src else r.x.dst) + off) kind
      else if phaseReads c.phase then
        (if r.x.pm then chunkRun s e r c (chunkPoison s e r c) else chunkFault s e r c 0 (fiaOf s (srcRanges l) (askedAt s (srcRanges l) o .rd)) kind none)
      else let (img, t) := keptImg s r c; chunkFault t e r c 1 (fiaOf s (dstRanges l) (askedAt s (dstRanges l) o .wr)) kind (some img)
  | .mcred e run idx _ =>
    match waitingChunk s e run idx rid with
    | none => s
    | some (r, c) => chunkFault (mcredGone s e run idx (rid, o)) e r c 0 (askedIa o) kind none
  | .acc m seq off =>
    match waitingAcc s m.toNat seq rid with
    | none => s
    | some a => accFault s m.toNat a (a.ia + off) kind
  | .word m => wordAnswer s m.toNat rid 4 0
  | .watch _ _ _ => s
  | .arm m => armed s m.toNat rid
  | .armAns q => respond s q 0x21 0 0 []
  | .granule j off => if off < 8192 then rpcFailFill s j kind else wbLost s j rid
  | .mxA k _ =>
    match (getUnit s k.toNat).mx.comp.find? (fun c => c.rids.contains rid) with
    | none => s
    | some c =>
      let t := tileIx c.cmd.ins
      let s1 := modAsk (modUnit s k.toNat (fun u => { u with
        tiles := smod {} u.tiles t (fun x => { x with stop := true, prog := c.step - 1 }) })) k.toNat rid
        (fun d => { d with fault := true, asked := false, abuf := [], rids := [] })
      let (a, n) := askedRow s c o
      let row := ((mmaRanges c c.step).find? (fun r => decide (r.1 ≤ a) && decide (a < r.1 + r.2))).elim a Prod.fst
      ringRecord s1 (k.toNat / 8) ⟨.mat k, 7, c.seq, 0, false, 0, n, kind⟩ (ringBits s1
        { fia := fiaOf s [(a, n)] a, sia := row, cseq := c.seq, eng := .mat k, cls := 7, kind := kind
          side := 0, len := n, tile := t, prog := c.step - 1 })
  | .trace => traceAnswer s false 0
  | .cp _ _ | .gone => s

/-- A request is not answered in time (R341). -/
def answerNone (s : State) (rid : Nat) (o : Outst) : State :=
  match o.who with
  | .chunk e run idx _ =>
    match waitingChunk s e run idx rid with
    | none => s
    | some (r, c) =>
      if !chunked r.x.op then accessTimeout s e r
      else if phaseReads c.phase then
        let t := modRun s e run (fun r => { r with stT := true })
        chunkRun t e r c (chunkPoison t e r c)
      else chunkTimeout s e r c
  | .mcred e run idx _ =>
    match waitingChunk s e run idx rid with
    | none => s
    | some (r, c) => chunkTimeout s e r c
  | .acc m seq _ =>
    match waitingAcc s m.toNat seq rid with
    | none => s
    | some a => accTimeout s m.toNat a
  | .word m => wordAnswer s m.toNat rid 4 0
  | .watch _ _ _ => s
  | .arm m => armed s m.toNat rid
  | .armAns q => respond s q 0x21 0 0 []
  | .granule j off => if off < 8192 then rpcFailFill s j fkTimeout else wbLost s j rid
  | .mxA k off => modAsk s k.toNat rid (fun c => { c with
      abuf := patch c.abuf off (List.replicate (askedLen o) (0, true)), rids := c.rids.erase rid })
  | .trace => traceAnswer s false 0
  | .cp _ _ | .gone => s

/-- A response reaches its requester (R325, R337, R341); one that nothing waits for is dropped, as is that of a load-and-reduce
request that has failed, which stays until it cannot travel any more (R347). -/
def onAnswer (s : State) (p : Packet) : State :=
  let rid := p.rid.toNat
  match s.outst.find? (fun q => q.1 == rid) with
  | none => s
  | some (_, o) =>
    let gone := { s with outst := serase s.outst rid }
    if o.who = .gone then (if o.pkt.type = 0x10 then s else gone)
    else if jobAway s o then gone
    else match p.st.toNat with
    | 1 =>
      if frozen s && decide (o.job = s.chip.slot) && !keepsDeferred o then answerDeferred gone o rid
      else { s with outst := sput s.outst rid { o with deferred := true, since := ptp s } }
    | 2 => answerFault gone rid o p.fk.toNat
    | _ => answerOk gone rid o p

/-- DATA (R336). -/
def execData (s : State) : Out := onPacket s (fun p => pktIs p 1 0x20 0 8) onAnswer
/-- ACK (R336). -/
def execAck (s : State) : Out := onPacket s (fun p => pktIs p 1 0x21 0 0) onAnswer

/-- RED (R338, R348): at a member, which adds its elements once it has read them; at the requester, the chunk's sums. -/
def execRed (s : State) : Out := onPacket s (fun p => pktIs p 2 0x30 8 8) (fun s p =>
  let i := p.pos.toNat
  if (presOf p).head? = some i then onAnswer s p
  else match s.mcr.find? (fun q => decide (q.smod = p.smod.toNat ∧ q.rid = p.rid.toNat)) with
    | some q => redNext { s with mcr := s.mcr.erase q } p i (redAdd (payloadImg p 512) q.img)
    | none => if (jobGate s p).isSome then s else { s with inputs := s.inputs ++ [(.red, { s.arg with pkt := p, flag := true })] })

/-- Whether an outstanding request has gone unanswered for 2 ms, or was never injected (R341). -/
def overdue (s : State) (o : Outst) : Bool := !o.deferred && (decide (o.since + 2000000 ≤ ptp s) || !o.injected)

/-- REQUEST_TIMEOUT (R341) of request j. -/
def execRequestTimeout (s : State) : Out :=
  .next (match s.outst.find? (fun q => q.1 == s.arg.j) with
  | none => s
  | some (rid, o) =>
    let gone := { s with outst := serase s.outst rid }
    if !overdue s o then s else if jobAway s o then gone else answerNone gone rid o)

/-! ## Circuits and links -/

/-- Whether the chip of a slot takes a schedule: switched in, or saved. -/
def modJobChip (s : State) (slot : Nat) (f : Chip → Chip) : State :=
  match s.images.find? (fun p => p.1 == slot) with
  | some (_, c) => { s with images := sput s.images slot (f c) }
  | none => if s.chip.slot = slot then modChip s f else s

/-- BELFRY_SLOT_BOUNDARY (R342, R345): a slot begins; loads that start at it replace every entry of their dies at once. The
connections of the slot are those of the entry that PTP time names (R343). -/
def execBelfrySlotBoundary (s : State) : Out :=
  let due := s.cp.belfryLoad.filter (fun l => decide (l.1 ≤ ptp s))
  let put := fun (t : State) (l : Nat × Nat × Nat × List (BitVec 128)) =>
    modJobChip t l.2.2.1 (fun c => { c with belfry := (List.range 4).foldl (fun b d =>
      if bit l.2.1 d then (l.2.2.2.mapIdx (fun i e => (256 * d + i, e))).foldl (fun b q => sset 0 b q.1 q.2) b else b) c.belfry })
  .next (due.foldl put { s with cp := { s.cp with belfryLoad := s.cp.belfryLoad.filter (fun l => !decide (l.1 ≤ ptp s)) } })

/-- LINK_BRINGUP (R351) of the link of port n. -/
def execLinkBringup (s : State) : Out := .next (linkUp s s.arg.n)

/-- The ports whose links lead to a module (R332, R333). -/
def portsTo (s : State) (m : Nat) : List Nat :=
  (List.range 128).filter (fun p =>
    let d := p / 32
    let n := (dimStep s d).2
    let x := coordOf s s.partMod d
    let y := if p / 16 % 2 = 0 then (x + 1) % n else (x + n - 1) % n
    decide (1 < n) && decide (s.partMod - x * (dimStep s d).1 + y * (dimStep s d).1 = m))

/-- PEER_RESET (R352) of module n: links to it come up with new nonces, and what it had to answer times out. -/
def execPeerReset (s : State) : Out :=
  let m := s.arg.n
  let lost := s.outst.filter (fun p => decide (p.2.pkt.dmod.toNat = m) && !p.2.deferred)
  .next (lost.foldl (fun t p =>
    if t.outst.any (fun q => q.1 == p.1) then answerNone { t with outst := serase t.outst p.1 } p.1 p.2 else t)
    ((portsTo s m).foldl linkUp s))

/-- HOT_SWAP_REMOVE (R346, R377): module n has left the partition; every multicast group entry loses its pres bit. -/
def execHotSwapRemove (s : State) : Out :=
  let m := s.arg.n
  let clr := fun (g : McGroup) =>
    let x := g.toNat
    let d := bits x 122 2
    let ring := (List.range 4).all (fun e => decide (e = d) || decide (coordOf s m e = coordOf s s.partMod e))
    (List.range (bits x 118 4 + 1)).foldl (fun (g : McGroup) i =>
      if ring && decide (bits x (4 * i) 4 = coordOf s m d) then g &&& ~~~ (BitVec.ofNat 128 (2 ^ (102 + i))) else g) g
  let fix := fun (c : Chip) => { c with mcg := (c.mcg.map (fun p => (p.1, clr p.2))).filter (fun p => p.2 != 0) }
  .next { s with chip := fix s.chip, images := s.images.map (fun p => (p.1, fix p.2)) }

/-- PARTITION_DISSOLVED (R349, R350): every job key is zeroised, and every entry of the key table is free. -/
def execPartitionDissolved (s : State) : Out := .next { s with cp := { s.cp with keys := [] } }

end Sys2Proof.Machine
end

