-- ==== Sys2Proof/Machine/Cp.lean ====
section
/-! DEFINITION. The command processor: queue tables, doorbells, slots, packets, completion records and signals (spec 19 R354 to R359, R363, R365, R367, R368, R404). -/

namespace Sys2Proof.Machine

/-! ## Fields -/

/-- Descriptor field (R356). -/
def qdRing (d : BitVec 512) : Nat := bits d.toNat 460 52 * 4096
/-- Descriptor field lsz. -/
def qdLsz (d : BitVec 512) : Nat := bits d.toNat 456 4
/-- Descriptor field vec. -/
def qdVec (d : BitVec 512) : Nat := bits d.toNat 448 8
/-- Descriptor field tailw. -/
def qdTailw (d : BitVec 512) : Nat := bits d.toNat 384 64
/-- Descriptor field headw. -/
def qdHeadw (d : BitVec 512) : Nat := bits d.toNat 320 64
/-- Descriptor field head. -/
def qdHead (d : BitVec 512) : Nat := bits d.toNat 224 16
/-- Descriptor bit dev. -/
def qdDev (d : BitVec 512) : Bool := bit d.toNat 4

/-- Opcode of a packet (R359). -/
def cpOp (p : CpPacket) : Nat := bits p.q0.toNat 0 8
/-- Whether a packet waits for every earlier command of its queue. -/
def cpFen (p : CpPacket) : Bool := bit p.q0.toNat 15
/-- A packet of 64 bytes. -/
def cpPacketOf (b : List Byte) : CpPacket :=
  let q := fun j => BitVec.ofNat 64 (ofBytes ((b.drop (8 * j)).take 8))
  ⟨q 0, q 1, q 2, q 3, q 4, q 5, q 6, q 7⟩

/-- The number of a reference: PASID, then queue. -/
def refKey (pasid q : Nat) : Nat := pasid * 64 + q
/-- PASID and queue as a reference. -/
def cmdRef (pasid q : Nat) : CmdRef := ⟨BitVec.ofNat 20 pasid, BitVec.ofNat 6 q⟩

/-- Change the command processor. -/
def modCp (s : State) (f : Cp → Cp) : State := { s with cp := f s.cp }
/-- Raise an MSI-X vector. -/
def raiseMsi (s : State) (v : Nat) : State := modCp s (fun c => { c with msix := c.msix ||| BitVec.ofNat 64 (2 ^ (v % 64)) })

/-! ## Jobs -/

/-- The job of a PASID: its slot and record (R360). -/
def jobOf (s : State) (pasid : Nat) : Option (Nat × Job) := s.cp.jobs.find? (fun p => p.2.pasid == pasid)
/-- The state with a slot's job switched in, to reach its on-chip state: its image where one is saved, which a switch restores
in place of what the module still holds. -/
def asJob (s : State) (slot : Nat) : State :=
  match s.images.find? (fun p => p.1 == slot) with
  | some p => { s with chip := p.2 }
  | none => if s.chip.slot = slot then s else { s with chip := freshChip s slot }
/-- Put a slot's on-chip state back where it was. -/
def backJob (s : State) (slot : Nat) (t : State) : State :=
  if s.chip.slot = slot ∧ (s.images.find? (fun p => p.1 == slot)).isNone then t
  else { t with chip := s.chip, images := sput t.images slot t.chip }
/-- Change a job's on-chip state, wherever it stands. -/
def inJob (s : State) (slot : Nat) (f : State → State) : State := backJob s slot (f (asJob s slot))
/-- Whether a slot's job is switched in and not under a switch (R323, R404). -/
def switchedIn (s : State) (slot : Nat) : Bool := decide (s.chip.slot = slot) && !frozen s
/-- How a slot's job was ended, if it was (R314, R315). -/
def jobEnded (s : State) (slot : Nat) : Option W64 := (asJob s slot).chip.ended

/-! ## Accesses by the command processor -/

/-- An access of the command processor through the MTS of a job's slot: a fault kind, a fill of the cache to wait for, or a
new state with what was read. -/
inductive CpAcc where
  | ok (b : List (Byte × Bool)) (s : State)
  | fault (kind : Nat) (s : State)
  | wait (s : State)

/-- Read or, with an image, write `n` bytes at an IA of this module for a job. An IA that is another module's or in no one
place of the map is a TABLE fault (log entry 11). -/
def cpAccess (s : State) (slot pasid ia n : Nat) (img : Option (List (Byte × Bool))) : CpAcc :=
  let lo := ia % 2 ^ 48
  let k : AKind := if img.isSome then .wr else .rd
  if (ia / 2 ^ 48 ≠ 0 ∧ ia / 2 ^ 48 ≠ s.partMod) ∨ !aperture s s.partMod lo (lo + n - 1) k then .fault fkTable s
  else
    let a := fullIa s lo
    let w := Reqr.cp slot (a / 8192)
    let t := { asJob s slot with asker := some w }
    let done := fun (u : State) => backJob s slot { u with asker := none }
    let rs := resolveAll t slot pasid a n k
    match faultOf rs, missOf rs with
    | some (_, f), _ => .fault f (done (failTaken t w))
    | none, some page => .wait (done (rpcMiss t page (firstInPage [(a, n)] (a / 8192 * 8192))))
    | none, none =>
      if hasPeer rs then .fault fkTable s
      else match img with
        | none => let (b, t1) := readIa t slot pasid a n; .ok b (done t1)
        | some im => .ok [] (done (writeIa t slot pasid a im))

/-- Bytes in host memory. -/
def hostRead (s : State) (a n : Nat) : List Byte := (rdImg s.host a n).map Prod.fst
/-- Write bytes of host memory. -/
def hostWrite (s : State) (a n v : Nat) : State := { s with host := writeNat s.host a n v }

/-- Read for a queue: host memory, or through the MTS with the job's slot (R358). -/
def qRead (s : State) (dev : Bool) (pasid a n : Nat) : CpAcc :=
  if !dev then .ok ((hostRead s a n).map (fun b => (b, false))) s
  else match jobOf s pasid with
    | none => .fault fkNoJob s
    | some (slot, _) => cpAccess s slot pasid a n none
/-- Write for a queue. -/
def qWrite (s : State) (dev : Bool) (pasid a n v : Nat) : CpAcc :=
  if !dev then .ok [] (hostWrite s a n v)
  else match jobOf s pasid with
    | none => .fault fkNoJob s
    | some (slot, _) => cpAccess s slot pasid a n (some ((toBytes v n).map (fun b => (b, false))))

/-! ## Completion -/

/-- Completion statuses (R359). -/
def stOk : Nat := 0
/-- REJECT. -/
def stReject : Nat := 1
/-- DENIED. -/
def stDenied : Nat := 2
/-- FAULT. -/
def stFault : Nat := 3
/-- TIMEOUT. -/
def stTimeout : Nat := 4
/-- ABORTED. -/
def stAborted : Nat := 5
/-- NVME. -/
def stNvme : Nat := 6
/-- OVERRUN. -/
def stOverrun : Nat := 7

/-- A command as it starts from a bound queue. -/
def mkCmd (s : State) (b : BoundQ) (p : CpPacket) : CpCmd where
  id := s.cp.nextId
  r := cmdRef b.pasid b.q
  p := p
  dev := qdDev b.desc
  job := ((jobOf s b.pasid).map Prod.fst).getD 1024
  vec := qdVec b.desc
  staged := []
  runs := []
  fault := none
  quiet := false
  abort := false
  since := ptp s

/-- The completion of a command: its record is to be written, unless a queue reset suppressed it (R359, R367). -/
def cpFinish (s : State) (c : CpCmd) (st val : Nat) : State :=
  if c.quiet then s
  else modCp s (fun x => { x with recs := x.recs ++ [{
    dev := c.dev, job := c.job, addr := c.p.q7.toNat, tag := bits c.p.q0.toNat 32 32, st := st, val := val % 2 ^ 64
    irq := if bit c.p.q0.toNat 14 && !c.dev then some c.vec else none, r := c.r }] })

/-- COMPLETION_RECORD_WRITE (R359): record j is one 16-byte write; a fault of the write drops it; then its vector is raised. -/
def execCompletionRecordWrite (s : State) : Out :=
  .next (match s.cp.recs[s.arg.j]? with
  | none => s
  | some r =>
    let v := r.val * 2 ^ 64 + r.tag * 2 ^ 32 + r.st
    let gone := modCp s (fun x => { x with recs := x.recs.eraseIdx s.arg.j })
    let irq := fun (t : State) => match r.irq with | some w => raiseMsi t w | none => t
    if r.addr = 0 then irq gone
    else match qWrite gone r.dev r.r.pasid.toNat r.addr 16 v with
      | .ok _ t => irq t
      | .fault _ t => irq t
      | .wait t => { t with cp := s.cp })

/-! ## Signals -/

/-- A wait condition (R356 wcond); 11 is unassigned. -/
def condHolds (cond : Nat) (x v : W64) : Bool :=
  match cond with
  | 0 => v.ule x
  | 1 => x == v
  | 2 => x != v
  | _ => false

/-- A signal changes (R360, R363): every parked condition that names it is evaluated. -/
def setSignal (s : State) (i : Nat) (v : W64) : State :=
  modCp s (fun c => { c with
    signals := sset 0 c.signals i v
    parked := c.parked.map (fun p => if p.sig = i then { p with met := p.met || condHolds p.cond v p.val } else p) })

/-! ## Slots -/

/-- The slot a queue is bound to. -/
def slotOfQ (s : State) (pasid q : Nat) : Option (Nat × BoundQ) :=
  s.cp.slots.find? (fun p => p.2.pasid == pasid && p.2.q == q)
/-- Replace a slot. -/
def putSlot (s : State) (j : Nat) (b : BoundQ) : State := modCp s (fun c => { c with slots := sput c.slots j b })
/-- A free slot. -/
def freeSlot (s : State) : Option Nat := (List.range 64).find? (fun j => !s.cp.slots.any (fun p => p.1 == j))
/-- What a walk of the queue table finds (R357). -/
inductive QWalk where
  /-- An entry with v = 0, or a queue number above nq. -/
  | gone
  /-- An entry with p = 0. -/
  | away
  | found (at0 : Nat) (desc : BitVec 512)

/-- Set bit a of an entry's first byte by a locked write (R357). -/
def setA (s : State) (a : Nat) : State := hostWrite s a 1 ((rdByte s.host.cells a).toNat ||| 4)

/-- Walk both levels of the queue table (R356, R357); bit a is set in the entries used. -/
def walkQueue (s : State) (pasid q : Nat) : QWalk × State :=
  let a1 := bits s.cp.qroot.toNat 12 52 * 4096 + 8 * pasid
  let e := ofBytes (hostRead s a1 8)
  if !bit e 0 then (.gone, s)
  else if !bit e 1 then (.away, s)
  else
    let s1 := setA s a1
    if bits e 6 6 < q then (.gone, s1)
    else
      let a2 := bits e 12 52 * 4096 + 64 * q
      let d := ofBytes (hostRead s1 a2 64)
      if !bit d 0 then (.gone, s1)
      else if !bit d 1 then (.away, s1)
      else
        let s2 := setA s1 a2
        (.found a2 (BitVec.ofNat 512 (ofBytes (hostRead s2 a2 64))), s2)

/-- Write back head, w and the wait fields of a descriptor (R357, R363). -/
def writeBack (s : State) (a head : Nat) (w : Option (Nat × W64 × Nat)) : State :=
  let b0 := (rdByte s.host.cells a).toNat
  let s1 := hostWrite s a 1 (b0 / 16 * 16 + b0 % 8 + (if w.isSome then 8 else 0))
  let s2 := hostWrite s1 (a + 28) 2 head
  match w with
  | none => s2
  | some (sig, v, cond) => hostWrite s2 (a + 30) 10 (sig * 16 + cond * 4 + v.toNat * 2 ^ 16)

/-- Dropped doorbells are counted (R370). -/
def countDrop (s : State) : State := { s with svc := { s.svc with drop := min 65535 (s.svc.drop + 1) } }

/-- The packet at a queue's head, where it can be read. -/
def headPacket (s : State) (b : BoundQ) : Option CpPacket :=
  match qRead s (qdDev b.desc) b.pasid (qdRing b.desc + 64 * (b.head % 2 ^ qdLsz b.desc)) 64 with
  | .ok x _ => some (cpPacketOf (x.map Prod.fst))
  | _ => none

/-- Halt a queue with a record for the packet at its head (R358). -/
def haltQueue (s : State) (j : Nat) (b : BoundQ) (p : Option CpPacket) (st val : Nat) : State :=
  let s1 := putSlot s j { b with halted := true, held := none }
  match p with
  | none => s1
  | some p => cpFinish s1 (mkCmd s1 b p) st val

/-- Halt a device queue on a memory-side fault; MSI-X vector 0 is raised (R358). -/
def haltFault (s : State) (j : Nat) (b : BoundQ) (p : Option CpPacket) (kind : Nat) : State :=
  raiseMsi (haltQueue s j b p stFault kind) 0

/-- A queue's tail is known anew (R358): an overrun halts it. -/
def setTail (s : State) (j : Nat) (b : BoundQ) (tail : Nat) : State :=
  let tail := tail % 65536
  if b.halted then s
  else
    let b1 := { b with tail := tail, idle := if tail = b.head then b.idle else ptp s }
    if 2 ^ qdLsz b.desc < (tail + 65536 - b.head) % 65536 then haltQueue s j b1 (headPacket s b1) stOverrun 0
    else putSlot s j b1

/-- The tail of a bound queue: from its doorbells, or from its tail word (R357). -/
def loadTail (s : State) (j : Nat) : State :=
  match s.cp.slots.find? (fun p => p.1 == j) with
  | none => s
  | some (_, b) =>
    if !qdDev b.desc then setTail s j b (sget b.head s.cp.tails (refKey b.pasid b.q))
    else match qRead s true b.pasid (qdTailw b.desc) 8 with
      | .ok x s1 => setTail s1 j b (ofBytes (x.map Prod.fst))
      | .fault k t => haltFault t j b (headPacket t b) k
      | .wait s1 => s1

/-- Bind a queue to a free slot (R357); one that comes back from parking has its WAIT completed (R363). -/
def bindTo (s : State) (j pasid q at0 : Nat) (d : BitVec 512) : State :=
  let b : BoundQ := { pasid := pasid, q := q, desc := d, at0 := at0, head := qdHead d, tail := qdHead d, halted := false
                      idle := ptp s, ind := [], held := none }
  let s1 := if qdDev d then modCp s (fun c => { c with
    tailw := c.tailw.filter (fun t => !(t.1 == pasid && t.2.1 == q)) ++ [(pasid, q, qdTailw d)] }) else s
  match s1.cp.parked.find? (fun p => p.pasid == pasid && p.q == q) with
  | none => loadTail (putSlot s1 j b) j
  | some w =>
    let b := { b with ind := w.ind }
    let s2 := writeBack (modCp s1 (fun c => { c with parked := c.parked.filter (fun p => !(p.pasid == pasid && p.q == q)) })) at0 b.head none
    let s3 := putSlot s2 j b
    loadTail (cpFinish s3 (mkCmd s3 b w.pkt) stOk 0) j

/-- What an error in the walk for a queue does (R357): with v = 0 the doorbell is dropped and counted, and a parked queue waits
for its signal's next change or a doorbell; with p = 0 the doorbell is held pending and MSI-X vector 0 raised (log entry 57). -/
def walkFails (s : State) (pasid q : Nat) : QWalk → State
  | .gone => countDrop (modCp s (fun c => { c with
      parked := c.parked.map (fun p => if p.pasid = pasid ∧ p.q = q then { p with met := false } else p) }))
  | .away => raiseMsi (modCp s (fun c => { c with doorPend := c.doorPend ++ [BitVec.ofNat 64 (pasid * 2 ^ 44 + q * 2 ^ 38)] })) 0
  | .found _ _ => s

/-- Take queues off the bind list, at most `n`, until one is bound or no slot is free (R357). Each is walked as it is bound: a
parked queue too, whose copy of its descriptor went with its slot. -/
def bindNext : Nat → State → State
  | 0, s => s
  | n + 1, s =>
    match s.cp.binds, freeSlot s with
    | (pasid, q) :: r, some j =>
      match walkQueue (modCp s (fun c => { c with binds := r })) pasid q with
      | (.found a d, t) => bindTo t j pasid q a d
      | (w, t) => bindNext n (walkFails t pasid q w)
    | _, _ => s

/-- Bind what can be bound. -/
def bindAny (s : State) : State := bindNext s.cp.binds.length s

/-- A queue asks for a slot: at once, or at the end of the bind list (R357). -/
def askBind (s : State) (pasid q : Nat) : State :=
  if s.cp.binds.any (fun b => b.1 == pasid && b.2 == q) then s
  else bindAny (modCp s (fun c => { c with binds := c.binds ++ [(pasid, q)] }))

/-- A doorbell of an unbound queue (R357): the walk, and its errors. -/
def ringUnbound (s : State) (pasid q : Nat) : State :=
  match walkQueue s pasid q with
  | (.found _ _, t) => askBind t pasid q
  | (w, t) => walkFails t pasid q w

/-- Whether a queue is parked on a condition that neither held at a change of its signal nor holds now (R363). -/
def staysParked (s : State) (pasid q : Nat) : Bool :=
  s.cp.parked.any (fun p => p.pasid == pasid && p.q == q && !p.met && !condHolds p.cond (sget 0 s.cp.signals p.sig) p.val)

/-- Whether a doorbell of a queue is held pending (R357). -/
def doorHeld (s : State) (pasid q : Nat) : Bool := s.cp.doorPend.any (fun d => d.toNat / 2 ^ 38 == pasid * 64 + q)

/-- Whether a reset of a queue runs (R367, R368). -/
def resetRuns (s : State) (pasid q : Nat) : Bool := s.cp.resetting.contains (pasid, q)

/-- DOORBELL (R356, R357, R368): arg.v is written to cp.door. -/
def execDoorbell (s : State) : Out :=
  let v := s.arg.v.toNat
  let pasid := bits v 44 20
  let q := bits v 38 6
  .next (if !s.svc.ready || !bit s.cp.qroot.toNat 0 || resetRuns s pasid q then s
  else
    let s1 := modCp s (fun c => { c with
      tails := sput c.tails (refKey pasid q) (bits v 0 16)
      doorPend := c.doorPend.filter (fun d => decide (d.toNat / 2 ^ 38 ≠ v / 2 ^ 38)) })
    match slotOfQ s1 pasid q with
    | some (j, _) => loadTail s1 j
    | none => if staysParked s1 pasid q then s1 else ringUnbound s1 pasid q)

/-- TAIL_WORD_WRITE (R357): the MTS reports a write to the tail word, at arg.j, of a device queue. -/
def execTailWordWrite (s : State) : Out :=
  let pasid := s.arg.ref.pasid.toNat
  let q := s.arg.ref.queue.toNat
  .next (if !s.cp.tailw.contains (pasid, q, s.arg.j) || resetRuns s pasid q then s
  else match slotOfQ s pasid q with
    | some (j, _) => loadTail s j
    | none => if staysParked s pasid q then s else ringUnbound s pasid q)

/-- HOST_REGISTER_WRITE (R356, R369): value arg.v at BAR0 offset arg.n. cp.qroot takes its fields; every other register with
no behaviour of its own is read only. -/
def execHostRegisterWrite (s : State) : Out :=
  .next (if s.svc.ready && s.arg.n == 0 then modCp s (fun c => { c with qroot := s.arg.v &&& 0xFFFFFFFFFFFFF001 }) else s)

/-- Free a slot, its queue's fields written back, and serve the bind list (R357). -/
def unbindSlot (s : State) (j : Nat) (b : BoundQ) (w : Option (Nat × W64 × Nat)) : State :=
  bindAny (writeBack (modCp s (fun c => { c with slots := serase c.slots j })) b.at0 b.head w)

/-- QUEUE_UNBIND (R357) of slot j: its queue has been empty for 64 microseconds. -/
def execQueueUnbind (s : State) : Out :=
  .next (match s.cp.slots.find? (fun p => p.1 == s.arg.j) with
  | none => s
  | some (j, b) =>
    if b.head ≠ b.tail ∨ b.halted ∨ b.ind ≠ [] ∨ b.held.isSome ∨ ptp s < b.idle + 64000 then s
    else unbindSlot s j b none)

/-! ## Fetch and start -/

/-- Whether an opcode is assigned (R360). -/
def opAssigned (op : Nat) : Bool :=
  [0x00, 0x01, 0x02, 0x03, 0x04, 0x05, 0x08, 0x09, 0x0A, 0x0B, 0x10, 0x11, 0x18, 0x19, 0x1A, 0x20, 0x21, 0x30, 0x31, 0x32, 0x33, 0x34, 0x35,
   0x36].contains op

/-- Commands of a queue that have started and are not complete. -/
def openCmds (s : State) (r : CmdRef) : List CpCmd := s.cp.cmds.filter (fun c => c.r == r && !c.quiet)

/-- Whether a fen bit holds a packet back: an earlier command of its queue is not complete, or its record is not written
(R359). An INDIRECT whose packet this is is no earlier command (R365). -/
def fenced (s : State) (r : CmdRef) (p : CpPacket) : Bool :=
  cpFen p && ((openCmds s r).any (fun c => cpOp c.p != 0x04) || s.cp.recs.any (fun x => x.r == r))

/-- A fetched packet is held at the queue's head until its command starts; one with an unassigned op completes REJECT. -/
def startFetched (s : State) (j : Nat) (b : BoundQ) (p : CpPacket) : State :=
  if !opAssigned (cpOp p) && !fenced s (cmdRef b.pasid b.q) p then
    let s1 := putSlot s j { b with held := none }
    cpFinish (modCp s1 (fun c => { c with nextId := c.nextId + 1 })) (mkCmd s1 b p) stReject 0
  else putSlot s j { b with held := some p }

/-- COMMAND_FETCH (R357, R358) of slot j: its turn comes, the next packet is fetched and the head count written. -/
def execCommandFetch (s : State) : Out :=
  .next (match s.cp.slots.find? (fun p => p.1 == s.arg.j) with
  | none => s
  | some (j, b) =>
    let s := modCp s (fun c => { c with rr := (j + 1) % 64 })
    if b.halted || resetRuns s b.pasid b.q then s
    else match b.held, b.ind with
      | some p, _ => if opAssigned (cpOp p) then s else startFetched s j b p
      | none, p :: r => startFetched s j { b with ind := r } p
      | none, [] =>
        if b.head = b.tail ∨ (openCmds s (cmdRef b.pasid b.q)).any (fun c => cpOp c.p == 0x04) then s
        else match qRead s (qdDev b.desc) b.pasid (qdRing b.desc + 64 * (b.head % 2 ^ qdLsz b.desc)) 64 with
          | .wait t => t
          | .fault k t => haltFault t j b none k
          | .ok x t =>
            let p := cpPacketOf (x.map Prod.fst)
            let head := (b.head + 1) % 65536
            match qWrite t (qdDev b.desc) b.pasid (qdHeadw b.desc) 8 head with
            | .wait u => u
            | .fault k u => haltFault u j b (some p) k
            | .ok _ u => startFetched u j { b with head := head, idle := ptp s } p)

/-! ## Commands -/

/-- How a command goes on once it starts. -/
inductive CmdRes where
  | done (s : State) (st val : Nat)
  /-- It cannot start yet and stays at the queue's head. -/
  | wait (s : State)
  /-- It has started and is not complete: the record it is kept under. -/
  | later (s : State) (c : CpCmd)
  /-- Its queue has been parked. -/
  | parked (s : State)

/-- When a command may act (R360, R404). -/
inductive CmdKind where
  /-- NOP: needs no job. -/
  | free
  /-- INDIRECT: needs no job; ABORTED for an ended one. -/
  | ind
  /-- WAIT, SIGNAL: as usual for an ended job. -/
  | sig
  /-- Acts at once; ABORTED for an ended job. -/
  | now
  /-- Acts on on-chip state: waits for the job to be switched in. -/
  | chip
  /-- Host only. -/
  | host
deriving DecidableEq, Repr

/-- What a command works on: its slot, queue, itself, and its job with the job's slot. -/
structure CmdCtx where
  j : Nat
  b : BoundQ
  c : CpCmd
  job : Option (Nat × Job)

/-- Slot of the command's job. -/
def CmdCtx.slot (x : CmdCtx) : Nat := (x.job.map Prod.fst).getD 1024
/-- An operand. -/
def CmdCtx.q (x : CmdCtx) (i : Nat) : Nat :=
  (match i with | 1 => x.c.p.q1 | 2 => x.c.p.q2 | 3 => x.c.p.q3 | 4 => x.c.p.q4 | 5 => x.c.p.q5 | 6 => x.c.p.q6 | _ => x.c.p.q7).toNat

/-- The queue whose head holds the packet of this event. -/
def heldSlot (s : State) : Option (Nat × BoundQ) :=
  match slotOfQ s s.arg.ref.pasid.toNat s.arg.ref.queue.toNat with
  | some (j, b) => if b.held = some s.arg.cp then some (j, b) else none
  | none => none

/-- Whether header and operands set a bit that nothing names (R359, R360). -/
def strayBits (p : CpPacket) (named : List Nat) : Bool :=
  bits p.q0.toNat 16 16 ≠ 0 || bits p.q0.toNat 8 6 ≠ 0
    || ([p.q1, p.q2, p.q3, p.q4, p.q5, p.q6].zipIdx.any (fun q => (q.1 &&& ~~~ (BitVec.ofNat 64 (named.getD q.2 0))) != 0))

/-- All 64 bits. -/
def q64 : Nat := 2 ^ 64 - 1
/-- The low `n` bits. -/
def lowBits (n : Nat) : Nat := 2 ^ n - 1

/-- The start of a held command (R359, R360, R404): refused, ended, waiting for its job, or run by `f`. -/
def runCmd (s : State) (op : Nat) (kind : CmdKind) (named : List Nat) (f : State → CmdCtx → CmdRes) : Out :=
  .next (match heldSlot s with
  | none => s
  | some (j, b) =>
    let p := s.arg.cp
    let r := cmdRef b.pasid b.q
    if cpOp p ≠ op ∨ b.halted = true ∨ fenced s r p = true ∨ resetRuns s b.pasid b.q = true then s
    else
      let c := mkCmd s b p
      let job := jobOf s b.pasid
      let b1 := { b with held := none }
      let t := modCp (putSlot s j b1) (fun c => { c with nextId := c.nextId + 1 })
      if strayBits p named || (kind == .host && c.dev) || (kind == .sig && job.isNone) then
        cpFinish t c stReject 0
      else if (kind == .now || kind == .chip || kind == .ind) && ((jobEnded s c.job).isSome || (job.isNone && s.cp.gone.contains b.pasid)) then
        cpFinish t c stAborted 0
      else if (kind == .now || kind == .chip) && job.isNone then cpFinish t c stReject 0
      else if kind == .chip && !switchedIn s c.job then s
      else match f t ⟨j, b1, c, job⟩ with
        | .done u st val => cpFinish u c st val
        | .wait u => modCp (putSlot u j b) (fun x => { x with nextId := s.cp.nextId })
        | .later u c1 => modCp u (fun x => { x with cmds := x.cmds ++ [c1] })
        | .parked u => u)

/-- NOP (R360). -/
def execNop (s : State) : Out := runCmd s 0x00 .free [] (fun t _ => .done t stOk 0)

/-- Whether a signal index lies in a job's range (R360). -/
def sigOk (x : CmdCtx) (i : Nat) : Bool := x.job.any (fun q => decide (q.2.sig0 ≤ i) && decide (i < q.2.sig0 + q.2.sigN))

/-- WAIT (R363): it completes at once, or the queue is parked and its slot freed. -/
def execWait (s : State) : Out := runCmd s 0x02 .sig [lowBits 12, q64, 3] (fun t x =>
  let i := x.q 1
  let cond := x.q 3
  if cond = 3 ∨ sigOk x i = false then .done t stReject 0
  else if condHolds cond (sget 0 t.cp.signals i) x.c.p.q2 then .done t stOk 0
  else
    let u := modCp t (fun c => { c with parked := c.parked ++ [{
      pasid := x.b.pasid, q := x.b.q, sig := i, val := x.c.p.q2, cond := cond, pkt := x.c.p, ind := x.b.ind, met := false }] })
    .parked (unbindSlot u x.j x.b (some (i, x.c.p.q2, cond))))

/-- WAIT_WAKEUP (R363): the signal unit puts a parked queue whose condition has held on the bind list. -/
def execWaitWakeup (s : State) : Out :=
  let pasid := s.arg.ref.pasid.toNat
  let q := s.arg.ref.queue.toNat
  .next (match s.cp.parked.find? (fun p => p.pasid == pasid && p.q == q) with
  | none => s
  | some p => if p.met && !doorHeld s pasid q then askBind s pasid q else s)

/-- SIGNAL (R360): sets a signal, or adds to it. -/
def execSignal (s : State) : Out := runCmd s 0x03 .sig [lowBits 12, q64, 1] (fun t x =>
  let i := x.q 1
  if sigOk x i = false then .done t stReject 0
  else .done (setSignal t i (if x.q 3 = 0 then x.c.p.q2 else sget 0 t.cp.signals i + x.c.p.q2)) stOk 0)

/-- A started command by its number. -/
def cmdById (s : State) (n : Nat) : Option CpCmd := s.cp.cmds.find? (fun c => c.id == n)
/-- A started command is complete. -/
def cmdDone (s : State) (c : CpCmd) (st val : Nat) : State :=
  cpFinish (modCp s (fun x => { x with cmds := x.cmds.filter (fun d => d.id != c.id) })) c st val

/-- A further event of a started command: arg.n is its number. -/
def pollCmd (s : State) (op : Nat) (f : State → CpCmd → State) : Out :=
  .next (match cmdById s s.arg.n with
  | none => s
  | some c => if cpOp c.p = op then f s c else s)

/-- INDIRECT (R365): its packets stand at its place in the ring; with arg.flag = 0, its last packet has started and it is
complete. -/
def execIndirect (s : State) : Out :=
  if s.arg.flag then runCmd s 0x04 .ind [q64 - 63, lowBits 17] (fun t x =>
    let n := x.q 2
    if n = 0 ∨ 65536 < n ∨ (openCmds t x.c.r).any (fun c => cpOp c.p == 0x04) then .done t stReject 0
    else .later (putSlot t x.j { x.b with ind := (List.range n).map (fun i => cpPacketOf (hostRead t (x.q 1 + 64 * i) 64)) }) x.c)
  else pollCmd s 0x04 (fun t c =>
    match slotOfQ t c.r.pasid.toNat c.r.queue.toNat with
    | some (_, b) => if b.ind.isEmpty && b.held.isNone then cmdDone t c stOk 0 else t
    | none =>
      if t.cp.parked.any (fun p => p.pasid == c.r.pasid.toNat && p.q == c.r.queue.toNat && p.ind.isEmpty) then cmdDone t c stOk 0 else t)

/-! ## Queue reset -/

/-- A staged LAUNCH of a queue under reset is discarded where it has not swapped in; its programs run on, unreported (R367). -/
def resetLaunch (s : State) (c : CpCmd) : State :=
  let free := fun (t : State) (m : Nat) => modCl t m (fun k => match k.shadow with
    | some g => if g.cmd = c.id then { k with shadow := none } else k
    | none => k)
  let s1 := inJob s c.job (fun t => c.staged.foldl free t)
  let drop := fun (l : List CpCmd) => l.filter (fun d => d.id != c.id)
  let hush := fun (l : List CpCmd) => l.map (fun d => if d.id = c.id then { d with staged := [], quiet := true } else d)
  modCp s1 (fun x => { x with cmds := (if c.runs.isEmpty then drop x.cmds else hush x.cmds) })

/-- The reset of a queue ends (R367): nothing of its commands is open, its head is zero and its slot free. -/
def resetEnd (s : State) (pasid q : Nat) : State :=
  let s1 := modCp s (fun c => { c with resetting := c.resetting.filter (fun p => p != (pasid, q)), tails := serase c.tails (refKey pasid q) })
  match slotOfQ s1 pasid q with
  | some (j, b) => unbindSlot s1 j { b with head := 0 } none
  | none => match walkQueue s1 pasid q with
    | (.found a _, _) => writeBack s1 a 0 none
    | _ => s1

/-- QUEUE_RESET (R367): arg.v is written to cp.qreset; while its reset runs, the same event goes on with it. NVMe transfers of
the queue are aborted and awaited. -/
def execQueueReset (s : State) : Out :=
  let v := s.arg.v.toNat
  let pasid := bits v 44 20
  let q := bits v 38 6
  let r := cmdRef pasid q
  .next (if !s.svc.ready then s
  else if resetRuns s pasid q then
    (if (openCmds s r).isEmpty && !s.cp.recs.any (fun x => x.r == r) then resetEnd s pasid q else s)
  else if !bit v 0 then s
  else
    let s1 := modCp s (fun c => { c with
      qreset := BitVec.ofNat 64 (v / 2 ^ 38 * 2 ^ 38)
      resetting := c.resetting ++ [(pasid, q)]
      binds := c.binds.filter (fun p => p != (pasid, q))
      parked := c.parked.filter (fun p => !(p.pasid == pasid && p.q == q))
      cmds := (c.cmds.filter (fun d => !(d.r == r && cpOp d.p == 0x04))).map (fun d =>
        if d.r = r ∧ (cpOp d.p = 0x20 ∨ cpOp d.p = 0x21) then { d with abort := true } else d) })
    let s2 := match slotOfQ s1 pasid q with
      | some (j, b) => putSlot s1 j { b with held := none, ind := [], halted := true }
      | none => s1
    ((openCmds s2 r).filter (fun c => cpOp c.p == 0x01)).foldl resetLaunch s2)

/-! ## Reads of BAR0 -/

/-- cp.status (R370). -/
def cpStatus (v : Service) : Nat :=
  let flag := fun (b : Bool) (i : Nat) => if b then 2 ^ i else 0
  v.drop * 2 ^ 48 + v.fwver % 65536 * 2 ^ 32 + v.spared.length % 256 * 2 ^ 24
    + (v.lanes.filter (fun p => p.2 == 1)).length % 256 * 2 ^ 16 + v.disabled.length % 256 * 2 ^ 8
    + flag v.upd 7 + flag v.plock 6 + flag v.pr 5 + flag v.ready 0

/-- What a read of 8 bytes at a BAR0 offset finds (R356, R360, R367, R369): cp.qroot, cp.qreset with its busy bit, cp.status, and
the 4,096 signals; 0 where nothing is laid out. -/
def bar0 (s : State) (off : Nat) : W64 :=
  if off = 0 then s.cp.qroot
  else if off = 0x10 then
    s.cp.qreset + BitVec.ofNat 64 (if resetRuns s (bits s.cp.qreset.toNat 44 20) (bits s.cp.qreset.toNat 38 6) then 2 else 0)
  else if off = 0x18 then BitVec.ofNat 64 (cpStatus s.svc)
  else if 0x8000 ≤ off ∧ off % 8 = 0 then sget 0 s.cp.signals ((off - 0x8000) / 8)
  else 0

/-! ## CXL.mem -/

/-- Bytes of the HDM range (R354). -/
def hdmBytes : Nat := 768 * 2 ^ 30

/-- CXL_MEM_READ (R355, R369): n bytes at offset v, which is the MPA; before the boot is complete, an error. -/
def execCxlMemRead (s : State) : Out :=
  .next (if !s.svc.ready || decide (hdmBytes < s.arg.v.toNat + s.arg.n) then modCp s (fun c => { c with rdata := [] })
  else
    let (b, t) := readLoc s (.hbm s.arg.v.toNat) s.arg.n
    modCp t (fun c => { c with rdata := b }))

/-- CXL_MEM_WRITE (R355, R369): the bytes arg.dat at offset v. -/
def execCxlMemWrite (s : State) : Out :=
  .next (if !s.svc.ready || decide (hdmBytes < s.arg.v.toNat + s.arg.dat.length) then s
  else writeLoc s (.hbm s.arg.v.toNat) (s.arg.dat.map (fun b => (b, false))))

end Sys2Proof.Machine
end

