-- ==== Sys2Proof/Machine/CpCmds.lean ====
section
/-! DEFINITION. The commands of the command processor that act on jobs: PLACE, LAUNCH, mapping, unit commands, schedules, NVMe, jobs and configuration (spec 19 R360 to R366). -/

namespace Sys2Proof.Machine

/-! ## PLACE -/

/-- Whether `n` bytes at an IA are HBM of this module, in one view (R361, R362, R364). -/
def hbmRange (s : State) (ia n : Nat) : Bool :=
  let lo := ia % 2 ^ 48
  decide (ia / 2 ^ 48 = 0 ∨ ia / 2 ^ 48 = s.partMod) && decide (0 < n)
    && (iaRow lo == some 0 || iaRow lo == some 1) && iaRow lo == iaRow (lo + n - 1)

/-- Whether `n` bytes at an IA lie in the used part of one slot of a scratchpad or code store row (R361). -/
def placeDst (s : State) (ia n : Nat) : Bool :=
  let lo := ia % 2 ^ 48
  let slotOf := fun (a : Nat) => if iaRow a = some 5 then (a - codeBase 0) / codeSize else iaSlot a
  decide (ia / 2 ^ 48 = 0 ∨ ia / 2 ^ 48 = s.partMod)
    && (iaRow lo == some 2 || iaRow lo == some 3 || iaRow lo == some 4 || iaRow lo == some 5)
    && iaRow lo == iaRow (lo + n - 1) && slotOf lo == slotOf (lo + n - 1)

/-- Copy `n` bytes from HBM to on-chip memory, 2 KiB at a time, until a source faults (R361). -/
def placeCopy (slot pasid src dst : Nat) : Nat → Nat → State → State × Option Nat
  | 0, _, s => (s, none)
  | fuel + 1, n, s =>
    if n = 0 then (s, none)
    else
      let k := min n 2048
      match cpAccess s slot pasid src k none with
      | .ok b t =>
        placeCopy slot pasid (src + k) (dst + k) fuel (n - k) (writeLoc (codeKeep t (fullIa t dst) k) (.chip dst) b)
      | .fault f t => (t, some f)
      | .wait t => (t, some fkTable)

/-- PLACE (R361): it fills scratchpads and code stores of the job from its HBM, with poison. -/
def execPlace (s : State) : Out := runCmd s 0x05 .chip [q64, q64, q64] (fun t x =>
  let n := x.q 3
  if n = 0 ∨ n % 32 ≠ 0 ∨ 64 * 2 ^ 20 < n ∨ hbmRange t (x.q 1) n = false ∨ placeDst t (x.q 2) n = false then .done t stReject 0
  else match placeCopy x.slot x.b.pasid (x.q 1) (x.q 2 % 2 ^ 48) (n / 2048 + 1) n t with
    | (u, none) => .done u stOk 0
    | (u, some f) => .done u stFault f)

/-! ## LAUNCH -/

/-- Clusters of a mask. -/
def clusterList (mask : Nat) : List Nat := (List.range 32).filter (bit mask)

/-- Rename pool of q6: granules, cluster offset in granules (R360). -/
def poolOf (q6 : Nat) : Nat × Nat := (bits q6 32 16, bits q6 15 17)

/-- LAUNCH (R362, step 1): once every named shadow bank is free, the context is staged. -/
def execLaunch (s : State) : Out :=
  runCmd s 0x01 .chip [lowBits 32, lowBits 21 + 2 ^ 51 + lowBits 12 * 2 ^ 52, q64, q64, q64, q64 - lowBits 15] (fun t x =>
    let q2 := x.q 2
    let (gr, off) := poolOf (x.q 6)
    if 32768 < gr ∨ clSize < 128 * (off + gr) ∨ (bit q2 51 && !sigOk x (bits q2 52 12)) = true
        ∨ (x.q 4 ≠ 0 ∧ hbmRange t (x.q 4) codeSize = false) then .done t stReject 0
    else
      let ms := clusterList (x.q 1)
      if ms.any (fun m => (getCl t m).shadow.isSome) then .wait t
      else
        let g : Staged := { cmd := x.c.id, entry := bits q2 0 21, arg := x.c.p.q3, image := x.c.p.q4, ovf := x.c.p.q5, pool := x.c.p.q6 }
        .later (ms.foldl (fun u m => modCl u m (fun c => { c with shadow := some g })) t) { x.c with staged := ms })

/-- Change a started command. -/
def modCmd (s : State) (id : Nat) (f : CpCmd → CpCmd) : State :=
  modCp s (fun c => { c with cmds := c.cmds.map (fun d => if d.id = id then f d else d) })

/-- The hold slots of a Lantern core are freed (R267): an image that a pending entry keeps in one goes on with its chunk (log
entry 23). -/
def freeHolds (c : Cluster) : Cluster :=
  let x := c.lan.x
  { c with
    lan := { c.lan with
      x := { x with
        holds := []
        runs := x.runs.map (fun r => { r with chunks := r.chunks.map (fun k => match k.hslot with
          | some h => if h < 8 then { k with img := (sget {} x.holds h).img, hslot := none } else k
          | none => k) }) }
      accs := c.lan.accs.map (fun a => if a.hslot.any (fun h => decide (h < 8)) then { a with hslot := none } else a) }
    pend := c.pend.map (fun p => match p.2.eng with
      | .lantern _ => if p.2.held then (p.1, { p.2 with hslot := 8 }) else p
      | _ => p) }

/-- The start of a graph program (R267, R198): s1 is the argument, every other register 0, its tags free and its counters
zero. Other CSRs keep their values. -/
def lanStart (l : Lan) (entry : Nat) (arg : W64) (seen : Nat) : Lan :=
  { l with
    on := true
    d := []
    stall := 0
    wait := none
    ans := none
    codeAt := seen
    core := wrCsr (wrCsr (wrCsr { l.core with
      pc := entry, delay := none, after := none, tw := none, sreg := sset 0 [] 1 arg, md := [], tags := [], dest := [], freed := 0 } 0 0) 1 0) 2 0 }

/-- Whether a swap waits for an empty window (R362). -/
def swapWaits (c : Cluster) (g : Staged) : Bool :=
  (g.image != 0 || decide ((g.ovf, g.pool) ≠ c.inForce)) && !(c.tasks.isEmpty && c.ovf.all (fun q => q.2.isEmpty))

/-- The swap itself: the image where there is one, the pool and the overflow parameters, and the program's start. -/
def swapIn (s : State) (m : Nat) (g : Staged) : State :=
  let s1 := if g.image = 0 then s else modCl s m (fun c => { c with image := some g.image })
  let s2 := if g.image = 0 then s1 else reloadCode s1 m
  let c := getCl s2 m
  let (gr, off) := poolOf g.pool.toNat
  let q := (clusterList (((cmdById s g.cmd).map (fun d => d.p.q1.toNat)).getD 0)).countP (· < m)
  let cap := bits g.pool.toNat 48 16
  let s3 := modCl s2 m (fun k0 =>
    let k := freeHolds k0
    { k with
    shadow := none
    inForce := (g.ovf, g.pool)
    poolOff := 128 * off
    poolLen := 128 * gr
    ovfCap := cap
    ovfBase := g.ovf.toNat + q * 9 * cap * 320
    ovfAt := []
    launch := some g.cmd
    launchFrom := c.serial
    lan := lanStart k.lan g.entry g.arg k.codeSeq })
  modCmd s3 g.cmd (fun d => { d with staged := d.staged.filter (fun j => j != m), runs := d.runs ++ [(m, c.serial)] })

/-- LAUNCH_SWAP_IN (R362, steps 2 and 3) of cluster m. -/
def execLaunchSwapIn (s : State) : Out :=
  let m := s.arg.m.toNat
  let c := getCl s m
  .next (match c.shadow with
  | none => s
  | some g =>
    if c.lan.on ∨ frozen s ∨ ended s ∨ swapWaits c g then s
    else if g.image = 0 then swapIn s m g
    else match faultOf (resolveAll s s.chip.slot s.chip.pasid (fullIa s (g.image.toNat % 2 ^ 48)) codeSize .rd) with
      | none => swapIn s m g
      | some (_, k) =>
        modCmd (modCl s m (fun c => { c with shadow := none })) g.cmd (fun d => { d with
          staged := d.staged.filter (fun j => j != m)
          fault := match d.fault with
            | some (f, n) => if m < n then some (k, m) else some (f, n)
            | none => some (k, m) }))

/-- Whether the program that a LAUNCH started on a cluster has executed TAIL, with every task entered since its swap freed. -/
def launchOver (s : State) (id : Nat) (r : Nat × Nat) : Bool :=
  let c := getCl s r.1
  !(c.launch == some id && c.lan.on) && c.tasks.all (fun t => decide (t.serial < r.2))

/-- LAUNCH_COMPLETE (R362, R404): command arg.n completes, or is aborted with its job. -/
def execLaunchComplete (s : State) : Out := pollCmd s 0x01 (fun t c =>
  match jobEnded t c.job with
  | some v => raiseMsi (cmdDone t c stAborted (if c.runs.isEmpty then 0 else v.toNat)) 1
  | none =>
    let u := asJob t c.job
    if !c.staged.isEmpty || c.runs.any (fun r => !launchOver u c.id r) then t
    else
      let t1 := match c.fault with
        | some (k, m) => cmdDone t c stFault (k + m * 2 ^ 32)
        | none => cmdDone t c stOk 0
      let q2 := c.p.q2.toNat
      if bit q2 51 && !c.quiet then setSignal t1 (bits q2 52 12) (sget 0 t1.cp.signals (bits q2 52 12) + 1) else t1)

/-! ## Unit commands -/

/-- A stopped unit goes on (R314, R317): its matrix engine resumes with its banks refetched (R239), and volatile registers are
undefined, as after every freeze (R155). -/
def unitGo (s : State) (k : Nat) : State :=
  modUnit (thawVolatile (refetchUnit (modUnit s k resumeMx) k) k) k (fun u => { u with stop := none })

/-- UNIT_RESUME (R314, R360). -/
def execUnitResume (s : State) : Out := runCmd s 0x10 .chip [lowBits 8] (fun t x =>
  if (getUnit t (x.q 1)).stop.isNone then .done t stReject 0 else .done (unitGo t (x.q 1)) stOk 0)

/-- UNIT_ABORT (R314, R360, R362): the job ends here, with the unit's own trap as the cause. -/
def execUnitAbort (s : State) : Out := runCmd s 0x11 .now [lowBits 8] (fun t x =>
  let k := x.q 1
  match (getUnit (asJob t x.slot) k).stop with
  | none => .done t stReject 0
  | some w => .done (inJob t x.slot (fun u => endJob u (endVal w.cause w.addr (k / 8) (k % 8)))) stOk 0)

/-! ## Schedules, groups, traces -/

/-- Read operands of a command at an IA of its job. -/
def readOperands (t : State) (x : CmdCtx) (ia n : Nat) (f : State → List Byte → CmdRes) : CmdRes :=
  match cpAccess t x.slot x.b.pasid ia n none with
  | .ok b u => f u (b.map Prod.fst)
  | .fault k u => .done u stFault k
  | .wait u => .wait u

/-- Cut bytes into numbers of 16 bytes. -/
def words128 (b : List Byte) : List Nat := (List.range (b.length / 16)).map (fun i => ofBytes ((b.drop (16 * i)).take 16))

/-- Whether a schedule entry is accepted for a die (R345): its codes 1 and 2 name the ring of the die's own dimension, 3 to 5
its links to the other dies (R333). -/
def belfryOk (s : State) (die e : Nat) : Bool :=
  let cs := ((List.range 4).map (fun i => bits e (32 * i) 32)).filter (fun c => bit c 31)
  let endp := fun (x : Nat) => decide (x ≤ 5) && !(decide (x = 1 ∨ x = 2) && decide ((dimStep s die).2 = 1))
  (List.range 4).all (fun i =>
    let c := bits e (32 * i) 32
    decide (bits c 16 4 = 0) && (decide (bits c 28 3 = 0) || decide (bits c 20 5 = 0))
      && decide (bits c 28 3 ≤ 5) && decide (bits c 25 3 ≤ 5)
      && (!bit c 31 || (endp (bits c 28 3) && endp (bits c 25 3))))
    && (cs.map (fun c => bits c 28 3)).dedup.length == cs.length && (cs.map (fun c => bits c 25 3)).dedup.length == cs.length

/-- BELFRY (R345, R360): the schedule is checked for every die it names, and applies from its start slot. -/
def execBelfry (s : State) : Out := runCmd s 0x18 .chip [q64, 15, q64] (fun t x =>
  if x.q 3 % 40 ≠ 0 ∨ x.q 3 ≤ ptp t then .done t stReject 0
  else readOperands t x (x.q 1) 4096 (fun u b =>
    let es := words128 b
    if !((List.range 4).filter (bit (x.q 2))).all (fun d => es.all (belfryOk u d)) then .done t stReject 0
    else .done (modCp u (fun c => { c with belfryLoad := c.belfryLoad ++ [(x.q 3, x.q 2, x.slot, es.map (BitVec.ofNat 128))] })) stOk 0))

/-- Whether a multicast group entry is accepted (R346). -/
def groupOk (s : State) (e : Nat) : Bool :=
  let n := bits e 118 4 + 1
  let cs := (List.range n).map (fun i => bits e (4 * i) 4)
  decide (bits e 124 3 = 0) && decide (bits e 64 38 = 0) && decide (bits e 102 16 < 2 ^ n)
    && cs.all (fun c => decide (c < (dimStep s (bits e 122 2)).2)) && cs.dedup.length == n

/-- Whether a load-and-reduce request of this module of one of `n` groups from `g` on, injected before the packet number `lim`, is
still to deliver its last copy (R347). -/
def mcOpen (s : State) (slot g n lim : Nat) : Bool :=
  s.outst.any (fun p => decide (p.2.job = slot) && p.2.pkt.type == 0x10 && decide (g ≤ p.2.pkt.grp.toNat) && decide (p.2.pkt.grp.toNat < g + n)
    && decide (p.2.seq < lim))

/-- MCGRP (R346, R347): entries are checked and written; with arg.flag = 0, it completes once every request of those groups
that was injected under the old contents has delivered its last copy. -/
def execMcgrp (s : State) : Out :=
  if s.arg.flag then runCmd s 0x19 .chip [q64, lowBits 10, q64] (fun t x =>
    let n := x.q 3
    if n = 0 ∨ 1024 < n ∨ 1024 < x.q 2 + n then .done t stReject 0
    else readOperands t x (x.q 1) (16 * n) (fun u b =>
      let es := words128 b
      if !es.all (groupOk u) then .done t stReject 0
      else
        let v := modChip u (fun c => { c with mcg := (es.mapIdx (fun i e => (x.q 2 + i, BitVec.ofNat 128 e))).foldl (fun g p => sset 0 g p.1 p.2) c.mcg })
        if mcOpen v x.slot (x.q 2) n v.inj then .later v { x.c with since := v.inj } else .done v stOk 0))
  else pollCmd s 0x19 (fun t c =>
    if mcOpen t c.job c.p.q2.toNat c.p.q3.toNat c.since then t else cmdDone t c stOk 0)

/-- TRACE (R330, R360). -/
def execTrace (s : State) : Out := runCmd s 0x1A .chip [q64, q64, q64] (fun t x =>
  .done (modChip t (fun c => { c with trace := { c.trace with
    buf := x.c.p.q1, period := x.q 2, units := BitVec.ofNat 32 (bits (x.q 3) 0 32), lans := BitVec.ofNat 32 (bits (x.q 3) 32 32) } })) stOk 0)

/-! ## Mapping -/

/-- Write a table entry. -/
def setEntry (s : State) (a v : Nat) : State := { s with hbm := writeNat s.hbm a 8 v }
/-- Levels of an MTS table (R28). -/
def mtsLevels : List (Nat × Nat) := [(30, 6), (21, 9), (13, 8)]
/-- Levels of the egress table (R31). -/
def egrLevels : List (Nat × Nat) := [(39, 7), (30, 9), (21, 9), (13, 8)]

/-- A zeroed table for a job, in the command processor's own GiB of a stack (log entry 10). -/
def allocTable (s : State) (slot stk : Nat) : Option (Nat × State) :=
  let used := s.cp.jobs.flatMap (fun p => p.2.tables)
  let base := stk * 2 ^ 36 + 63 * 2 ^ 30
  ((List.range 131070).find? (fun i => !used.contains (base + 8192 * (i + 2)))).map (fun i =>
    let a := base + 8192 * (i + 2)
    (a, zeroHbm (modCp s (fun c => { c with jobs := c.jobs.map (fun p => if p.1 = slot then (p.1, { p.2 with tables := p.2.tables ++ [a] }) else p) })) a 8192))

/-- Tables at and below one; `levels` are those of the table and below. -/
def tablesBelow (s : State) (tbl : Nat) : List (Nat × Nat) → List Nat
  | [] => []
  | (_, w) :: r => tbl :: (List.range (2 ^ w)).flatMap (fun i =>
      let e := hbmEntry s (tbl + 8 * i)
      if bit e 0 && !bit e 1 then tablesBelow s (bits e 13 27 * 8192) r else [])

/-- Whether no page is mapped at or below a table. -/
def tableEmpty (s : State) (tbl : Nat) : List (Nat × Nat) → Bool
  | [] => true
  | (_, w) :: r => (List.range (2 ^ w)).all (fun i =>
      let e := hbmEntry s (tbl + 8 * i)
      !bit e 0 || (!bit e 1 && tableEmpty s (bits e 13 27 * 8192) r))

/-- Write the leaf of a page, adding the tables on its path (R30, R366); none where a page is mapped there or no table is
free. -/
def putLeaf (slot stk x tgt leaf : Nat) : List (Nat × Nat) → Nat → State → Option State
  | [], _, _ => none
  | (lo, w) :: r, tbl, s =>
    let a := tbl + 8 * bits x lo w
    let e := hbmEntry s a
    let next := bits e 13 27 * 8192
    if lo = tgt then
      if !bit e 0 then some (setEntry s a leaf)
      else if bit e 1 || !tableEmpty s next r then none
      else
        let gone := tablesBelow s next r
        some (modCp (setEntry s a leaf) (fun c => { c with jobs := c.jobs.map (fun p =>
          if p.1 = slot then (p.1, { p.2 with tables := p.2.tables.filter (fun t => !gone.contains t) }) else p) }))
    else if !bit e 0 then
      match allocTable s slot stk with
      | none => none
      | some (t, s1) => putLeaf slot stk x tgt leaf r t (setEntry s1 a (t + 1))
    else if bit e 1 then none
    else putLeaf slot stk x tgt leaf r next s

/-- The valid leaf that maps an offset: where its entry lies, the entry, and the low bits it leaves. -/
def leafAt (s : State) (x : Nat) : List (Nat × Nat) → Nat → Option (Nat × Nat × Nat)
  | [], _ => none
  | (lo, w) :: r, tbl =>
    let a := tbl + 8 * bits x lo w
    let e := hbmEntry s a
    if !bit e 0 then none
    else if bit e 1 then some (a, e, lo)
    else leafAt s x r (bits e 13 27 * 8192)

/-- Whether a frame may be taken (R366, R374): free, not retired, and not the command processor's own or the cache's. -/
def frameFree (s : State) (a size : Nat) : Bool :=
  let apart := fun (b n : Nat) => decide (a + size ≤ b) || decide (b + n ≤ a)
  s.cp.jobs.all (fun p => p.2.frames.all (fun f => apart f.1 f.2)) && s.svc.retired.all (fun f => apart (8192 * f) 8192)
    && apart (a / 2 ^ 36 * 2 ^ 36 + 63 * 2 ^ 30) (2 ^ 30) && (rpcSlices s).all (fun b => apart b (2 ^ 30))

/-- A free frame of a job's pool on a stack, aligned to its size; which one is free (R366, log entry 3). -/
def takeFrame (s : State) (slot stk size : Nat) : Option (Nat × State) :=
  match s.cp.jobs.find? (fun p => p.1 == slot) with
  | none => none
  | some (_, j) =>
    let f0 := (j.poolBase + size - 1) / size
    let n := (j.poolBase + j.poolLen) / size - f0
    let (d, s1) := draw s
    (((List.range n).map (fun i => stk * 2 ^ 36 + (f0 + (Config.pick d + i) % n) * size)).find? (fun a => frameFree s a size)).map (fun a =>
      (a, modCp s1 (fun c => { c with jobs := c.jobs.map (fun p => if p.1 = slot then (p.1, { p.2 with frames := p.2.frames ++ [(a, size)] }) else p) })))

/-- Page sizes of q3 (R360): low bits of 8 KiB, 2 MiB and 1 GiB pages. -/
def pageLo (c : Nat) : Nat := if c = 0 then 13 else if c = 1 then 21 else 30

/-- A fold that stops at the first failure. -/
def foldOpt {α : Type} (f : State → α → Option State) : List α → State → Option State
  | [], s => some s
  | x :: r, s => match f s x with
    | none => none
    | some t => foldOpt f r t

/-- Map one page of HBM (R366). -/
def mapPage (slot pasid lob flags : Nat) (s : State) (ia : Nat) : Option State :=
  let (stk, slo) := hbmSlo ia
  match rootTable s (sget 0 s.mtsRoot stk) slot pasid, takeFrame s slot stk (2 ^ lob) with
  | some tbl, some (a, s1) => putLeaf slot stk slo lob (a + flags) mtsLevels tbl s1
  | _, _ => none

/-- MAP (R30, R366): frames of the job's pool and leaves for every page of the range, or no effect. -/
def execMap (s : State) : Out := runCmd s 0x08 .now [lowBits 48, q64, 15] (fun t x =>
  let ia := x.q 1
  let n := x.q 2
  let f := x.q 3
  let size := 2 ^ pageLo (bits f 0 2)
  if bits f 0 2 = 3 ∨ ia % size ≠ 0 ∨ n % size ≠ 0 then .done t stReject 0
  else if n = 0 then .done t stOk 0
  else if hbmRange t ia n = false ∨ (iaRow ia = some 1 ∧ bits f 0 2 ≠ 0) then .done t stReject 0
  else match foldOpt (mapPage x.slot x.b.pasid (pageLo (bits f 0 2)) (bits f 2 2 * 4 + 3)) ((List.range (n / size)).map (fun i => ia + size * i)) t with
    | some u => .done u stOk 0
    | none => .done t stDenied 0)

/-- Whether a mapped page lies wholly in a range of HBM local IAs (R366): stack, first offset and size of the page. -/
def pageInside (ia n stk b size : Nat) : Bool :=
  if iaRow ia = some 0 then decide (ia ≤ stk * 2 ^ 36 + b) && decide (stk * 2 ^ 36 + b + size ≤ ia + n)
  else
    let p0 := (ia - 0x010000000000) / 8192
    decide (p0 ≤ 12 * (b / 8192) + stk) && decide (12 * ((b + size) / 8192 - 1) + stk < p0 + n / 8192)

/-- The mapped page of an HBM local IA for a job: entry, leaf and low bits, with stack and first offset. -/
def mtsLeaf (s : State) (slot pasid ia : Nat) : Option (Nat × Nat × Nat × Nat × Nat) :=
  let (stk, slo) := hbmSlo ia
  match rootTable s (sget 0 s.mtsRoot stk) slot pasid with
  | none => none
  | some tbl => (leafAt s slo mtsLevels tbl).map (fun l => (l.1, l.2.1, l.2.2, stk, slo / 2 ^ l.2.2 * 2 ^ l.2.2))

/-- IA and bytes of the transfer of an NVMe command. -/
def nvmeSpan (s : State) (c : CpCmd) : Nat × Nat :=
  (c.p.q4.toNat % 2 ^ 48, c.p.q3.toNat * (if (s.cp.drives.find? (fun d => d.1 == bits c.p.q1.toNat 0 4)).any (fun d => d.2.lba4k) then 4096 else 512))

/-- Whether a transfer in flight of a job touches a page that a range covers (R364, R368). -/
def nvmeUses (s : State) (slot pasid ia n : Nat) : Bool :=
  (s.cp.cmds.filter (fun c => decide (c.job = slot) && decide (cpOp c.p = 0x20 ∨ cpOp c.p = 0x21))).any (fun c =>
    let (a, len) := nvmeSpan s c
    (pieces a len).any (fun p => match mtsLeaf s slot pasid (a + p.1) with
      | some (_, _, lo, stk, b) => pageInside ia n stk b (2 ^ lo)
      | none => false))

/-- Offsets of the 8 KiB pages of a range. -/
def pageList (a n : Nat) : List Nat := (List.range (n / 8192)).map (fun i => a + 8192 * i)

/-- Unmap the page of one offset, if it is mapped: its frame goes back to the pool (R366). -/
def unmapPage (slot pasid : Nat) (s : State) (ia : Nat) : State :=
  match mtsLeaf s slot pasid ia with
  | none => s
  | some (a, e, lo, _, _) =>
    modCp (setEntry s a 0) (fun c => { c with jobs := c.jobs.map (fun p => if p.1 = slot
      then (p.1, { p.2 with frames := p.2.frames.filter (fun f => f != (bits e 13 27 * 8192, 2 ^ lo)) }) else p) })

/-- UNMAP (R30, R364, R366): an IA of this module, by its number or in its local form (log entry 65). -/
def execUnmap (s : State) : Out := runCmd s 0x09 .now [q64, q64] (fun t x =>
  let ia := x.q 1 % 2 ^ 48
  let n := x.q 2
  if ia % 8192 ≠ 0 ∨ n % 8192 ≠ 0 then .done t stReject 0
  else if n = 0 then .done t stOk 0
  else if hbmRange t (x.q 1) n = false ∨ (pageList ia n).any (fun a => match mtsLeaf t x.slot x.b.pasid a with
      | some (_, _, lo, stk, b) => !pageInside ia n stk b (2 ^ lo)
      | none => false) = true then .done t stReject 0
  else if nvmeUses t x.slot x.b.pasid ia n then .wait t
  else .done ((pageList ia n).foldl (unmapPage x.slot x.b.pasid) t) stOk 0)

/-- Whether an egress leaf's target is accepted (R31, R360): type, target and size. -/
def targetIs (s : State) (ty tgt n : Nat) : Bool :=
  if ty = 0 then decide (tgt + n ≤ 2 ^ 64)
  else
    let lo := tgt % 2 ^ 48
    decide (ty = 1) && decide (tgt / 2 ^ 48 < s.partSize) && decide (lo + n ≤ 2 ^ 48)
      && (pageList lo n).all (fun a => match iaRow a with | none | some 6 | some 7 => false | some _ => (iaRow (a + 8191)).isSome)

/-- MAPX (R31, R366): egress leaves for every page of the range, or no effect. -/
def execMapx (s : State) : Out := runCmd s 0x0A .now [lowBits 46, q64, 63, q64 - 8191] (fun t x =>
  let a := x.q 1
  let n := x.q 2
  let f := x.q 3
  let lob := pageLo (bits f 0 2)
  let size := 2 ^ lob
  if bits f 0 2 = 3 ∨ a % size ≠ 0 ∨ n % size ≠ 0 then .done t stReject 0
  else if n = 0 then .done t stOk 0
  else if 2 ^ 46 < a + n ∨ x.q 4 % size ≠ 0 ∨ targetIs t (bits f 4 2) (x.q 4) n = false then .done t stReject 0
  else match rootTable t t.egrBase x.slot x.b.pasid with
    | none => .done t stDenied 0
    | some tbl =>
      match foldOpt (fun u i => putLeaf x.slot 0 (a + size * i) lob (x.q 4 + size * i + bits f 4 2 * 64 + bits f 2 2 * 4 + 3) egrLevels tbl u)
          (List.range (n / size)) t with
      | some u => .done u stOk 0
      | none => .done t stDenied 0)

/-- UNMAPX (R366). -/
def execUnmapx (s : State) : Out := runCmd s 0x0B .now [lowBits 46, q64] (fun t x =>
  let a := x.q 1
  let n := x.q 2
  let at0 := fun (u : State) (e : Nat) => (rootTable u u.egrBase x.slot x.b.pasid).bind (fun tbl => leafAt u e egrLevels tbl)
  if a % 8192 ≠ 0 ∨ n % 8192 ≠ 0 then .done t stReject 0
  else if n = 0 then .done t stOk 0
  else if 2 ^ 46 < a + n ∨ (pageList a n).any (fun e => match at0 t e with
      | some (_, _, lo) => !(decide (a ≤ e / 2 ^ lo * 2 ^ lo) && decide (e / 2 ^ lo * 2 ^ lo + 2 ^ lo ≤ a + n))
      | none => false) = true then .done t stReject 0
  else .done ((pageList a n).foldl (fun u e => match at0 u e with
      | some (w, _, _) => setEntry u w 0
      | none => u) t) stOk 0)

/-! ## Drives -/

/-- Start a transfer (R364). -/
def nvmeStart (s : State) (op : Nat) (k : AKind) : Out :=
  runCmd s op .now [15 + (q64 - lowBits 32), q64, q64, q64] (fun t x =>
    match t.cp.drives.find? (fun d => d.1 == bits (x.q 1) 0 4) with
    | none => .done t stReject 0
    | some (_, d) =>
      let n := x.q 3 * (if d.lba4k then 4096 else 512)
      if n = 0 ∨ 2 ^ 21 < n ∨ hbmRange t (x.q 4) n = false then .done t stReject 0
      else match faultOf (resolveAll t x.slot x.b.pasid (fullIa t (x.q 4 % 2 ^ 48)) n k) with
        | some (_, f) => .done t stFault f
        | none => .later t x.c)

/-- NVME_RD (R364): the drive writes HBM; its data arrive as CXL.mem writes. -/
def execNvmeRd (s : State) : Out := nvmeStart s 0x20 .wr
/-- NVME_WR (R364). -/
def execNvmeWr (s : State) : Out := nvmeStart s 0x21 .rd

/-- The NVMe command an event names by arg.n. -/
def pollNvme (s : State) (f : State → CpCmd → State) : Out :=
  .next (match cmdById s s.arg.n with
  | none => s
  | some c => if cpOp c.p = 0x20 ∨ cpOp c.p = 0x21 then f s c else s)
/-- NVME_COMPLETION (R364): the drive's completion entry of command arg.n, with NVMe status arg.v; that of a transfer which
a queue reset aborted ends it ABORTED (R367, log entry 58). -/
def execNvmeCompletion (s : State) : Out := pollNvme s (fun t c =>
  if c.abort then cmdDone t c stAborted 0
  else if s.arg.v = 0 then cmdDone t c stOk 0 else cmdDone t c stNvme s.arg.v.toNat)
/-- NVME_TIMEOUT (R364): 2 s without a completion. -/
def execNvmeTimeout (s : State) : Out := pollNvme s (fun t c =>
  if ptp t < c.since + 2000000000 then t else cmdDone t c stTimeout 0)

/-! ## Jobs -/

/-- Give a job empty tables and its root entries (R27, R360). -/
def jobTables (s : State) (slot pasid : Nat) : Option State :=
  foldOpt (fun t (r : Nat × Nat) => (allocTable t slot r.1).map (fun a => setEntry a.2 (r.2 + 8 * slot) (pasid * 2 ^ 44 + a.1 + 1)))
    (((List.range 12).map (fun n => (n, sget 0 s.mtsRoot n))) ++ [(0, s.egrBase)]) s

/-- JOB_CREATE (R360): a slot for a job, with empty tables and zeroed tokens. -/
def execJobCreate (s : State) : Out :=
  runCmd s 0x30 .host [lowBits 10 + lowBits 20 * 2 ^ 44, lowBits 36, q64, lowBits 40, lowBits 12 + lowBits 12 * 2 ^ 16] (fun t x =>
    let slot := bits (x.q 1) 0 10
    let pasid := bits (x.q 1) 44 20
    let sg0 := bits (x.q 5) 0 12
    let sgn := bits (x.q 5) 16 12
    if x.q 3 % 2 ^ 30 ≠ 0 ∨ 2 ^ 36 < x.q 2 + x.q 3 ∨ 4096 < sg0 + sgn ∨ 12 ≤ x.q 4 / 2 ^ 36 ∨ 2 ^ 36 < x.q 4 % 2 ^ 36 + 0x32800000
        ∨ t.cp.jobs.any (fun p => p.1 == slot) = true then .done t stReject 0
    else
      let job : Job := { pasid := pasid, poolBase := x.q 2, poolLen := x.q 3, save := x.q 4, sig0 := sg0, sigN := sgn, frames := [], tables := [] }
      let t1 := modCp t (fun c => { c with jobs := sput c.jobs slot job, gone := c.gone.filter (fun p => p != pasid) })
      match jobTables t1 slot pasid with
      | none => .done t stDenied 0
      | some u =>
        let v := { u with images := serase u.images slot }
        .done (if v.chip.slot = slot then { v with chip := { slot := slot, pasid := pasid } } else v) stOk 0)

/-- A step of R39 over a slot: resident granules are evicted, with write-back. -/
def rpcClean (s : State) (slot : Nat) : State :=
  (s.rpc.filter (fun p => decide (p.2.slot = slot ∧ p.2.state = 2))).foldl (fun t p => setGr t p.1 { p.2 with state := 3, next := none }) s

/-- Free a slot: root entries, key, frames, tables and saved state go (R349, R350, R360). -/
def jobFree (s : State) (slot : Nat) : State :=
  let s1 := (((List.range 12).map (fun n => sget 0 s.mtsRoot n)) ++ [s.egrBase]).foldl (fun t r => setEntry t (r + 8 * slot) 0) s
  let s2 := modCp s1 (fun c => { c with
    gone := c.gone ++ ((c.jobs.find? (fun p => p.1 == slot)).map (fun p => p.2.pasid)).toList
    jobs := serase c.jobs slot
    keys := serase c.keys slot
    belfryLoad := c.belfryLoad.filter (fun l => l.2.2.1 != slot) })
  { s2 with images := serase s2.images slot, chip := if s2.chip.slot = slot then { slot := slot } else s2.chip }

/-- JOB_DESTROY (R39, R350, R360, R362): the job is ended; with arg.flag = 0, its cache is clean and its slot is freed. -/
def execJobDestroy (s : State) : Out :=
  if s.arg.flag then runCmd s 0x31 .host [lowBits 10] (fun t x =>
    if !t.cp.jobs.any (fun p => p.1 == x.q 1) then .done t stReject 0
    else .later (rpcClean (inJob t (x.q 1) (fun u => endJob u 0)) (x.q 1)) x.c)
  else pollCmd s 0x31 (fun t c =>
    let slot := c.p.q1.toNat
    let mine := fun (d : CpCmd) => decide (d.job = slot) && decide (cpOp d.p = 0x01 ∨ cpOp d.p = 0x20 ∨ cpOp d.p = 0x21)
    let t1 := rpcClean t slot
    if t1.rpc.any (fun p => p.2.slot == slot && p.2.state != 0) || t1.cp.cmds.any mine
        || t1.cp.switch.any (fun w => decide (w.out = slot ∨ w.inn = slot)) then t1
    else cmdDone (jobFree t1 slot) c stOk 0)

/-- KEY_LOAD (R350, R360). -/
def execKeyLoad (s : State) : Out := runCmd s 0x32 .host [lowBits 10, q64] (fun t x =>
  readOperands t x (x.q 2) 64 (fun u b =>
    match Config.unwrapKey b with
    | none => .done t stReject 0
    | some key =>
      if !keyOk u (x.q 1) && decide (64 ≤ u.cp.keys.length) then .done t stDenied 0
      else .done (modCp u (fun c => { c with keys := sput c.keys (x.q 1) key })) stOk 0))

/-- Whether instants lie 250 microseconds or more apart, in order (R323). -/
def gangOk : List (Nat × Nat) → Bool
  | a :: b :: r => decide (a.1 + 250000 ≤ b.1) && gangOk (b :: r)
  | _ => true

/-- GANG (R323, R360): the schedule of switch instants replaces the one in force; its first instant too lies 250 microseconds
or more after the last switch. -/
def execGang (s : State) : Out := runCmd s 0x33 .host [q64, q64] (fun t x =>
  let n := x.q 2
  if n = 0 then .done (modCp t (fun c => { c with gang := [] })) stOk 0
  else readOperands t x (x.q 1) (16 * n) (fun u b =>
    let l := (words128 b).map (fun w => (bits w 0 64, bits w 64 64))
    if !gangOk l || l.any (fun p => decide (1024 ≤ p.2)) || (t.cp.gangLast ≠ 0 && l.any (fun p => decide (p.1 < t.cp.gangLast + 250000))) then .done t stReject 0
    else .done (modCp u (fun c => { c with gang := l })) stOk 0))

/-- PART (R332, R360): the module's number and the partition's sizes; val returns q2. -/
def execPart (s : State) : Out := runCmd s 0x34 .host [lowBits 16, lowBits 16] (fun t x =>
  let ds := (List.range 4).map (fun d => bits (x.q 2) (4 * d) 4 + 1)
  let size := ds.foldl (· * ·) 1
  if size ≤ x.q 1 then .done t stReject 0
  else .done { t with partMod := x.q 1, partSize := size, dims := ds } stOk (x.q 2))

/-- RPC_CFG (R33, R360): GiB set aside in each stack; q2 goes on where q1 ends. The cache starts with zero tags. -/
def execRpcCfg (s : State) : Out := runCmd s 0x35 .host [q64, 255] (fun t x =>
  let v := x.q 1 + x.q 2 * 2 ^ 64
  let g := (List.range 12).map (fun n => bits v (6 * n) 6)
  if t.cp.jobs ≠ [] ∨ g.any (fun n => decide (32 < n)) = true ∨ 256 < g.foldl (· + ·) 0 then .done t stReject 0
  else
    let u := { modCp t (fun c => { c with rpcGib := g.mapIdx (fun i n => (i, n)) }) with rpc := [] }
    .done ((rpcSlices u).foldl (fun u a => zeroHbm u (a + 1016 * 2 ^ 20) (8 * 2 ^ 20)) u) stOk 0)

/-- NVME_ATT (R360). -/
def execNvmeAtt (s : State) : Out := runCmd s 0x36 .host [15, q64, q64, q64, lowBits 17] (fun t x =>
  .done (modCp t (fun c => { c with drives := sput c.drives (x.q 1) {
    sq := x.c.p.q2, cq := x.c.p.q3, door := x.c.p.q4, depth := bits (x.q 5) 0 16, lba4k := bit (x.q 5) 16 } })) stOk 0)

end Sys2Proof.Machine
end

