-- ==== Sys2Proof/Machine/Service.lean ====
section
/-! DEFINITION. Boot, attestation, updates, sparing, power and lanes (spec 20 R369 to R379, 17 R323). -/

namespace Sys2Proof.Machine

/-- Change the service state. -/
def modSvc (s : State) (f : Service → Service) : State := { s with svc := f s.svc }

/-- The module with its power lost: what fuses and management flash hold stays (R371, R372, R374), as do the host's memory and
what the outside world does next. -/
def powerOff (s : State) : State :=
  { State.reset with
    fclk := s.fclk, clk := s.clk, acc := s.acc, edge := s.edge, inputs := s.inputs, draws := s.draws, host := s.host
    svc := { rollback := s.svc.rollback, sigsLeft := s.svc.sigsLeft, retired := s.svc.retired, ceTimes := s.svc.ceTimes, cap := s.svc.cap } }

/-- Whether a patch is accepted (R371): its signature holds and its version is not below the fused counter. -/
def patchOk (v : Service) (signed : Bool) (ver : Nat) : Bool := signed && decide (v.rollback ≤ ver)

/-- The spare map and the disabled units (R373): a die with more than two failed units has only two spares. -/
def spareMap (failed : List Nat) : List Nat × List Nat :=
  (List.range 4).foldl (fun (p : List Nat × List Nat) d =>
    let l := (List.range 256).filter (fun k => decide (k / 64 = d) && failed.contains k)
    (p.1 ++ l.take 2, p.2 ++ l.drop 2)) ([], [])

/-- Stacks reported degraded: one that failed at boot, or whose retirement list has more than 4,096 frames (R369, R374). -/
def degraded (v : Service) : List Nat :=
  (List.range 12).filter (fun n => v.hbmFailed.contains n || decide (4096 < v.retired.countP (fun f => decide (8192 * f / 2 ^ 36 = n))))

/-- POWER_GOOD (R369): the boot sequence. arg.v is the version of the patch in flash, 0 for none, arg.flag says that its
signature holds, arg.dat is its hash; arg.ixs are the failed units; bit p of arg.j leaves port p down, bit n of arg.n is
a failed stack n. -/
def execPowerGood (s : State) : Out :=
  let a := s.arg
  let s1 := powerOff s
  let ver := bits a.v.toNat 0 16
  let ok := patchOk s1.svc a.flag ver
  let (sp, dis) := spareMap a.ixs
  let s2 := modSvc s1 (fun v => { v with
    pr := decide (ver ≠ 0) && !ok
    fwver := if ver ≠ 0 ∧ ok = true then ver else 0
    patchHash := if ver ≠ 0 ∧ ok = true then BitVec.ofNat 256 (ofBytes a.dat) else 0
    rollback := if ver ≠ 0 ∧ ok = true then ver else v.rollback
    spared := sp
    disabled := dis
    hbmFailed := (List.range 12).filter (bit a.n) })
  let s3 := (List.range 128).foldl (fun t p => if bit a.j p then modSvc t (fun v => { v with lanes := sput v.lanes p 0 }) else linkUp t p) s2
  .next (modSvc s3 (fun v => { v with ready := true }))

/-- A mask of units as 32 bytes. -/
def unitMask (l : List Nat) : List Byte := toBytes (l.foldl (fun a k => if bit a k then a else a + 2 ^ k) 0) 32

/-- What an attestation reply says (R372): the hashes, fwver, the spare map and the disabled mask, the nonce, and the
signatures left. Its layout is the model's (log entry 12). -/
def attestation (v : Service) (nonce : List Byte) : List Byte :=
  toBytes Config.romHash.toNat 32 ++ toBytes v.patchHash.toNat 32 ++ toBytes v.fwver 2 ++ unitMask v.spared ++ unitMask v.disabled
    ++ nonce.take 32 ++ toBytes v.sigsLeft 4

/-- ATTESTATION_REQUEST (R372) with nonce arg.dat: a signed reply, or an error, which is no reply, once the key is
exhausted. -/
def execAttestationRequest (s : State) : Out :=
  .next (modSvc s (fun v =>
    if v.sigsLeft = 0 then { v with reply := [] }
    else
      let w := { v with sigsLeft := v.sigsLeft - 1 }
      let m := attestation w s.arg.dat
      { w with reply := m ++ Config.sign m }))

/-- Whether any job holds a slot. -/
def anyJob (s : State) : Bool := !s.cp.jobs.isEmpty

/-- LIVE_UPDATE (R371, R376): a patch of version arg.v and hash arg.dat, arg.flag its signature check. Accepted, it is staged,
and in force at once where no job holds a slot. -/
def execLiveUpdate (s : State) : Out :=
  let ver := bits s.arg.v.toNat 0 16
  .next (if !patchOk s.svc s.arg.flag ver then s
  else modSvc s (fun v =>
    let w := { v with upd := true, staged := ver, stagedHash := BitVec.ofNat 256 (ofBytes s.arg.dat), rollback := ver }
    if anyJob s then w else patchSwitch w))

/-- POWER_CAP_SET (R378): the management port sets the cap to arg.n watts, from 2,000 to 5,000. -/
def execPowerCapSet (s : State) : Out :=
  .next (if 2000 ≤ s.arg.n ∧ s.arg.n ≤ 5000 then modSvc s (fun v => { v with cap := s.arg.n }) else s)

/-- POWER_CAP_THROTTLING (R378): the draw is arg.n watts; above the cap clk falls by a step of 25 MHz, else it rises by one. -/
def execPowerCapThrottling (s : State) : Out :=
  .next (modSvc s (fun v => { v with draw := s.arg.n, slow := if v.cap < s.arg.n then min 23 (v.slow + 1) else v.slow - 1 }))

/-- THERMAL_TRIP (R352, R378): the module trips, and acts as a reset peer until it boots again. -/
def execThermalTrip (s : State) : Out := .next (modSvc (powerOff s) (fun v => { v with tripped := true }))

/-- LANE_FAILURE (R375) of port arg.n: the port retrains on its other lane, keeping nonce and counters, and is back within 10
microseconds: when, is a free value. With no lane left it is down. -/
def execLaneFailure (s : State) : Out :=
  let p := s.arg.n % 128
  let (d, t) := draw s
  .next (modSvc t (fun v => { v with
    lanes := sput v.lanes p (sget 2 v.lanes p - 1)
    back := sput v.back p (ptp s + Config.pick d % 10001) }))

/-- PTP_LOSS_OF_LOCK (R323, R370). -/
def execPtpLossOfLock (s : State) : Out := .next (modSvc s (fun v => { v with plock := true }))

end Sys2Proof.Machine
end

