-- ==== Sys2Proof/Machine/Plan.lean ====
section
/-! DEFINITION. What happens in one fclk: the end of the clk before it, and the events whose turn has come, in the order spec 05, 09 and 13 give them where they give one (R5, R87, R145, R229). -/

namespace Sys2Proof.Machine

/-! ## The end of a clk -/

/-- An increment is added (R86, R87): the count saturates, and the release record follows R81. -/
def addInc (u : Unit) (i : SemInc) : Unit :=
  { u with sems := smod {} u.sems i.sem (fun x => {
    cnt := min 255 (x.cnt + i.k)
    err := x.err || i.err
    ovf := x.ovf || decide (255 < x.cnt + i.k)
    rel := match i.rel with | none => none | some r => relJoin x.rel r.rs r.rp }) }

/-- A unit at the end of a clk (R72, R87, R128). -/
def endUnit (u : Unit) : Unit :=
  let v := u.incs.foldl addInc (joinFlags u)
  { v with incs := [], decs := [], core := { v.core with freed := 0 } }

/-- A unit's clk count (R198): it counts while its context holds the unit and is not frozen. -/
def countCyc (s : State) (k : Nat) : State := if issues s k then modUnit s k (fun u => { u with core := bump u.core 0 1 }) else s

/-- A cluster in every fclk (R72, R198, R303): a Lantern core's count, and the age of its tasks; its tags cleared in the last
clk are free once that clk ends. -/
def tickCl (s : State) (m : Nat) : State :=
  let run := !frozen s && !ended s
  modCl s m (fun c => { c with
    tasks := c.tasks.map (fun (t : Task) => if run && decide (t.st = .ready ∨ t.st = .issuing) then { t with age := t.age + 1 } else t)
    lan := { c.lan with core :=
      let k := if s.edge then { c.lan.core with freed := 0 } else c.lan.core
      if c.lan.on && run then bump k 0 1 else k } })

/-- Time goes on by one fclk; clk has an edge in 600 of 1,200 of them, in 25 fewer for each step of throttling (R3, R378).
The spec gives frequencies alone: that every second fclk counted from reset has an edge, and how a lowered clk spreads over
fclk, is the model's choice (log entry 46). -/
def tickTime (s : State) : State :=
  let a := s.acc + (600 - 25 * s.svc.slow)
  if 1200 ≤ a then { s with fclk := s.fclk + 1, acc := a - 1200, edge := true, clk := s.clk + 1 }
  else { s with fclk := s.fclk + 1, acc := a, edge := false }

/-- Everything that changes with time alone. -/
def tickState (s : State) : State :=
  let s1 := tickTime s
  let s2 := (liveClusters s1).foldl tickCl s1
  if !s2.edge then s2
  else
    let s3 := (liveUnits s2).foldl (fun t k => countCyc (modUnit t k endUnit) k) s2
    let old := fun (m : MemSt) => { m with lost := [] }
    let s4 := modChip { s3 with hbm := old s3.hbm, host := old s3.host } (fun c => { c with mem := old c.mem })
    (liveClusters s4).foldl (fun t m => refresh t m) s4

/-! ## Turns -/

/-- A turn that may wait: its event has no stated latency (log entry 3). -/
abbrev Cand := Bool × Turn
/-- An event that happens in this clk. -/
def now (i : Instr) (a : Arg) : Cand := (false, .ev i a)
/-- An event that happens in this clk or a later one. -/
def soon (i : Instr) (a : Arg) : Cand := (true, .ev i a)

/-- Whether a chunk of a frozen engine goes on (R317): one that has started. -/
def chunkOpen (c : Chunk) : Bool :=
  match c.phase with
  | .reading _ | .writing _ | .bound => true
  | _ => false

/-- Events of the started commands of a copy engine or a Lantern core's LCPs; `go`: the engine is not frozen. -/
def runTurns (e : Eng) (go : Bool) (r : Run) : List Cand :=
  let a : Arg := { eng := e, j := r.id }
  if r.done then (if r.task.isSome then [soon (if r.x.op = 0x40 then .commitCopyComplete else .instanceDrain) a] else [])
  else
    let ch := (r.chunks.filter (fun c => go || chunkOpen c)).flatMap (fun c =>
      [soon .chunkComplete { a with n := c.idx }, soon .memorySideFault { a with n := c.idx }])
    let new := if go && chunked r.x.op && decide (r.next < walkLen r.x) then
      [soon .chunkComplete { a with n := r.nchunk }, soon .memorySideFault { a with n := r.nchunk }] else []
    let rest :=
      if r.x.op = 0x21 then []
      else if r.x.op = 0x23 then [soon .barrierWaitComplete a]
      else if chunked r.x.op then [soon .commandComplete a]
      else [soon .memorySideFault a, soon .commandComplete a]
    ch ++ (new ++ (if go || r.tag.isSome then rest else []))

/-- Values of a UCE queue's reads and atomics that may arrive. -/
def readTurns (e : Eng) (x : XEng) : List Cand :=
  (x.runs.filter (fun r => !r.done && decide (r.x.op = 0x25 ∨ xferCls r.x.op = 5 ∨ xferCls r.x.op = 6))).map (fun r =>
    soon .taggedReadArrival { eng := e, j := r.id })

/-- The command at the head of a UCE queue may start, and its SWAITs take their counts (R85, R261). -/
def startTurns (e : Eng) (x : XEng) (a : Arg) : List Cand :=
  (if x.q.isEmpty then [] else [now .engineCommandStart { a with eng := e }])
    ++ (x.runs.filter (fun r => !r.done && decide (r.x.op = 0x21))).map (fun r => now .swaitGrant { a with eng := e, j := r.id })

/-- Events of a copy engine. -/
def engTurns (e : Eng) (go : Bool) (x : XEng) : List Cand := x.runs.flatMap (runTurns e go)

/-- A unit's clk up to the issue of its bundle (R72, R147, R149, R232): results land, values arrive, gates open, and the
bundle of the clk reads them. -/
def unitIssueTurns (s : State) (k : Nat) : List Cand :=
  let u := getUnit s k
  let a : Arg := { k := BitVec.ofNat 8 k }
  let go := !frozen s && u.stop.isNone
  let held := fun (q : List QCmd) (e : Eng) => if q.any (fun c => !c.handed) then [now .commandHandOff { a with eng := e, flag := false }] else []
  let off := fun (q : List QCmd) (e : Eng) =>
    (q.filter (fun c => !c.handed)).map (fun _ => now .commandHandOff { a with eng := e, flag := true })
  (if go then [now .resultLanding a] else [])
    ++ u.qlds.map (fun q => soon .taggedReadArrival { a with eng := .stream a.k, j := q.gen })
    ++ readTurns (.uce a.k 0) u.uce0 ++ readTurns (.uce a.k 1) u.uce1
    ++ (if !go then [] else
      held u.uce0.q (.uce a.k 0) ++ held u.uce1.q (.uce a.k 1) ++ held u.mx.q (.mat a.k)
      ++ (if u.dfr.isEmpty then [] else [now .deferredCheckTrap a])
      ++ (if u.divFree ≠ 0 ∧ u.divFree ≤ s.clk then [now .dividerFree a] else [])
      ++ (if u.inst.isSome then [now .bundleIssue a] else [])
      ++ off u.uce0.q (.uce a.k 0) ++ off u.uce1.q (.uce a.k 1) ++ off u.mx.q (.mat a.k))

/-- The rest of a unit's clk: parts of its QLDs, starts and grants in the order of R87, the matrix engine, its queues'
commands, and then the tokens of what has completed (R68, R84) and drains. -/
def unitTurns (s : State) (k : Nat) : List Cand :=
  let u := getUnit s k
  let a : Arg := { k := BitVec.ofNat 8 k }
  let go := !frozen s && u.stop.isNone
  let e0 := Eng.uce a.k 0
  let e1 := Eng.uce a.k 1
  u.qlds.map (fun q => soon .taggedReadArrival { a with eng := .stream a.k, j := q.gen, flag := false })
  ++ (if !go then [] else
    startTurns e0 u.uce0 a ++ startTurns e1 u.uce1 a
      ++ (if u.mx.q.isEmpty then [] else [now .matrixCommandLeave a])
      ++ (if u.mx.wld.isSome then [now .wldComplete a] else [])
      ++ (if u.mx.q.isEmpty && !u.mx.comp.any stepsLeft then [] else [now .mmaStep a])
      ++ (if u.mx.comp.any stepsLeft then [soon .memorySideFault { a with eng := .mat a.k }] else []))
    ++ ((if u.mx.comp.isEmpty then [] else [now .drainComplete a, now .mmaComplete a])
    ++ (engTurns e0 go u.uce0 ++ (engTurns e1 go u.uce1
    ++ (if !go then [] else
      (if u.uce0.q.isEmpty && u.uce0.runs.isEmpty then [] else [now .engineTokenFire { a with eng := e0 }])
        ++ (if u.uce1.q.isEmpty && u.uce1.runs.isEmpty then [] else [now .engineTokenFire { a with eng := e1 }])
        ++ (if u.mx.q.isEmpty && u.mx.toks.isEmpty then [] else [now .engineTokenFire { a with eng := .mat a.k }])
        ++ u.tracker.map (fun p => soon .instanceDrain { a with eng := .stream a.k, j := p.1 })))))

/-- The event of a maintenance operation that runs (R37). -/
def rpcTurn (op : Nat) (a : Arg) : List Cand :=
  match op with
  | 0 => []
  | 1 => [soon .rpcWriteBack a]
  | 2 => [soon .rpcInvalidate a]
  | 3 => [soon .rpcWriteBackInvalidate a]
  | _ => [soon .rpcOpDone a]

/-- Unsatisfied consumed slots of accepted posts whose tokens lie elsewhere and are to be asked for (R295). -/
def watchTurns (s : State) (m : Nat) (a : Arg) : List Cand :=
  let asked := fun (t n : Nat) => s.outst.any (fun o => match o.2.who with | .watch cl k j => cl.toNat == m && k == t && j == n | _ => false)
  (watched (getCl s m)).flatMap (fun p => (List.range 3).filterMap (fun n =>
    let h := imTok p.2.img.toNat n
    let at0 := handleAt s.partMod h
    if bit h 47 && !p.2.sat.getD n true && decide (at0.1 ≠ s.partMod ∨ at0.2.1 ≠ m) && !asked p.1 n then some (soon .tokenWatch { a with j := p.1, n := n })
    else none))

/-- Entry to a window from its overflow queues, and then of waiting CPOSTs, at once wherever there is room (R302, R309). -/
def entryTurns (s : State) (m : Nat) : List Cand :=
  let c := getCl s m
  let a : Arg := { m := BitVec.ofNat 5 m }
  if frozen s then [] else
  List.replicate (min 512 ((c.ovf.map (fun q => q.2.length)).foldl (· + ·) 0)) (now .overflowQueueEntry a)
    ++ c.child.map (fun p => now .postEntry { a with j := p.1 })

/-- The events of a cluster in a clk: its window, engines and signals. A release comes before any entry (R311). -/
def clusterTurns (s : State) (m : Nat) : List Cand :=
  let c := getCl s m
  let a : Arg := { m := BitVec.ofNat 5 m }
  let go := !frozen s
  let always : List (List Cand) := [
    c.signals.map (fun _ => soon .signalArrival a),
    engTurns (.cce a.m 0) go c.cce0, engTurns (.cce a.m 1) go c.cce1, engTurns (.xe a.m) go c.xe, engTurns (.lantern a.m) go c.lan.x,
    (c.lan.accs.filter (fun x => go || phaseOpen x.phase || x.tag.isSome)).flatMap (fun x =>
      let b : Arg := { a with eng := .lantern a.m, j := x.seq }
      [soon (if x.tag.isSome then .taggedReadArrival else .chunkComplete) b, soon .memorySideFault b]),
    rpcTurn c.lan.rpcOp a]
  let running : List (List Cand) := [
    (c.tasks.filter (taskFreeable c)).map (fun t => soon .taskFree { a with j := t.serial }),
    entryTurns s m,
    watchTurns s m a,
    (commitsReady s m).map (fun p => soon .commitCopyStart { a with j := p.1.serial, n := p.2.idx }),
    (match nextDispatch s m with
      | some (t, _) => [if 200 ≤ t.age then now .taskDispatch a else soon .taskDispatch a]
      | none => []),
    if c.shadow.isSome then [soon .launchSwapIn a] else []]
  (if go then always ++ running else always).flatten

/-- Whether the word of a Lantern core is a post (R279). -/
def isPostWord (s : State) (m : Nat) : Bool :=
  match lanFetch s m with
  | .ok (.post _) | .ok (.postR _ _) => true
  | _ => false

/-- Whether what a word of a Lantern core waits for is a read of a token. -/
def readsToken (l : Lan) : Bool := match l.wait with | some (.tok _) => true | _ => false

/-- The turn of a Lantern core in an fclk: an asynchronous trap at its word boundary, where its word takes no trap of its own
(R313, R316), or its word. -/
def lanTurn (s : State) (m : Nat) : List Cand :=
  let l := (getCl s m).lan
  let a : Arg := { m := BitVec.ofNat 5 m }
  if !lanRuns s m then []
  else if asyncOk l && (nextStop s m).isSome && !lanTraps s m then [now .unitTrap a]
  else if asyncOk l && (l.ring && trapEn l.core) && !lanTraps s m then [now .ringTrap a]
  else if l.ans.isSome && !readsToken l then [now .postAnswer a]
  else if postTimedOut l && isPostWord s m then [now .postTimeout a]
  else [(false, .lantern a.m)]

/-! ## The command processor -/

/-- The event of a command by its opcode (R360). -/
def opInstr (op : Nat) : Option Instr :=
  match op with
  | 0x00 => some .nop | 0x01 => some .launch | 0x02 => some .wait | 0x03 => some .signal | 0x04 => some .indirect | 0x05 => some .place
  | 0x08 => some .map | 0x09 => some .unmap | 0x0A => some .mapx | 0x0B => some .unmapx
  | 0x10 => some .unitResume | 0x11 => some .unitAbort | 0x18 => some .belfry | 0x19 => some .mcgrp | 0x1A => some .trace
  | 0x20 => some .nvmeRd | 0x21 => some .nvmeWr
  | 0x30 => some .jobCreate | 0x31 => some .jobDestroy | 0x32 => some .keyLoad | 0x33 => some .gang | 0x34 => some .part
  | 0x35 => some .rpcCfg | 0x36 => some .nvmeAtt
  | _ => none

/-- Commands at the heads of their queues. -/
def heldTurns (s : State) : List Cand :=
  s.cp.slots.filterMap (fun p => match p.2.held with
    | none => none
    | some q => (opInstr (cpOp q)).map (fun i => soon i { ref := cmdRef p.2.pasid p.2.q, cp := q }))

/-- The slot whose turn of the rotation comes (R357). -/
def fetchTurn (s : State) : List Cand :=
  let can := fun (b : BoundQ) => !b.halted && (match b.held with
    | some p => !opAssigned (cpOp p)
    | none => !b.ind.isEmpty || decide (b.head ≠ b.tail))
  ((List.range 64).findSome? (fun i =>
    let j := (s.cp.rr + i) % 64
    (s.cp.slots.find? (fun p => p.1 == j && can p.2)).map (fun _ => soon .commandFetch { j := j }))).toList

/-- Further events of commands that have started. -/
def openTurns (s : State) : List Cand :=
  s.cp.cmds.filterMap (fun c =>
    let a : Arg := { n := c.id, flag := false }
    match cpOp c.p with
    | 0x01 => some (soon .launchComplete a)
    | 0x04 => some (soon .indirect a)
    | 0x19 => some (soon .mcgrp a)
    | 0x20 | 0x21 => if c.since + 2000000000 ≤ ptp s then some (soon .nvmeTimeout a) else none
    | 0x31 => some (soon .jobDestroy a)
    | _ => none)

/-- The events of the command processor and of the gang schedule. -/
def cpTurns (s : State) : List Cand :=
  heldTurns s ++ (fetchTurn s ++ (openTurns s
    ++ ((s.cp.slots.filter (fun p => decide (p.2.head = p.2.tail) && decide (p.2.idle + 64000 ≤ ptp s))).map (fun p => soon .queueUnbind { j := p.1 })
    ++ ((if s.cp.recs.isEmpty then [] else [soon .completionRecordWrite {}])
    ++ ((s.cp.parked.filter (fun p => p.met)).map (fun p => soon .waitWakeup { ref := cmdRef p.pasid p.q })
    ++ (s.cp.resetting.map (fun r => soon .queueReset { v := BitVec.ofNat 64 (r.1 * 2 ^ 44 + r.2 * 2 ^ 38) })
    ++ ((match s.cp.switch with
      | some w => if w.phase = 0 then [soon .gangSwitch {}] else if w.phase = 1 then [soon .contextRestore {}] else [soon .jobStart {}]
      | none => if s.cp.gang.any (fun g => decide (g.1 ≤ ptp s)) then [now .gangSwitch {}] else [])
    ++ (if !s.cp.belfryLoad.isEmpty && decide (s.fclk % 48 = 0) then [now .belfrySlotBoundary {}] else []))))))))

/-- The events of the fabric and of the remote page cache. -/
def outTurns (s : State) : List Cand :=
  s.outst.filterMap (fun p =>
    if overdue s p.2 then some (p.2.injected, .ev .requestTimeout { j := p.1 })
    else if p.2.deferred && decide (p.2.since + 1000 ≤ ptp s) then some (soon .deferredReissue { j := p.1 }) else none)
  ++ s.rpc.filterMap (fun p =>
    if p.2.state = 1 then some (soon .rpcFillComplete { j := p.1 })
    else if p.2.state = 3 then some (soon .rpcEviction { j := p.1 }) else none)

/-- Packets in the die routers (R338, R343): one on a circuit goes on in its slot, any other when its turn comes. -/
def hopTurns (s : State) : List Cand := s.hops.map (fun h => (h.pkt.circ == 0, .hop h.id))

/-- What the outside world does next, one event at a time. -/
def inputTurn (s : State) : List Cand := (s.inputs.take 1).map (fun p => soon p.1 p.2)

/-- Every event whose turn may have come in this fclk: the command processor, the routers and the Lantern cores take every
fclk, the rest a clk edge (R3). -/
def candidates (s : State) : List Cand :=
  inputTurn s ++ (if !s.edge then (liveClusters s).flatMap (entryTurns s) ++ (cpTurns s ++ (outTurns s ++ (hopTurns s ++ (liveClusters s).flatMap (lanTurn s))))
  else
    (liveUnits s).flatMap (unitIssueTurns s) ++ ((liveUnits s).flatMap (unitTurns s) ++ ((liveClusters s).flatMap (clusterTurns s)
    ++ (cpTurns s ++ (outTurns s ++ (hopTurns s
    ++ ((if s.chip.trace.period ≠ 0 ∧ s.clk % s.chip.trace.period = 0 then [now .traceSample {}] else [])
    ++ (liveClusters s).flatMap (lanTurn s))))))))

/-- Draw which of the events that may wait do so (log entry 3). -/
def settle (d : Nat) : List Cand → List Turn × Nat
  | [] => ([], d)
  | (false, t) :: r => let x := settle d r; (t :: x.1, x.2)
  | (true, t) :: r => let x := settle (d + 1) r; (if Config.late d then x.1 else t :: x.1, x.2)

/-- The outside world's event is taken from its list when it happens. -/
def takeInput (s : State) (l : List Turn) : State :=
  match s.inputs, l with
  | p :: r, t :: _ => if t = .ev p.1 p.2 then { s with inputs := r } else s
  | _, _ => s

/-- One fclk begins: time goes on, and its events are laid out. -/
def tick (s : State) : State :=
  let s1 := tickState s
  let x := settle s1.draws (candidates s1)
  let s2 := takeInput s1 x.1
  { s2 with agenda := x.1, draws := x.2 }

/-- Only a new fclk moves time: a turn leaves the clocks as they stand (R3). -/
def keepTime (s : State) (o : Out) : Out :=
  match o with
  | .next t => .next { t with fclk := s.fclk, clk := s.clk, acc := s.acc, edge := s.edge }
  | .fault f => .fault f
  | .refused r => .refused r

/-! ## An instruction placed to run next -/

/-- Whether a 32-bit word is one that only a unit runs (R156). -/
def unitWord (w : Nat) : Bool :=
  match decodeS (BitVec.ofNat 32 w) with
  | .ok (.loop _) | .ok (.loopi _) => true
  | _ => false

/-- Store bytes of code, unpoisoned, and let no older write hide them. -/
def placeCode (s : State) (m off n v : Nat) : State :=
  let a := codeBase m + off
  let clean := fun (x : SMap Bool) => (List.range ((a + n - 1) / 32 - a / 32 + 1)).foldl (fun y i => sset false y (a / 32 + i) false) x
  modMem s (fun mm => { mm with cells := wrMem mm.cells a n v, poison := clean mm.poison })

/-- A word where Lantern core 0 fetches, with its program running and its turn next. -/
def placeLan (s : State) (w : Nat) : State :=
  let pc := (getCl s 0).lan.core.pc
  let s1 := modLan (placeCode s 0 pc 4 w) 0 (fun l => { l with on := true, codeAt := (getCl s 0).codeSeq })
  { s1 with agenda := [.lantern 0] }

/-- A bundle of one slot where unit 0 fetches, with an instance running there and its issue next: the header of the slot's
presence bit, then the slot's word (R144). -/
def placeUnit (s : State) (n w : Nat) : State :=
  let pc := (getUnit s 0).core.pc
  let hd := if n = 4 then 1 else 2
  let c := getCl s 0
  let s1 := modUnit (placeCode s 0 pc (4 + n) (hd + w * 2 ^ 32)) 0 (fun u => { u with
    inst := some ⟨c.runId, 0, 0, pc, false, c.codeSeq⟩, stop := none })
  { s1 with agenda := [.ev .bundleIssue { k := 0 }] }

/-- An opcode-table word placed so that the next step fetches and runs it (log entry 13). -/
def placeWord (s : State) (nbits w : Nat) : State :=
  let t := { modChip s (fun c => { c with ended := none }) with cp := { s.cp with switch := none } }
  if nbits ≤ 32 then (if unitWord w then placeUnit t 4 (w % 2 ^ 32) else placeLan t (w % 2 ^ 32)) else placeUnit t 8 (w % 2 ^ 64)

end Sys2Proof.Machine
end

