-- ==== Sys2Proof/Machine/Dispatch.lean ====
section
/-! DEFINITION. One arm for each instruction, command, packet and event of the opcode table. -/

namespace Sys2Proof.Machine

/-- The meaning of an instruction. -/
def exec (i : Instr) (s : State) : Host.Outcome State Fault Refusal :=
  match i with
  | .add d a b => Sys2Proof.Machine.execAdd d a b s
  | .sub d a b => Sys2Proof.Machine.execSub d a b s
  | .and d a b => Sys2Proof.Machine.execAnd d a b s
  | .or d a b => Sys2Proof.Machine.execOr d a b s
  | .xor d a b => Sys2Proof.Machine.execXor d a b s
  | .andn d a b => Sys2Proof.Machine.execAndn d a b s
  | .orn d a b => Sys2Proof.Machine.execOrn d a b s
  | .xnor d a b => Sys2Proof.Machine.execXnor d a b s
  | .shl d a b => Sys2Proof.Machine.execShl d a b s
  | .shr d a b => Sys2Proof.Machine.execShr d a b s
  | .sra d a b => Sys2Proof.Machine.execSra d a b s
  | .ror d a b => Sys2Proof.Machine.execRor d a b s
  | .slt d a b => Sys2Proof.Machine.execSlt d a b s
  | .sltu d a b => Sys2Proof.Machine.execSltu d a b s
  | .min d a b => Sys2Proof.Machine.execMin d a b s
  | .max d a b => Sys2Proof.Machine.execMax d a b s
  | .minu d a b => Sys2Proof.Machine.execMinu d a b s
  | .maxu d a b => Sys2Proof.Machine.execMaxu d a b s
  | .clz d a => Sys2Proof.Machine.execClz d a s
  | .ctz d a => Sys2Proof.Machine.execCtz d a s
  | .popc d a => Sys2Proof.Machine.execPopc d a s
  | .bswap d a => Sys2Proof.Machine.execBswap d a s
  | .mul d a b => Sys2Proof.Machine.execMul d a b s
  | .mulh d a b => Sys2Proof.Machine.execMulh d a b s
  | .mulhu d a b => Sys2Proof.Machine.execMulhu d a b s
  | .mulhsu d a b => Sys2Proof.Machine.execMulhsu d a b s
  | .div d a b => Sys2Proof.Machine.execDiv d a b s
  | .divu d a b => Sys2Proof.Machine.execDivu d a b s
  | .rem d a b => Sys2Proof.Machine.execRem d a b s
  | .remu d a b => Sys2Proof.Machine.execRemu d a b s
  | .addi d a imm => Sys2Proof.Machine.execAddi d a imm s
  | .andi d a imm => Sys2Proof.Machine.execAndi d a imm s
  | .ori d a imm => Sys2Proof.Machine.execOri d a imm s
  | .xori d a imm => Sys2Proof.Machine.execXori d a imm s
  | .slti d a imm => Sys2Proof.Machine.execSlti d a imm s
  | .sltiu d a imm => Sys2Proof.Machine.execSltiu d a imm s
  | .shli d a n => Sys2Proof.Machine.execShli d a n s
  | .shri d a n => Sys2Proof.Machine.execShri d a n s
  | .srai d a n => Sys2Proof.Machine.execSrai d a n s
  | .rori d a n => Sys2Proof.Machine.execRori d a n s
  | .lui d imm => Sys2Proof.Machine.execLui d imm s
  | .addpc d imm => Sys2Proof.Machine.execAddpc d imm s
  | .bfxu d a p l => Sys2Proof.Machine.execBfxu d a p l s
  | .bfxs d a p l => Sys2Proof.Machine.execBfxs d a p l s
  | .bfi d a p l => Sys2Proof.Machine.execBfi d a p l s
  | .ldB d a imm => Sys2Proof.Machine.execLdB d a imm s
  | .ldBu d a imm => Sys2Proof.Machine.execLdBu d a imm s
  | .ldH d a imm => Sys2Proof.Machine.execLdH d a imm s
  | .ldHu d a imm => Sys2Proof.Machine.execLdHu d a imm s
  | .ldW d a imm => Sys2Proof.Machine.execLdW d a imm s
  | .ldWu d a imm => Sys2Proof.Machine.execLdWu d a imm s
  | .ldD d a imm => Sys2Proof.Machine.execLdD d a imm s
  | .ldm d a n o => Sys2Proof.Machine.execLdm d a n o s
  | .stB d a imm => Sys2Proof.Machine.execStB d a imm s
  | .stH d a imm => Sys2Proof.Machine.execStH d a imm s
  | .stW d a imm => Sys2Proof.Machine.execStW d a imm s
  | .stD d a imm => Sys2Proof.Machine.execStD d a imm s
  | .stm d a n o => Sys2Proof.Machine.execStm d a n o s
  | .beq a b o => Sys2Proof.Machine.execBeq a b o s
  | .bne a b o => Sys2Proof.Machine.execBne a b o s
  | .blt a b o => Sys2Proof.Machine.execBlt a b o s
  | .bge a b o => Sys2Proof.Machine.execBge a b o s
  | .bltu a b o => Sys2Proof.Machine.execBltu a b o s
  | .bgeu a b o => Sys2Proof.Machine.execBgeu a b o s
  | .jal d o => Sys2Proof.Machine.execJal d o s
  | .jalr d a imm => Sys2Proof.Machine.execJalr d a imm s
  | .loop a => Sys2Proof.Machine.execLoop a s
  | .loopi imm => Sys2Proof.Machine.execLoopi imm s
  | .tjoin x y p q => Sys2Proof.Machine.execTjoin x y p q s
  | .tclr x p => Sys2Proof.Machine.execTclr x p s
  | .twait c x k => Sys2Proof.Machine.execTwait c x k s
  | .fence sc k => Sys2Proof.Machine.execFence sc k s
  | .csrr d c => Sys2Proof.Machine.execCsrr d c s
  | .csrw a c => Sys2Proof.Machine.execCsrw a c s
  | .trap c => Sys2Proof.Machine.execTrap c s
  | .eret => Sys2Proof.Machine.execEret s
  | .tail => Sys2Proof.Machine.execTail s
  | .dsetb d a => Sys2Proof.Machine.execDsetb d a s
  | .dsete d a k => Sys2Proof.Machine.execDsete d a k s
  | .dsets d a k => Sys2Proof.Machine.execDsets d a k s
  | .dseta d a => Sys2Proof.Machine.execDseta d a s
  | .dgetb d n => Sys2Proof.Machine.execDgetb d n s
  | .dgete d n k => Sys2Proof.Machine.execDgete d n k s
  | .dgets d n k => Sys2Proof.Machine.execDgets d n k s
  | .dgeta d n => Sys2Proof.Machine.execDgeta d n s
  | .dmov n n2 => Sys2Proof.Machine.execDmov n n2 s
  | .daddb n a => Sys2Proof.Machine.execDaddb n a s
  | .dld n a imm => Sys2Proof.Machine.execDld n a imm s
  | .dldG n a imm => Sys2Proof.Machine.execDldG n a imm s
  | .dst n a imm => Sys2Proof.Machine.execDst n a imm s
  | .dstG n a imm => Sys2Proof.Machine.execDstG n a imm s
  | .ldg d a => Sys2Proof.Machine.execLdg d a s
  | .stg a b => Sys2Proof.Machine.execStg a b s
  | .amogAdd d a b => Sys2Proof.Machine.execAmogAdd d a b s
  | .amogSwp d a b => Sys2Proof.Machine.execAmogSwp d a b s
  | .amogCas d a b => Sys2Proof.Machine.execAmogCas d a b s
  | .lcp d a b => Sys2Proof.Machine.execLcp d a b s
  | .tdecl n b => Sys2Proof.Machine.execTdecl n b s
  | .trel a => Sys2Proof.Machine.execTrel a s
  | .post a => Sys2Proof.Machine.execPost a s
  | .postTry d a => Sys2Proof.Machine.execPostTry d a s
  | .postR a b => Sys2Proof.Machine.execPostR a b s
  | .postRtry d a b => Sys2Proof.Machine.execPostRtry d a b s
  | .tkwait a => Sys2Proof.Machine.execTkwait a s
  | .tksig a => Sys2Proof.Machine.execTksig a s
  | .tkrd d a => Sys2Proof.Machine.execTkrd d a s
  | .usig a => Sys2Proof.Machine.execUsig a s
  | .winq d k => Sys2Proof.Machine.execWinq d k s
  | .retry a => Sys2Proof.Machine.execRetry a s
  | .vadd f => Sys2Proof.Machine.execVadd f s
  | .vsub f => Sys2Proof.Machine.execVsub f s
  | .vmul f => Sys2Proof.Machine.execVmul f s
  | .vmulh f => Sys2Proof.Machine.execVmulh f s
  | .vfma f => Sys2Proof.Machine.execVfma f s
  | .vfms f => Sys2Proof.Machine.execVfms f s
  | .vfnma f => Sys2Proof.Machine.execVfnma f s
  | .vmac f => Sys2Proof.Machine.execVmac f s
  | .vand f => Sys2Proof.Machine.execVand f s
  | .vor f => Sys2Proof.Machine.execVor f s
  | .vxor f => Sys2Proof.Machine.execVxor f s
  | .vandn f => Sys2Proof.Machine.execVandn f s
  | .vshl f => Sys2Proof.Machine.execVshl f s
  | .vshr f => Sys2Proof.Machine.execVshr f s
  | .vsra f => Sys2Proof.Machine.execVsra f s
  | .vrshr f => Sys2Proof.Machine.execVrshr f s
  | .vadds f => Sys2Proof.Machine.execVadds f s
  | .vsubs f => Sys2Proof.Machine.execVsubs f s
  | .vmin f => Sys2Proof.Machine.execVmin f s
  | .vmax f => Sys2Proof.Machine.execVmax f s
  | .vabs f => Sys2Proof.Machine.execVabs f s
  | .vneg f => Sys2Proof.Machine.execVneg f s
  | .vabd f => Sys2Proof.Machine.execVabd f s
  | .vclz f => Sys2Proof.Machine.execVclz f s
  | .vpopc f => Sys2Proof.Machine.execVpopc f s
  | .vcvt f => Sys2Proof.Machine.execVcvt f s
  | .vrq f => Sys2Proof.Machine.execVrq f s
  | .vwidenLo f => Sys2Proof.Machine.execVwidenLo f s
  | .vwidenHi f => Sys2Proof.Machine.execVwidenHi f s
  | .vnarrow f => Sys2Proof.Machine.execVnarrow f s
  | .vperm f => Sys2Proof.Machine.execVperm f s
  | .vperm2 f => Sys2Proof.Machine.execVperm2 f s
  | .vrot f => Sys2Proof.Machine.execVrot f s
  | .vslide f => Sys2Proof.Machine.execVslide f s
  | .vzipLo f => Sys2Proof.Machine.execVzipLo f s
  | .vzipHi f => Sys2Proof.Machine.execVzipHi f s
  | .vunzipE f => Sys2Proof.Machine.execVunzipE f s
  | .vunzipO f => Sys2Proof.Machine.execVunzipO f s
  | .vbcast f => Sys2Proof.Machine.execVbcast f s
  | .vclmul f => Sys2Proof.Machine.execVclmul f s
  | .vclmulh f => Sys2Proof.Machine.execVclmulh f s
  | .vpxor f => Sys2Proof.Machine.execVpxor f s
  | .vpsum f => Sys2Proof.Machine.execVpsum f s
  | .vradd f => Sys2Proof.Machine.execVradd f s
  | .vrmin f => Sys2Proof.Machine.execVrmin f s
  | .vrmax f => Sys2Proof.Machine.execVrmax f s
  | .vrxor f => Sys2Proof.Machine.execVrxor f s
  | .vrmini f => Sys2Proof.Machine.execVrmini f s
  | .vrmaxi f => Sys2Proof.Machine.execVrmaxi f s
  | .vceq f => Sys2Proof.Machine.execVceq f s
  | .vcne f => Sys2Proof.Machine.execVcne f s
  | .vclt f => Sys2Proof.Machine.execVclt f s
  | .vcle f => Sys2Proof.Machine.execVcle f s
  | .vcgt f => Sys2Proof.Machine.execVcgt f s
  | .vcge f => Sys2Proof.Machine.execVcge f s
  | .vcun f => Sys2Proof.Machine.execVcun f s
  | .vsel f => Sys2Proof.Machine.execVsel f s
  | .mand f => Sys2Proof.Machine.execMand f s
  | .mor f => Sys2Proof.Machine.execMor f s
  | .mxor f => Sys2Proof.Machine.execMxor f s
  | .mandn f => Sys2Proof.Machine.execMandn f s
  | .mnot f => Sys2Proof.Machine.execMnot f s
  | .vmov f => Sys2Proof.Machine.execVmov f s
  | .vext f => Sys2Proof.Machine.execVext f s
  | .vins f => Sys2Proof.Machine.execVins f s
  | .vld f => Sys2Proof.Machine.execVld f s
  | .vst f => Sys2Proof.Machine.execVst f s
  | .vldm f => Sys2Proof.Machine.execVldm f s
  | .vstm f => Sys2Proof.Machine.execVstm f s
  | .vgth f => Sys2Proof.Machine.execVgth f s
  | .vsct f => Sys2Proof.Machine.execVsct f s
  | .qld f => Sys2Proof.Machine.execQld f s
  | .qldZ1 f => Sys2Proof.Machine.execQldZ1 f s
  | .qldZ2 f => Sys2Proof.Machine.execQldZ2 f s
  | .vtrd f => Sys2Proof.Machine.execVtrd f s
  | .vtwr f => Sys2Proof.Machine.execVtwr f s
  | .mmaQ f => Sys2Proof.Machine.execMmaQ f s
  | .mmaV f => Sys2Proof.Machine.execMmaV f s
  | .mmaR f => Sys2Proof.Machine.execMmaR f s
  | .wld f => Sys2Proof.Machine.execWld f s
  | .swap f => Sys2Proof.Machine.execSwap f s
  | .zero f => Sys2Proof.Machine.execZero f s
  | .drain f => Sys2Proof.Machine.execDrain f s
  | .drainZ1 f => Sys2Proof.Machine.execDrainZ1 f s
  | .drainZ2 f => Sys2Proof.Machine.execDrainZ2 f s
  | .cp f => Sys2Proof.Machine.execCp f s
  | .cpP f => Sys2Proof.Machine.execCpP f s
  | .cpBox f => Sys2Proof.Machine.execCpBox f s
  | .cpGth f => Sys2Proof.Machine.execCpGth f s
  | .cpSct f => Sys2Proof.Machine.execCpSct f s
  | .cpCvt f => Sys2Proof.Machine.execCpCvt f s
  | .cpZip f => Sys2Proof.Machine.execCpZip f s
  | .cpUnz f => Sys2Proof.Machine.execCpUnz f s
  | .cpXp f => Sys2Proof.Machine.execCpXp f s
  | .mcred f => Sys2Proof.Machine.execMcred f s
  | .amoAdd f => Sys2Proof.Machine.execAmoAdd f s
  | .amoAnd f => Sys2Proof.Machine.execAmoAnd f s
  | .amoOr f => Sys2Proof.Machine.execAmoOr f s
  | .amoXor f => Sys2Proof.Machine.execAmoXor f s
  | .amoMin f => Sys2Proof.Machine.execAmoMin f s
  | .amoMax f => Sys2Proof.Machine.execAmoMax f s
  | .amoMinu f => Sys2Proof.Machine.execAmoMinu f s
  | .amoMaxu f => Sys2Proof.Machine.execAmoMaxu f s
  | .amoSwp f => Sys2Proof.Machine.execAmoSwp f s
  | .amoCas f => Sys2Proof.Machine.execAmoCas f s
  | .amoFaddF32 f => Sys2Proof.Machine.execAmoFaddF32 f s
  | .amoFaddBf16 f => Sys2Proof.Machine.execAmoFaddBf16 f s
  | .amoFaddF16 f => Sys2Proof.Machine.execAmoFaddF16 f s
  | .sig f => Sys2Proof.Machine.execSig f s
  | .swait f => Sys2Proof.Machine.execSwait f s
  | .bpost f => Sys2Proof.Machine.execBpost f s
  | .bwait f => Sys2Proof.Machine.execBwait f s
  | .barrive f => Sys2Proof.Machine.execBarrive f s
  | .semrd f => Sys2Proof.Machine.execSemrd f s
  | .cpost f => Sys2Proof.Machine.execCpost f s
  | .ldr f => Sys2Proof.Machine.execLdr f s
  | .ldrV f => Sys2Proof.Machine.execLdrV f s
  | .str f => Sys2Proof.Machine.execStr f s
  | .strV f => Sys2Proof.Machine.execStrV f s
  | .bundleIssue => Sys2Proof.Machine.execBundleIssue s
  | .resultLanding => Sys2Proof.Machine.execResultLanding s
  | .dividerFree => Sys2Proof.Machine.execDividerFree s
  | .taggedReadArrival => Sys2Proof.Machine.execTaggedReadArrival s
  | .commandHandOff => Sys2Proof.Machine.execCommandHandOff s
  | .deferredCheckTrap => Sys2Proof.Machine.execDeferredCheckTrap s
  | .engineCommandStart => Sys2Proof.Machine.execEngineCommandStart s
  | .engineTokenFire => Sys2Proof.Machine.execEngineTokenFire s
  | .signalArrival => Sys2Proof.Machine.execSignalArrival s
  | .chunkComplete => Sys2Proof.Machine.execChunkComplete s
  | .commandComplete => Sys2Proof.Machine.execCommandComplete s
  | .memorySideFault => Sys2Proof.Machine.execMemorySideFault s
  | .ringTrap => Sys2Proof.Machine.execRingTrap s
  | .unitTrap => Sys2Proof.Machine.execUnitTrap s
  | .matrixCommandLeave => Sys2Proof.Machine.execMatrixCommandLeave s
  | .mmaStep => Sys2Proof.Machine.execMmaStep s
  | .wldComplete => Sys2Proof.Machine.execWldComplete s
  | .mmaComplete => Sys2Proof.Machine.execMmaComplete s
  | .drainComplete => Sys2Proof.Machine.execDrainComplete s
  | .barrierWaitComplete => Sys2Proof.Machine.execBarrierWaitComplete s
  | .swaitGrant => Sys2Proof.Machine.execSwaitGrant s
  | .instanceDrain => Sys2Proof.Machine.execInstanceDrain s
  | .taskDispatch => Sys2Proof.Machine.execTaskDispatch s
  | .postEntry => Sys2Proof.Machine.execPostEntry s
  | .overflowQueueEntry => Sys2Proof.Machine.execOverflowQueueEntry s
  | .tokenWatch => Sys2Proof.Machine.execTokenWatch s
  | .commitCopyStart => Sys2Proof.Machine.execCommitCopyStart s
  | .commitCopyComplete => Sys2Proof.Machine.execCommitCopyComplete s
  | .taskFree => Sys2Proof.Machine.execTaskFree s
  | .gangSwitch => Sys2Proof.Machine.execGangSwitch s
  | .contextRestore => Sys2Proof.Machine.execContextRestore s
  | .jobStart => Sys2Proof.Machine.execJobStart s
  | .deferredReissue => Sys2Proof.Machine.execDeferredReissue s
  | .traceSample => Sys2Proof.Machine.execTraceSample s
  | .rpcFillComplete => Sys2Proof.Machine.execRpcFillComplete s
  | .rpcEviction => Sys2Proof.Machine.execRpcEviction s
  | .hostSnoop => Sys2Proof.Machine.execHostSnoop s
  | .rpcWriteBack => Sys2Proof.Machine.execRpcWriteBack s
  | .rpcInvalidate => Sys2Proof.Machine.execRpcInvalidate s
  | .rpcWriteBackInvalidate => Sys2Proof.Machine.execRpcWriteBackInvalidate s
  | .rpcOpDone => Sys2Proof.Machine.execRpcOpDone s
  | .rangeStageWrite => Sys2Proof.Machine.execRangeStageWrite s
  | .rangeCommit => Sys2Proof.Machine.execRangeCommit s
  | .ringCmpWrite => Sys2Proof.Machine.execRingCmpWrite s
  | .ringCmpSupply => Sys2Proof.Machine.execRingCmpSupply s
  | .ringCmpPoison => Sys2Proof.Machine.execRingCmpPoison s
  | .ringHeadWrite => Sys2Proof.Machine.execRingHeadWrite s
  | .histClr => Sys2Proof.Machine.execHistClr s
  | .tileStatusWrite => Sys2Proof.Machine.execTileStatusWrite s
  | .doorbell => Sys2Proof.Machine.execDoorbell s
  | .tailWordWrite => Sys2Proof.Machine.execTailWordWrite s
  | .queueReset => Sys2Proof.Machine.execQueueReset s
  | .hostRegisterWrite => Sys2Proof.Machine.execHostRegisterWrite s
  | .queueUnbind => Sys2Proof.Machine.execQueueUnbind s
  | .commandFetch => Sys2Proof.Machine.execCommandFetch s
  | .completionRecordWrite => Sys2Proof.Machine.execCompletionRecordWrite s
  | .nop => Sys2Proof.Machine.execNop s
  | .launch => Sys2Proof.Machine.execLaunch s
  | .launchSwapIn => Sys2Proof.Machine.execLaunchSwapIn s
  | .launchComplete => Sys2Proof.Machine.execLaunchComplete s
  | .wait => Sys2Proof.Machine.execWait s
  | .waitWakeup => Sys2Proof.Machine.execWaitWakeup s
  | .signal => Sys2Proof.Machine.execSignal s
  | .indirect => Sys2Proof.Machine.execIndirect s
  | .place => Sys2Proof.Machine.execPlace s
  | .map => Sys2Proof.Machine.execMap s
  | .unmap => Sys2Proof.Machine.execUnmap s
  | .mapx => Sys2Proof.Machine.execMapx s
  | .unmapx => Sys2Proof.Machine.execUnmapx s
  | .unitResume => Sys2Proof.Machine.execUnitResume s
  | .unitAbort => Sys2Proof.Machine.execUnitAbort s
  | .belfry => Sys2Proof.Machine.execBelfry s
  | .mcgrp => Sys2Proof.Machine.execMcgrp s
  | .trace => Sys2Proof.Machine.execTrace s
  | .nvmeRd => Sys2Proof.Machine.execNvmeRd s
  | .nvmeWr => Sys2Proof.Machine.execNvmeWr s
  | .nvmeCompletion => Sys2Proof.Machine.execNvmeCompletion s
  | .nvmeTimeout => Sys2Proof.Machine.execNvmeTimeout s
  | .jobCreate => Sys2Proof.Machine.execJobCreate s
  | .jobDestroy => Sys2Proof.Machine.execJobDestroy s
  | .keyLoad => Sys2Proof.Machine.execKeyLoad s
  | .gang => Sys2Proof.Machine.execGang s
  | .part => Sys2Proof.Machine.execPart s
  | .rpcCfg => Sys2Proof.Machine.execRpcCfg s
  | .nvmeAtt => Sys2Proof.Machine.execNvmeAtt s
  | .cxlMemRead => Sys2Proof.Machine.execCxlMemRead s
  | .cxlMemWrite => Sys2Proof.Machine.execCxlMemWrite s
  | .rd => Sys2Proof.Machine.execRd s
  | .wr => Sys2Proof.Machine.execWr s
  | .amo => Sys2Proof.Machine.execAmo s
  | .fadd => Sys2Proof.Machine.execFadd s
  | .postPacket => Sys2Proof.Machine.execPostPacket s
  | .tkarm => Sys2Proof.Machine.execTkarm s
  | .tksigPacket => Sys2Proof.Machine.execTksigPacket s
  | .tkrdPacket => Sys2Proof.Machine.execTkrdPacket s
  | .mcreq => Sys2Proof.Machine.execMcreq s
  | .red => Sys2Proof.Machine.execRed s
  | .data => Sys2Proof.Machine.execData s
  | .ack => Sys2Proof.Machine.execAck s
  | .requestTimeout => Sys2Proof.Machine.execRequestTimeout s
  | .belfrySlotBoundary => Sys2Proof.Machine.execBelfrySlotBoundary s
  | .linkBringup => Sys2Proof.Machine.execLinkBringup s
  | .laneFailure => Sys2Proof.Machine.execLaneFailure s
  | .peerReset => Sys2Proof.Machine.execPeerReset s
  | .hotSwapRemove => Sys2Proof.Machine.execHotSwapRemove s
  | .powerGood => Sys2Proof.Machine.execPowerGood s
  | .attestationRequest => Sys2Proof.Machine.execAttestationRequest s
  | .liveUpdate => Sys2Proof.Machine.execLiveUpdate s
  | .powerCapSet => Sys2Proof.Machine.execPowerCapSet s
  | .thermalTrip => Sys2Proof.Machine.execThermalTrip s
  | .postTimeout => Sys2Proof.Machine.execPostTimeout s
  | .postAnswer => Sys2Proof.Machine.execPostAnswer s
  | .ptpLossOfLock => Sys2Proof.Machine.execPtpLossOfLock s
  | .powerCapThrottling => Sys2Proof.Machine.execPowerCapThrottling s
  | .partitionDissolved => Sys2Proof.Machine.execPartitionDissolved s

end Sys2Proof.Machine
end

