-- ==== Sys2Proof/Machine/Step.lean ====
section
/-! DEFINITION. One step of the module: the next turn of the fclk under way, or the start of the next fclk. -/

namespace Sys2Proof.Machine

/-- One step (R3, R5): the next turn of this fclk, or, when none is left, a new fclk. -/
def step (s : State) : Host.Outcome State Fault Refusal :=
  match s.agenda with
  | [] => .next (tick s)
  | .lantern m :: r =>
    let t := { s with agenda := r, cur := .lantern m }
    if lanRuns t m.toNat then
      match lanFetch t m.toNat with
      | .ok i => keepTime s (exec i (wordFound t m.toNat))
      | .error c => keepTime s (.next (fetchTrap (wordFound t m.toNat) m.toNat c))
    else .next t
  | .hop id :: r => keepTime s (.next (routeHop { s with agenda := r } id))
  | .ev i a :: r => keepTime s (exec i { s with agenda := r, arg := a })

/-- An opcode-table word placed where the next step fetches its instruction. -/
def State.withFetchWord (s : State) (nbits w : Nat) : State := placeWord s nbits w

end Sys2Proof.Machine
end

