-- ==== Sys2Proof/Safety.lean ====
section
/-! DEFINITION. What counts as a safe run, and the terms the statements use: when an instruction word runs to its effect, and the state it then leaves. -/

namespace Sys2Proof.Machine

/-- A memory's tables are all in canonical form (R47, R81). -/
def MemSt.wf (m : MemSt) : Bool := m.cells.wf && swf false m.poison

/-- Every memory of the module is in canonical form: on-chip, saved, HBM and host. -/
def State.memWf (s : State) : Prop :=
  s.chip.mem.wf = true ∧ s.hbm.wf = true ∧ s.host.wf = true ∧ ∀ p ∈ s.images, p.2.mem.wf = true

/-- `n` steps stop nowhere. -/
def Safe (n : Nat) (s : State) : Prop :=
  match Host.Core.run core n s with
  | .next t => State.memWf t
  | _ => False

/-! ## One instruction word

`SlotOut` lists what an instruction asks for and does. A word that meets none of the causes that stop or stall it leaves the
state `wordDid`. -/

/-- The bundle of a unit that holds one instruction in `slot` and nothing else, at the unit's pc (R144). -/
def soloBundle (u : Unit) (slot : Nat) (x : SlotIn) : Bun :=
  ⟨u.core.pc, if slot = 0 then 8 else 12, false, 0, [], none, [x]⟩

/-- A Lantern word that asks for `o` neither traps by its encoding nor stalls (R68, R74, R176). -/
def lanFree (s : State) (m : Nat) (o : SlotOut) : Bool :=
  let l := (getCl s m).lan
  o.bad.isNone && !(o.xfer && l.core.delay.isSome) && !(o.ctl == .eret && !hm l.core) && !lanHeld s m o && !o.hold

/-- A one-slot bundle that asks for `o` neither traps by its encoding nor stalls (R145, R146, R158). -/
def soloFree (s : State) (k slot : Nat) (o : SlotOut) : Bool :=
  let u := getUnit s k
  let x : SlotIn := ⟨slot, none, fun _ => o⟩
  let b := soloBundle u slot x
  (firstCase (bunCases u b [(x, o)])).isNone
    && !(bunHeld (modUnit s k (fun u => { u with core := { u.core with tw := some (u.core.tw.getD (twNamed u.core b [(x, o)])) } })) k b [(x, o)])
    && u.owed.getD (bankStalls o.acc) == 0

/-- An instruction word that asks for `o` runs to its effect: its own bits are legal (R158, R176), nothing holds it, and no
value check fails. -/
def wordFree (s : State) (i : Instr) (slot : Nat) (o : SlotOut) : Bool :=
  (illegal i).isNone && o.chk.ok && o.trap.isNone &&
  match s.cur with
  | .lantern m => lanFree s m.toNat o
  | .unit k => soloFree s k.toNat slot o

/-- What a Lantern word that runs leaves (R184, R268): its effect, one more word counted, and control gone on. -/
def lanDid (s : State) (m : Nat) (o : SlotOut) : State :=
  let t := o.eff (modLan (touchAll s o.finds) m (fun l => { l with core := { l.core with tw := none }, stall := 0, wait := none, ans := none }))
  lanControl (modLan t m (fun l => { l with core := bump l.core 1 1 })) m (getCl s m).lan.core.pc o.ctl

/-- What a one-slot bundle that issues leaves (R145). -/
def unitDid (s : State) (k slot : Nat) (o : SlotOut) : State :=
  let u := getUnit s k
  let x : SlotIn := ⟨slot, none, fun _ => o⟩
  let b := soloBundle u slot x
  let s1 := modUnit s k (fun u => { u with core := { u.core with tw := some (u.core.tw.getD (twNamed u.core b [(x, o)])) } })
  bunIssue (touchAll s1 o.finds) k b [(x, o)]

/-- What an instruction word that runs to its effect leaves. -/
def wordDid (s : State) (slot : Nat) (o : SlotOut) : State :=
  match s.cur with
  | .lantern m => lanDid s m.toNat o
  | .unit k => unitDid s k.toNat slot o

/-- Running the instruction in its slot, alone in a bundle or as a Lantern word, asks for `o` and comes to `o`'s effect. -/
def Runs (s : State) (i : Instr) (slot : Nat) (o : SlotOut) : Prop := wordFree s i slot o = true → exec i s = .next (wordDid s slot o)

/-! ## The agent that runs -/

/-- The stream that runs. -/
def here (s : State) : Core := getCore s s.cur
/-- The unit that runs; none on a Lantern core. -/
def hereUnit (s : State) : Unit := match s.cur with | .lantern _ => {} | .unit k => getUnit s k.toNat
/-- Whether a Lantern core runs. -/
def onLan (s : State) : Bool := match s.cur with | .lantern _ => true | .unit _ => false
/-- A scalar register. -/
def reg (s : State) (r : Reg) : W64 := rdS (here s) r.toNat
/-- Whether a scalar register carries poison. -/
def regBad (s : State) (r : Reg) : Bool := (hmeta (here s) r.toNat).poison
/-- The scratchpad of the agent that runs: its first local IA and its bytes (R189). -/
def padBase (s : State) : Nat := match s.cur with | .lantern m => clBase m.toNat | .unit k => unitBase k.toNat
def padSize (s : State) : Nat := match s.cur with | .lantern _ => clSize | .unit _ => unitSize

/-- A result on its way to a holder: it carries what the holders read carry. -/
def lands (s : State) (h lat : Nat) (val : Vec) (srcs : List Nat) (psn : Bool) (fl : Flags) : State → State :=
  fun t => putResult t s.cur (here s) h lat val srcs psn fl

/-- A scalar result from scalar sources, and nothing else. -/
def scalarOut (s : State) (d : Reg) (srcs : List Reg) (lat : Nat) (v : W64) : SlotOut :=
  { wr := [d.toNat], reads := srcs.map (fun r => r.toNat), eff := lands s d.toNat lat (v.setWidth 4096) (srcs.map (fun r => r.toNat)) false 0 }

/-- Two memories read the same at every byte, with the same poison. -/
def MemSame (a b : MemSt) : Prop := ∀ i, rdByte b.cells i = rdByte a.cells i ∧ psnAt b i = psnAt a i
/-- Every memory of the module reads the same: on-chip, HBM and host. -/
def AllMemSame (s t : State) : Prop := MemSame s.chip.mem t.chip.mem ∧ MemSame s.hbm t.hbm ∧ MemSame s.host t.host

/-- Address of a scalar access: a register and a signed offset, in 64 bits (R189). -/
def accessAt (s : State) (a : Reg) (i : Int) : Nat := (((reg s a).toNat + i) % 2 ^ 64).toNat
/-- A read of `n` bytes of the agent's scratchpad: the number they spell, lowest byte first, and whether one is poisoned. -/
def padRead (s : State) (o n : Nat) : Nat × Bool :=
  (ofBytes ((List.range n).map (fun j => rdByte s.chip.mem.cells (padBase s + o + j))),
    (readLoc s (.chip (padBase s + o)) n).1.any (fun b => b.2))

/-- A load of `n` bytes at offset `o` of the scratchpad into a scalar register (R189). -/
def loadOut (s : State) (d a : Reg) (o n : Nat) (v : W64) : SlotOut :=
  { wr := [d.toNat], reads := [a.toNat], gate := [a.toNat], acc := [(false, o, n)], chk := needRange (decide (o + n ≤ padSize s)) o
    eff := fun t => lands s d.toNat 5 (v.setWidth 4096) [a.toNat] (padRead s o n).2 0 (touchChip t (padBase s + o) n) }

/-- A store of the bytes of a scalar register at offset `o` of the scratchpad (R189). -/
def storeOut (s : State) (d a : Reg) (o n : Nat) : SlotOut :=
  { reads := [a.toNat, d.toNat], gate := [a.toNat, d.toNat], acc := [(true, o, n)]
    chk := ((needRange (decide (o + n ≤ padSize s)) o).unless (regBad s a)).and ((psnOf (regBad s d) 0 d.toNat).and (psnOf (regBad s a) 0 a.toNat))
    eff := fun t => modMem t (fun m => writeImg m (padBase s + o) ((toBytes (reg s d).toNat n).map (fun b => (b, false)))) }

/-- Bytes of the word that runs: a Lantern word, or a bundle of one S-slot word (R144, R176). -/
def wordLen (s : State) : Nat := if onLan s then 4 else 8
/-- Where the path past the delay slot of a transfer resumes: after the delay word, or after the delay bundle, whose length
its header gives (R192). -/
def linkAt (s : State) : Nat :=
  match s.cur with
  | .lantern _ => ((here s).pc + 8) % 2 ^ 21
  | .unit k => unitLink s k.toNat (((here s).pc + 8) % 2 ^ 21)
/-- Checks of a transfer's scalar operands: a poisoned one traps, and its target is then not checked (R193). -/
def transferChk (s : State) (srcs : List Reg) (ok : Bool) : Chk :=
  ((needIll ok).unless (srcs.any (regBad s))).and (srcs.foldl (fun (c : Chk) r => c.and (psnOf (regBad s r) 0 r.toNat)) {})

/-- The cluster of the agent that runs. -/
def hereCl (s : State) : Nat := s.cur.cl
/-- A descriptor register of a Lantern core (R267). -/
def dreg (s : State) (n : BitVec 4) : Desc := sget 0 (getCl s (hereCl s)).lan.d n.toNat
/-- Whether a descriptor register carries poison. -/
def dBad (s : State) (n : BitVec 4) : Bool := (hmeta (here s) (128 + n.toNat)).poison
/-- POISON of scalar registers (R111). -/
def psnChk (s : State) (srcs : List Reg) : Chk := srcs.foldl (fun (c : Chk) r => c.and (psnOf (regBad s r) 0 r.toNat)) {}
/-- `y` is `x` with `n` bits from bit `lo` up replaced by those of `v`. -/
def Replaced (x y : Desc) (lo n : Nat) (v : W64) : Prop :=
  ∀ j < 256, y.getLsbD j = if lo ≤ j ∧ j < lo + n then v.getLsbD (j - lo) else x.getLsbD j
/-- A descriptor register written from itself and a scalar register (R268). -/
def descOut (s : State) (n : BitVec 4) (a : Reg) (y : Desc) : SlotOut :=
  { wr := [128 + n.toNat], reads := [128 + n.toNat, a.toNat]
    eff := lands s (128 + n.toNat) 1 (y.setWidth 4096) [128 + n.toNat, a.toNat] false 0 }

/-- One or zero. -/
def truth (b : Bool) : W64 := if b then 1 else 0

/-! ## Vector words -/

/-- What a word on a Lantern core sees. -/
def lanView (s : State) (m : Nat) : View :=
  let c := (getCl s m).lan.core
  ⟨s, s, .lantern (BitVec.ofNat 5 m), c, {}, 0, c.pc, codeAddr (c.pc + 8), false, []⟩

/-- What an instruction alone in a unit's bundle sees. -/
def soloView (s : State) (k slot : Nat) : View :=
  let u := getUnit s k
  ⟨s, s, .unit (BitVec.ofNat 8 k), u.core, u, slot, u.core.pc,
    unitLink s k (codeAddr (u.core.pc + (if slot = 0 then 8 else 12 : Nat))), false, []⟩

/-- What the word that runs sees. -/
def hereView (s : State) (slot : Nat) : View :=
  match s.cur with
  | .lantern m => lanView s m.toNat
  | .unit k => soloView s k.toNat slot

/-- The value that a source specifier of a vector instruction names (R167). -/
def src (s : State) (f : VF) (x : BitVec 6) : Vec := vsrc (hereView s 1) f x.toNat
/-- Lane `i` of width `w` (R152). -/
def lane (w : Nat) (x : Vec) (i : Nat) : Nat := x.toNat / 2 ^ (w * i) % 2 ^ w
/-- Whether lane `i` of width `w` is enabled (R204). -/
def laneEn (s : State) (f : VF) (w i : Nat) : Bool := (rdM (hereUnit s) f.mask.toNat).getLsbD (i * w / 32)
/-- val of an integer lane: signed for the I types (R207). -/
def laneVal (f : VF) (x : Nat) : Int :=
  if f.ty.toNat < 4 ∧ 2 ^ (tyWidth f.ty.toNat - 1) ≤ x then (x : Int) - 2 ^ tyWidth f.ty.toNat else x
/-- What a vector instruction asks for: one result for holder `h` at latency `lat`, and each queue it names popped once; the
result carries what its register operands and the further holders carry, and the poison of popped entries (R153, R206, R110). -/
def vecOut (s : State) (f : VF) (h : Nat) (srcs : List (BitVec 6)) (lat : Nat) (y : Vec) (more : List Nat) (fl : Flags) : SlotOut :=
  let xs := srcs.map (fun x => x.toNat)
  { wr := [h], pops := srcPops xs, eff := lands s h lat y (srcHs f xs ++ more) (srcPsn (hereView s 1) xs) fl }
/-- The instruction writes its vector register lane by lane: an enabled lane takes `g`, any other keeps its value or becomes
zero; the flags are those of enabled lanes (R204). -/
def LaneWise (s : State) (i : Instr) (f : VF) (srcs : List (BitVec 6)) (w lat : Nat) (g : Nat → Nat × Flags) : Prop :=
  ∃ y, (∀ j < 4096 / w, lane w y j = if laneEn s f w j then (g j).1 % 2 ^ w else if f.mz = 1 then 0 else lane w (rdV (hereUnit s) f.d.toNat) j) ∧
    Runs s i 1 (vecOut s f (64 + f.d.toNat) srcs lat y (maskHs f (64 + f.d.toNat))
      (((List.range (4096 / w)).filter (laneEn s f w)).foldl (fun x j => x ||| (g j).2) 0))

/-- What the instruction asks for where it stands alone in its slot. -/
def asks (s : State) (i : Instr) (slot : Nat) : SlotOut := ((semOf i).map (fun f => f (hereView s slot))).getD {}
/-- Where nothing stops the instruction, it completes and leaves a state of which `p` holds. -/
def Leaves (s : State) (i : Instr) (slot : Nat) (p : State → Prop) : Prop :=
  wordFree s i slot (asks s i slot) = true → ∃ t, exec i s = .next t ∧ p t
/-- Enabled lanes of width `w`. -/
def laneHits (s : State) (f : VF) (w : Nat) : List Nat := (List.range (4096 / w)).filter (laneEn s f w)
/-- Holders a lane access reads for its addresses and mask. -/
def laneHs (f : VF) (srcs : List (BitVec 6)) : List Nat :=
  f.sreg.toNat :: srcHs f (srcs.map (fun x => x.toNat)) ++ (if f.mask = 0 then [] else [96 + f.mask.toNat])
/-- A load by lanes of `w` bits, lane `i` from offset `at0 i` of the unit's scratchpad (R221, R223). -/
def laneLoadOut (s : State) (f : VF) (w : Nat) (srcs : List (BitVec 6)) (at0 : Nat → Nat) (y : Vec) : SlotOut :=
  let xs := srcs.map (fun x => x.toNat)
  let is := laneHits s f w
  { wr := [64 + f.d.toNat], gate := laneHs f srcs, pops := srcPops xs, acc := is.map (fun i => (false, at0 i, w / 8))
    chk := needRange (is.all (fun i => decide (at0 i + w / 8 ≤ unitSize))) (accessAt s f.sreg f.imm.toInt)
    eff := fun t => lands s (64 + f.d.toNat) 6 y (laneHs f srcs ++ (if f.mask ≠ 0 ∧ f.mz = 0 then [64 + f.d.toNat] else []))
      (srcPsn (hereView s 1) xs || is.any (fun i => (padRead s (at0 i) (w / 8)).2)) 0
      (is.foldl (fun t i => touchChip t (padBase s + at0 i) (w / 8)) t) }
/-- A store by ascending lanes of `w` bits, lane `i` to offset `at0 i` of the unit's scratchpad (R221, R223). -/
def laneStoreOut (s : State) (f : VF) (w : Nat) (srcs : List (BitVec 6)) (at0 : Nat → Nat) : SlotOut :=
  let xs := srcs.map (fun x => x.toNat)
  let is := laneHits s f w
  let d := f.d.toNat
  let ixBad := srcPsn (hereView s 1) xs || (srcHs f xs).any (fun h => (hmeta (here s) h).poison)
  let mBad := (hmeta (here s) (96 + f.mask.toNat)).poison
  let inA := decide (0x20 ≤ f.a.toNat) && decide (f.a.toNat < 0x28)
  { gate := [64 + d, f.sreg.toNat] ++ srcHs f xs ++ [96 + f.mask.toNat], pops := srcPops xs
    acc := is.map (fun i => (true, at0 i, w / 8))
    chk := ((needRange (is.all (fun i => decide (at0 i + w / 8 ≤ unitSize))) (accessAt s f.sreg f.imm.toInt)).unless
        (regBad s f.sreg || ixBad || mBad)).and ((psnOf (hmeta (here s) (64 + d)).poison 1 d).and ((psnOf (regBad s f.sreg) 0 f.sreg.toNat).and
          ((psnOf ixBad (if inA then 3 else 1) (if inA then f.a.toNat - 0x20 else f.a.toNat)).and (psnOf mBad 2 f.mask.toNat))))
    eff := fun t => modMem t (fun m => writeSet m (is.flatMap (fun i =>
      (toBytes (lane w (rdV (hereUnit s) d) i) (w / 8)).mapIdx (fun j b => (padBase s + at0 i + j, b, false))))) }
/-- Every result in flight of unit `k` is one bundle nearer and `new` has joined them; its queues but for the pops of `qs`, its
registers, tiles, semaphores and loop levels, every other agent, and memory are as before (R147, R153). -/
def Issued (s t : State) (k : Nat) (qs : List Nat) (new : List Flight) : Prop :=
  let u := getUnit s k
  let w := getUnit t k
  w.flight = u.flight.map (fun f => { f with r := f.r - 1 }) ++ new ∧
    (∀ q, sget [] w.queues q = if qs.contains q then (sget [] u.queues q).drop 1 else sget [] u.queues q) ∧
    (∀ r, rdS w.core r = rdS u.core r) ∧ (∀ h, hmeta w.core h = hmeta u.core h) ∧ w.v = u.v ∧ w.m = u.m ∧ w.tiles = u.tiles ∧
    w.sems = u.sems ∧ w.loops = u.loops ∧ (∀ n, rdCsr w.core n = if n = 1 then rdCsr u.core 1 + 1 else rdCsr u.core n) ∧
    (∀ j, j ≠ k → getUnit t j = getUnit s j) ∧ (∀ j, getCl t j = getCl s j) ∧ AllMemSame s t

/-! ## Engine commands -/

/-- Whether a command that issues to the queue of `slot` of unit `k` is handed off with its bundle: no earlier command of the
queue waits, no register it reads is tainted, and no slice write to the tile it names is in flight (R67, R74, R148). -/
def handedAtOnce (s : State) (k slot : Nat) (i : Instr) : Bool :=
  let u := getUnit s k
  (slotQ u slot).all (fun q => q.handed || q.opened) && !((cmdOps i (parOf u i)).any (tainted u.core) || tileFlight u i)
/-- The command of slot `slot` completes its issue with its operands `x` resolved as `p` says (R245). -/
def HandedOff (s : State) (k slot : Nat) (i : Instr) (p : Xfer → Prop) : Prop :=
  handedAtOnce s k slot i = true → Leaves s i slot (fun t => ∃ c x, slotQ (getUnit t k) slot = slotQ (getUnit s k) slot ++ [c] ∧
    c.ins = i ∧ c.handed = true ∧ c.x = some x ∧ p x)

/-! ## The command processor -/

/-- The packet of this event is held at the head of queue `b` in slot `j`, its opcode is `op`, it sets no bit that its command
does not name, and neither an earlier command nor a halt or reset of the queue holds it back (R358, R359, R360). -/
def CpStarts (s : State) (op : Nat) (named : List Nat) (j : Nat) (b : BoundQ) : Prop :=
  heldSlot s = some (j, b) ∧ cpOp s.arg.cp = op ∧ b.halted = false ∧ fenced s (cmdRef b.pasid b.q) s.arg.cp = false ∧
    resetRuns s b.pasid b.q = false ∧ strayBits s.arg.cp named = false
/-- The queue's PASID has a job, in this slot, and nothing has ended it (R360, R404). -/
def CpJob (s : State) (b : BoundQ) (slot : Nat) (job : Job) : Prop := jobOf s b.pasid = some (slot, job) ∧ jobEnded s slot = none
/-- The packet has left the queue's head and its command has its number. -/
def cpGo (s : State) (j : Nat) (b : BoundQ) : State :=
  { s with cp := { s.cp with slots := sput s.cp.slots j { b with held := none }, nextId := s.cp.nextId + 1 } }
/-- The completion record of the packet of this event, from queue `b` (R359). -/
def cpRec (s : State) (b : BoundQ) (st val : Nat) : CpRec :=
  { dev := qdDev b.desc, job := ((jobOf s b.pasid).map Prod.fst).getD 1024, addr := s.arg.cp.q7.toNat
    tag := bits s.arg.cp.q0.toNat 32 32, st := st, val := val % 2 ^ 64
    irq := if bit s.arg.cp.q0.toNat 14 && !qdDev b.desc then some (qdVec b.desc) else none, r := cmdRef b.pasid b.q }
/-- Between `s` and `t` the command of this event has completed with `st` and `val`; its queue stands at its next packet. -/
def CpDone (s t : State) (j : Nat) (b : BoundQ) (st val : Nat) : Prop :=
  t.cp.recs = s.cp.recs ++ [cpRec s b st val] ∧ t.cp.nextId = s.cp.nextId + 1 ∧ t.cp.cmds = s.cp.cmds ∧
    ∀ d, sget d t.cp.slots j = { b with held := none }
/-- The command of this event completes with `st` and does nothing else. -/
def cpOnly (s : State) (j : Nat) (b : BoundQ) (st val : Nat) : State :=
  { cpGo s j b with cp := { (cpGo s j b).cp with recs := s.cp.recs ++ [cpRec s b st val] } }
/-- The command of this event has started and is not complete: its record. -/
def CpOpen (s t : State) (j : Nat) (b : BoundQ) (c : CpCmd) : Prop :=
  t.cp.recs = s.cp.recs ∧ t.cp.nextId = s.cp.nextId + 1 ∧ t.cp.cmds = s.cp.cmds ++ [c] ∧ (∀ d, (sget d t.cp.slots j).held = none) ∧
    c.id = s.cp.nextId ∧ c.r = cmdRef b.pasid b.q ∧ c.p = s.arg.cp ∧ c.quiet = false ∧ c.fault = none ∧ c.runs = []
/-- A started command `c` has completed with `st` and `val`. -/
def CpOver (s t : State) (c : CpCmd) (st val : Nat) : Prop :=
  t.cp.cmds = s.cp.cmds.filter (fun d => d.id != c.id) ∧ t.cp.slots = s.cp.slots ∧
    t.cp.recs = s.cp.recs ++ [{ dev := c.dev, job := c.job, addr := c.p.q7.toNat, tag := bits c.p.q0.toNat 32 32, st := st, val := val % 2 ^ 64
                                irq := if bit c.p.q0.toNat 14 && !c.dev then some c.vec else none, r := c.r }]
/-- The number that `n` bytes of host memory spell, lowest byte first. -/
def hostNum (s : State) (a n : Nat) : Nat := ofBytes ((List.range n).map (fun i => rdByte s.host.cells (a + i)))
/-- HBM reads the same but for the eight bytes at `a`. -/
def EntrySame (s t : State) (a : Nat) : Prop := ∀ x, x < a ∨ a + 8 ≤ x → rdByte t.hbm.cells x = rdByte s.hbm.cells x
/-- The entry of a table walk at the level whose pages leave `lob` low bits, where every entry above it names a table. -/
def entryTo (s : State) (x lob : Nat) : List (Nat × Nat) → Nat → Option Nat
  | [], _ => none
  | (lo, w) :: r, tbl =>
    let a := tbl + 8 * bits x lo w
    if lo = lob then some a
    else if bit (hbmEntry s a) 0 && !bit (hbmEntry s a) 1 then entryTo s x lob r (bits (hbmEntry s a) 13 27 * 8192) else none

/-! ## Traps of a Lantern word, and the fabric -/

/-- A Lantern word that asks for `o`, held by nothing, takes its trap in the core's own handler (R201): cause, value, the word as
where it resumes, control at the handler; no register changes, and no byte of memory. -/
def LanTraps (s : State) (m : ClusterIx) (o : SlotOut) (out : Out) (cause val : Nat) : Prop :=
  let c := (getCl s m.toNat).lan.core
  o.chk.ok = true → lanFree s m.toNat o = true → traced s (.lantern m) = false → bit (rdCsr c 0xA0).toNat 0 = true →
    bit (rdCsr c 0xA1).toNat 31 = false → ∃ t, out = .next t ∧ let d := (getCl t m.toNat).lan.core
      rdCsr d 0xA1 = BitVec.ofNat 64 (2 ^ 31 + cause) ∧ rdCsr d 0xA4 = BitVec.ofNat 64 val ∧ rdCsr d 0xA2 = BitVec.ofNat 64 (c.pc / 4 % 2 ^ 19 * 4) ∧
        d.pc = (rdCsr c 0xA0).toNat / 4 % 2 ^ 19 * 4 ∧ (∀ r, rdS d r = rdS c r) ∧ (getCl t m.toNat).tasks = (getCl s m.toNat).tasks ∧
        (∀ i, rdByte t.chip.mem.cells i = rdByte s.chip.mem.cells i) ∧ MemSame s.hbm t.hbm ∧ MemSame s.host t.host

/-- The packet of this event is for this module, from another one, and its tag and key hold (R334, R350, R351). -/
def Arrives (s : State) : Prop :=
  tagHolds s = true ∧ keyOk s s.arg.pkt.slot.toNat = true ∧ s.arg.pkt.dmod.toNat = s.partMod ∧ s.arg.pkt.smod.toNat ≠ s.partMod
/-- Its job is switched in here and does not stop (R325, R352). -/
def Admitted (s : State) : Prop := s.arg.pkt.slot.toNat = s.chip.slot ∧ s.arg.pkt.pasid.toNat = s.chip.pasid ∧ frozen s = false
/-- Between `u` and `t` the packet of the event of `s` is answered (R336, R337): type, status, fault kind and bytes. -/
def Answered (s u t : State) (type st fk : Nat) (bytes : List Byte) : Prop :=
  ∃ r, t.sent = u.sent ++ [r] ∧ r.cls = 1 ∧ r.type = BitVec.ofNat 6 type ∧ r.dmod = s.arg.pkt.smod ∧ r.rid = s.arg.pkt.rid ∧ r.ia = s.arg.pkt.ia ∧
    r.slot = s.arg.pkt.slot ∧ r.pasid = s.arg.pkt.pasid ∧ r.st = BitVec.ofNat 4 st ∧ r.fk = BitVec.ofNat 4 fk ∧
    r.nfl = BitVec.ofNat 4 ((bytes.length + 63) / 64) ∧ r.payload.take bytes.length = bytes ∧ t.chip = u.chip ∧ t.hbm = u.hbm ∧ t.host = u.host

/-- R3, R378: clk has at most one edge in two fclk: over the fclk periods that have passed, its edges and the fraction under way make
no more than 600 in 1,200. -/
def TimeInv (s : State) : Prop := s.acc < 1200 ∧ 1200 * s.clk + s.acc ≤ 600 * s.fclk

end Sys2Proof.Machine
end

