-- ==== Sys2Proof/Certificates/Slice0/Obligations.lean ====
section
/-! DEFINITION. The statements about the machine, each from the rules of the spec that its docstring names. -/

open Sys2Proof Sys2Proof.Machine

/-! ## Scalar instructions -/

/-- R185, R187, R186, R188: every register form writes the result its row gives, one bundle after issue, or three for a product.
CLZ and CTZ count the zero bits above and below the nearest one bit, 64 where there is none; POPC counts one bits; byte j of
BSWAP is byte 7 - j. quotient truncated towards zero and remainder of the dividend's sign; division by zero gives all ones and
the dividend; the divider takes 20 bundles. the immediate and constant forms write the result their row gives, one bundle after
issue. a bit field of `l + 1` bits from bit `p` up is read with zero or sign extension, or replaced. -/
def Obligations.ScalarForms : Prop :=
  (∀ (s : State) (d a b : Reg),
      let x := reg s a
      let y := reg s b
      let n := y.toNat % 64
      (∀ p ∈ ([(.add d a b, x + y), (.sub d a b, x - y), (.and d a b, x &&& y), (.or d a b, x ||| y), (.xor d a b, x ^^^ y),
          (.andn d a b, x &&& ~~~y), (.orn d a b, x ||| ~~~y), (.xnor d a b, ~~~(x ^^^ y)), (.shl d a b, x <<< n),
          (.shr d a b, x >>> n), (.sra d a b, x.sshiftRight n), (.ror d a b, x.rotateRight n),
          (.slt d a b, truth (decide (x.toInt < y.toInt))), (.sltu d a b, truth (decide (x.toNat < y.toNat))),
          (.min d a b, BitVec.ofInt 64 (Min.min x.toInt y.toInt)), (.max d a b, BitVec.ofInt 64 (Max.max x.toInt y.toInt)),
          (.minu d a b, BitVec.ofNat 64 (Min.min x.toNat y.toNat)), (.maxu d a b, BitVec.ofNat 64 (Max.max x.toNat y.toNat))] :
          List (Instr × W64)), Runs s p.1 0 (scalarOut s d [a, b] 1 p.2)) ∧
      (∀ p ∈ ([(.mul d a b, BitVec.ofInt 64 (x.toInt * y.toInt)), (.mulh d a b, BitVec.ofInt 64 (x.toInt * y.toInt / 2 ^ 64)),
          (.mulhu d a b, BitVec.ofNat 64 (x.toNat * y.toNat / 2 ^ 64)), (.mulhsu d a b, BitVec.ofInt 64 (x.toInt * y.toNat / 2 ^ 64))] :
          List (Instr × W64)), Runs s p.1 0 (scalarOut s d [a, b] 3 p.2))) ∧
  (∀ (s : State) (d a : Reg),
      let x := reg s a
      (∀ n, n ≤ 64 → (∀ j < n, x.getLsbD (63 - j) = false) → (n < 64 → x.getLsbD (63 - n) = true) →
        Runs s (.clz d a) 0 (scalarOut s d [a] 1 (BitVec.ofNat 64 n))) ∧
      (∀ n, n ≤ 64 → (∀ j < n, x.getLsbD j = false) → (n < 64 → x.getLsbD n = true) →
        Runs s (.ctz d a) 0 (scalarOut s d [a] 1 (BitVec.ofNat 64 n))) ∧
      Runs s (.popc d a) 0 (scalarOut s d [a] 1 (BitVec.ofNat 64 ((List.range 64).countP x.getLsbD))) ∧
      (∀ v : W64, (∀ j < 8, v.extractLsb' (8 * j) 8 = x.extractLsb' (8 * (7 - j)) 8) → Runs s (.bswap d a) 0 (scalarOut s d [a] 1 v))) ∧
  (∀ (s : State) (d a b : Reg),
      let x := reg s a
      let y := reg s b
      ∀ p ∈ ([(.div d a b, if y = 0 then BitVec.allOnes 64 else x.sdiv y), (.divu d a b, if y = 0 then BitVec.allOnes 64 else x / y),
          (.rem d a b, if y = 0 then x else x.srem y), (.remu d a b, if y = 0 then x else x % y)] : List (Instr × W64)),
        Runs s p.1 0 { scalarOut s d [a, b] 20 p.2 with div := true }) ∧
  (∀ (s : State) (d a : Reg) (imm : BitVec 14) (n : BitVec 6) (big : BitVec 20),
      let x := reg s a
      let i : W64 := imm.signExtend 64
      (∀ p ∈ ([(.addi d a imm, x + i), (.andi d a imm, x &&& i), (.ori d a imm, x ||| i), (.xori d a imm, x ^^^ i),
          (.slti d a imm, truth (decide (x.toInt < imm.toInt))), (.sltiu d a imm, truth (decide (x.toNat < i.toNat))),
          (.shli d a n, x <<< n.toNat), (.shri d a n, x >>> n.toNat), (.srai d a n, x.sshiftRight n.toNat),
          (.rori d a n, x.rotateRight n.toNat)] : List (Instr × W64)), Runs s p.1 0 (scalarOut s d [a] 1 p.2)) ∧
      Runs s (.lui d big) 0 (scalarOut s d [] 1 (BitVec.ofInt 64 (big.toInt * 2 ^ 14))) ∧
      Runs s (.addpc d big) 0 (scalarOut s d [] 1 (BitVec.ofInt 64 (((here s).pc + big.toInt * 4) % 2 ^ 21)))) ∧
  (∀ (s : State) (d a : Reg) (p l : BitVec 6),
      let x := reg s a
      let n := l.toNat + 1
      (∀ q ∈ ([(.bfxu d a p l, (x.extractLsb' p.toNat n).zeroExtend 64), (.bfxs d a p l, (x.extractLsb' p.toNat n).signExtend 64)] :
          List (Instr × W64)), Runs s q.1 0 (scalarOut s d [a] 1 q.2)) ∧
      (∀ v : W64, (∀ j < 64, v.getLsbD j = if p.toNat ≤ j ∧ j < p.toNat + n then x.getLsbD (j - p.toNat) else (reg s d).getLsbD j) →
        Runs s (.bfi d a p l) 0 (scalarOut s d [a, d] 1 v)))

/-- R68, R70, R71, R151, R184, R198, R147, R149, R72, R73: on a Lantern core a scalar result stands in its register at once,
with the taint and poison of its sources; instr counts one; control goes on; every other register, CSR, agent and memory is
unchanged. in a unit a scalar result goes into flight for its latency with its sources' taint and poison, and every result in
flight is one bundle nearer; no register, mask, queue, tile, CSR but instr, agent or memory changes yet. the one result of a
unit that is due lands in its scalar register, with the tags that still name the reads it took them from; nothing else of the
unit's registers changes, and later results stay in flight. -/
def Obligations.ScalarResults : Prop :=
  (∀ (s : State) (m : ClusterIx) (d : Reg) (srcs : List Reg) (lat : Nat) (v : W64), s.cur = .lantern m →
      let t := wordDid s 0 (scalarOut s d srcs lat v)
      (∀ r, reg t r = if r = 0 then 0 else if r = d then v else reg s r) ∧
      (∀ h, hmeta (here t) h = if h = d.toNat ∧ d ≠ 0 then metaOf (here s) (srcs.map (fun r => r.toNat)) else hmeta (here s) h) ∧
      (here t).pc = (here s).delay.getD (codeAddr ((here s).pc + 4)) ∧
      (∀ n, rdCsr (here t) n = if n = 1 then rdCsr (here s) 1 + 1 else rdCsr (here s) n) ∧
      (getCl t m.toNat).lan.d = (getCl s m.toNat).lan.d ∧ (∀ k, getUnit t k = getUnit s k) ∧
      (∀ j, j ≠ m.toNat → getCl t j = getCl s j) ∧ AllMemSame s t) ∧
  (∀ (s : State) (k : UnitIx) (d : Reg) (srcs : List Reg) (lat : Nat) (v : W64), s.cur = .unit k →
      let t := wordDid s 0 (scalarOut s d srcs lat v)
      let u := getUnit s k.toNat
      let w := getUnit t k.toNat
      let x := metaOf u.core (srcs.map (fun r => r.toNat))
      w.flight = u.flight.map (fun f => { f with r := f.r - 1 }) ++ (if d = 0 then [] else
        [{ cls := 0, reg := d.toNat, val := v.setWidth 4096, r := lat, tags := tagsOf u.core x.taint, sat := x.sat,
           poison := x.poison, order := u.bundle, emask := 0, mz := false, idx := 0, rc := false, flags := 0 }]) ∧
      (∀ r, reg t r = reg s r) ∧ (∀ h, hmeta (here t) h = hmeta (here s) h) ∧ w.v = u.v ∧ w.m = u.m ∧ w.queues = u.queues ∧
      w.tiles = u.tiles ∧ w.sems = u.sems ∧ w.loops = u.loops ∧ (here t).pc = (here s).delay.getD (codeAddr ((here s).pc + 8)) ∧
      (∀ n, rdCsr (here t) n = if n = 1 then rdCsr (here s) 1 + 1 else rdCsr (here s) n) ∧
      (∀ j, j ≠ k.toNat → getUnit t j = getUnit s j) ∧ (∀ j, getCl t j = getCl s j) ∧ AllMemSame s t) ∧
  (∀ (s : State) (f : Flight), let k := s.arg.k.toNat
      issues s k = true → (getUnit s k).flight.filter (fun f => decide (f.r ≤ 1)) = [f] → f.cls = 0 →
      ∃ t, exec .resultLanding s = .next t ∧
        (∀ r, rdS (getUnit t k).core r = if r = 0 then 0 else if r = f.reg then f.val.setWidth 64 else rdS (getUnit s k).core r) ∧
        ((f.tags.any (fun p => tagSet (getUnit s k).core p.1 && !tagLive (getUnit s k).core p.1 p.2) = false) → f.reg ≠ 0 → f.reg ≠ 96 →
          (hmeta (getUnit t k).core f.reg).poison = f.poison ∧
          ∀ n < 16, (hmeta (getUnit t k).core f.reg).taint.getLsbD n = f.tags.any (fun p => p.1 == n && tagLive (getUnit s k).core p.1 p.2)) ∧
        (getUnit t k).v = (getUnit s k).v ∧ (getUnit t k).m = (getUnit s k).m ∧
        (getUnit t k).flight = (getUnit s k).flight.filter (fun f => decide (1 < f.r)) ∧
        (∀ j, j ≠ k → getUnit t j = getUnit s j) ∧ (∀ j, getCl t j = getCl s j) ∧ AllMemSame s t)

/-- R189, R65, R190: each load reads its bytes of the agent's own scratchpad, lowest byte first, extends them and lands at
latency 5. each store writes the low bytes of its data register to the agent's own scratchpad, at issue. after a store that
runs, the bytes at its address are the register's, lowest first, and every other byte of memory, register and memory of the
module is as before. LDM loads and STM stores `n + 1` consecutive registers, 8 bytes each, at consecutive places. -/
def Obligations.ScalarMemory : Prop :=
  (∀ (s : State) (d a : Reg) (imm : BitVec 14),
      let o := accessAt s a imm.toInt
      let b := fun (n : Nat) => (padRead s o n).1
      ∀ p ∈ ([(.ldB d a imm, 1, (BitVec.ofNat 8 (b 1)).signExtend 64), (.ldBu d a imm, 1, BitVec.ofNat 64 (b 1)),
          (.ldH d a imm, 2, (BitVec.ofNat 16 (b 2)).signExtend 64), (.ldHu d a imm, 2, BitVec.ofNat 64 (b 2)),
          (.ldW d a imm, 4, (BitVec.ofNat 32 (b 4)).signExtend 64), (.ldWu d a imm, 4, BitVec.ofNat 64 (b 4)),
          (.ldD d a imm, 8, BitVec.ofNat 64 (b 8))] : List (Instr × Nat × W64)),
        Runs s p.1 0 (loadOut s d a o p.2.1 p.2.2)) ∧
  (∀ (s : State) (d a : Reg) (imm : BitVec 14),
      ∀ p ∈ ([(.stB d a imm, 1), (.stH d a imm, 2), (.stW d a imm, 4), (.stD d a imm, 8)] : List (Instr × Nat)),
        Runs s p.1 0 (storeOut s d a (accessAt s a imm.toInt) p.2)) ∧
  (∀ (s : State) (d a : Reg) (imm : BitVec 14),
      ∀ p ∈ ([(.stB d a imm, 1), (.stH d a imm, 2), (.stW d a imm, 4), (.stD d a imm, 8)] : List (Instr × Nat)),
        let o := accessAt s a imm.toInt
        wordFree s p.1 0 (storeOut s d a o p.2) = true →
        ∃ t, exec p.1 s = .next t ∧
          (∀ i, rdByte t.chip.mem.cells i = if padBase s + o ≤ i ∧ i < padBase s + o + p.2 then (reg s d).extractLsb' (8 * (i - (padBase s + o))) 8
            else rdByte s.chip.mem.cells i) ∧
          (∀ r, reg t r = reg s r) ∧ (∀ h, hmeta (here t) h = hmeta (here s) h) ∧
          (∀ n, n ≠ 1 → rdCsr (here t) n = rdCsr (here s) n) ∧ MemSame s.hbm t.hbm ∧ MemSame s.host t.host) ∧
  (∀ (s : State) (d a n : Reg) (off : BitVec 8),
      let o := accessAt s a (8 * off.toNat : Nat)
      let rs := (List.range (n.toNat + 1)).map (fun j => d.toNat + j)
      Runs s (.ldm d a n off) 0
        { wr := rs, reads := [a.toNat], gate := [a.toNat], acc := [(false, o, 8 * rs.length)]
          chk := needRange (decide (o + 8 * rs.length ≤ padSize s)) o
          eff := fun t => (List.range (n.toNat + 1)).foldl (fun t j =>
            lands s (d.toNat + j) 5 (BitVec.ofNat 4096 (padRead s (o + 8 * j) 8).1) [a.toNat] (padRead s (o + 8 * j) 8).2 0 t)
            (touchChip t (padBase s + o) (8 * rs.length)) } ∧
      Runs s (.stm d a n off) 0
        { reads := a.toNat :: rs, gate := a.toNat :: rs, acc := [(true, o, 8 * rs.length)]
          chk := ((needRange (decide (o + 8 * rs.length ≤ padSize s)) o).unless (regBad s a)).and
            ((rs.foldl (fun (c : Chk) r => c.and (psnOf (hmeta (here s) r).poison 0 r)) {}).and (psnOf (regBad s a) 0 a.toNat))
          eff := fun t => modMem t (fun m => writeImg m (padBase s + o)
            (rs.flatMap (fun r => (toBytes (rdS (here s) r).toNat 8).map (fun b => (b, false))))) })

/-! ## Control -/

/-- R191, R193, R192, R150, R184: each branch transfers to its target where its condition holds, and its target is then checked;
otherwise control goes on. JAL and JALR write the address at which the path past their delay slot resumes, and transfer. after a
taken transfer the next word or bundle runs as its delay slot, and the one after that is the target; a word that transfers
nowhere goes on, or to the target of a transfer it is the delay slot of. No register changes. -/
def Obligations.ControlTransfers : Prop :=
  (∀ (s : State) (a b : Reg) (o : BitVec 14),
      let x := reg s a
      let y := reg s b
      let t : Int := ((here s).pc : Int) + o.toInt * 4
      ∀ p ∈ ([(.beq a b o, decide (x = y)), (.bne a b o, decide (x ≠ y)), (.blt a b o, decide (x.toInt < y.toInt)),
          (.bge a b o, decide (y.toInt ≤ x.toInt)), (.bltu a b o, decide (x.toNat < y.toNat)),
          (.bgeu a b o, decide (y.toNat ≤ x.toNat))] : List (Instr × Bool)),
        Runs s p.1 0 { reads := [a.toNat, b.toNat], xfer := true, ctl := if p.2 then .jump t.toNat else .seq
                       chk := transferChk s [a, b] (!p.2 || (decide (t % 4 = 0) && (decide (0 ≤ t) && decide (t < 0x200000)))) }) ∧
  (∀ (s : State) (d a : Reg) (off : BitVec 20) (imm : BitVec 14),
      let near : Int := ((here s).pc : Int) + off.toInt * 4
      let far : Int := ((reg s a).toNat + imm.toInt * 4) % 2 ^ 64
      let ok := fun (t : Int) => decide (t % 4 = 0) && (decide (0 ≤ t) && decide (t < 0x200000))
      Runs s (.jal d off) 0 { wr := [d.toNat], xfer := true, ctl := .jump near.toNat, chk := transferChk s [] (ok near)
                              eff := lands s d.toNat 1 (BitVec.ofNat 4096 (linkAt s)) [] false 0 } ∧
      Runs s (.jalr d a imm) 0 { wr := [d.toNat], reads := [a.toNat], xfer := true, ctl := .jump far.toNat, chk := transferChk s [a] (ok far)
                                 eff := lands s d.toNat 1 (BitVec.ofNat 4096 (linkAt s)) [a.toNat] false 0 }) ∧
  (∀ (s : State) (o : SlotOut) (t : Nat), traced s s.cur = false → o.finds = [] → o.pops = [] → o.eff = id →
      let pc := (here s).pc
      (o.ctl = .jump t →
        (here (wordDid s 0 o)).pc = (pc + wordLen s) % 2 ^ 21 ∧ (here (wordDid s 0 o)).delay = some t ∧
          ∀ r, reg (wordDid s 0 o) r = reg s r) ∧
      (o.ctl = .seq →
        (here (wordDid s 0 o)).pc = (here s).delay.getD ((pc + wordLen s) % 2 ^ 21) ∧
        (here (wordDid s 0 o)).delay = (if (here s).delay.isSome then (here s).after else none) ∧
          ∀ r, reg (wordDid s 0 o) r = reg s r))

/-- R194, R156, R76, R195: in a unit LOOP and LOOPI set up the next loop level, which starts at the bundle after this one, with
the count of the register or of the immediate, checked where the register gives it. TJOIN joins the taint and saturation of y, a
register or in a unit a queue, into x; TCLR clears them; TWAIT waits on the tags of x and of its mask. A unit's holder changes
one bundle after issue. -/
def Obligations.LoopsAndTaint : Prop :=
  (∀ (s : State) (k : UnitIx) (a : Reg) (imm : BitVec 14), s.cur = .unit k →
      let n := (reg s a).toNat
      let set := fun (n : Nat) (rs : List Reg) =>
        ({ reads := rs.map (fun r => r.toNat), xfer := true, setup := true, ctl := .loop n
           chk := transferChk s rs (decide (0 < n) && decide (n < 2 ^ 32)) } : SlotOut)
      Runs s (.loop a) 0 (set n [a]) ∧ Runs s (.loopi imm) 0 (set imm.toNat []) ∧
      (∀ (rs : List Reg) (c : Nat), let t := wordDid s 0 (set c rs)
        (getUnit t k.toNat).loops = (getUnit s k.toNat).loops ++ [⟨c, ((here s).pc + 8) % 2 ^ 21⟩] ∧ (∀ r, reg t r = reg s r) ∧ AllMemSame s t)) ∧
  (∀ (s : State) (x y : Reg) (p q c : BitVec 2) (k : BitVec 16) (h j : Nat),
      let src := fun (t : BitVec 16) (sat : Bool) =>
        Runs s (.tjoin x y p q) 0 { wr := [h], eff := fun u => putTaint u s.cur (here s) h ((hmeta (here s) h).taint ||| t) ((hmeta (here s) h).sat || sat) }
      (classHolder (onLan s) p.toNat x.toNat = some h → classHolder (onLan s) q.toNat y.toNat = some j →
        src (hmeta (here s) j).taint (hmeta (here s) j).sat) ∧
      (classHolder (onLan s) p.toNat x.toNat = some h → onLan s = false → q = 3 → y.toNat ≤ 8 → src (queueTaint (hereUnit s) y.toNat) false) ∧
      (classHolder (onLan s) p.toNat x.toNat = some h →
        Runs s (.tclr x p) 0 { wr := [h], eff := fun u => putTaint u s.cur (here s) h 0 false }) ∧
      (classHolder (onLan s) c.toNat x.toNat = some h → (onLan s = true → k.toNat < 256) →
        Runs s (.twait c x k) 0 { tw := some ((hmeta (here s) h).taint ||| k) }))

/-- R196: the word of FENCE scope, kinds is shl(0x2F, 26) + shl(scope, 23) + shl(K, 18); scope codes above 0b100 have no FENCE;
its effect is R79: it passes, and changes nothing but the count of instructions and where control stands, once no earlier access
of its kinds, and with bit 4 no earlier command, has a target in the region of its scope; with no kind it has no effect. -/
def Obligations.FenceInstruction : Prop :=
  ∀ (s : State) (sc : BitVec 3) (k : BitVec 5),
    let o : SlotOut := { fence := some (sc.toNat, k.toNat) }
    let word := BitVec.ofNat 32 (0x2F * 2 ^ 26 + sc.toNat * 2 ^ 23 + k.toNat * 2 ^ 18)
    (sc.toNat ≤ 4 → decodeS word = .ok (.fence sc k)) ∧ (5 ≤ sc.toNat → ∃ n, decodeS word = .error n) ∧
    decodeS 0xBCD00000#32 = .ok (.fence 1 0b10100) ∧ (∀ n, illegal (.fence sc k) = some n ↔ 5 ≤ sc.toNat ∧ n = 2) ∧
    Runs s (.fence sc k) 0 o ∧
    (fenceHeld s s.cur sc.toNat k.toNat = true ↔ ∃ p ∈ pends s s.cur,
      ((k.getLsbD 0 = true ∨ k.getLsbD 1 = true) ∧ p.load = true ∧ inRegion s s.cur sc.toNat p.at0 = true) ∨
      ((k.getLsbD 2 = true ∨ k.getLsbD 3 = true) ∧ p.store = true ∧ inRegion s s.cur sc.toNat p.at0 = true) ∨
      (k.getLsbD 4 = true ∧ p.engine = true ∧ (p.at0 = [] ∨ inRegion s s.cur sc.toNat p.at0 = true))) ∧
    (k = 0 → fenceHeld s s.cur sc.toNat k.toNat = false) ∧
    (∀ r, reg (wordDid s 0 o) r = reg s r) ∧ (∀ n, n ≠ 1 → rdCsr (here (wordDid s 0 o)) n = rdCsr (here s) n) ∧ AllMemSame s (wordDid s 0 o)

/-! ## Traps -/

/-- R201, R202, R314, R315, R158, R22: TRAP delivered to the agent's own handler: the cause TRAP with the handler mode bit, the
code as its value, the next word as where it resumes, no pending transfer, and control at the handler's first word; no register
changes. ERET in handler mode clears the mode bit and transfers, after its delay slot, to the saved address, and on to the saved
pending transfer where there is one. ERET outside handler mode is ILLEGAL: on a Lantern core with no handler installed the graph
program stops and the job ends with the cause and the address; in a unit the unit stops with case 7 and its context is kept. a
scalar load or store of a Lantern core past the end of its scratchpad takes RANGE_MISS where a handler is installed: the offset
as its value, the word itself as where it resumes with the transfer it is the delay slot of, and nothing read, written or
counted. -/
def Obligations.TrapEntryAndReturn : Prop :=
  (∀ (s : State) (c : BitVec 16), let o : SlotOut := { xfer := true, ctl := .trap c.toNat }
      wordFree s (.trap c) 0 o = true → traced s s.cur = false → bit (rdCsr (here s) 0xA0).toNat 0 = true →
      bit (rdCsr (here s) 0xA1).toNat 31 = false →
      ∃ t, exec (.trap c) s = .next t ∧ rdCsr (here t) 0xA1 = 0x80000004 ∧ rdCsr (here t) 0xA4 = c.zeroExtend 64 ∧
        rdCsr (here t) 0xA2 = BitVec.ofNat 64 (((here s).pc + wordLen s) % 2 ^ 21 / 4 * 4) ∧ rdCsr (here t) 0xA3 = 0 ∧
        (here t).pc = (rdCsr (here s) 0xA0).toNat / 4 % 2 ^ 19 * 4 ∧ (here t).delay = none ∧
        (∀ r, reg t r = reg s r) ∧ (∀ n, n ≠ 1 → ¬ (0xA1 ≤ n ∧ n ≤ 0xA4) → rdCsr (here t) n = rdCsr (here s) n) ∧ AllMemSame s t) ∧
  (∀ (s : State), let o : SlotOut := { xfer := true, ctl := .eret }
      wordFree s .eret 0 o = true → traced s s.cur = false →
      ∃ t, exec .eret s = .next t ∧ bit (rdCsr (here s) 0xA1).toNat 31 = true ∧ rdCsr (here t) 0xA1 = rdCsr (here s) 0xA1 &&& 0x7FF ∧
        (here t).pc = ((here s).pc + wordLen s) % 2 ^ 21 ∧ (here t).delay = some (rdCsr (here s) 0xA2).toNat ∧
        (here t).after = (if bit (rdCsr (here s) 0xA3).toNat 63 then some ((rdCsr (here s) 0xA3).toNat % 2 ^ 21) else none) ∧
        (∀ r, reg t r = reg s r) ∧ (∀ n, n ≠ 1 → n ≠ 0xA1 → rdCsr (here t) n = rdCsr (here s) n) ∧ AllMemSame s t) ∧
  (∀ (s : State), traced s s.cur = false → bit (rdCsr (here s) 0xA1).toNat 31 = false → bit (rdCsr (here s) 0xA0).toNat 0 = false →
      (here s).delay = none →
      (∀ m, s.cur = .lantern m → s.chip.ended = none → ∃ t, exec .eret s = .next t ∧ (getCl t m.toNat).lan.on = false ∧
        t.chip.ended = some (BitVec.ofNat 64 (0x01 + (here s).pc % 2 ^ 21 * 2 ^ 8 + m.toNat * 2 ^ 32)) ∧ AllMemSame s t) ∧
      (∀ k, s.cur = .unit k → (here s).pc % 4 = 0 → (here s).pc + 8 ≤ codeSize →
        ∃ t, exec .eret s = .next t ∧ (getUnit t k.toNat).stop = some ⟨0x01, 0, (here s).pc, false, false⟩ ∧
        rdCsr (here t) 0xA1 = 0x01 ∧ rdCsr (here t) 0xA4 = 7 ∧ (∀ r, reg t r = reg s r) ∧ AllMemSame s t)) ∧
  (∀ (s : State) (m : ClusterIx) (d a : Reg) (imm : BitVec 14), s.cur = .lantern m → traced s s.cur = false →
      bit (rdCsr (here s) 0xA0).toNat 0 = true → bit (rdCsr (here s) 0xA1).toNat 31 = false → (here s).tw = none →
      (getCl s m.toNat).lan.accs = [] → hmeta (here s) a.toNat = {} → hmeta (here s) d.toNat = {} →
      ∀ p ∈ ([(.ldB d a imm, 1), (.ldBu d a imm, 1), (.ldH d a imm, 2), (.ldHu d a imm, 2), (.ldW d a imm, 4), (.ldWu d a imm, 4),
          (.ldD d a imm, 8), (.stB d a imm, 1), (.stH d a imm, 2), (.stW d a imm, 4), (.stD d a imm, 8)] : List (Instr × Nat)),
        clSize < accessAt s a imm.toInt + p.2 →
        ∃ t, exec p.1 s = .next t ∧ rdCsr (here t) 0xA1 = 0x80000002 ∧ rdCsr (here t) 0xA4 = BitVec.ofNat 64 (accessAt s a imm.toInt) ∧
          rdCsr (here t) 0xA2 = BitVec.ofNat 64 ((here s).pc / 4 % 2 ^ 19 * 4) ∧
          rdCsr (here t) 0xA3 = (match (here s).delay with | some x => BitVec.ofNat 64 (2 ^ 63 + x / 4 % 2 ^ 19 * 4) | none => 0) ∧
          (here t).pc = (rdCsr (here s) 0xA0).toNat / 4 % 2 ^ 19 * 4 ∧
          (∀ r, reg t r = reg s r) ∧ (∀ n, ¬ (0xA1 ≤ n ∧ n ≤ 0xA4) → rdCsr (here t) n = rdCsr (here s) n) ∧ AllMemSame s t)

/-- R44, R145, R146, R150, R155, R158, R202, R70, R157: a running unit's bundle issues where its bytes carry no poison, its
first bundle's kernel header sets no reserved bit, it breaks no encoding case, nothing holds it and its values pass their
checks: every slot takes effect and control goes on; a bundle with no slot passes control on and changes no register and no
memory; a held bundle counts a stall; a poisoned one traps. TAIL frees every register and its taint and poison, deactivates
every loop, discards results in flight and ends the instance or graph program; handler mode ends and memory stays. -/
def Obligations.BundleIssueAndTail : Prop :=
  (∀ (s : State) (n : Inst), let k := s.arg.k.toNat;
      let u := getUnit s k
      let pc := u.core.pc
      let y := fetchBundle s k
      let s1 := touchChip s (codeBase (k / 8) + pc) y.length
      let d := bundleOf pc (y.map Prod.fst)
      let outs := bunOuts s1 k d (unitLink s1 k (codeAddr (pc + d.len)))
      let s2 := modUnit s1 k (fun u => { u with core := { u.core with tw := some (u.core.tw.getD (twNamed u.core d outs)) } });
      u.inst = some n → issues s k = true →
      ((∃ x ∈ y, x.2 = true) → exec .bundleIssue s = .next (unitTrap s1 k cPoison 0 0xFF pc false)) ∧
      ((∀ x ∈ y, x.2 = false) → (n.first = true → kernelBad s1 k n = false) → d.len ≤ y.length → firstCase (bunCases (getUnit s1 k) d outs) = none →
        (bunHeld s2 k d outs = true → exec .bundleIssue s = .next (bunStall s2 k)) ∧
        (bunHeld s2 k d outs = false → (getUnit s1 k).owed.getD (bankStalls (outs.flatMap (fun o => o.2.acc))) = 0 → bunCheck outs = none →
          exec .bundleIssue s = .next (bunIssue (touchAll s2 (outs.flatMap (fun o => o.2.finds))) k d outs))) ∧
      (let hd := rdCode s (k / 8) n.codeAt pc 4;
        s.chip.mem.errs = [] → s.chip.mem.lost = [] → pc % 4 = 0 → pc + 4 ≤ codeSize → (∀ x ∈ hd, x.2 = false) → ofBytes (hd.map Prod.fst) = 0 →
        (n.first = true → ofBytes ((rdCode s (k / 8) n.codeAt n.entry 4).map Prod.fst) % 1024 = 0) →
        u.core.delay = none → u.core.tw = none → (u.owed = none ∨ u.owed = some 0) →
        ∃ t, exec .bundleIssue s = .next t ∧ let w := getUnit t k;
          w.core.pc = (pc + 4) % 2 ^ 21 ∧ (∀ r, rdS w.core r = rdS u.core r) ∧ w.core.md = u.core.md ∧ w.v = u.v ∧ w.m = u.m ∧ w.tiles = u.tiles ∧
          w.sems = u.sems ∧ w.queues = u.queues ∧ w.loops = u.loops ∧ w.bundle = u.bundle + 1 ∧ rdCsr w.core 1 = rdCsr u.core 1 + 1 ∧
          (∀ c, c ≠ 1 → rdCsr w.core c = rdCsr u.core c) ∧ (∀ j, j ≠ k → getUnit t j = getUnit s j) ∧ (∀ j, getCl t j = getCl s j) ∧ AllMemSame s t)) ∧
  (∀ (s : State), let o : SlotOut := { xfer := true, ctl := .tail }
      wordFree s .tail 0 o = true →
      exec .tail s = .next (wordDid s 0 o) ∧ (∀ r, reg (wordDid s 0 o) r = 0) ∧ (∀ h, hmeta (here (wordDid s 0 o)) h = {}) ∧
      bit (rdCsr (here (wordDid s 0 o)) 0xA1).toNat 31 = false ∧
      (∀ m, s.cur = .lantern m → (getCl (wordDid s 0 o) m.toNat).lan.on = false ∧ (getCl (wordDid s 0 o) m.toNat).lan.d = []) ∧
      (∀ k, s.cur = .unit k → let u := getUnit (wordDid s 0 o) k.toNat
        u.inst = none ∧ u.loops = [] ∧ u.flight = [] ∧ u.v = [] ∧ u.m = []) ∧ AllMemSame s (wordDid s 0 o))

/-! ## Control and status registers -/

/-- R197 to R199, R46, R76, R89, R140, R141, R157, R197, R200, R201: a CSRR that its agent may make returns the register: a
tile's status, a histogram count, a loop count, the tags assigned, the sticky bits of every semaphore, the identity of the
agent, a range register of its cluster, or the bits a plain register holds. a CSRW that its agent may make, of a value the
register accepts, writes it once its tile is free and no operation of the remote page cache runs; a poisoned value traps. a
write of a trap, count or mode register takes its writable bits and keeps the others; no other register of the agent, no other
agent and no memory changes. -/
def Obligations.CsrAccess : Prop :=
  (∀ (s : State) (d : Reg) (c : BitVec 14), csrMay (onLan s) c.toNat false = true →
      Runs s (.csrr d c) 0 { wr := [d.toNat], eff := lands s d.toNat 1 ((csrRead s s.cur (here s) (hereUnit s) c.toNat).setWidth 4096) [] false 0 } ∧
      (∀ k, s.cur = .unit k → let u := getUnit s k.toNat
        (∀ t < 16, c.toNat = 0x30 + t → let v := (csrRead s s.cur (here s) (hereUnit s) c.toNat).toNat
          let x := sget {} u.tiles t
          (bit v 31 = tileBusy u t) ∧ (bit v 30 = x.stop) ∧ (bit v 29 = x.ovf) ∧ (bit v 28 = decide (x.lost ≠ 0)) ∧ bits v 0 16 = x.prog % 2 ^ 16) ∧
        (c.toNat = 0x93 → ∀ i < 32, (csrRead s s.cur (here s) (hereUnit s) c.toNat).getLsbD i = (sget {} u.sems i).err) ∧
        (c.toNat = 0x94 → ∀ i < 32, (csrRead s s.cur (here s) (hereUnit s) c.toNat).getLsbD i = (sget {} u.sems i).ovf) ∧
        (c.toNat = 0xB3 → (csrRead s s.cur (here s) (hereUnit s) c.toNat).toNat = k.toNat / 64 * 2 ^ 16 + k.toNat / 8 * 2 ^ 8 + k.toNat) ∧
        (0x100 ≤ c.toNat → c.toNat ≤ 0x12F → csrRead s s.cur (here s) (hereUnit s) c.toNat = rdCsr (getCl s (k.toNat / 8)).lan.core c.toNat)) ∧
      (c.toNat ∈ [0, 1, 2, 0x91, 0x92, 0xA0, 0xA1, 0xA2, 0xA3, 0xA4, 0xC0, 0xC1] →
        csrRead s s.cur (here s) (hereUnit s) c.toNat = rdCsr (here s) c.toNat)) ∧
  (∀ (s : State) (a : Reg) (c : BitVec 14), csrMay (onLan s) c.toNat true = true →
      Runs s (.csrw a c) 0
        { reads := [a.toNat], gate := [a.toNat], tiles := if 0x30 ≤ c.toNat ∧ c.toNat ≤ 0x3F then [c.toNat - 0x30] else []
          chk := ((needIll (csrOk s s.cur (here s) c.toNat (reg s a))).unless (regBad s a)).and (psnOf (regBad s a) 0 a.toNat)
          hold := onLan s && decide (c.toNat = 0x132) && decide ((getCl s (hereCl s)).lan.rpcOp ≠ 0)
          eff := fun t => csrWrite t s.cur c.toNat (reg s a) }) ∧
  (∀ (s : State) (g : Agent) (v : W64),
      ∀ p ∈ ([(0x91, 0xFFFFFFFF), (0x92, 0xFFFF), (0xA0, 0x1FFFFD), (0xA1, 0x7FF), (0xA2, 0x1FFFFC), (0xA3, 0x80000000001FFFFC),
          (0xA4, 0xFFFFFFFFFFFFFFFF), (0xC0, 0xFFFFFFFF), (0xC1, 0xFFFFFFFF)] : List (Nat × W64)),
        let t := csrWrite s g p.1 v
        rdCsr (getCore t g) p.1 = (rdCsr (getCore s g) p.1 &&& ~~~p.2) ||| (v &&& p.2) ∧
        (∀ n, n ≠ p.1 → rdCsr (getCore t g) n = rdCsr (getCore s g) n) ∧ (∀ r, rdS (getCore t g) r = rdS (getCore s g) r) ∧
        (∀ h, h ≠ g → getCore t h = getCore s h) ∧ AllMemSame s t)

/-- R19, R141, R46: the writes that are events of their own. A base or limit of a range register is staged and changes nothing
that is read; the write of its address commits all three at once; hist.clr empties the sets it names; acc.stt takes stop, ovf
and prog once the tile is free. -/
def Obligations.CsrWriteEvents : Prop :=
  ∀ (s : State),
    (0x100 ≤ s.arg.n → s.arg.n ≤ 0x12F → (s.arg.n - 0x100) % 3 ≠ 2 → let m := s.arg.m.toNat
      ∃ t, exec .rangeStageWrite s = .next t ∧ (getCl t m).lan.core = (getCl s m).lan.core ∧
        sget (rdCsr (getCl s m).lan.core s.arg.n) (getCl t m).lan.stage s.arg.n = s.arg.v &&& 0xFFFFFFFFE000 ∧ (∀ k, getUnit t k = getUnit s k) ∧ AllMemSame s t) ∧
    (0x100 ≤ s.arg.n → s.arg.n ≤ 0x12F → (s.arg.n - 0x100) % 3 = 2 → let m := s.arg.m.toNat
      let c := (getCl s m).lan.core
      let n := s.arg.n
      ∃ t, exec .rangeCommit s = .next t ∧ rdCsr (getCl t m).lan.core n = (rdCsr c n &&& ~~~0xFFFFFFFFFFFFE0F8) ||| (s.arg.v &&& 0xFFFFFFFFFFFFE0F8) ∧
        rdCsr (getCl t m).lan.core (n - 1) = sget (rdCsr c (n - 1)) (getCl s m).lan.stage (n - 1) ∧
        rdCsr (getCl t m).lan.core (n - 2) = sget (rdCsr c (n - 2)) (getCl s m).lan.stage (n - 2) ∧
        (∀ j, j ≠ n → j ≠ n - 1 → j ≠ n - 2 → rdCsr (getCl t m).lan.core j = rdCsr c j) ∧ (∀ k, getUnit t k = getUnit s k) ∧ AllMemSame s t) ∧
    (let k := s.arg.k.toNat
      ∃ t, exec .histClr s = .next t ∧ (∀ set < 4, ∀ bin < 64, sget 0 (getUnit t k).hist (64 * set + bin) =
        if bit s.arg.v.toNat set then 0 else sget 0 (getUnit s k).hist (64 * set + bin)) ∧ (getUnit t k).core = (getUnit s k).core ∧ AllMemSame s t) ∧
    (let k := s.arg.k.toNat
      let j := s.arg.j % 16
      tileBusy (getUnit s k) j = false → ∃ t, exec .tileStatusWrite s = .next t ∧
        sget {} (getUnit t k).tiles j = { sget {} (getUnit s k).tiles j with stop := bit s.arg.v.toNat 30, ovf := bit s.arg.v.toNat 29, prog := s.arg.v.toNat % 2 ^ 16 } ∧
        (∀ i, i ≠ j → sget {} (getUnit t k).tiles i = sget {} (getUnit s k).tiles i) ∧ (getUnit t k).core = (getUnit s k).core ∧ AllMemSame s t)

/-! ## The Lantern core -/

/-- R268, R269, R270: each form replaces its field of a descriptor register, or reads it, zero-extended; DMOV copies a register
and DADDB adds to its base mod 2^64. DLD loads and DST stores 32 bytes of the cluster scratchpad at a register and 32 times the
immediate. -/
def Obligations.Descriptors : Prop :=
  (∀ (s : State) (n n2 : BitVec 4) (d a k : Reg), onLan s = true →
      (∀ p ∈ ([(.dsetb n a, 192, 64), (.dsete n a k, 112 + 20 * k.toNat, 20), (.dsets n a k, 28 * k.toNat, 28), (.dseta n a, 0, 28)] :
          List (Instr × Nat × Nat)), ∀ y, Replaced (dreg s n) y p.2.1 p.2.2 (reg s a) → Runs s p.1 0 (descOut s n a y)) ∧
      (∀ p ∈ ([(.dgetb d n, 192, 64), (.dgete d n k, 112 + 20 * k.toNat, 20), (.dgets d n k, 28 * k.toNat, 28), (.dgeta d n, 0, 28)] :
          List (Instr × Nat × Nat)),
        Runs s p.1 0 { wr := [d.toNat], reads := [128 + n.toNat]
                       eff := lands s d.toNat 1 (((dreg s n).extractLsb' p.2.1 p.2.2).zeroExtend 4096) [128 + n.toNat] false 0 }) ∧
      Runs s (.dmov n n2) 0 { wr := [128 + n.toNat], reads := [128 + n2.toNat]
                              eff := lands s (128 + n.toNat) 1 ((dreg s n2).setWidth 4096) [128 + n2.toNat] false 0 } ∧
      (∀ y, Replaced (dreg s n) y 192 64 ((dreg s n).extractLsb' 192 64 + reg s a) → Runs s (.daddb n a) 0 (descOut s n a y))) ∧
  (∀ (s : State) (n : BitVec 4) (a : Reg) (imm : BitVec 14), onLan s = true →
      let o := accessAt s a (imm.toInt * 32)
      Runs s (.dld n a imm) 0
        { wr := [128 + n.toNat], reads := [a.toNat], gate := [a.toNat], chk := needRange (decide (o + 32 ≤ clSize)) o
          eff := fun t => lands s (128 + n.toNat) 5 (BitVec.ofNat 4096 (padRead s o 32).1) [a.toNat] (padRead s o 32).2 0
            (touchChip t (padBase s + o) 32) } ∧
      Runs s (.dst n a imm) 0
        { reads := [a.toNat, 128 + n.toNat], gate := [a.toNat, 128 + n.toNat]
          chk := ((needRange (decide (o + 32 ≤ clSize)) o).unless (regBad s a)).and ((psnChk s [a]).and (psnOf (dBad s n) 1 n.toNat))
          eff := fun t => modMem t (fun m => writeImg m (padBase s + o) ((toBytes (dreg s n).toNat 32).map (fun b => (b, false)))) })

/-- R270 to R272, R18, R43, R111, R69, R71, R104, R272, R271, R249: an access by VA whose address the range registers translate
to a place that a Lantern core reaches is issued with its IA: a read takes a tag, an atomic too where it has a destination; a
poisoned address poisons a read's value and stops the others. an access is issued with the core's next number; a tagged one
takes the lowest free tag, which becomes the whole taint of its destination; the destination keeps its value and poison until
the value comes. LCP starts a copy of its bytes between two IAs, numbered with the core's accesses; one of no bytes does
nothing. -/
def Obligations.LanternAccesses : Prop :=
  (∀ (s : State) (n : BitVec 4) (d a b : Reg) (imm : BitVec 14) (ia : Nat), onLan s = true →
      let m := hereCl s
      let va := (reg s a).toNat
      let dva := accessAt s a (imm.toInt * 32)
      let bad := if regBad s a then 1 else 0
      let at1 := fun (va n : Nat) (k : AKind) => translate s m va n k = some ia ∧ reaches s m false ia = true
      (at1 va 8 .rd →
        Runs s (.ldg d a) 0 { wr := [d.toNat], reads := [a.toNat], gate := [a.toNat], tag := true, eff := fun t => accIssue t m 0 ia d.toNat 0 bad true }) ∧
      (at1 dva 32 .rd →
        Runs s (.dldG n a imm) 0 { wr := [128 + n.toNat], reads := [a.toNat], gate := [a.toNat], tag := true
                                   eff := fun t => accIssue t m 5 ia (128 + n.toNat) 0 bad true }) ∧
      (at1 va 8 .wr →
        Runs s (.stg a b) 0 { reads := [a.toNat, b.toNat], gate := [a.toNat, b.toNat], chk := (psnChk s [a]).and (psnChk s [b])
                              eff := fun t => accIssue t m 1 ia 0 (reg s b).toNat 0 false }) ∧
      (at1 dva 32 .wr →
        Runs s (.dstG n a imm) 0 { reads := [a.toNat, 128 + n.toNat], gate := [a.toNat, 128 + n.toNat]
                                   chk := (psnChk s [a]).and (psnOf (dBad s n) 1 n.toNat)
                                   eff := fun t => accIssue t m 6 ia 0 (dreg s n).toNat 0 false }) ∧
      (at1 va 8 .at → va % 8 = 0 →
        (∀ p ∈ ([(.amogAdd d a b, 2), (.amogSwp d a b, 3)] : List (Instr × Nat)),
          Runs s p.1 0 { wr := [d.toNat], reads := [a.toNat, b.toNat], gate := [a.toNat, b.toNat], tag := d != 0, chk := psnChk s [a, b]
                         eff := fun t => accIssue t m p.2 ia d.toNat (reg s b).toNat 0 (d != 0) }) ∧
        Runs s (.amogCas d a b) 0 { wr := [d.toNat], reads := [a.toNat, b.toNat, d.toNat], gate := [a.toNat, b.toNat, d.toNat], tag := d != 0
                                    chk := psnChk s [a, b, d]
                                    eff := fun t => accIssue t m 4 ia d.toNat (reg s b).toNat (reg s d).toNat (d != 0) })) ∧
  (∀ (s : State) (m : ClusterIx) (op ia h a b tg : Nat) (tagged : Bool), holds h = true → freeTag (getCl s m.toNat).lan.core 8 = some tg →
      let t := accIssue s m.toNat op ia h a b tagged
      let l := (getCl s m.toNat).lan
      let k := (getCl t m.toNat).lan
      k.accs = l.accs ++ [⟨l.x.cseq, op, ia, h, a, b, if tagged then some (tg, l.core.gen) else none, .fresh, none, []⟩] ∧
      k.x.cseq = (l.x.cseq + 1) % 2 ^ 32 ∧ (∀ j < tg, tagSet l.core j = true ∨ bit l.core.freed.toNat j = true) ∧
      (tagged = true → tagLive k.core tg l.core.gen = true ∧ (hmeta k.core h).taint = BitVec.ofNat 16 (2 ^ tg) ∧
        (hmeta k.core h).poison = (hmeta l.core h).poison) ∧
      (∀ r, rdS k.core r = rdS l.core r) ∧ k.d = l.d ∧ (∀ j, j ≠ h → hmeta k.core j = hmeta l.core j) ∧ AllMemSame s t) ∧
  (∀ (s : State) (d a b : Reg) (dst src : Nat), onLan s = true →
      let n := (reg s b).toNat
      n < 2 ^ 32 → operand s (hereCl s) 3 (reg s d).toNat 0 n .wr = .ok dst → operand s (hereCl s) 3 (reg s a).toNat 0 n .rd = .ok src →
      reaches s (hereCl s) false dst = true → reaches s (hereCl s) false src = true →
      Runs s (.lcp d a b) 0 { reads := [d.toNat, a.toNat, b.toNat], gate := [d.toNat, a.toNat, b.toNat], chk := psnChk s [d, a, b]
                              eff := fun t => if n = 0 then t else lcpStart t (hereCl s) dst src n })

/-- R273, R274: TDECL of a valid descriptor sets a free entry of the tensor table, live, with the IA of its base in place of a
VA; TREL clears an entry that no live region names. -/
def Obligations.TensorTable : Prop :=
  ∀ (s : State) (n : BitVec 4) (a b : Reg) (y : Desc) (ia : Nat), onLan s = true →
    (tSpace (dreg s n) = 0 → translate s (hereCl s) (tBase (dreg s n)) (tWhole (dreg s n)).2 .rw = some ia →
      tValid (dreg s n) = true → (reg s b).toNat < 256 → tLive (tensorOf s (hereCl s) (reg s b).toNat) = false →
      (∀ j < 256, y.getLsbD j = (decide (j = 0) || (if 192 ≤ j then ia.testBit (j - 192) else (dreg s n).getLsbD j))) →
      Runs s (.tdecl n b) 0
        { reads := [128 + n.toNat, b.toNat], gate := [128 + n.toNat, b.toNat], chk := (psnOf (dBad s n) 1 n.toNat).and (psnChk s [b])
          eff := fun t => modCl t (hereCl s) (fun c => { c with tensors := sset 0 c.tensors (reg s b).toNat y }) }) ∧
    (tSpace (dreg s n) ≠ 0 → tValid (dreg s n) = true → (reg s b).toNat < 256 → tLive (tensorOf s (hereCl s) (reg s b).toNat) = false →
      (∀ j < 256, y.getLsbD j = (decide (j = 0) || (dreg s n).getLsbD j)) →
      Runs s (.tdecl n b) 0
        { reads := [128 + n.toNat, b.toNat], gate := [128 + n.toNat, b.toNat], chk := (psnOf (dBad s n) 1 n.toNat).and (psnChk s [b])
          eff := fun t => modCl t (hereCl s) (fun c => { c with tensors := sset 0 c.tensors (reg s b).toNat y }) }) ∧
    ((reg s a).toNat < 256 → (tLive (tensorOf s (hereCl s) (reg s a).toNat) = false ∨ tensorLive (getCl s (hereCl s)) (reg s a).toNat = false) →
      Runs s (.trel a) 0
        { reads := [a.toNat], gate := [a.toNat], chk := psnChk s [a]
          eff := fun t => modCl t (hereCl s) (fun c => { c with tensors := serase c.tensors (reg s a).toNat }) })

/-- R277 to R280, R293, R301, R279: a post that passes its checks and finds room in the window, the core's own or one of this
module that its handle names, enters it and is a release at system scope; the forms with a destination answer status 0. a post
rejected for a reason of R278 takes nothing: POST_TRY answers status 3 with the reason in bits 15:8, and POST takes POST_REJECT
with the reason as its value. -/
def Obligations.Posts : Prop :=
  (∀ (s : State) (m : ClusterIx) (d a b : Reg), s.cur = .lantern m → (getCl s m.toNat).lan.wait = none →
      let off := (reg s a).toNat
      let o := readPost s.chip.mem (clBase m.toNat) clSize off
      let h := (reg s b).toNat
      let out := fun (wr : List Nat) (rs : List Reg) (f : State → State) =>
        ({ wr := wr, reads := rs.map (fun r => r.toNat), gate := rs.map (fun r => r.toNat), fence := some (4, 31)
           finds := postReads s.chip.mem (clBase m.toNat) clSize off, chk := psnChk s rs, eff := f } : SlotOut)
      off % 64 = 0 → off + 64 ≤ clSize → (o.psnImg || o.psnRegs) = false → regBad s a = false →
      (o.psnMv = false → postReason s m.toNat clSize o.img o.regs o.mv = 0 → placeOf (getCl s m.toNat) 0 (postRegs (mkPost s m.toNat 0 o)).length = 0 →
        let enter := fun t => (acceptPost t m.toNat (mkPost s m.toNat 0 o) false (.word m)).1
        (acceptPost s m.toNat (mkPost s m.toNat 0 o) false (.word m)).2 = none →
        Runs s (.post a) 0 (out [] [a] enter) ∧ Runs s (.postTry d a) 0 (out [d.toNat] [a] (fun t => lands s d.toNat 1 0 [] false 0 (enter t)))) ∧
      (handleOk s h = true → bit h 47 = false → bits h 0 12 = 0 → (handleAt s.partMod h).1 = s.partMod → regBad s b = false →
        let c := (handleAt s.partMod h).2.1
        let o2 := { o with mv := moveBlock s c o.img }
        moveBlockPsn s c o.img = false → postReason s c clSize o2.img o2.regs o2.mv = 0 → placeOf (getCl s c) 9 (postRegs (mkPost s c 9 o2)).length = 0 →
        let enter := fun t => (acceptPost t c (mkPost s c 9 o2) false (.word m)).1
        (acceptPost s c (mkPost s c 9 o2) false (.word m)).2 = none →
        Runs s (.postR a b) 0 (out [] [a, b] enter) ∧ Runs s (.postRtry d a b) 0 (out [d.toNat] [a, b] (fun t => lands s d.toNat 1 0 [] false 0 (enter t))))) ∧
  (∀ (s : State) (m : ClusterIx) (d a : Reg), s.cur = .lantern m → (getCl s m.toNat).lan.wait = none →
      let off := (reg s a).toNat
      let o := readPost s.chip.mem (clBase m.toNat) clSize off
      let reason := postReason s m.toNat clSize o.img o.regs o.mv
      off % 64 = 0 → off + 64 ≤ clSize → (o.psnImg || o.psnRegs || o.psnMv) = false → regBad s a = false → reason ≠ 0 →
      Runs s (.postTry d a) 0
        { wr := [d.toNat], reads := [a.toNat], gate := [a.toNat], fence := some (4, 31), finds := postReads s.chip.mem (clBase m.toNat) clSize off
          eff := lands s d.toNat 1 (BitVec.ofNat 4096 (3 + 256 * reason)) [] false 0 } ∧
      LanTraps s m { reads := [a.toNat], gate := [a.toNat], fence := some (4, 31) } (exec (.post a) s) 0x12 reason)

/-- R281, R276, R80, R86, R282, R283: on a token of this module, TKWAIT passes once the token is fired and everything it
acquires has completed, TKSIG fires it as a release at partition scope, and TKRD is a tagged read of it. USIG sends a release at
cluster scope to a semaphore of a unit of the cluster; WINQ returns a quantity of the window; RETRY settles a ring entry. -/
def Obligations.TokensAndQueries : Prop :=
  (∀ (s : State) (m : ClusterIx) (d a : Reg), s.cur = .lantern m →
      let h := (reg s a).toNat
      let at0 := (handleAt s.partMod h).2
      handleOk s h = true → bit h 47 = false → (handleAt s.partMod h).1 = s.partMod → regBad s a = false →
      ((getTok s at0.1 at0.2).fired = true → Runs s (.tkwait a) 0 { reads := [a.toNat], gate := [a.toNat], hold := fenceHeld s s.cur 4 19,
                                                                                eff := fun t => codeWaited t m.toNat (4096 * at0.1 + at0.2) }) ∧
      Runs s (.tksig a) 0 { reads := [a.toNat], gate := [a.toNat], fence := some (4, 31), eff := fun t => tokFire t at0.1 at0.2 } ∧
      (∀ t, getTok (tokFire t at0.1 at0.2) at0.1 at0.2 = ⟨true, min 65535 ((getTok t at0.1 at0.2).cnt + 1)⟩ ∧
        ∀ j, j ≠ at0.1 → getCl (tokFire t at0.1 at0.2) j = getCl t j) ∧
      Runs s (.tkrd d a) 0 { wr := [d.toNat], reads := [a.toNat], gate := [a.toNat], tag := true, eff := fun t => tkrdIssue t m.toNat h d.toNat none }) ∧
  (∀ (s : State) (m : ClusterIx) (d a k : Reg), s.cur = .lantern m →
      let x := (reg s a).toNat
      (bits x 14 50 = 0 → bits x 9 3 = 0 → bits x 3 1 = 0 →
        Runs s (.usig a) 0 { reads := [a.toNat], gate := [a.toNat], fence := some (1, 31), chk := psnChk s [a]
                             eff := fun t => modCl t m.toNat (fun c => { c with signals := c.signals ++ [
                               ⟨8 * m.toNat + bits x 0 3, bits x 4 5, bits x 12 2 + 1, t.chip.slot, some ⟨1, 0⟩, none⟩] }) }) ∧
      Runs s (.winq d k) 0 { wr := [d.toNat], eff := lands s d.toNat 1 (BitVec.ofNat 4096 (winQuery s m.toNat k.toNat)) [] false 0 } ∧
      winQuery s m.toNat 2 = (getCl s m.toNat).tasks.countP (fun t => decide (t.st = .ready)) ∧
      winQuery s m.toNat 5 = (getCl s m.toNat).ovfCap - (sget [] (getCl s m.toNat).ovf 0).length ∧
      (x < 2 ^ ringL s m.toNat →
        Runs s (.retry a) 0 { reads := [a.toNat], gate := [a.toNat], chk := psnChk s [a], eff := fun t => ringRetry t m.toNat x }))

/-! ## Vector instructions -/

/-- R152, R153, R167: what a source specifier names: a vector register, the oldest entry of an operand queue, imm16 or a scalar
register broadcast to every lane; an F32 immediate is a BF16 pattern widened. -/
def Obligations.VectorOperands : Prop :=
  ∀ (s : State) (f : VF) (x : BitVec 6), onLan s = false →
    let w := tyWidth f.ty.toNat
    (x.toNat < 0x20 → src s f x = rdV (hereUnit s) x.toNat) ∧
    (0x20 ≤ x.toNat → x.toNat < 0x28 → ∀ e, (sget [] (hereUnit s).queues (x.toNat - 0x20)).head? = some e → src s f x = e.val.setWidth 4096) ∧
    (x.toNat = 0x3E → ∀ j < 4096 / w, lane w (src s f x) j =
      if f.ty.toNat = 8 then f.imm.toNat * 65536 else if 8 < f.ty.toNat then f.imm.toNat % 2 ^ w else (f.imm.signExtend 64).toNat % 2 ^ w) ∧
    (x.toNat = 0x3F → ∀ j < 4096 / w, lane w (src s f x) j = (reg s f.sreg).toNat % 2 ^ w)

/-- R204, R206, R207, R208, R216: every integer lane operation, at latency 2: its result mod 2^w in the enabled lanes, and no
flag. the lane shifts with the amount of lane j of b, and the carry-less products of 32-bit lanes. -/
def Obligations.VectorIntegerLanes : Prop :=
  (∀ (s : State) (f : VF), onLan s = false → f.ty.toNat < 8 →
      let w := tyWidth f.ty.toNat
      let a := fun j => lane w (src s f f.a) j
      let b := fun j => lane w (src s f f.b) j
      let va := fun j => laneVal f (a j)
      let vb := fun j => laneVal f (b j)
      let vc := fun j => laneVal f (lane w (src s f f.c) j)
      let lo : Int := if f.ty.toNat < 4 then -2 ^ (w - 1) else 0
      let hi : Int := if f.ty.toNat < 4 then 2 ^ (w - 1) - 1 else 2 ^ w - 1
      let md := fun (x : Int) => ((x % 2 ^ w).toNat, (0 : Flags))
      (∀ p ∈ ([(.vadd f, fun j => va j + vb j), (.vsub f, fun j => va j - vb j), (.vmul f, fun j => va j * vb j),
          (.vmulh f, fun j => va j * vb j / 2 ^ w), (.vadds f, fun j => Max.max lo (Min.min hi (va j + vb j))),
          (.vsubs f, fun j => Max.max lo (Min.min hi (va j - vb j))), (.vmin f, fun j => Min.min (va j) (vb j)),
          (.vmax f, fun j => Max.max (va j) (vb j)), (.vabd f, fun j => |va j - vb j|)] : List (Instr × (Nat → Int))),
        LaneWise s p.1 f [f.a, f.b] w 2 (fun j => md (p.2 j))) ∧
      (∀ p ∈ ([(.vand f, fun j => a j &&& b j), (.vor f, fun j => a j ||| b j), (.vxor f, fun j => a j ^^^ b j),
          (.vandn f, fun j => a j &&& (2 ^ w - 1 - b j))] : List (Instr × (Nat → Nat))),
        LaneWise s p.1 f [f.a, f.b] w 2 (fun j => (p.2 j, 0))) ∧
      LaneWise s (.vmac f) f [f.a, f.b, f.c] w 2 (fun j => md (va j * vb j + vc j)) ∧
      LaneWise s (.vabs f) f [f.a] w 2 (fun j => md |va j|) ∧ LaneWise s (.vneg f) f [f.a] w 2 (fun j => md (-va j)) ∧
      LaneWise s (.vpopc f) f [f.a] w 2 (fun j => ((List.range w).countP (fun i => (a j).testBit i), 0)) ∧
      (∀ z : Nat → Nat, (∀ j < 4096 / w, z j ≤ w ∧ a j < 2 ^ (w - z j) ∧ (z j < w → 2 ^ (w - z j - 1) ≤ a j)) →
        LaneWise s (.vclz f) f [f.a] w 2 (fun j => (z j, 0)))) ∧
  (∀ (s : State) (f : VF), onLan s = false → f.ty.toNat < 8 →
      let w := tyWidth f.ty.toNat
      let a := fun j => lane w (src s f f.a) j
      let b := fun j => lane w (src s f f.b) j
      let va := fun j => laneVal f (a j)
      (∀ p ∈ ([(.vshl f, fun j => a j * 2 ^ b j % 2 ^ w), (.vshr f, fun j => a j / 2 ^ b j),
          (.vsra f, fun j => (((if 2 ^ (w - 1) ≤ a j then (a j : Int) - 2 ^ w else a j) / 2 ^ b j) % 2 ^ w).toNat),
          (.vrshr f, fun j => if b j = 0 then a j else (((va j + 2 ^ (b j - 1)) / 2 ^ b j) % 2 ^ w).toNat)] : List (Instr × (Nat → Nat))),
        LaneWise s p.1 f [f.a, f.b] w 2 (fun j => (p.2 j, 0))) ∧
      (w = 32 → ∀ x : Nat → Nat, (∀ j < 128, x j < 2 ^ 63 ∧ ∀ n < 63, (x j).testBit n =
          ((List.range 32).foldl (fun q i => q ^^ ((b j).testBit i && decide (i ≤ n) && (a j).testBit (n - i))) false)) →
        LaneWise s (.vclmul f) f [f.a, f.b] w 3 (fun j => (x j % 2 ^ 32, 0)) ∧
        LaneWise s (.vclmulh f) f [f.a, f.b] w 3 (fun j => (x j / 2 ^ 32, 0))))

/-- R209, R210: the float lane operations: sums and products of the exact operands rounded once by fl, at latency 3 or 4; the
smaller and larger lane, the magnitude and the negation exact, NaN to the canonical NaN. fl: a NaN term gives the canonical NaN
and no flag; 0 times infinity, or infinities of both signs, give it with nv; an infinite sum keeps its sign; an exact zero takes
its sign from its terms and the mode; any other sum is the exact sum of its terms, rounded once. -/
def Obligations.VectorFloatLanes : Prop :=
  (∀ (s : State) (f : VF), onLan s = false → 8 ≤ f.ty.toNat → f.ty.toNat ≤ 10 →
      let w := tyWidth f.ty.toNat
      let c := f.ty.toNat - 8
      let a := fun j => lane w (src s f f.a) j
      let b := fun j => lane w (src s f f.b) j
      let va := fun j => valOf c (a j)
      let vb := fun j => valOf c (b j)
      let vc := fun j => valOf c (lane w (src s f f.c) j)
      let fl := flSum c f.rm.toNat
      let nan := fun j => va j = .nan ∨ vb j = .nan
      (∀ p ∈ ([(.vadd f, fun j => fl [some (va j), some (vb j)]), (.vsub f, fun j => fl [some (va j), some (vb j).neg]),
          (.vmul f, fun j => fl [(va j).mul (vb j)]),
          (.vabd f, fun j => if nan j then (canonNan c, 0) else match sumVals f.rm.toNat [va j, (vb j).neg] with
            | some x => roundTo c x.abs f.rm.toNat
            | none => (canonNan c, flagNv))] :
          List (Instr × (Nat → Nat × Flags))),
        LaneWise s p.1 f [f.a, f.b] w 3 p.2) ∧
      (∀ p ∈ ([(.vfma f, fun j => fl [(va j).mul (vb j), some (vc j)]), (.vfms f, fun j => fl [(va j).mul (vb j), some (vc j).neg]),
          (.vfnma f, fun j => fl [(va j).neg.mul (vb j), some (vc j)])] : List (Instr × (Nat → Nat × Flags))),
        LaneWise s p.1 f [f.a, f.b, f.c] w 4 p.2)) ∧
  (∀ (c rm : Nat) (ts : List (Option Val)) (vs : List Val),
      let frac := fun (v : Val) => match v with | .fin i e => (i : ℚ) * 2 ^ e | _ => 0
      (some .nan ∈ ts → flSum c rm ts = (canonNan c, 0)) ∧
      (some .nan ∉ ts → none ∈ ts → flSum c rm ts = (canonNan c, flagNv)) ∧
      (.nan ∉ vs → .inf false ∈ vs → .inf true ∈ vs → flSum c rm (vs.map some) = (canonNan c, flagNv)) ∧
      (∀ n, .nan ∉ vs → .inf n ∈ vs → .inf (!n) ∉ vs → flSum c rm (vs.map some) = roundTo c (.inf n) rm) ∧
      ((∀ v ∈ vs, v = .zero false ∨ v = .zero true) → vs ≠ [] →
        flSum c rm (vs.map some) = roundTo c (.zero (if rm = 2 then decide (.zero true ∈ vs) else decide (.zero false ∉ vs))) rm) ∧
      ((∀ v ∈ vs, (∃ n, v = .zero n) ∨ ∃ i e, v = .fin i e) → (∃ i e, .fin i e ∈ vs) → (vs.map frac).sum = 0 →
        flSum c rm (vs.map some) = roundTo c (.zero (decide (rm = 2))) rm) ∧
      ((∀ v ∈ vs, (∃ n, v = .zero n) ∨ ∃ i e, v = .fin i e) → (vs.map frac).sum ≠ 0 →
        ∃ i e, flSum c rm (vs.map some) = roundTo c (.fin i e) rm ∧ (i : ℚ) * 2 ^ e = (vs.map frac).sum))

/-- R210: VMIN, VMAX, VABS and VNEG of a float type are exact, raise no flag, take three bundles and require rm = 0. VMIN and
VMAX return the canonical NaN when either operand is NaN, and order values with -0 below +0; VABS clears the sign bit and VNEG
inverts it; each turns a NaN into the canonical NaN. -/
def Obligations.FloatExactLanes : Prop :=
  ∀ (s : State) (f : VF), onLan s = false → 8 ≤ f.ty.toNat → f.ty.toNat ≤ 10 →
    let w := tyWidth f.ty.toNat
    let c := f.ty.toNat - 8
    let a := fun j => lane w (src s f f.a) j
    let b := fun j => lane w (src s f f.b) j
    let va := fun j => valOf c (a j)
    let vb := fun j => valOf c (b j)
    let nan := fun j => va j = .nan ∨ vb j = .nan
    let below := fun (x y : Nat) => if 2 ^ (w - 1) ≤ x then (if 2 ^ (w - 1) ≤ y then y < x else True) else y < 2 ^ (w - 1) ∧ x < y
    (∀ j, ¬nan j → ((va j).lt0 (vb j) = true ↔ below (a j) (b j))) ∧
    LaneWise s (.vmin f) f [f.a, f.b] w 3 (fun j => (if nan j then canonNan c else if (vb j).lt0 (va j) then b j else a j, 0)) ∧
    LaneWise s (.vmax f) f [f.a, f.b] w 3 (fun j => (if nan j then canonNan c else if (va j).lt0 (vb j) then b j else a j, 0)) ∧
    LaneWise s (.vabs f) f [f.a] w 3 (fun j => (if va j = .nan then canonNan c else a j % 2 ^ (w - 1), 0)) ∧
    LaneWise s (.vneg f) f [f.a] w 3 (fun j => (if va j = .nan then canonNan c else a j ^^^ 2 ^ (w - 1), 0)) ∧
    (f.rm ≠ 0 → ∀ i ∈ [.vmin f, .vmax f, .vabs f, .vneg f], (illegal i).isSome = true)

/-- R213 to R215, R215, R217: permutes and moves of lane patterns; widening and clamped narrowing of integer lanes. VEXT takes a
lane into a scalar register, VINS a scalar into a lane; VPXOR and VPSUM run their prefix. -/
def Obligations.VectorMovement : Prop :=
  (∀ (s : State) (f : VF), onLan s = false → f.ty.toNat < 8 →
      let w := tyWidth f.ty.toNat
      let n := 4096 / w
      let a := fun j => lane w (src s f f.a) j
      let b := fun j => lane w (src s f f.b) j
      let c := fun j => lane w (src s f f.c) j
      let cat := fun j => if j < n then a j else b (j - n)
      (∀ p ∈ ([(.vperm f, fun j => a (b j % n)), (.vrot f, fun j => a ((j + b 0 % n) % n)),
          (.vzipLo f, fun j => if j % 2 = 0 then a (j / 2) else b (j / 2)),
          (.vzipHi f, fun j => if j % 2 = 0 then a (j / 2 + n / 2) else b (j / 2 + n / 2)),
          (.vunzipE f, fun j => cat (2 * j)), (.vunzipO f, fun j => cat (2 * j + 1)), (.vbcast f, fun _ => a (b 0 % n))] :
          List (Instr × (Nat → Nat))), LaneWise s p.1 f [f.a, f.b] w 3 (fun j => (p.2 j, 0))) ∧
      LaneWise s (.vperm2 f) f [f.a, f.b, f.c] w 3 (fun j => (cat (c j % (2 * n)), 0)) ∧
      LaneWise s (.vslide f) f [f.a, f.b, f.c] w 3 (fun j => (cat ((j + c 0 % (2 * n)) % (2 * n)), 0)) ∧
      LaneWise s (.vmov f) f [f.a] w 2 (fun j => (a j, 0)) ∧
      (w < 32 → LaneWise s (.vwidenLo f) f [f.a] (2 * w) 3 (fun j => ((laneVal f (a j) % 2 ^ (2 * w)).toNat, 0)) ∧
        LaneWise s (.vwidenHi f) f [f.a] (2 * w) 3 (fun j => ((laneVal f (a (j + n / 2)) % 2 ^ (2 * w)).toNat, 0))) ∧
      (8 < w → let lo : Int := if f.ty.toNat < 4 then -2 ^ (w / 2 - 1) else 0
        let hi : Int := if f.ty.toNat < 4 then 2 ^ (w / 2 - 1) - 1 else 2 ^ (w / 2) - 1
        LaneWise s (.vnarrow f) f [f.a, f.b] (w / 2) 3 (fun j => ((Max.max lo (Min.min hi (laneVal f (cat j))) % 2 ^ (w / 2)).toNat, 0)))) ∧
  (∀ (s : State) (f : VF), onLan s = false → f.ty.toNat < 8 →
      let w := tyWidth f.ty.toNat
      let n := 4096 / w
      let a := fun j => lane w (src s f f.a) j
      let b := fun j => lane w (src s f f.b) j
      let old := rdV (hereUnit s) f.d.toNat
      let x := src s f f.a
      Runs s (.vext f) 1 (vecOut s f f.sreg.toNat [f.a, f.b] 3 (BitVec.ofNat 4096 (laneVal f (a (b 0 % n)) % 2 ^ 64).toNat) [] 0) ∧
      (∃ y, (∀ j < n, lane w y j = if j = b 0 % n then (reg s f.sreg).toNat % 2 ^ w else lane w old j) ∧
        Runs s (.vins f) 1 { vecOut s f (64 + f.d.toNat) [f.b] 2 y [] 0 with
          eff := lands s (64 + f.d.toNat) 2 y ([64 + f.d.toNat, f.sreg.toNat] ++ srcHs f [f.b.toNat]) (srcPsn (hereView s 1) [f.b.toNat]) 0 }) ∧
      (∃ y : Vec, (∀ j < 4096, y.getLsbD j = (List.range (j + 1)).foldl (fun q i => q ^^ x.getLsbD i) ((reg s f.sreg).getLsbD 0)) ∧
        Runs s (.vpxor f) 1 { vecOut s f (64 + f.d.toNat) [f.a] 3 y [] 0 with
          eff := lands s (64 + f.d.toNat) 3 y (f.sreg.toNat :: srcHs f [f.a.toNat]) (srcPsn (hereView s 1) [f.a.toNat]) 0 }) ∧
      (∃ y, (∀ j < n, lane w y j = if laneEn s f w j then (b 0 + ((List.range (j + 1)).map (fun i => if laneEn s f w i then a i else 0)).sum) % 2 ^ w
          else if f.mz = 1 then 0 else lane w old j) ∧
        Runs s (.vpsum f) 1 (vecOut s f (64 + f.d.toNat) [f.a, f.b] 4 y (maskHs f (64 + f.d.toNat)) 0)))

/-- R211, R212: VCVT rounds each element from one format to another; VRQ moves blocks of 24 elements from one scale to another;
what lies above the last element becomes zero, and the flags are those of every element. -/
def Obligations.VectorConversions : Prop :=
  ∀ (s : State) (f : VF), onLan s = false →
    let fs := f.imm.toNat / 2 ^ 11
    let ft := f.imm.toNat / 2 ^ 6 % 32
    (let bs := fmtW fs
      let bt := fmtW ft
      let n := 4096 / Max.max bs bt
      let g := fun j => roundTo ft (valOf fs (lane bs (src s f f.a) j)) f.rm.toNat
      ∃ y, (∀ j < 4096 / bt, lane bt y j = if j < n then (g j).1 % 2 ^ bt else 0) ∧
        Runs s (.vcvt f) 1 (vecOut s f (64 + f.d.toNat) [f.a] 4 y [] ((List.range n).foldl (fun x j => x ||| (g j).2) 0))) ∧
    (0x11 ≤ fs → fs ≤ 0x16 → 0x11 ≤ ft → ft ≤ 0x16 →
      let bs := fmtW (fs - 16)
      let bt := fmtW (ft - 16)
      let n := 24 * (4096 / (24 * Max.max bs bt))
      let g := fun j => requant (fs - 16) (lane 8 (src s f f.b) (j / 24)) (ft - 16) (lane 8 (src s f f.c) (j / 24)) (lane bs (src s f f.a) j) f.rm.toNat
      ∃ y, (∀ j < 4096 / bt, lane bt y j = if j < n then (g j).1 % 2 ^ bt else 0) ∧
        Runs s (.vrq f) 1 (vecOut s f (64 + f.d.toNat) [f.a, f.b, f.c] 4 y [] ((List.range n).foldl (fun x j => x ||| (g j).2) 0)))

/-- R218: a reduction takes the enabled lanes into the low lane, every other bit zero: sums, exclusive or, and the least or
greatest lane, with its lowest index in bits 63:32 in the index forms; with no lane enabled it gives its own value. -/
def Obligations.VectorReductions : Prop :=
  ∀ (s : State) (f : VF), onLan s = false → f.ty.toNat < 8 ∨ (f.ty.toNat ≤ 10 ∧ 8 ≤ f.ty.toNat) →
    let float := decide (8 ≤ f.ty.toNat)
    let w := tyWidth f.ty.toNat
    let c := f.ty.toNat - 8
    let a := fun j => lane w (src s f f.a) j
    let en := fun j => decide (j < 4096 / w) && laneEn s f w j
    let nan := fun j => float && decide (valOf c (a j) = .nan)
    let lt := fun x y => if float then (valOf c x).lt0 (valOf c y) else decide (laneVal f x < laneVal f y)
    let out := fun (v : Nat) (fl : Flags) => vecOut s f (64 + f.d.toNat) [f.a] (if float then 6 else 4) (BitVec.ofNat 4096 v)
      (maskHs f (64 + f.d.toNat)) fl
    let ixs := (List.range (4096 / w)).filter (laneEn s f w)
    (float = false → Runs s (.vradd f) 1 (out ((ixs.map a).sum % 2 ^ w) 0)) ∧
    (float = true → let r := if ixs = [] then (0, 0) else flSum c f.rm.toNat (ixs.map (fun j => some (valOf c (a j)))); Runs s (.vradd f) 1 (out r.1 r.2)) ∧
    Runs s (.vrxor f) 1 (out (ixs.foldl (fun x j => x ^^^ a j) 0) 0) ∧
    (∀ q ∈ ([(.vrmin f, .vrmini f, lt), (.vrmax f, .vrmaxi f, fun x y => lt y x)] : List (Instr × Instr × (Nat → Nat → Bool))),
      (∀ j, en j = true → (∀ i, en i = true → nan i = false) → (∀ i, en i = true → q.2.2 (a i) (a j) = false) →
        (∀ i < j, en i = true → q.2.2 (a j) (a i) = true) → Runs s q.1 1 (out (a j) 0) ∧ Runs s q.2.1 1 (out (a j + j * 2 ^ 32) 0)) ∧
      (∀ j, en j = true → nan j = true → (∀ i < j, en i = true → nan i = false) →
        Runs s q.1 1 (out (canonNan c) 0) ∧ Runs s q.2.1 1 (out (canonNan c + j * 2 ^ 32) 0))) ∧
    (ixs = [] →
      let top := if float then (roundTo c (.inf false) 0).1 else if f.ty.toNat < 4 then 2 ^ (w - 1) - 1 else 2 ^ w - 1
      let low := if float then (roundTo c (.inf true) 0).1 else if f.ty.toNat < 4 then 2 ^ (w - 1) else 0
      Runs s (.vrmin f) 1 (out top 0) ∧ Runs s (.vrmini f) 1 (out (top + 0xFFFFFFFF * 2 ^ 32) 0) ∧
      Runs s (.vrmax f) 1 (out low 0) ∧ Runs s (.vrmaxi f) 1 (out (low + 0xFFFFFFFF * 2 ^ 32) 0))

/-- R219, R220: each compare writes all ones or zero into each enabled lane of a vector register, or the AND of its lanes into
each enabled bit of a mask register. VSEL takes each lane from a where it is enabled and from b where it is not; the mask
operations combine whole masks. -/
def Obligations.VectorSelection : Prop :=
  (∀ (s : State) (f : VF), onLan s = false → f.ty.toNat < 8 ∨ (f.ty.toNat ≤ 10 ∧ 8 ≤ f.ty.toNat) →
      let float := decide (8 ≤ f.ty.toNat)
      let w := tyWidth f.ty.toNat
      let c := f.ty.toNat - 8
      let a := fun j => lane w (src s f f.a) j
      let b := fun j => lane w (src s f f.b) j
      let un := fun j => float && (decide (valOf c (a j) = .nan) || decide (valOf c (b j) = .nan))
      let lt := fun x y => if float then (valOf c x).lt (valOf c y) else decide (laneVal f x < laneVal f y)
      let ls := fun j => !un j && lt (a j) (b j)
      let gr := fun j => !un j && lt (b j) (a j)
      let eq := fun j => !un j && !lt (a j) (b j) && !lt (b j) (a j)
      ∀ p ∈ ([(.vceq f, eq), (.vcne f, fun j => !eq j), (.vclt f, ls), (.vcle f, fun j => ls j || eq j), (.vcgt f, gr),
          (.vcge f, fun j => gr j || eq j), (.vcun f, un)] : List (Instr × (Nat → Bool))),
        (f.d.toNat < 0x20 → LaneWise s p.1 f [f.a, f.b] w (if float then 3 else 2) (fun j => (if p.2 j then 2 ^ w - 1 else 0, 0))) ∧
        (0x30 ≤ f.d.toNat → ∃ y : BitVec 128,
          (∀ i < 128, y.getLsbD i = if (rdM (hereUnit s) f.mask.toNat).getLsbD i then decide (∀ j < 32 / w, p.2 (i * (32 / w) + j) = true)
            else if f.mz = 1 then false else (rdM (hereUnit s) (f.d.toNat - 0x30)).getLsbD i) ∧
          Runs s p.1 1 (vecOut s f (96 + (f.d.toNat - 0x30)) [f.a, f.b] (if float then 3 else 2) (y.setWidth 4096)
            (maskHs f (96 + (f.d.toNat - 0x30))) 0))) ∧
  (∀ (s : State) (f : VF), onLan s = false →
      let w := tyWidth f.ty.toNat
      let m := fun (x : BitVec 6) => rdM (hereUnit s) (x.toNat - 0x30)
      let out := fun (srcs : List (BitVec 6)) (y : BitVec 128) =>
        ({ wr := [96 + (f.d.toNat - 0x30)]
           eff := lands s (96 + (f.d.toNat - 0x30)) 2 (y.setWidth 4096) (srcHs f (srcs.map (fun x => x.toNat))) false 0 } : SlotOut)
      (∃ y, (∀ j < 4096 / w, lane w y j = if laneEn s f w j then lane w (src s f f.a) j else lane w (src s f f.b) j) ∧
        Runs s (.vsel f) 1 (vecOut s f (64 + f.d.toNat) [f.a, f.b] 2 y (maskHs f (64 + f.d.toNat)) 0)) ∧
      (∀ p ∈ ([(.mand f, m f.a &&& m f.b), (.mor f, m f.a ||| m f.b), (.mxor f, m f.a ^^^ m f.b), (.mandn f, m f.a &&& ~~~m f.b)] :
          List (Instr × BitVec 128)), Runs s p.1 1 (out [f.a, f.b] p.2)) ∧
      Runs s (.mnot f) 1 (out [f.a] (~~~m f.a)))

/-- R71, R147, R153, R206, R149, R73, R128: a vector instruction that runs puts its one result into flight with its latency,
flags and what its operands carry, pops each queue it names once, and changes nothing else yet; a result for m0 is discarded.
the one result of a unit that is due lands in its vector register, or in its mask register unless that is m0, with its poison;
its flags wait for the end of the clk to join fp.flags. -/
def Obligations.VectorResults : Prop :=
  (∀ (s : State) (k : UnitIx) (f : VF) (srcs : List (BitVec 6)) (lat : Nat) (y : Vec) (more : List Nat) (fl : Flags), s.cur = .unit k →
      let u := getUnit s k.toNat
      let xs := srcs.map (fun x => x.toNat)
      let x := metaOf u.core (srcHs f xs ++ more)
      let fly := fun (cls n : Nat) => ({ cls := cls, reg := n, val := y, r := lat, tags := tagsOf u.core x.taint, sat := x.sat
                                         poison := x.poison || srcPsn (hereView s 1) xs, order := u.bundle, emask := 0, mz := false
                                         idx := 0, rc := false, flags := fl } : Flight)
      (∀ d < 32, Issued s (wordDid s 1 (vecOut s f (64 + d) srcs lat y more fl)) k.toNat (srcPops xs) [fly 1 d]) ∧
      (∀ n, 0 < n → n < 8 → Issued s (wordDid s 1 (vecOut s f (96 + n) srcs lat y more fl)) k.toNat (srcPops xs) [fly 2 n]) ∧
      Issued s (wordDid s 1 (vecOut s f 96 srcs lat y more 0)) k.toNat (srcPops xs) []) ∧
  (∀ (s : State) (f : Flight), let k := s.arg.k.toNat
      issues s k = true → (getUnit s k).flight.filter (fun f => decide (f.r ≤ 1)) = [f] → f.cls = 1 ∨ f.cls = 2 →
      ∃ t, exec .resultLanding s = .next t ∧
        (∀ r, rdV (getUnit t k) r = if f.cls = 1 ∧ r = f.reg then f.val else rdV (getUnit s k) r) ∧
        (∀ r, rdM (getUnit t k) r = if f.cls = 2 ∧ r = f.reg ∧ r ≠ 0 then f.val.setWidth 128 else rdM (getUnit s k) r) ∧
        (∀ r, rdS (getUnit t k).core r = rdS (getUnit s k).core r) ∧
        (f.cls = 1 → f.reg < 32 → (hmeta (getUnit t k).core (64 + f.reg)).poison = f.poison) ∧
        (getUnit t k).fpNew = (getUnit s k).fpNew ||| f.flags ∧
        (getUnit t k).flight = (getUnit s k).flight.filter (fun f => decide (1 < f.r)) ∧
        (∀ j, j ≠ k → getUnit t j = getUnit s j) ∧ (∀ j, getCl t j = getCl s j) ∧ AllMemSame s t)

/-! ## Vector memory, queues and tile slices -/

/-- R221 to R223, R65, R221, R223: VLD and VST move the enabled 32-bit lanes to and from consecutive words; VGTH and VSCT
address each lane by an index; VLDM and VSTM move whole consecutive registers of 512 bytes. after a lane store that runs, each
byte an enabled lane wrote is that of the highest lane that names it, and every other byte of memory, register and queue that it
does not pop is as before. -/
def Obligations.VectorMemory : Prop :=
  (∀ (s : State) (f : VF), onLan s = false →
      let o := accessAt s f.sreg f.imm.toInt
      let w := tyWidth f.ty.toNat
      let ix := fun i => o + lane w (src s f f.a) i * (w / 8)
      let old := rdV (hereUnit s) f.d.toNat
      let keep := fun (w j : Nat) => if f.mz = 1 then 0 else lane w old j
      let ds := (List.range (f.c.toNat % 32 + 1)).map (fun j => f.d.toNat + j)
      (∃ y, (∀ j < 128, lane 32 y j = if laneEn s f 32 j then (padRead s (o + 4 * j) 4).1 else keep 32 j) ∧
        Runs s (.vld f) 1 (laneLoadOut s f 32 [] (fun j => o + 4 * j) y)) ∧
      Runs s (.vst f) 1 (laneStoreOut s f 32 [] (fun j => o + 4 * j)) ∧
      (∃ y, (∀ j < 4096 / w, lane w y j = if laneEn s f w j then (padRead s (ix j) (w / 8)).1 else keep w j) ∧
        Runs s (.vgth f) 1 (laneLoadOut s f w [f.a] ix y)) ∧
      Runs s (.vsct f) 1 (laneStoreOut s f w [f.a] ix) ∧
      Runs s (.vldm f) 1
        { wr := ds.map (fun d => 64 + d), gate := [f.sreg.toNat], acc := [(false, o, 512 * ds.length)]
          chk := needRange (decide (o + 512 * ds.length ≤ unitSize)) o
          eff := fun t => (List.range (f.c.toNat % 32 + 1)).foldl (fun t j =>
            lands s (64 + (f.d.toNat + j)) 6 (BitVec.ofNat 4096 (padRead s (o + 512 * j) 512).1) [f.sreg.toNat] (padRead s (o + 512 * j) 512).2 0 t)
            (touchChip t (padBase s + o) (512 * ds.length)) } ∧
      Runs s (.vstm f) 1
        { gate := f.sreg.toNat :: ds.map (fun d => 64 + d), acc := [(true, o, 512 * ds.length)]
          chk := ((needRange (decide (o + 512 * ds.length ≤ unitSize)) o).unless (regBad s f.sreg)).and
            ((ds.foldl (fun (c : Chk) d => c.and (psnOf (hmeta (here s) (64 + d)).poison 1 d)) {}).and (psnOf (regBad s f.sreg) 0 f.sreg.toNat))
          eff := fun t => modMem t (fun m => writeImg m (padBase s + o)
            (ds.flatMap (fun d => (List.range 512).map (fun j => ((rdV (hereUnit s) d).extractLsb' (8 * j) 8, false))))) }) ∧
  (∀ (s : State) (k : UnitIx) (f : VF), s.cur = .unit k →
      let o := accessAt s f.sreg f.imm.toInt
      let wt := tyWidth f.ty.toNat
      ∀ p ∈ ([(.vst f, 32, [], fun j => o + 4 * j), (.vsct f, wt, [f.a], fun j => o + lane wt (src s f f.a) j * (wt / 8))] :
          List (Instr × Nat × List (BitVec 6) × (Nat → Nat))),
        let w := p.2.1
        let at0 := fun j => padBase s + p.2.2.2 j
        wordFree s p.1 1 (laneStoreOut s f w p.2.2.1 p.2.2.2) = true →
        ∃ t, exec p.1 s = .next t ∧
          (∀ j ∈ laneHits s f w, ∀ b < w / 8, (∀ i ∈ laneHits s f w, j < i → ¬(at0 i ≤ at0 j + b ∧ at0 j + b < at0 i + w / 8)) →
            rdByte t.chip.mem.cells (at0 j + b) = BitVec.ofNat 8 (lane w (rdV (getUnit s k.toNat) f.d.toNat) j / 2 ^ (8 * b))) ∧
          (∀ i, (∀ j ∈ laneHits s f w, ¬(at0 j ≤ i ∧ i < at0 j + w / 8)) → rdByte t.chip.mem.cells i = rdByte s.chip.mem.cells i) ∧
          (∀ r, reg t r = reg s r) ∧ (∀ r, rdV (getUnit t k.toNat) r = rdV (getUnit s k.toNat) r) ∧ (∀ h, hmeta (here t) h = hmeta (here s) h) ∧
          (∀ n, n ≠ 1 → rdCsr (here t) n = rdCsr (here s) n) ∧ MemSame s.hbm t.hbm ∧ MemSame s.host t.host)

/-- R69, R71, R153, R224, R225, R63, R66: a QLD in any form reserves the next entry of its queue, unfilled, takes the lowest
free tag and leaves its read to arrive; it checks its bytes, or the alignment and bytes of its slot. the value of the oldest QLD
of a unit arrives: its entry fills, disabled lanes zero, and its tag clears; each byte is that of its 16-byte part as it stood
when that part was performed, or as it stands now. A QLD that performs parts before it arrives keeps what they held, and its
entry stays unfilled. -/
def Obligations.OperandQueues : Prop :=
  (∀ (s : State) (k : UnitIx) (f : VF) (tg : Nat), s.cur = .unit k → 0x20 ≤ f.d.toNat → freeTag (getUnit s k.toNat).core 16 = some tg →
      let u := getUnit s k.toNat
      let q := f.d.toNat - 0x20
      let o := accessAt s f.sreg f.imm.toInt
      let n := if q = 8 then 1536 else 512
      let bad := (metaOf u.core [f.sreg.toNat, 96 + f.mask.toNat]).poison
      (q = 8 → (asks s (.qld f) 1).chk = needRange (decide (o + 1536 ≤ unitSize)) o) ∧
      (q ≠ 8 → (asks s (.qld f) 1).chk = needRange ((List.range 128).all (fun j => !laneEn s f 32 j || decide (o + 4 * j + 4 ≤ unitSize))) o) ∧
      (∀ i ∈ [Instr.qldZ1 f, .qldZ2 f], (asks s i 1).chk = (needIll (decide (o % 512 = 0) && (decide (q ≠ 8) || decide (o % 2048 ≤ 512)))).and
        (needRange (decide (o - o % 2048 + 2048 ≤ unitSize)) o)) ∧
      (∀ p ∈ ([(.qld f, 0), (.qldZ1 f, 1), (.qldZ2 f, 2)] : List (Instr × Nat)), Leaves s p.1 1 (fun t =>
        let w := getUnit t k.toNat
        (∀ j, sget [] w.queues j = sget [] u.queues j ++ (if j = q then [⟨false, tg, u.core.gen, 0, bad⟩] else [])) ∧
        tagLive w.core tg u.core.gen = true ∧ (∀ j < tg, tagSet u.core j = true ∨ bit u.core.freed.toNat j = true) ∧
        (∃ m, w.qlds = u.qlds ++ [⟨q, tg, u.core.gen, o, n, m, p.2, (u.inst.map (fun i => i.serial)).getD 0, []⟩] ∧
          ∀ j < 128, m.getLsbD j = (decide (q = 8) || decide (p.2 ≠ 0) || laneEn s f 32 j)) ∧
        w.flight = u.flight.map (fun f => { f with r := f.r - 1 }) ∧ (∀ r, rdS w.core r = rdS u.core r) ∧ w.v = u.v ∧ w.m = u.m ∧
        (∀ h, hmeta w.core h = hmeta u.core h) ∧ (∀ j, j ≠ k.toNat → getUnit t j = getUnit s j) ∧ (∀ j, getCl t j = getCl s j) ∧ AllMemSame s t))) ∧
  (∀ (s : State) (k : UnitIx) (q : Qld) (rest : List Qld), s.arg.eng = .stream k → s.chip.ended = none →
      let u := getUnit s k.toNat
      u.qlds = q :: rest → q.gen = s.arg.j → q.codec = 0 → q.q < 8 → q.len = 512 →
      let at0 := unitBase k.toNat + q.off
      let sees := fun (j : Nat) => match q.got.find? (fun p => p.1 == (at0 + j) / 16) with
        | some p => ((p.2[(at0 + j) % 16]?).getD (0, false)).1
        | none => rdByte s.chip.mem.cells (at0 + j)
      (s.arg.flag = true → ∃ t e2 p, exec .taggedReadArrival s = .next t ∧ (∀ p ∈ (getUnit t k.toNat).qlds, p.gen ≠ q.gen) ∧
        tagLive (getUnit t k.toNat).core q.tag q.gen = false ∧
        sget [] (getUnit t k.toNat).queues q.q = (sget [] u.queues q.q).map (fun e => if e.gen = q.gen ∧ e.filled = false then { e with filled := true, val := e2, poison := e.poison || p } else e) ∧
        (∀ j < 512, e2.extractLsb' (8 * j) 8 = if q.mask.getLsbD (j / 4) then sees j else 0) ∧
        (∀ j, j ≠ q.q → sget [] (getUnit t k.toNat).queues j = sget [] u.queues j) ∧ (∀ r, rdS (getUnit t k.toNat).core r = rdS u.core r)) ∧
      (s.arg.flag = false → ∃ t, exec .taggedReadArrival s = .next t ∧ (getUnit t k.toNat).core.tags = u.core.tags ∧ (getUnit t k.toNat).queues = u.queues ∧
        (∀ r, rdS (getUnit t k.toNat).core r = rdS u.core r) ∧ (getUnit t k.toNat).qlds.length = u.qlds.length ∧ AllMemSame s t))

/-- R154, R226, R45: VTRD reads 64 elements of a tile row or column, zero above, and finds the uncorrectable errors of the rows
it reads, which become poisoned; VTWR sends its enabled elements to one, where they land with the other tile elements, flag
planes and rows as they were. -/
def Obligations.TileSlices : Prop :=
  ∀ (s : State) (f : VF), onLan s = false →
    let n := f.imm.toNat / 2 ^ 11 % 16
    let rc := f.imm.getLsbD 15
    let ix := ((reg s f.sreg).toNat + f.imm.toNat / 2 ^ 5 % 64) % 64
    let at0 := fun j => if rc then 64 * j + ix else 64 * ix + j
    let tl := sget {} (hereUnit s).tiles n
    let rows := if rc then List.range 64 else [ix]
    (∀ r < 64, (touchRows tl rows).poison.getLsbD r = (tl.poison.getLsbD r || (rows.contains r && tl.errs.any (fun p => p.1 == r && p.2 == .unc)))) ∧
    (∀ k, s.cur = .unit k → ∃ y, (∀ j < 128, lane 32 y j = if laneEn s f 32 j then (if j < 64 then (sget 0 tl.el (at0 j)).toNat else 0)
        else if f.mz = 1 then 0 else lane 32 (rdV (hereUnit s) f.d.toNat) j) ∧
      Runs s (.vtrd f) 1
        { wr := [64 + f.d.toNat], tiles := [n]
          eff := fun t => lands s (64 + f.d.toNat) 4 y (f.sreg.toNat :: maskHs f (64 + f.d.toNat))
            (rows.any (fun i => (touchRows tl rows).poison.getLsbD i)) 0
            (modUnit t k.toNat (fun u => { u with tiles := smod {} u.tiles n (fun tl => touchRows tl rows) })) }) ∧
    (∀ k, s.cur = .unit k → Leaves s (.vtwr f) 1 (fun t => ∃ fl : Flight, Issued s t k.toNat (srcPops [f.a.toNat]) [fl] ∧
      fl.cls = 3 ∧ fl.reg % 16 = n ∧ fl.rc = rc ∧ fl.idx = ix ∧ fl.r = 4 ∧ fl.val = src s f f.a ∧ fl.mz = decide (f.mz = 1) ∧
      (∀ j < 64, fl.emask.getLsbD j = laneEn s f 32 j) ∧
      fl.poison = ((metaOf (here s) (laneHs f [f.a])).poison || srcPsn (hereView s 1) [f.a.toNat]))) ∧
    (∀ fl : Flight, let k := s.arg.k.toNat
      issues s k = true → (getUnit s k).flight.filter (fun f => decide (f.r ≤ 1)) = [fl] → fl.cls = 3 → fl.idx < 64 →
      ∃ t, exec .resultLanding s = .next t ∧
        let at1 := fun j => if fl.rc then 64 * j + fl.idx else 64 * fl.idx + j
        let old := sget {} (getUnit s k).tiles (fl.reg % 16)
        let new := sget {} (getUnit t k).tiles (fl.reg % 16)
        (∀ j < 64, sget 0 new.el (at1 j) = if fl.emask.getLsbD j then fl.val.extractLsb' (32 * j) 32 else if fl.mz then 0 else sget 0 old.el (at1 j)) ∧
        (∀ i, (∀ j < 64, i ≠ at1 j) → sget 0 new.el i = sget 0 old.el i) ∧ new.lost = old.lost ∧
        (∀ r < 64, new.poison.getLsbD r = (old.poison.getLsbD r ||
          (fl.poison && (List.range 64).any (fun j => decide (at1 j / 64 = r) && (fl.emask.getLsbD j || fl.mz))))) ∧
        (∀ j, j ≠ fl.reg % 16 → sget {} (getUnit t k).tiles j = sget {} (getUnit s k).tiles j) ∧
        (getUnit t k).v = (getUnit s k).v ∧ (∀ r, rdS (getUnit t k).core r = rdS (getUnit s k).core r) ∧ AllMemSame s t)

/-! ## Engine commands -/

/-- R67, R69, R74, R143, R245: a matrix command of slot 3 or a copy command of slot 4 issues: it enters the end of its engine's
queue with its address, clk, instance and parameters, handed off at once where nothing holds it; one that returns a value takes
the lowest free tag, which becomes the taint of its destination; no register or other queue changes. -/
def Obligations.CommandsEnterQueues : Prop :=
  ∀ (s : State) (k : UnitIx) (mf : MF) (cf : CF), s.cur = .unit k →
    let u := getUnit s k.toNat
    let issued := fun (i : Instr) (slot : Nat) (t : State) (tag : Option (Nat × Nat)) =>
      let w := getUnit t k.toNat
      (∃ c, slotQ w slot = slotQ u slot ++ [c] ∧ c.ins = i ∧ c.slot = slot ∧ c.addr = u.core.pc ∧ c.issued = s.clk ∧
        c.inst = (u.inst.map (fun n => n.serial)).getD 0 ∧ c.par = parOf u i ∧ c.handed = handedAtOnce s k.toNat slot i ∧ c.tailed = false ∧
        c.tag = tag) ∧
      (∀ j ∈ [3, 4, 5], j ≠ slot → slotQ w j = slotQ u j) ∧ (∀ r, rdS w.core r = rdS u.core r) ∧ w.v = u.v ∧ w.m = u.m ∧
      (∀ q, sget [] w.queues q = sget [] u.queues q) ∧ w.tiles = u.tiles ∧ w.sems = u.sems
    let plain := fun (i : Instr) (slot : Nat) => Leaves s i slot (fun t => issued i slot t none ∧ (getUnit t k.toNat).core.tags = u.core.tags ∧
      ∀ h, hmeta (getUnit t k.toNat).core h = hmeta u.core h)
    let reads := fun (i : Instr) (h : Nat) => ∀ tg, freeTag u.core 16 = some tg → Leaves s i 4 (fun t => issued i 4 t (some (tg, u.core.gen)) ∧
      let w := getUnit t k.toNat
      tagLive w.core tg u.core.gen = true ∧ (∀ j < tg, tagSet u.core j = true ∨ bit u.core.freed.toNat j = true) ∧
      (holds h = true → (hmeta w.core h).taint = BitVec.ofNat 16 (2 ^ tg) ∧ (hmeta w.core h).poison = (hmeta u.core h).poison) ∧
      (∀ j, j ≠ h → hmeta w.core j = hmeta u.core j))
    (∀ i ∈ [Instr.mmaQ mf, .mmaV mf, .mmaR mf, .wld mf, .swap mf, .zero mf, .drain mf, .drainZ1 mf, .drainZ2 mf], plain i 3) ∧
    (∀ i ∈ [Instr.cp cf, .cpP cf, .cpBox cf, .cpGth cf, .cpSct cf, .cpCvt cf, .cpZip cf, .cpUnz cf, .cpXp cf, .mcred cf, .amoFaddF32 cf,
      .amoFaddBf16 cf, .amoFaddF16 cf, .sig cf, .swait cf, .bpost cf, .bwait cf, .barrive cf, .cpost cf, .str cf, .strV cf], plain i 4) ∧
    (∀ i ∈ [Instr.amoAdd cf, .amoAnd cf, .amoOr cf, .amoXor cf, .amoMin cf, .amoMax cf, .amoMinu cf, .amoMaxu cf, .amoSwp cf, .amoCas cf],
      if cf.rd = 0 then plain i 4 else reads i cf.rd.toNat) ∧
    reads (.semrd cf) cf.rd.toNat ∧ reads (.ldr cf) cf.rd.toNat ∧ reads (.ldrV cf) (64 + cf.rd.toNat % 32)

/-- R245, R248, R258, R259, R261, R263: the operands with which a command is handed off: copies by length between two checked
addresses, atomics of 4 or 8 bytes, cell adds with their scale, semaphores, barriers, and reads and writes of registers. -/
def Obligations.CommandOperands : Prop :=
  ∀ (s : State) (k : UnitIx) (f : CF), s.cur = .unit k →
    let cl := k.toNat / 8
    let v := fun (r : Reg) => (reg s r).toNat
    let go := HandedOff s k.toNat 4
    (∀ p ∈ ([(.cp f, false), (.cpP f, true)] : List (Instr × Bool)), go p.1 (fun x =>
      operand s cl f.dsp.toNat (v f.rd) 0 (v f.rb) .wr = .ok x.dst ∧ operand s cl f.ssp.toNat (v f.ra) 0 (v f.rb) .rd = .ok x.src ∧
      x.len = v f.rb ∧ v f.rb < 2 ^ 32 ∧ x.pm = p.2 ∧ (f.rc = 0 → x.bar = none) ∧ (f.rc ≠ 0 → ∃ b, barrierOp s cl (v f.rc) = .ok b ∧ x.bar = some b))) ∧
    (∀ p ∈ ([(.amoAdd f, 0), (.amoAnd f, 1), (.amoOr f, 2), (.amoXor f, 3), (.amoMin f, 4), (.amoMax f, 5), (.amoMinu f, 6), (.amoMaxu f, 7),
        (.amoSwp f, 8), (.amoCas f, 9)] : List (Instr × Nat)), go p.1 (fun x =>
      let w := if f.rc.toNat % 2 = 1 then 8 else 4
      x.op = 0x10 + p.2 ∧ x.len = w ∧ v f.ra % w = 0 ∧ operand s cl f.ssp.toNat (v f.ra) 0 w .at = .ok x.dst ∧ x.a = reg s f.rb ∧
      x.b = reg s f.rd ∧ x.fn = f.rc.toNat ∧ x.rd = f.rd.toNat)) ∧
    (∀ p ∈ ([(.amoFaddF32 f, 0, 32), (.amoFaddBf16 f, 1, 16), (.amoFaddF16 f, 2, 16)] : List (Instr × Nat × Nat)), go p.1 (fun x =>
      x.op = 0x1A + p.2.1 ∧ x.len = 16 ∧ v f.ra % 16 = 0 ∧ operand s cl f.ssp.toNat (v f.ra) 0 16 .at = .ok x.dst ∧
      x.a.toNat = v f.rb % 2 ^ p.2.2 ∧ x.c = (reg s f.rd).toInt ∧ -256 ≤ x.c ∧ x.c ≤ 255)) ∧
    go (.sig f) (fun x => v f.ra < 8 ∧ v f.rb < 128 ∧ x.dst = 8 * cl + v f.ra ∧ x.a.toNat = v f.rb % 32 ∧ x.b.toNat = v f.rb / 32 + 1) ∧
    go (.swait f) (fun x => v f.rb < 128 ∧ x.a.toNat = v f.rb % 32 ∧ x.b.toNat = v f.rb / 32 + 1) ∧
    (∀ i ∈ [Instr.bpost f, .barrive f], go i (fun x => v f.rb < 2 ^ 40 ∧ barrierOp s cl (v f.ra) = .ok x.dst ∧ x.a = reg s f.rb)) ∧
    go (.bwait f) (fun x => v f.rb < 2 ∧ barrierOp s cl (v f.ra) = .ok x.dst ∧ x.a = reg s f.rb) ∧
    go (.semrd f) (fun x => v f.rb < 32 ∧ x.a = reg s f.rb ∧ x.rd = f.rd.toNat) ∧
    (∀ p ∈ ([(.ldr f, 8, f.rd.toNat), (.ldrV f, 512, 64 + f.rd.toNat % 32)] : List (Instr × Nat × Nat)), go p.1 (fun x =>
      operand s cl f.ssp.toNat (v f.ra) 0 p.2.1 .rd = .ok x.src ∧ x.len = p.2.1 ∧ x.rd = p.2.2)) ∧
    go (.str f) (fun x => operand s cl f.dsp.toNat (v f.rd) 0 8 .wr = .ok x.dst ∧ x.data = toBytes (v f.ra) 8) ∧
    go (.strV f) (fun x => operand s cl f.dsp.toNat (v f.rd) 0 512 .wr = .ok x.dst ∧
      x.data = (List.range 512).map (fun j => (rdV (getUnit s k.toNat) (f.rb.toNat % 32)).extractLsb' (8 * j) 8))

/-- R67, R74, R85, R86, R89, R232, R261: the events of a unit's copy queue: its gates open in order; the first opened command is
handed off where its checks pass; the head starts once the semaphores hold what it consumes, and takes it; a SWAIT takes its
count, at its start where that suffices; the tokens of the complete commands that stand before every incomplete one with a token
fire; a signal that arrives joins the clk's increments. -/
def Obligations.CopyQueueEvents : Prop :=
  ∀ (s : State) (k : UnitIx) (q : BitVec 1) (c : QCmd) (rest : List QCmd), s.arg.eng = .uce k q → s.chip.ended = none →
    let e := Eng.uce k q
    let slot := if q = 0 then 4 else 5
    let u := getUnit s k.toNat
    (slotQ u slot = c :: rest → c.handed = false → c.opened = false → cmdGated u c = false → s.arg.flag = false →
      ∃ t c2, exec .commandHandOff s = .next t ∧ (slotQ (getUnit t k.toNat) slot).head? = some c2 ∧ c2.opened = true ∧ c2.ins = c.ins ∧
        (slotQ (getUnit t k.toNat) slot).length = rest.length + 1 ∧ (getUnit t k.toNat).core = u.core ∧ AllMemSame s t) ∧
    (∀ x, slotQ u slot = c :: rest → c.handed = false → c.opened = true → s.arg.flag = true →
      resolverOf c.ins c.par (cmdIn s k.toNat c) = (({} : Chk), x) →
      ∃ t c2, exec .commandHandOff s = .next t ∧ slotQ (getUnit t k.toNat) slot = c2 :: rest ∧ c2.handed = true ∧ c2.ins = c.ins ∧
        (x.op ≠ 0x28 → c2.x = some x) ∧ (getUnit t k.toNat).core = u.core) ∧
    (∀ x, slotQ u slot = c :: rest → c.x = some x → x.op ≠ 0x25 → x.op ≠ 0x21 → (getX s e).runs.any runBlocks = false → engStopped s e = false →
      (∀ p ∈ tokTake (tokOf c.ins), (((tokTake (tokOf c.ins)).filter (fun r => r.1 == p.1)).map Prod.snd).sum ≤ (sget {} u.sems p.1).cnt) →
      ∃ t r, exec .engineCommandStart s = .next t ∧ (getX t e).q = rest ∧ (getX t e).runs = (getX s e).runs ++ [r] ∧ r.x = x ∧
        r.cseq = (getX s e).cseq ∧ (getX t e).cseq = ((getX s e).cseq + 1) % 2 ^ 32 ∧ r.inst = c.inst ∧ r.gv = tokGive (tokOf c.ins) ∧
        r.done = false ∧
        (∀ i, (sget {} (getUnit t k.toNat).sems i).cnt = (sget {} u.sems i).cnt - (((tokTake (tokOf c.ins)).filter (fun r => r.1 == i)).map Prod.snd).sum) ∧
        (∀ r, rdS (getUnit t k.toNat).core r = rdS u.core r) ∧ AllMemSame s t) ∧
    (∀ x, slotQ u slot = c :: rest → c.x = some x → x.op = 0x21 → (getX s e).runs.any runBlocks = false → engStopped s e = false →
      findRun s e (getCl s (k.toNat / 8)).runId = none →
      let taken := fun (i : Nat) => (((tokTake (tokOf c.ins)).filter (fun r => r.1 == i)).map Prod.snd).sum
      (∀ p ∈ tokTake (tokOf c.ins), taken p.1 ≤ (sget {} u.sems p.1).cnt) →
      x.b.toNat ≤ (sget {} u.sems x.a.toNat).cnt - taken x.a.toNat →
      ∃ t, exec .engineCommandStart s = .next t ∧ (getX t e).q = rest ∧ (getX t e).cseq = ((getX s e).cseq + 1) % 2 ^ 32 ∧
        (∀ z ∈ (getX t e).runs, z.id = (getCl s (k.toNat / 8)).runId → z.done = true) ∧
        (∀ i, (sget {} (getUnit t k.toNat).sems i).cnt = (sget {} u.sems i).cnt - taken i - if i = x.a.toNat then x.b.toNat else 0) ∧
        (∀ r, rdS (getUnit t k.toNat).core r = rdS u.core r) ∧ AllMemSame s t) ∧
    (∀ r, findRun s e s.arg.j = some r → r.done = false → r.x.op = 0x21 → r.x.b.toNat ≤ (sget {} u.sems r.x.a.toNat).cnt →
      ∃ t, exec .swaitGrant s = .next t ∧ (∀ z ∈ (getX t e).runs, z.id = r.id → z.done = true) ∧
        (∀ i, (sget {} (getUnit t k.toNat).sems i).cnt = (sget {} u.sems i).cnt - if i = r.x.a.toNat then r.x.b.toNat else 0) ∧
        (∀ r, rdS (getUnit t k.toNat).core r = rdS u.core r) ∧ AllMemSame s t) ∧
    (let ready := ((getX s e).runs.takeWhile (fun r => r.done || r.gv.isNone)).filter (fun r => r.gv.isSome);
      ((getX s e).runs.map (fun r => r.id)).Nodup → (∀ r ∈ ready, u.inst.map (fun i => i.serial) = some r.inst) →
      ∃ t, exec .engineTokenFire s = .next t ∧
        (getUnit t k.toNat).incs = u.incs ++ ready.map (fun r => ⟨r.gv.getD 0, 1, r.stP || r.stT || r.stA, some ⟨0, 0⟩⟩) ∧
        (∀ z ∈ (getX t e).runs, ∀ r ∈ ready, z.id = r.id → z.gv = none) ∧ (getUnit t k.toNat).core = u.core ∧ AllMemSame s t) ∧
    (∀ g gs, s.arg.m.toNat = g.unit / 8 → (getCl s s.arg.m.toNat).signals = g :: gs → (getUnit s g.unit).inst.isSome = true →
      g.slot = s.chip.slot → g.run = none →
      ∃ t, exec .signalArrival s = .next t ∧ (getCl t s.arg.m.toNat).signals = gs ∧
        (getUnit t g.unit).incs = (getUnit s g.unit).incs ++ [⟨g.sem, g.k, false, g.rel⟩] ∧
        (∀ j, j ≠ g.unit → getUnit t j = getUnit s j) ∧ AllMemSame s t)

/-- R57, R68, R72, R83, R93, R94, R104, R107, R261, R262: what a copy engine's commands come to: a chunked command is complete
once every chunk is; BPOST and BARRIVE update their barrier by the rules of R57; SIG sends its signal; BWAIT completes on its
phase; the value of a load arrives in its register and frees its tag; a chunk leaves its command when it is done, and a faulted
one is recorded on the retry ring. -/
def Obligations.CopyCommandEvents : Prop :=
  ∀ (s : State) (k : UnitIx) (q : BitVec 1) (r : Run), s.arg.eng = .uce k q → s.chip.ended = none →
    let e := Eng.uce k q
    let cl := k.toNat / 8
    let bar := r.x.dst % 2 ^ 48
    let b := Barrier.ofNat (rdMem s.chip.mem.cells bar 16)
    let done := fun (t : State) => ∀ z ∈ (getX t e).runs, z.id = r.id → z.done = true
    let ask := fun (n : Nat) => { s with asker := some (.chunk e s.arg.j n 0) }
    findRun s e s.arg.j = some r → r.done = false →
    (runReady s e r = true → chunked r.x.op = true → walkLen r.x ≤ r.next → r.chunks = [] → ∃ t, exec .commandComplete s = .next t ∧ done t ∧ AllMemSame s t) ∧
    (r.x.op = 0x22 → runReady s e r = true → relOk s e r = true → r.x.a ≠ 0 → ∃ t, exec .commandComplete s = .next t ∧ done t ∧
      rdMem t.chip.mem.cells bar 16 = (b.post r.x.a.toNat).toNat ∧
      ∀ i, ¬(bar ≤ i ∧ i < bar + 16) → rdByte t.chip.mem.cells i = rdByte s.chip.mem.cells i) ∧
    (r.x.op = 0x24 → runReady s e r = true → relOk s e r = true → r.x.a ≠ 0 → ∃ t, exec .commandComplete s = .next t ∧ done t ∧
      rdMem t.chip.mem.cells bar 16 = (b.arrive r.x.a.toNat).toNat ∧
      ∀ i, ¬(bar ≤ i ∧ i < bar + 16) → rdByte t.chip.mem.cells i = rdByte s.chip.mem.cells i) ∧
    (r.x.op = 0x20 → r.next = 0 → runReady s e r = true → relOk s e r = true → ∃ t g, exec .commandComplete s = .next t ∧
      (getCl t cl).signals = (getCl s cl).signals ++ [g] ∧ g.unit = r.x.dst ∧ g.sem = r.x.a.toNat ∧ g.k = r.x.b.toNat ∧
      g.slot = s.chip.slot ∧ g.run = some (e, r.id) ∧ AllMemSame s t) ∧
    (r.x.op = 0x23 → runReady s e r = true → b.phase = bit r.x.a.toNat 0 → ∃ t, exec .barrierWaitComplete s = .next t ∧ done t ∧
      (∀ i, rdByte t.chip.mem.cells i = rdByte s.chip.mem.cells i) ∧ ∀ n, rdS (getUnit t k.toNat).core n = rdS (getUnit s k.toNat).core n) ∧
    (∀ img tg g, r.x.op = 0x30 → r.chunks = [⟨0, 0, 1, .bound, img, none, []⟩] → r.tag = some (tg, g) → 0 < r.x.rd → r.x.rd < 64 →
      (getUnit s k.toNat).inst.map (fun i => i.serial) = some r.inst →
      ∃ t, exec .taggedReadArrival s = .next t ∧ done t ∧
        (∀ n, rdS (getUnit t k.toNat).core n = if n = r.x.rd then BitVec.ofNat 64 (ofBytes (img.map Prod.fst)) else rdS (getUnit s k.toNat).core n) ∧
        (hmeta (getUnit t k.toNat).core r.x.rd).poison = img.any (fun b => b.2) ∧ tagLive (getUnit t k.toNat).core tg g = false ∧ AllMemSame s t) ∧
    (∀ s1 r1 c s2 psn, getChunk (ask s.arg.n) e s.arg.j s.arg.n = some (s1, r1, c) → chunkTry s1 e r1 c = .ok s2 true psn → arriveOk s2 e r1 = true →
      ∃ t, exec .chunkComplete s = .next t ∧ (∀ z ∈ (getX t e).runs, z.id = r1.id → ∀ d ∈ z.chunks, d.idx ≠ c.idx) ∧
        (r1.x.bar = none → MemSame s2.chip.mem t.chip.mem)) ∧
    (∀ s1 r1 c s2 fia kind img, getChunk (ask s.arg.n) e s.arg.j s.arg.n = some (s1, r1, c) → chunkTry s1 e r1 c = .fault s2 0 fia kind img → kind ≠ fkTimeout →
      ringUsed s2 cl < 2 ^ ringL s2 cl → (getCl s2 cl).ringWait = [] →
      let tail := ringTail s2 cl
      let off := bits (rdCsr (getCl s2 cl).lan.core 0x140).toNat 6 18 * 64 + 64 * (tail % 2 ^ ringL s2 cl)
      ∃ t, exec .memorySideFault s = .next t ∧ ringTail t cl = (tail + 1) % 2 ^ (ringL s2 cl + 1) ∧
        (∃ f, (tail % 2 ^ ringL s2 cl, f) ∈ (getCl t cl).pend ∧ f.eng = e ∧ f.run = r1.id ∧ f.chunk = c.idx ∧ f.kind = kind) ∧
        (off + 64 ≤ clSize → (rdByte t.chip.mem.cells (clBase cl + off)).getLsbD 0 = bit tail (ringL s2 cl)) ∧
        (∀ z ∈ (getX t e).runs, z.id = r1.id → ∀ d ∈ z.chunks, d.idx = c.idx → d.phase = .faulted))

/-! ## The matrix engine -/

/-- R241: SWAP exchanges the active and shadow banks together with their records, and sets loaded and wrow to 0, so that two
SWAPs restore the original banks; ZERO clears every element, the flag plane, the row poison and the status of its tile. -/
def Obligations.SwapAndZero : Prop :=
  let ready := fun (s : State) (c : QCmd) (rest : List QCmd) => let u := getUnit s s.arg.k.toNat
    s.chip.ended = none ∧ engStopped s (.mat s.arg.k) = false ∧ u.mx.q = c :: rest ∧ c.x.isSome = true ∧ c.issued < s.clk ∧
      u.mx.leftAt ≠ some s.clk ∧ c.inst = u.mx.inst ∧ leaveOk u.mx c.ins = true ∧ takeOk u (tokTake (tokOf c.ins)) = true
  let left := fun (s t : State) (c : QCmd) (rest : List QCmd) => let u := getUnit s s.arg.k.toNat
    let w := getUnit t s.arg.k.toNat
    w.mx.q = rest ∧ w.mx.toks.getLast? = some ⟨u.mx.seq, tokGive (tokOf c.ins), c.inst, true, false, c.x⟩ ∧ w.mx.leftAt = some s.clk ∧ AllMemSame s t
  (∀ s c rest f, ready s c rest → c.ins = .swap f → ∃ t, exec .matrixCommandLeave s = .next t ∧ left s t c rest ∧
    let u := getUnit s s.arg.k.toNat
    let w := getUnit t s.arg.k.toNat
    w.mx.act = u.mx.shadow ∧ w.mx.shadow = u.mx.act ∧ w.mx.loaded = false ∧ w.mx.wrow = 0 ∧ w.tiles = u.tiles ∧
      ∀ s2 d rest2 g, ready s2 d rest2 → d.ins = .swap g → s2.arg.k = s.arg.k → (getUnit s2 s.arg.k.toNat).mx.act = w.mx.act →
        (getUnit s2 s.arg.k.toNat).mx.shadow = w.mx.shadow → ∃ t2, exec .matrixCommandLeave s2 = .next t2 ∧
          (getUnit t2 s.arg.k.toNat).mx.act = u.mx.act ∧ (getUnit t2 s.arg.k.toNat).mx.shadow = u.mx.shadow) ∧
  (∀ s c rest f, ready s c rest → c.ins = .zero f → ∃ t, exec .matrixCommandLeave s = .next t ∧ left s t c rest ∧
    let u := getUnit s s.arg.k.toNat
    let w := getUnit t s.arg.k.toNat
    (∀ j, sget {} w.tiles j = if j = f.tile.toNat then {} else sget {} u.tiles j) ∧ w.mx.act = u.mx.act ∧ w.mx.shadow = u.mx.shadow)

/-- R84, R228, R229, R236, R238, R240 to R242: the matrix engine: the head of its queue leaves and a WLD or an MMA starts; one
step of an MMA.V multiplies into its tile and counts; a WLD, an MMA and a DRAIN complete when their time has come; a DRAIN's row
is converted and stored; the tokens that no incomplete command's token precedes fire. -/
def Obligations.MatrixEngine : Prop :=
  ∀ (s : State) (k : UnitIx), s.arg.k = k → s.chip.ended = none → engStopped s (.mat k) = false →
    let u := getUnit s k.toNat
    let mx := u.mx
    let at1 := fun (t : State) => getUnit t k.toNat
    (∀ c rest, mx.q = c :: rest → c.x.isSome = true → c.issued < s.clk → mx.leftAt ≠ some s.clk → c.inst = mx.inst →
      leaveOk mx c.ins = true → takeOk u (tokTake (tokOf c.ins)) = true →
      let tok := fun (d : Bool) => (⟨mx.seq, tokGive (tokOf c.ins), c.inst, d, false, c.x⟩ : MTok)
      let left := fun (t : State) (d : Bool) => (at1 t).mx.q = rest ∧ (at1 t).mx.toks.getLast? = some (tok d) ∧ (at1 t).mx.leftAt = some s.clk
      (∀ f, c.ins = .wld f → ∃ t w, exec .matrixCommandLeave s = .next t ∧ left t false ∧ (at1 t).mx.wld = some w ∧ w.cmd = c ∧ w.row = 1 ∧
        (at1 t).mx.act = mx.act ∧ (at1 t).tiles = u.tiles) ∧
      (∀ f, c.ins = .mmaQ f ∨ c.ins = .mmaV f ∨ c.ins = .mmaR f → ∃ t, exec .matrixCommandLeave s = .next t ∧ left t false ∧
        (at1 t).mx.comp = mx.comp ++ [⟨c, mx.seq, 1, none, false, false, false, false, [], [], false⟩] ∧ (at1 t).tiles = u.tiles ∧ AllMemSame s t)) ∧
    (∀ c f, mx.comp.find? stepsLeft = some c → c.cmd.ins = .mmaV f → mx.stepAt ≠ some s.clk → c.fault = false → c.psnRows = false → 1 ≤ c.step → mx.wrow < 64 →
      mxClass c.cmd.par.fa = some 0 ∨ mxClass c.cmd.par.fa = some 1 ∨ mxClass c.cmd.par.fa = some 2 →
      let cls := (mxClass c.cmd.par.fa).getD 1
      let x := (c.cmd.x.getD (xfer0 0)).data
      let sc := fun (i n : Nat) => ((x[1536 + (if cls = 2 then 2 * i + n / 24 else i)]?).getD 0).toNat
      let av := fun (i : Nat) => scaledElems c.cmd.par.fa (ofBytes ((x.drop (24 * i)).take 24)) (sc i)
      let bv := fun (j : Nat) => scaledElems c.cmd.par.fb (group24 (bankRow mx.act mx.wrow) j) (bScale cls (bankScale mx.act mx.wrow) j)
      let old := sget {} u.tiles f.tile.toNat
      ∃ t, exec .mmaStep s = .next t ∧ (at1 t).mx.wrow = mx.wrow + 1 ∧ (at1 t).mx.act = mx.act ∧ (at1 t).mx.stepAt = some s.clk ∧
        let new := sget {} (at1 t).tiles f.tile.toNat
        (∀ i < 64, ∀ j < 64, sget 0 new.el (64 * i + j) =
          BitVec.ofNat 32 (fstep (sget 0 old.el (64 * i + j)).toNat ((av i).zip (bv j)) ((windowWidth c.cmd.par.w).getD 40)).1) ∧
        new.prog = c.step ∧ new.stop = false ∧ (∀ j, j ≠ f.tile.toNat → sget {} (at1 t).tiles j = sget {} u.tiles j) ∧
        (u.inst.map (fun i => i.serial) = some c.cmd.inst → rdCsr (at1 t).core 3 = rdCsr u.core 3 + 1) ∧
        (∀ d ∈ (at1 t).mx.comp, d.seq = c.seq → d.step = c.step + 1 ∧ d.doneAt = some (s.clk + 130)) ∧ AllMemSame s t) ∧
    (∀ w n, mx.wld = some w → w.doneAt = some n → n ≤ s.clk → let d := (w.cmd.x.map (fun x => x.a)).getD 0
      ∃ t, exec .wldComplete s = .next t ∧ (at1 t).mx.loaded = true ∧ (at1 t).mx.wld = none ∧ (at1 t).mx.shadow.valid = true ∧ (at1 t).mx.shadow.desc = d ∧
        (∀ r, r ≤ d.toNat % 64 → sget 0 (at1 t).mx.shadow.w r = sget 0 mx.shadow.w r) ∧
        (∀ r, d.toNat % 64 < r → sget 0 (at1 t).mx.shadow.w r = 0 ∧ (r < 64 → (at1 t).mx.shadow.poison.getLsbD r = false)) ∧
        (∀ z ∈ (at1 t).mx.toks, z.seq = w.seq → z.done = true) ∧ (at1 t).mx.act = mx.act ∧ AllMemSame s t) ∧
    (∀ c, mx.comp.find? (fun c => isMma c.cmd.ins && c.doneAt.any (fun n => decide (n ≤ s.clk))) = some c →
      ∃ t, exec .mmaComplete s = .next t ∧ (∀ d ∈ (at1 t).mx.comp, d.seq ≠ c.seq) ∧ (∀ z ∈ (at1 t).mx.toks, z.seq = c.seq → z.done = true ∧ z.err = c.psnRows) ∧
        (at1 t).tiles = u.tiles ∧ AllMemSame s t) ∧
    (∀ c, mx.comp.find? (fun c => !isMma c.cmd.ins) = some c →
      (∀ n, c.doneAt = some n → n ≤ s.clk → ∃ t, exec .drainComplete s = .next t ∧ (∀ d ∈ (at1 t).mx.comp, d.seq ≠ c.seq) ∧
        (∀ z ∈ (at1 t).mx.toks, z.seq = c.seq → z.done = true ∧ z.err = c.psnRows) ∧ AllMemSame s t) ∧
      (∀ f x, c.cmd.ins = .drain f → c.cmd.x = some x → c.doneAt = none → c.step < x.a.toNat → ¬(mx.leftAt = some s.clk ∧ mx.seq = c.seq + 1) →
        let p := c.cmd.par
        let bd := fmtW p.fa
        let at0 := unitBase k.toNat + x.dst + 8 * bd * c.step
        let int := decide (7 ≤ p.fa ∧ p.fa ≤ 0x0B)
        ∃ t, exec .drainComplete s = .next t ∧
          (∀ j < 64, rdMem t.chip.mem.cells at0 (8 * bd) / 2 ^ (bd * j) % 2 ^ bd =
            (roundTo p.fa (valOf (if int then 0x0B else 0) (sget 0 (sget {} u.tiles f.tile.toNat).el (64 * c.step + j)).toNat) p.rm).1 % 2 ^ bd) ∧
          (∀ i, ¬(at0 ≤ i ∧ i < at0 + 8 * bd) → rdByte t.chip.mem.cells i = rdByte s.chip.mem.cells i) ∧
          (∀ n, (sget {} (at1 t).tiles n).el = (sget {} u.tiles n).el) ∧ (p.hen = false → (at1 t).hist = u.hist) ∧
          (∀ d ∈ (at1 t).mx.comp, d.seq = c.seq → d.step = c.step + 1 ∧ d.doneAt = if c.step + 1 = x.a.toNat then some (s.clk + 10) else none))) ∧
    (let ready := (mx.toks.takeWhile (fun z => z.done || z.gv.isNone)).filter (fun z => z.gv.isSome);
      s.arg.eng = .mat k → (∀ z ∈ ready, u.inst.map (fun i => i.serial) = some z.inst) →
      ∃ t, exec .engineTokenFire s = .next t ∧ (at1 t).incs = u.incs ++ ready.map (fun z => ⟨z.gv.getD 0, 1, z.err, some ⟨0, 0⟩⟩) ∧
        (∀ y ∈ (at1 t).mx.toks, y.gv.isSome = true → y ∈ mx.toks.dropWhile (fun z => z.done || z.gv.isNone)) ∧
        (at1 t).core = u.core ∧ AllMemSame s t)

/-! ## Asynchronous events of units and Lantern cores -/

/-- R148, R232, R312 to R316: the divider is free once its time has passed; a deferred check stops its unit with its cause; a
Lantern core takes the trap of its lowest stopped unit, and the trap of its ring, where its handler stands. -/
def Obligations.AsynchronousTraps : Prop :=
  ∀ (s : State), s.chip.ended = none →
    (let k := s.arg.k.toNat;
      (getUnit s k).divFree ≤ s.clk → ∃ t, exec .dividerFree s = .next t ∧ getUnit t k = { getUnit s k with divFree := 0 } ∧
        (∀ j, j ≠ k → getUnit t j = getUnit s j) ∧ AllMemSame s t) ∧
    (∀ d r, let k := s.arg.k.toNat;
      (getUnit s k).dfr = d :: r → (getUnit s k).stop = none →
      ∃ t, exec .deferredCheckTrap s = .next t ∧ (getUnit t k).dfr = r ∧ (getUnit t k).stop = some ⟨d.cause, d.slot, d.val % 2 ^ 21, true, false⟩ ∧
        (∀ n, rdS (getUnit t k).core n = rdS (getUnit s k).core n) ∧ (getUnit t k).core.pc = (getUnit s k).core.pc) ∧
    (let m := s.arg.m.toNat
      let c := (getCl s m).lan.core
      let taken := fun (t : State) (cause val : Nat) =>
        (getCl t m).lan.core.pc = bits (rdCsr c 0xA0).toNat 2 19 * 4 ∧ rdCsr (getCl t m).lan.core 0xA1 = BitVec.ofNat 64 (2 ^ 31 + cause) ∧
        rdCsr (getCl t m).lan.core 0xA4 = BitVec.ofNat 64 val ∧ rdCsr (getCl t m).lan.core 0xA2 = BitVec.ofNat 64 (bits c.pc 2 19 * 4) ∧
        (getCl t m).lan.core.delay = none ∧ (∀ r, rdS (getCl t m).lan.core r = rdS c r)
      frozen s = false → (getCl s m).lan.on = true → hm c = false → c.after = none → (getCl s m).lan.wait = none → trapEn c = true →
      (∀ j x, j < 8 → (getUnit s (8 * m + j)).stop = some x → x.told = false → (∀ i < j, ∀ y, (getUnit s (8 * m + i)).stop = some y → y.told = true) →
        ∃ t, exec .unitTrap s = .next t ∧ taken t 0x15 ((if x.dfr then 2 ^ 63 else 0) + x.cause % 256 * 2 ^ 32 + x.slot % 8 * 2 ^ 24 + j * 2 ^ 21 + x.addr % 2 ^ 21) ∧
          (getUnit t (8 * m + j)).stop = some { x with told := true }) ∧
      ((getCl s m).lan.ring = true → ringUsed s m ≠ 0 → ∃ t, exec .ringTrap s = .next t ∧ taken t 0x10 (ringTail s m) ∧ (getCl t m).lan.ring = false))

/-! ## Tasks and contexts -/

/-- R90, R276, R293, R295, R299, R302 to R307: the scoreboard of a cluster: the ready task of the highest priority sends its
next instance to a free unit, which starts after its header with its word in s1; a queued post and a child enter the window; a
watched token satisfies its slot; commit copies start and end; an instance that has drained counts; a task that can be freed
leaves, and the token it produces fires. -/
def Obligations.ScoreboardEvents : Prop :=
  ∀ (s : State), s.chip.ended = none →
    let m := s.arg.m.toNat
    let c := getCl s m
    (∀ t x, nextDispatch s m = some (t, x) → (∀ q ∈ c.tasks, (q.st = .ready ∨ q.st = .issuing) → slotFor s m q ≠ none → effPrio c q ≤ effPrio c t) ∧
      t ∈ c.tasks ∧ slotFor s m t = some x) ∧
    (∀ t j, nextDispatch s m = some (t, .unit j) → let u := getUnit s (8 * m + j)
      ∃ n i, exec .taskDispatch s = .next n ∧ let w := getUnit n (8 * m + j)
        w.inst = some i ∧ i.task = t.serial ∧ i.serial = c.runId ∧ i.entry = imEntry t.post.img.toNat * 4 ∧ i.first = true ∧
        w.core.pc = (i.entry + 4) % 2 ^ 21 ∧ (∀ r, rdS w.core r = if r = 1 then BitVec.ofNat 64 (imWid t.post.img.toNat t.next) else 0) ∧
        w.v = [] ∧ w.m = [] ∧ w.core.md = [] ∧ w.flight = [] ∧ w.sems = [] ∧ w.loops = [] ∧ w.tiles = u.tiles ∧ w.hist = u.hist ∧
        (∀ q ∈ (getCl n m).tasks, q.serial = t.serial → q.st = .draining ∨ q.st = .issuing) ∧
        (getCl n m).tasks.map (fun q => (q.serial, q.next)) = c.tasks.map (fun q => (q.serial, if q.serial = t.serial then q.next + 1 else q.next)) ∧
        (∀ k, k ≠ 8 * m + j → getUnit n k = getUnit s k)) ∧
    (∀ o p, ovfNext c = some (o, p) → ∃ t, exec .overflowQueueEntry s = .next t ∧
      (getCl t m).tasks.map (fun q => (q.serial, q.post)) = c.tasks.map (fun q => (q.serial, q.post)) ++ [(c.serial, p)] ∧
      ovfQ (getCl t m) o = (ovfQ c o).drop 1 ∧ (∀ k, k ≠ o → ovfQ (getCl t m) k = ovfQ c k) ∧ AllMemSame s t) ∧
    (∀ key p, c.child.find? (fun p => p.1 == s.arg.j) = some (key, p) → p.id = 0 → 1 ≤ p.origin → p.origin ≤ 8 →
      (∃ r ∈ (getUnit s (8 * m + (p.origin - 1))).uce0.runs ++ (getUnit s (8 * m + (p.origin - 1))).uce1.runs, r.x.op = 0x28 ∧ r.x.post = key) →
      placeOf c p.origin (postRegs p).length = 0 → bit (imTok p.img.toNat 3) 47 = false →
      ∃ t q, exec .postEntry s = .next t ∧ (∀ y ∈ (getCl t m).child, y.1 ≠ key) ∧
        (getCl t m).tasks.map (fun q => q.serial) = c.tasks.map (fun q => q.serial) ++ [c.serial] ∧
        (getCl t m).tasks.getLast? = some q ∧ q.post.img = p.img ∧ AllMemSame s t) ∧
    (∀ key p, (watched c).find? (fun x => x.1 == s.arg.j) = some (key, p) → let n := s.arg.n % 3
      let h := imTok p.img.toNat n
      let a := handleAt s.partMod h
      bit h 47 = true → p.sat.getD n true = false → a.1 = s.partMod → (getTok s a.2.1 a.2.2).fired = true →
      ∃ z, exec .tokenWatch s = .next z ∧ (∀ q ∈ (getCl z m).tasks, q.serial = key → q.post.sat.getD n true = true) ∧
        (∀ x ∈ (getCl z m).ovf, ∀ y ∈ x.2, y.id = key → y.sat.getD n true = true) ∧ AllMemSame s z) ∧
    (∀ t y e, (commitsReady s m).find? (fun p => p.1.serial == s.arg.j && p.2.idx == s.arg.n) = some (t, y) →
      [Eng.cce s.arg.m 0, Eng.cce s.arg.m 1].find? (engFree s) = some e →
      ∃ z r, exec .commitCopyStart s = .next z ∧ (getX z e).runs = (getX s e).runs ++ [r] ∧ r.x.op = 0x40 ∧ r.task = some t.serial ∧
        r.x.dst = tBaseIa s m (tensorOf s m y.tid) ∧ r.x.src = fullIa s (clBase m + y.buf.getD 0) ∧ r.done = false ∧ AllMemSame s z) ∧
    (∀ r k, findRun s s.arg.eng s.arg.j = some r → r.task = some k → r.x.op = 0x40 → r.done = true →
      ∃ z, exec .commitCopyComplete s = .next z ∧ (∀ q ∈ (getCl z (Eng.cl s.arg.eng)).tasks, q.serial = k → ∀ y ∈ q.regs, y.idx = r.x.a.toNat → y.committed = true) ∧
        AllMemSame s z) ∧
    (∀ k p, s.arg.eng = .stream k → (getUnit s k.toNat).tracker.find? (fun p => p.1 == s.arg.j) = some p → outstanding s k.toNat p.1 = false →
      ∃ z, exec .instanceDrain s = .next z ∧ (∀ q ∈ (getUnit z k.toNat).tracker, q.1 ≠ p.1) ∧
        (getCl z (k.toNat / 8)).tasks.map (fun q => (q.serial, q.drained)) =
          (getCl s (k.toNat / 8)).tasks.map (fun q => (q.serial, if q.serial = p.2 then q.drained + 1 else q.drained)) ∧ AllMemSame s z) ∧
    (∀ t, c.tasks.find? (fun t => t.serial == s.arg.j) = some t → taskFreeable c t = true → let h := imTok t.post.img.toNat 3
      let a := (handleAt s.partMod h).2
      (bit h 47 = true → (handleAt s.partMod h).1 = s.partMod) →
      ∃ z, exec .taskFree s = .next z ∧ (∀ q ∈ (getCl z m).tasks, q.serial ≠ t.serial) ∧
        (bit h 47 = true → getTok z a.1 a.2 = ⟨true, min 65535 ((getTok s a.1 a.2).cnt + 1)⟩) ∧ AllMemSame s z)

/-- R317, R323 to R325, R330, R331: a gang switch stops the job at its instant (a Lantern word that traps there first), saves
its context once it is quiet, restores the incoming one, and starts it 40 microseconds after the instant; a deferred request is
sent again; a traced unit writes its sample. where the sampling period expires and one traced unit of the module runs, its
record of type 0 with the time, its number and its pc goes to the path to the trace buffer, or is counted as dropped where that
path is full. -/
def Obligations.ContextAndTrace : Prop :=
  (∀ (s : State), s.chip.trace.period = 0 →
      (∀ n t0 rest, s.cp.switch = none → s.cp.gang = (t0, n) :: rest → t0 ≤ ptp s →
        (∀ m ∈ liveClusters s, lanRuns s m = true → lanTraps s m = false) →
        (∀ p ∈ s.outst, p.2.job = s.chip.slot → p.2.deferred = true → keepsDeferred p.2 = true) → ∃ t, exec .gangSwitch s = .next t ∧
        t.cp.gang = rest ∧ t.cp.gangLast = t0 ∧ t.cp.switch = some ⟨t0, s.chip.slot, n, 0⟩ ∧ frozen t = true ∧ t.chip = s.chip ∧ t.images = s.images ∧ AllMemSame s t) ∧
      (∀ w, s.cp.switch = some w → w.phase = 0 → quiesced s = true → s.cp.jobs.any (fun p => p.1 == w.out) = true →
        ∃ t img, exec .gangSwitch s = .next t ∧ t.cp.switch = some { w with phase := 1 } ∧ (w.out, img) ∈ t.images ∧
          img.mem = s.chip.mem ∧ img.clusters = s.chip.clusters ∧ img.slot = s.chip.slot ∧
          (∀ k, ((img.units.find? (fun p => p.1 == k)).map (fun p => (p.2.core, p.2.v, p.2.m, p.2.queues, p.2.loops))) =
            (s.chip.units.find? (fun p => p.1 == k)).map (fun p => (p.2.core, p.2.v, p.2.m, p.2.queues, p.2.loops))) ∧ t.chip = s.chip) ∧
      (∀ w c, s.cp.switch = some w → w.phase = 1 → s.images.find? (fun p => p.1 == w.inn) = some (w.inn, c) →
        ∃ t, exec .contextRestore s = .next t ∧ t.cp.switch = some { w with phase := 2 } ∧ t.chip.units = c.units ∧ t.chip.slot = c.slot ∧
          (c.clusters = [] → t.chip = c) ∧ ∀ p ∈ t.images, p.1 ≠ w.inn) ∧
      (∀ w, s.cp.switch = some w → w.phase = 2 → w.t + 40000 ≤ ptp s → s.chip.trace.queue = [] → ∃ t, exec .jobStart s = .next t ∧ t.cp.switch = none ∧
        ∀ m r, rdS (getCl t m).lan.core r = rdS (getCl s m).lan.core r) ∧
      (∀ rid o m, s.outst.find? (fun p => p.1 == s.arg.j) = some (rid, o) → o.deferred = true → o.since + 1000 ≤ ptp s → frozen s = false →
        o.job = s.chip.slot → (∀ p ∈ s.outst, sameFlow p.2 o = true → o.seq ≤ p.2.seq) → o.who = .arm m → o.pkt.dmod.toNat ≠ s.partMod →
        ∃ t o2, exec .deferredReissue s = .next t ∧ (rid, o2) ∈ t.outst ∧ o2.deferred = false ∧ o2.since = ptp s ∧ o2.pkt = o.pkt ∧ AllMemSame s t)) ∧
  (∀ (s : State) (k : UnitIx), s.chip.trace.period ≠ 0 → s.clk % s.chip.trace.period = 0 → frozen s = false → s.chip.ended = none →
      liveUnits s = [k.toNat] → liveClusters s = [] → issues s k.toNat = true → s.chip.trace.units.getLsbD (k.toNat / 8) = true →
      sget 0 s.chip.trace.lost k.toNat = 0 →
      let r := ptp s % 2 ^ 48 * 2 ^ 80 + k.toNat * 2 ^ 67 + (getUnit s k.toNat).core.pc % 2 ^ 21 * 2 ^ 21
      (s.chip.trace.queue.length < 64 → exec .traceSample s =
        .next (traceGo 65 (modTrace s (fun c => { c with queue := c.queue ++ [(k.toNat, k.toNat / 8, BitVec.ofNat 128 r)] })))) ∧
      (64 ≤ s.chip.trace.queue.length → exec .traceSample s = .next (traceLost s k.toNat 1)) ∧
      sget 0 (traceLost s k.toNat 1).chip.trace.lost k.toNat = 1)

/-- R318: a unit freezes and resumes in handler mode as it was, and a pre-emption does not change its trap CSRs: they stand as
they were after the switch instant, in what is saved, in what is restored, and when the job's agents start. -/
def Obligations.HandlerModeKept : Prop :=
  ∀ (s t : State) (k n : Nat), 0xA0 ≤ n → n ≤ 0xA4 →
    let csr := fun (c : Chip) => rdCsr (sget {} c.units k).core n
    (exec .gangSwitch s = .next t → csr t.chip = csr s.chip) ∧
    (∀ w img, exec .gangSwitch s = .next t → s.cp.switch = some w → w.phase = 0 → quiesced s = true → s.cp.jobs.any (fun p => p.1 == w.out) = true →
      t.images.find? (fun p => p.1 == w.out) = some (w.out, img) → csr img = csr s.chip) ∧
    (∀ w img, exec .contextRestore s = .next t → s.cp.switch = some w → w.phase = 1 → s.images.find? (fun p => p.1 == w.inn) = some (w.inn, img) →
      csr t.chip = csr img) ∧
    (exec .jobStart s = .next t → csr t.chip = csr s.chip)

/-! ## The remote page cache and the retry ring -/

/-- R33 to R37: a fill of a page in host memory brings 2 KiB at a time, from the chunk first asked for, and makes their lines
present; one that faults installs nothing and each access that waits takes the fault; an eviction writes the dirty lines back,
frees the way and gives it to the page that took it; a snoop cleans or drops its line; a maintenance operation acts on the
granules of its range, and ends when every write-back is answered; no other byte of HBM changes but the tag of a granule that
changes. -/
def Obligations.PageCacheEvents : Prop :=
  ∀ (s : State),
    let j := s.arg.j
    let g := getGr s j
    let m := s.arg.m.toNat
    let csr := fun (n : Nat) => bits (rdCsr (getCl s m).lan.core n).toNat 13 33
    let rng := (s.rpc.filter (fun p => p.2.slot == s.chip.slot && decide (csr 0x130 ≤ p.2.page) && decide (p.2.page < csr 0x131) && p.2.state != 0)).map Prod.fst
    let tag := fun (k i : Nat) => rpcTagAt s k ≤ i ∧ i < rpcTagAt s k + 64
    let kept := fun (t : State) (w : Nat → Prop) => ∀ i, ¬ w i → rdByte t.hbm.cells i = rdByte s.hbm.cells i ∧ psnAt t.hbm i = psnAt s.hbm i
    let others := fun (t : State) (k : Nat) => ∀ i, i ≠ k → getGr t i = getGr s i
    let rest := fun (t : State) => MemSame s.chip.mem t.chip.mem ∧ MemSame s.host t.host
    let page := fun (k : AKind) => egress s g.slot (slotPasid s g.slot) (g.page * 8192) k
    let fails := fun (t : State) (f : Nat) => getGr t j = {} ∧ others t j ∧ t.rpcFail = s.rpcFail ++ g.waits.map (fun w => (g.slot, w, g.page, f)) ∧
      kept t (tag j) ∧ rest t
    (∀ a, g.state = 1 → g.step ≠ 4 → g.frame = rpcFrame s j → page .rd = .ok (.host a) → let o := 2048 * ((g.ask / 2048 + g.step) % 4)
      ∃ t, exec .rpcFillComplete s = .next t ∧ if Config.hostError s.fclk a then fails t fkHost else
        getGr t j = { g with step := g.step + 1, host := true, hostAt := a, lvalid := g.lvalid ||| lineMask o 2048 } ∧
        (∀ i < 2048, rdByte t.hbm.cells (g.frame + o + i) = rdByte s.host.cells (a + o + i)) ∧
        kept t (fun i => tag j i ∨ (g.frame + o ≤ i ∧ i < g.frame + o + 2048)) ∧ others t j ∧ rest t) ∧
    (g.state = 1 → g.step = 4 → g.rids = [] → ∃ t, exec .rpcFillComplete s = .next t ∧
      getGr t j = { g with state := 2, ask := 0, step := 0, waits := [] } ∧ others t j ∧ kept t (tag j) ∧ rest t) ∧
    (∀ f, g.state = 1 → g.step ≠ 4 → page .rd = .fault f → ∃ t, exec .rpcFillComplete s = .next t ∧ fails t f) ∧
    (g.state = 3 → g.dirty = 0 → g.rids = [] → ∃ t, exec .rpcEviction s = .next t ∧ others t j ∧ kept t (tag j) ∧ rest t ∧
      getGr t j = match g.next with | some (slot, page) => newFill s j slot page g.ask g.waits | none => {}) ∧
    (∀ a, g.state = 3 → g.dirty ≠ 0 → g.rids = [] → page .wr = .ok (.host a) → ∃ t, exec .rpcEviction s = .next t ∧
      (getGr t j).dirty = 0 ∧ others t j ∧ kept t (tag j) ∧
      if Config.hostError s.fclk a then MemSame s.host t.host ∧ t.wbLoss = true else
        (∀ i < 8192, rdByte t.host.cells (a + i) = if g.dirty.getLsbD (i / 64) then rdByte s.hbm.cells (g.frame + i) else rdByte s.host.cells (a + i)) ∧
        (∀ i, ¬(a ≤ i ∧ i < a + 8192) → rdByte t.host.cells i = rdByte s.host.cells i)) ∧
    (∀ n h, s.rpc = [(n, h)] → h.host = true → h.hostAt / 8192 = s.arg.v.toNat / 8192 → let i := s.arg.v.toNat % 8192 / 64
      ∃ t, exec .hostSnoop s = .next t ∧ kept t (tag n) ∧
        (∀ l < 128, (getGr t n).dirty.getLsbD l = (h.dirty.getLsbD l && decide (l ≠ i))) ∧
        (∀ l < 128, (getGr t n).lvalid.getLsbD l = (h.lvalid.getLsbD l && !(s.arg.flag && decide (l = i)))) ∧
        (h.dirty.getLsbD i = true → h.lvalid.getLsbD i = true →
          ∀ x < 64, rdByte t.host.cells (s.arg.v.toNat / 64 * 64 + x) = rdByte s.hbm.cells (h.frame + 64 * i + x))) ∧
    (∀ p ∈ ([(.rpcWriteBack, 1), (.rpcInvalidate, 2), (.rpcWriteBackInvalidate, 3)] : List (Instr × Nat)),
      (getCl s m).lan.rpcOp = 0 → (∀ i ∈ rng, (getGr s i).state = 2 ∧ (getGr s i).rids = [] ∧ (getGr s i).dirty = 0) →
      ∃ t, exec p.1 s = .next t ∧ (getCl t m).lan.rpcOp = p.2 + 4 ∧
        (∀ i, getGr t i = if p.2 ≠ 1 ∧ i ∈ rng then {} else getGr s i) ∧ kept t (fun a => ∃ i ∈ rng, tag i a) ∧ rest t) ∧
    (4 ≤ (getCl s m).lan.rpcOp → (∀ i ∈ rpcRange s m, (getGr s i).state ≠ 1 → (getGr s i).rids = []) →
      ∃ t, exec .rpcOpDone s = .next t ∧ (getCl t m).lan.rpcOp = 0 ∧ (∀ i, getGr t i = getGr s i) ∧ AllMemSame s t)

/-- R105, R106, R108, R113: settling a pending entry of a copy engine's chunk: WRITE sends its held bytes to the destination,
SUPPLY those of a buffer, POISON bytes that are poisoned; an entry that is not pending is rejected; a write to ring.head
consumes settled entries up to the first that is pending. -/
def Obligations.RingSettlement : Prop :=
  ∀ (s : State) (f : FaultRec),
    let m := s.arg.m.toNat
    let v := s.arg.v.toNat
    let pos := v / 4 % 1024
    let buf := v / 2 ^ 40
    let phase := fun (t : State) (p : CPhase) (img : List (Byte × Bool)) =>
      ∀ r ∈ (getX t f.eng).runs, r.id = f.run → ∀ c ∈ r.chunks, c.idx = f.chunk → c.phase = p ∧ c.img = img
    let settled := fun (t : State) => pendAt t m pos = none
    (pendAt s m pos = none → ∀ p ∈ [Instr.ringCmpWrite, .ringCmpSupply, .ringCmpPoison], bit (rdCsr (getCl s m).lan.core 0x141).toNat 31 = false →
      ∃ t, exec p s = .next t ∧ rdCsr (getCl t m).lan.core 0x141 = BitVec.ofNat 64 ((rdCsr (getCl s m).lan.core 0x141).toNat % 2 ^ 28 + 2 ^ 28 + 2 ^ 31) ∧
        AllMemSame s t) ∧
    (pendAt s m pos = some f → isAcc s f = false → f.cls ≠ 7 → (∃ k q, f.eng = .uce k q) →
      (f.held = true → ∃ t, exec .ringCmpWrite s = .next t ∧ settled t ∧ phase t .bound (holdImg s f) ∧ AllMemSame s t) ∧
      (f.cls = 0 ∨ f.cls = 1 ∨ f.cls = 4 → buf % 64 = 0 → buf + f.img ≤ clSize →
        ∃ t img, exec .ringCmpSupply s = .next t ∧ settled t ∧ phase t .bound img ∧
          img.map Prod.fst = (List.range f.img).map (fun i => rdByte s.chip.mem.cells (clBase m + buf + i))) ∧
      (f.cls = 5 ∨ f.cls = 6 → ∃ t img, exec .ringCmpPoison s = .next t ∧ settled t ∧ phase t .bound img ∧ img.length = f.img ∧
        (∀ b ∈ img, b.2 = true) ∧ AllMemSame s t)) ∧
    (∀ k, pendAt s m pos = some f → f.eng = .mat k → f.cls = 7 → isAcc s f = false → ∃ t, exec .ringCmpPoison s = .next t ∧ settled t ∧
      (∀ c ∈ (getUnit t k.toNat).mx.comp, c.seq = f.run → c.fault = false ∧ c.psnRows = true) ∧ AllMemSame s t) ∧
    (let n := v % 2 ^ 11 % 2 ^ (ringL s m + 1)
      let ahead := (n + 2 ^ (ringL s m + 1) - ringHead s m) % 2 ^ (ringL s m + 1)
      (getCl s m).ringWait = [] → (∀ i < ahead, pendAt s m ((ringHead s m + i) % 2 ^ ringL s m) = none) →
      ∃ t, exec .ringHeadWrite s = .next t ∧ ringHead t m = n ∧ ringTail t m = ringTail s m ∧ AllMemSame s t)

/-! ## The command processor -/

/-- R356 to R359, R363, R367, R368: the queues of the command processor. A doorbell or a write to a tail word sets the tail of a
bound queue, or halts it with OVERRUN; a doorbell of an absent queue is dropped and counted, one of a queue paged out is held
pending; a fetch takes the packet at the head and writes the head count; a completion record is one write of 16 bytes; an empty
queue leaves its slot; a parked queue whose condition has held is walked and bound again, and its WAIT completes; a reset drops
what has not started, aborts what its drives do and leaves the head at zero. That the head count is written as eight bytes is
the model's choice (log entry 31). -/
def Obligations.CommandQueues : Prop :=
  ∀ (s : State) (j : Nat) (b : BoundQ),
    let v := s.arg.v.toNat
    let size := 2 ^ qdLsz b.desc
    let parked := fun (t : State) (pasid q : Nat) => t.cp.parked.any (fun p => p.pasid == pasid && p.q == q)
    (∀ i < 4096, bar0 s (0x8000 + 8 * i) = sget 0 s.cp.signals i) ∧
    (s.svc.ready = true → s.arg.n = 0 → exec .hostRegisterWrite s = .next { s with cp := { s.cp with qroot := s.arg.v &&& 0xFFFFFFFFFFFFF001 } }) ∧
    (s.svc.ready = true → bit s.cp.qroot.toNat 0 = true → resetRuns s (bits v 44 20) (bits v 38 6) = false →
      slotOfQ s (bits v 44 20) (bits v 38 6) = some (j, b) → s.cp.slots.find? (fun p => p.1 == j) = some (j, b) → qdDev b.desc = false → b.halted = false →
      b.pasid = bits v 44 20 → b.q = bits v 38 6 →
      ((bits v 0 16 + 65536 - b.head) % 65536 ≤ size → ∃ t i, exec .doorbell s = .next t ∧
        (∀ d, sget d t.cp.slots j = { b with tail := bits v 0 16, idle := i }) ∧ t.cp.recs = s.cp.recs ∧ AllMemSame s t) ∧
      (size < (bits v 0 16 + 65536 - b.head) % 65536 → ∃ t r, exec .doorbell s = .next t ∧ (∀ d, (sget d t.cp.slots j).halted = true) ∧
        t.cp.recs = s.cp.recs ++ [r] ∧ r.st = 7 ∧ r.tag = hostNum s (qdRing b.desc + 64 * (b.head % size) + 4) 4 ∧ AllMemSame s t)) ∧
    (s.svc.ready = true → bit s.cp.qroot.toNat 0 = true → resetRuns s (bits v 44 20) (bits v 38 6) = false →
      slotOfQ s (bits v 44 20) (bits v 38 6) = none → staysParked s (bits v 44 20) (bits v 38 6) = false →
      let e := hostNum s (bits s.cp.qroot.toNat 12 52 * 4096 + 8 * bits v 44 20) 8
      (bit e 0 = false → ∃ t, exec .doorbell s = .next t ∧ t.svc.drop = min 65535 (s.svc.drop + 1) ∧ t.cp.slots = s.cp.slots ∧ AllMemSame s t) ∧
      (bit e 0 = true → bit e 1 = false → ∃ t, exec .doorbell s = .next t ∧ t.svc = s.svc ∧ t.cp.slots = s.cp.slots ∧
        BitVec.ofNat 64 (bits v 44 20 * 2 ^ 44 + bits v 38 6 * 2 ^ 38) ∈ t.cp.doorPend ∧ t.cp.msix = s.cp.msix ||| 1 ∧ AllMemSame s t)) ∧
    (∀ slot job x u, let p := s.arg.ref
      s.cp.tailw.contains (p.pasid.toNat, p.queue.toNat, s.arg.j) = true → resetRuns s p.pasid.toNat p.queue.toNat = false →
      slotOfQ s p.pasid.toNat p.queue.toNat = some (j, b) → s.cp.slots.find? (fun p => p.1 == j) = some (j, b) → qdDev b.desc = true →
      b.halted = false → jobOf s b.pasid = some (slot, job) → cpAccess s slot b.pasid (qdTailw b.desc) 8 none = .ok x u →
      (ofBytes (x.map Prod.fst) % 65536 + 65536 - b.head) % 65536 ≤ size →
      ∃ t i, exec .tailWordWrite s = .next t ∧ ∀ d, sget d t.cp.slots j = { b with tail := ofBytes (x.map Prod.fst) % 65536, idle := i }) ∧
    (s.cp.slots.find? (fun p => p.1 == s.arg.j) = some (j, b) → b.halted = false → resetRuns s b.pasid b.q = false → b.held = none → b.ind = [] →
      b.head ≠ b.tail → (openCmds s (cmdRef b.pasid b.q)).any (fun c => cpOp c.p == 0x04) = false → qdDev b.desc = false →
      let p := cpPacketOf (hostRead s (qdRing b.desc + 64 * (b.head % size)) 64)
      let b1 : BoundQ := { b with head := (b.head + 1) % 65536, idle := ptp s }
      (opAssigned (cpOp p) = true → ∃ t, exec .commandFetch s = .next t ∧ (∀ d, sget d t.cp.slots j = { b1 with held := some p }) ∧
        hostNum t (qdHeadw b.desc) 8 = (b.head + 1) % 65536 ∧ t.cp.recs = s.cp.recs ∧ t.cp.cmds = s.cp.cmds ∧ t.cp.rr = (j + 1) % 64) ∧
      (opAssigned (cpOp p) = false → fenced s (cmdRef b.pasid b.q) p = false → ∃ t, exec .commandFetch s = .next t ∧
        (∀ d, sget d t.cp.slots j = { b1 with held := none }) ∧ hostNum t (qdHeadw b.desc) 8 = (b.head + 1) % 65536 ∧
        t.cp.recs = s.cp.recs ++ [cpRec { s with arg := { s.arg with cp := p } } b 1 0] ∧ t.cp.cmds = s.cp.cmds)) ∧
    (∀ r, s.cp.recs[s.arg.j]? = some r → r.val < 2 ^ 64 → r.tag < 2 ^ 32 → r.st < 256 →
      (r.addr = 0 ∨ r.dev = false) → ∃ t, exec .completionRecordWrite s = .next t ∧ t.cp.recs = s.cp.recs.eraseIdx s.arg.j ∧
        t.cp.msix = (match r.irq with | some w => s.cp.msix ||| BitVec.ofNat 64 (2 ^ (w % 64)) | none => s.cp.msix) ∧
        (r.addr = 0 → AllMemSame s t) ∧
        (r.addr ≠ 0 → hostNum t r.addr 16 = r.val * 2 ^ 64 + r.tag * 2 ^ 32 + r.st ∧
          ∀ x, x < r.addr ∨ r.addr + 16 ≤ x → rdByte t.host.cells x = rdByte s.host.cells x)) ∧
    (s.cp.slots.find? (fun p => p.1 == s.arg.j) = some (j, b) → b.head = b.tail → b.halted = false → b.ind = [] → b.held = none →
      b.idle + 64000 ≤ ptp s → s.cp.binds = [] → ∃ t, exec .queueUnbind s = .next t ∧ (∀ p ∈ t.cp.slots, p.1 ≠ j) ∧
        hostNum t (b.at0 + 28) 2 = b.head % 65536 ∧ bit (rdByte t.host.cells b.at0).toNat 3 = false) ∧
    (∀ p i, let r := s.arg.ref
      s.cp.parked.find? (fun p => p.pasid == r.pasid.toNat && p.q == r.queue.toNat) = some p → p.met = true → s.cp.binds = [] → freeSlot s = some i →
      doorHeld s r.pasid.toNat r.queue.toNat = false →
      (∀ a x u, walkQueue s r.pasid.toNat r.queue.toNat = (.found a x, u) → qdDev x = false →
        (sget (qdHead x) s.cp.tails (refKey r.pasid.toNat r.queue.toNat) % 65536 + 65536 - qdHead x) % 65536 ≤ 2 ^ qdLsz x →
        ∃ t z, exec .waitWakeup s = .next t ∧ parked t r.pasid.toNat r.queue.toNat = false ∧
          (∀ d, (sget d t.cp.slots i).pasid = r.pasid.toNat ∧ (sget d t.cp.slots i).q = r.queue.toNat ∧ (sget d t.cp.slots i).desc = x ∧
            (sget d t.cp.slots i).head = qdHead x) ∧
          t.cp.recs = s.cp.recs ++ [z] ∧ z.st = 0 ∧ z.tag = bits p.pkt.q0.toNat 32 32 ∧ z.addr = p.pkt.q7.toNat ∧
          bit (rdByte t.host.cells a).toNat 3 = false) ∧
      (∀ u, walkQueue s r.pasid.toNat r.queue.toNat = (.away, u) → ∃ t, exec .waitWakeup s = .next t ∧ t.cp.parked = s.cp.parked ∧
        t.cp.slots = s.cp.slots ∧ doorHeld t r.pasid.toNat r.queue.toNat = true ∧ t.cp.msix = s.cp.msix ||| 1)) ∧
    (s.svc.ready = true → resetRuns s (bits v 44 20) (bits v 38 6) = false → bit v 0 = true →
      slotOfQ s (bits v 44 20) (bits v 38 6) = some (j, b) → (openCmds s (cmdRef (bits v 44 20) (bits v 38 6))).any (fun c => cpOp c.p == 0x01) = false →
      ∃ t, exec .queueReset s = .next t ∧ resetRuns t (bits v 44 20) (bits v 38 6) = true ∧ parked t (bits v 44 20) (bits v 38 6) = false ∧
        (∀ d, sget d t.cp.slots j = { b with held := none, ind := [], halted := true }) ∧ t.cp.recs = s.cp.recs ∧
        t.cp.cmds = (s.cp.cmds.filter (fun d => !(d.r == cmdRef (bits v 44 20) (bits v 38 6) && cpOp d.p == 0x04))).map (fun d =>
          if d.r = cmdRef (bits v 44 20) (bits v 38 6) ∧ (cpOp d.p = 0x20 ∨ cpOp d.p = 0x21) then { d with abort := true } else d) ∧ AllMemSame s t) ∧
    (s.svc.ready = true → resetRuns s (bits v 44 20) (bits v 38 6) = true → openCmds s (cmdRef (bits v 44 20) (bits v 38 6)) = [] →
      s.cp.recs.any (fun x => x.r == cmdRef (bits v 44 20) (bits v 38 6)) = false → slotOfQ s (bits v 44 20) (bits v 38 6) = some (j, b) → s.cp.binds = [] →
      ∃ t, exec .queueReset s = .next t ∧ resetRuns t (bits v 44 20) (bits v 38 6) = false ∧ (∀ p ∈ t.cp.slots, p.1 ≠ j) ∧ hostNum t (b.at0 + 28) 2 = 0)

/-- R360, R363, R365: NOP completes; SIGNAL sets a signal of its job or adds to it; a WAIT whose condition holds completes, and
any other parks its queue; INDIRECT puts its packets at its place and completes once the last has started, a WAIT that parks
too, and is ABORTED for an ended job; an index outside the job's range, a count out of range and an INDIRECT in an INDIRECT are
REJECT. -/
def Obligations.SignalCommands : Prop :=
  ∀ (s : State) (j : Nat) (b : BoundQ),
    let p := s.arg.cp
    let i := p.q1.toNat
    let x := sget 0 s.cp.signals i
    let holds := (p.q3 = 0 ∧ p.q2.toNat ≤ x.toNat) ∨ (p.q3 = 1 ∧ x = p.q2) ∨ (p.q3 = 2 ∧ x ≠ p.q2)
    (CpStarts s 0x00 [] j b → exec .nop s = .next (cpOnly s j b 0 0)) ∧
    (∀ slot job, jobOf s b.pasid = some (slot, job) → CpStarts s 0x03 [lowBits 12, q64, 1] j b →
      (¬(job.sig0 ≤ i ∧ i < job.sig0 + job.sigN) → exec .signal s = .next (cpOnly s j b 1 0)) ∧
      (job.sig0 ≤ i → i < job.sig0 + job.sigN → ∃ t, exec .signal s = .next t ∧ CpDone s t j b 0 0 ∧ AllMemSame s t ∧
        (∀ k, sget 0 t.cp.signals k = if k = i then (if p.q3 = 0 then p.q2 else x + p.q2) else sget 0 s.cp.signals k) ∧ t.chip = s.chip)) ∧
    (∀ slot job, jobOf s b.pasid = some (slot, job) → CpStarts s 0x02 [lowBits 12, q64, 3] j b →
      ((p.q3 = 3 ∨ ¬(job.sig0 ≤ i ∧ i < job.sig0 + job.sigN)) → exec .wait s = .next (cpOnly s j b 1 0)) ∧
      (p.q3 ≠ 3 → job.sig0 ≤ i → i < job.sig0 + job.sigN → holds → exec .wait s = .next (cpOnly s j b 0 0)) ∧
      (p.q3 ≠ 3 → job.sig0 ≤ i → i < job.sig0 + job.sigN → ¬holds → s.cp.binds = [] → ∃ t w, exec .wait s = .next t ∧ (∀ q ∈ t.cp.slots, q.1 ≠ j) ∧
        t.cp.parked = s.cp.parked ++ [w] ∧ w.pasid = b.pasid ∧ w.q = b.q ∧ w.sig = i ∧ w.val = p.q2 ∧ w.cond = p.q3.toNat ∧ w.pkt = p ∧ w.met = false ∧
        t.cp.recs = s.cp.recs ∧ bit (rdByte t.host.cells b.at0).toNat 3 = true ∧ hostNum t (b.at0 + 28) 2 = b.head % 65536 ∧
        hostNum t (b.at0 + 30) 10 = i * 16 + p.q3.toNat * 4 + p.q2.toNat * 2 ^ 16)) ∧
    (let slot := ((jobOf s b.pasid).map Prod.fst).getD 1024;
      s.arg.flag = true → CpStarts s 0x04 [q64 - 63, lowBits 17] j b → (jobEnded s slot ≠ none ∨ (jobOf s b.pasid = none ∧ b.pasid ∈ s.cp.gone)) →
      exec .indirect s = .next (cpOnly s j b 5 0)) ∧
    (let slot := ((jobOf s b.pasid).map Prod.fst).getD 1024;
      s.arg.flag = true → CpStarts s 0x04 [q64 - 63, lowBits 17] j b → jobEnded s slot = none → (jobOf s b.pasid = none → b.pasid ∉ s.cp.gone) →
      let n := p.q2.toNat;
      ((n = 0 ∨ 65536 < n ∨ (openCmds s (cmdRef b.pasid b.q)).any (fun c => cpOp c.p == 0x04) = true) → exec .indirect s = .next (cpOnly s j b 1 0)) ∧
      (1 ≤ n → n ≤ 65536 → (openCmds s (cmdRef b.pasid b.q)).any (fun c => cpOp c.p == 0x04) = false → ∃ t c, exec .indirect s = .next t ∧
        CpOpen s t j b c ∧ ∀ d, (sget d t.cp.slots j).ind = (List.range n).map (fun k => cpPacketOf (hostRead s (i + 64 * k) 64)))) ∧
    (∀ c, s.arg.flag = false → cmdById s s.arg.n = some c → cpOp c.p = 0x04 → c.quiet = false →
      slotOfQ s c.r.pasid.toNat c.r.queue.toNat = some (j, b) → b.ind = [] → b.held = none → ∃ t, exec .indirect s = .next t ∧ CpOver s t c 0 0 ∧ AllMemSame s t) ∧
    (∀ c, ∀ w ∈ s.cp.parked, s.arg.flag = false → cmdById s s.arg.n = some c → cpOp c.p = 0x04 → c.quiet = false →
      slotOfQ s c.r.pasid.toNat c.r.queue.toNat = none → w.pasid = c.r.pasid.toNat → w.q = c.r.queue.toNat → w.ind = [] →
      ∃ t, exec .indirect s = .next t ∧ CpOver s t c 0 0 ∧ AllMemSame s t)

/-- R361, R362, R404: PLACE copies bytes of HBM to on-chip memory; LAUNCH stages a context in the free shadow banks of its
clusters; a stopped cluster whose window is as the context needs starts the program at its entry, its argument in s1 and every
other register zero, or records the fault of its image; the LAUNCH completes once every program it started has ended, adds one
to its signal, and with its job it is aborted. That the signal is added on a fault too is the model's reading (log entry 30). -/
def Obligations.LaunchCommands : Prop :=
  ∀ (s : State) (j : Nat) (b : BoundQ) (slot : Nat) (job : Job),
    let p := s.arg.cp
    (CpJob s b slot job → switchedIn s slot = true → CpStarts s 0x05 [q64, q64, q64] j b → let n := p.q3.toNat
      ((n = 0 ∨ n % 32 ≠ 0 ∨ 64 * 2 ^ 20 < n ∨ hbmRange s p.q1.toNat n = false ∨ placeDst s p.q2.toNat n = false) →
        exec .place s = .next (cpOnly s j b 1 0)) ∧
      (n ≠ 0 → n % 32 = 0 → n ≤ 64 * 2 ^ 20 → hbmRange s p.q1.toNat n = true → placeDst s p.q2.toNat n = true →
        exec .place s = .next (let r := placeCopy slot b.pasid p.q1.toNat (p.q2.toNat % 2 ^ 48) (n / 2048 + 1) n (cpGo s j b)
          { r.1 with cp := { r.1.cp with recs := r.1.cp.recs ++ [match r.2 with | none => cpRec s b 0 0 | some f => cpRec s b 3 f] } }) ∧
        ∀ x u, n ≤ 2048 → cpAccess (cpGo s j b) slot b.pasid p.q1.toNat n none = .ok x u → ∃ t, exec .place s = .next t ∧ CpDone s t j b 0 0 ∧
          ∀ k (h : k < x.length), rdByte t.chip.mem.cells (p.q2.toNat % 2 ^ 48 + k) = (x[k]).1)) ∧
    (CpJob s b slot job → switchedIn s slot = true →
      CpStarts s 0x01 [lowBits 32, lowBits 21 + 2 ^ 51 + lowBits 12 * 2 ^ 52, q64, q64, q64, q64 - lowBits 15] j b →
      let gr := bits p.q6.toNat 32 16
      let off := bits p.q6.toNat 15 17
      (32768 < gr → exec .launch s = .next (cpOnly s j b 1 0)) ∧
      (gr ≤ 32768 → 128 * (off + gr) ≤ clSize →
        (bit p.q2.toNat 51 = true → job.sig0 ≤ bits p.q2.toNat 52 12 ∧ bits p.q2.toNat 52 12 < job.sig0 + job.sigN) →
        (p.q4 ≠ 0 → hbmRange s p.q4.toNat codeSize = true) → (∀ m < 32, bit p.q1.toNat m = true → (getCl s m).shadow = none) →
        ∃ t c, exec .launch s = .next t ∧ CpOpen s t j b c ∧ c.staged = (List.range 32).filter (bit p.q1.toNat) ∧ AllMemSame s t ∧
          ∀ m, (getCl t m).shadow = if m < 32 ∧ bit p.q1.toNat m = true
            then some ⟨c.id, bits p.q2.toNat 0 21, p.q3, p.q4, p.q5, p.q6⟩ else (getCl s m).shadow)) ∧
    (∀ g, let m := s.arg.m.toNat
      (getCl s m).shadow = some g → (getCl s m).lan.on = false → frozen s = false → ended s = false → swapWaits (getCl s m) g = false →
      (g.image = 0 ∨ faultOf (resolveAll s s.chip.slot s.chip.pasid (fullIa s (g.image.toNat % 2 ^ 48)) codeSize .rd) = none) →
      ∃ t, exec .launchSwapIn s = .next t ∧ let c := getCl t m
        c.shadow = none ∧ c.lan.on = true ∧ c.lan.core.pc = g.entry ∧ (∀ r, rdS c.lan.core r = if r = 1 then g.arg else 0) ∧ c.lan.x.holds = [] ∧
        c.poolOff = 128 * bits g.pool.toNat 15 17 ∧ c.poolLen = 128 * bits g.pool.toNat 32 16 ∧ c.ovfCap = bits g.pool.toNat 48 16 ∧
        c.launch = some g.cmd ∧ (g.image = 0 → c.image = (getCl s m).image) ∧ (g.image ≠ 0 → c.image = some g.image) ∧
        (∀ d ∈ t.cp.cmds, d.id = g.cmd → m ∉ d.staged ∧ (m, (getCl s m).serial) ∈ d.runs)) ∧
    (∀ g a k, let m := s.arg.m.toNat
      (getCl s m).shadow = some g → (getCl s m).lan.on = false → frozen s = false → ended s = false → swapWaits (getCl s m) g = false → g.image ≠ 0 →
      faultOf (resolveAll s s.chip.slot s.chip.pasid (fullIa s (g.image.toNat % 2 ^ 48)) codeSize .rd) = some (a, k) →
      ∃ t, exec .launchSwapIn s = .next t ∧ (getCl t m).shadow = none ∧ (getCl t m).lan = (getCl s m).lan ∧
        (∀ d ∈ t.cp.cmds, d.id = g.cmd → m ∉ d.staged ∧ d.fault ≠ none) ∧ AllMemSame s t) ∧
    (∀ c, cmdById s s.arg.n = some c → cpOp c.p = 0x01 → c.quiet = false →
      (∀ w, jobEnded s c.job = some w → ∃ t, exec .launchComplete s = .next t ∧ CpOver s t c 5 (if c.runs = [] then 0 else w.toNat) ∧
        t.cp.msix = s.cp.msix ||| 2) ∧
      (jobEnded s c.job = none → c.staged = [] → (∀ r ∈ c.runs, launchOver (asJob s c.job) c.id r = true) →
        let i := bits c.p.q2.toNat 52 12
        ∃ t, exec .launchComplete s = .next t ∧ (match c.fault with | none => CpOver s t c 0 0 | some (k, m) => CpOver s t c 3 (k + m * 2 ^ 32)) ∧
          (∀ k, sget 0 t.cp.signals k = if k = i ∧ bit c.p.q2.toNat 51 = true then sget 0 s.cp.signals k + 1 else sget 0 s.cp.signals k) ∧ AllMemSame s t) ∧
      (jobEnded s c.job = none → (c.staged ≠ [] ∨ ∃ r ∈ c.runs, launchOver (asJob s c.job) c.id r = false) → exec .launchComplete s = .next s))

/-- R314, R330, R345 to R347, R360: UNIT_RESUME lets a stopped unit go on and UNIT_ABORT ends its job; BELFRY and MCGRP check
what they read and then load it, or are REJECT; TRACE sets up tracing. -/
def Obligations.UnitAndScheduleCommands : Prop :=
  ∀ (s : State) (j : Nat) (b : BoundQ) (slot : Nat) (job : Job), CpJob s b slot job →
    let p := s.arg.cp
    let k := p.q1.toNat
    (switchedIn s slot = true → CpStarts s 0x10 [lowBits 8] j b →
      ((getUnit s k).stop = none → exec .unitResume s = .next (cpOnly s j b 1 0)) ∧
      ((getUnit s k).stop ≠ none → ∃ t, exec .unitResume s = .next t ∧ CpDone s t j b 0 0 ∧ (getUnit t k).stop = none ∧
        (getUnit t k).core.pc = (getUnit s k).core.pc ∧ (∀ c ∈ (getUnit t k).mx.comp, c.stopped = false) ∧
        ((getUnit s k).mx.act.valid = false → (getUnit s k).mx.shadow.valid = false →
          (∀ i, i ≠ k → getUnit t i = getUnit s i) ∧ AllMemSame s t ∧ ∀ n, (sget {} (getUnit t k).tiles n).el = (sget {} (getUnit s k).tiles n).el))) ∧
    (CpStarts s 0x11 [lowBits 8] j b →
      ((getUnit (asJob s slot) k).stop = none → exec .unitAbort s = .next (cpOnly s j b 1 0)) ∧
      (∀ w, (getUnit (asJob s slot) k).stop = some w → ∃ t, exec .unitAbort s = .next t ∧ CpDone s t j b 0 0 ∧ AllMemSame s t ∧
        jobEnded t slot = some (BitVec.ofNat 64 (bits w.cause 0 8 + bits w.addr 0 21 * 2 ^ 8 + k / 8 * 2 ^ 32 + k % 8 * 2 ^ 40)))) ∧
    (switchedIn s slot = true → CpStarts s 0x18 [q64, 15, q64] j b →
      ((p.q3.toNat % 40 ≠ 0 ∨ p.q3.toNat ≤ ptp s) → exec .belfry s = .next (cpOnly s j b 1 0)) ∧
      (∀ x u, p.q3.toNat % 40 = 0 → ptp s < p.q3.toNat → cpAccess (cpGo s j b) slot b.pasid k 4096 none = .ok x u →
        let es := words128 (x.map Prod.fst)
        (((List.range 4).filter (bit p.q2.toNat)).all (fun d => es.all (belfryOk u d)) = false → exec .belfry s = .next (cpOnly s j b 1 0)) ∧
        (((List.range 4).filter (bit p.q2.toNat)).all (fun d => es.all (belfryOk u d)) = true → ∃ t, exec .belfry s = .next t ∧ t.cp.recs = u.cp.recs ++ [cpRec s b 0 0] ∧
          t.cp.belfryLoad = u.cp.belfryLoad ++ [(p.q3.toNat, p.q2.toNat, slot, es.map (BitVec.ofNat 128))]))) ∧
    (switchedIn s slot = true → s.arg.flag = true → CpStarts s 0x19 [q64, lowBits 10, q64] j b → let n := p.q3.toNat
      ((n = 0 ∨ 1024 < n ∨ 1024 < p.q2.toNat + n) → exec .mcgrp s = .next (cpOnly s j b 1 0)) ∧
      (∀ x u, n ≠ 0 → p.q2.toNat + n ≤ 1024 → cpAccess (cpGo s j b) slot b.pasid k (16 * n) none = .ok x u →
        let es := words128 (x.map Prod.fst)
        (es.all (groupOk u) = false → exec .mcgrp s = .next (cpOnly s j b 1 0)) ∧
        (es.all (groupOk u) = true → ∃ t, exec .mcgrp s = .next t ∧
          (∀ i, sget 0 t.chip.mcg i = if p.q2.toNat ≤ i ∧ i < p.q2.toNat + es.length then BitVec.ofNat 128 (es.getD (i - p.q2.toNat) 0) else sget 0 u.chip.mcg i) ∧
          (mcOpen u slot p.q2.toNat n u.inj = false → t.cp.recs = u.cp.recs ++ [cpRec s b 0 0] ∧ t.cp.cmds = u.cp.cmds) ∧
          (mcOpen u slot p.q2.toNat n u.inj = true → t.cp.recs = u.cp.recs ∧ ∃ c, t.cp.cmds = u.cp.cmds ++ [c] ∧ c.p = p ∧ c.id = s.cp.nextId ∧ c.since = u.inj)))) ∧
    (∀ c, s.arg.flag = false → cmdById s s.arg.n = some c → cpOp c.p = 0x19 → c.quiet = false → mcOpen s c.job c.p.q2.toNat c.p.q3.toNat c.since = false →
      ∃ t, exec .mcgrp s = .next t ∧ CpOver s t c 0 0 ∧ AllMemSame s t) ∧
    (switchedIn s slot = true → CpStarts s 0x1A [q64, q64, q64] j b → ∃ t, exec .trace s = .next t ∧ CpDone s t j b 0 0 ∧ AllMemSame s t ∧
      t.chip.trace.buf = p.q1 ∧ t.chip.trace.period = p.q2.toNat ∧ t.chip.trace.units = p.q3.setWidth 32 ∧
      t.chip.trace.lans = (p.q3 >>> 32).setWidth 32)

/-- R30, R31, R360, R366: MAP and MAPX are REJECT where range, page size and alignment do not fit, change nothing for a length
of zero, and otherwise map every page or have no effect; a page comes from the job's own frames, free, aligned and in its pool;
its leaf goes into the entry that a walk of the table meets; UNMAP and UNMAPX clear the entry of a page. Where tables and frames
may lie beside these rules is the model's choice (log entry 10). -/
def Obligations.MappingCommands : Prop :=
  ∀ (s : State) (j : Nat) (b : BoundQ) (slot : Nat) (job : Job), CpJob s b slot job →
    let p := s.arg.cp
    let a := p.q1.toNat
    let n := p.q2.toNat
    let c := bits p.q3.toNat 0 2
    let lob := pageLo c
    let flags := bits p.q3.toNat 2 2 * 4 + 3
    let g := cpGo s j b
    (CpStarts s 0x08 [lowBits 48, q64, 15] j b →
      ((c = 3 ∨ a % 2 ^ lob ≠ 0 ∨ n % 2 ^ lob ≠ 0) → exec .map s = .next (cpOnly s j b 1 0)) ∧
      (c ≠ 3 → a % 2 ^ lob = 0 → n % 2 ^ lob = 0 →
        (n = 0 → exec .map s = .next (cpOnly s j b 0 0)) ∧
        (n ≠ 0 → hbmRange s a n = false → exec .map s = .next (cpOnly s j b 1 0)) ∧
        (n ≠ 0 → hbmRange s a n = true → (iaRow a = some 1 → c = 0) → ∀ r,
          foldOpt (mapPage slot b.pasid lob flags) ((List.range (n / 2 ^ lob)).map (fun i => a + 2 ^ lob * i)) g = r →
          exec .map s = .next (match r with
            | none => cpOnly s j b 2 0
            | some u => { u with cp := { u.cp with recs := u.cp.recs ++ [cpRec s b 0 0] } })))) ∧
    (∀ t tbl f u e, rootTable t (sget 0 t.mtsRoot (hbmSlo a).1) slot b.pasid = some tbl → takeFrame t slot (hbmSlo a).1 (2 ^ lob) = some (f, u) →
      entryTo t (hbmSlo a).2 lob mtsLevels tbl = some e → bit (hbmEntry t e) 0 = false → f + flags < 2 ^ 40 → (lob = 13 ∨ lob = 21 ∨ lob = 30) →
      ∃ w, mapPage slot b.pasid lob flags t a = some w ∧ hbmEntry w e = f + flags ∧ EntrySame t w e ∧
        leafAt w (hbmSlo a).2 mtsLevels tbl = some (e, f + flags, lob)) ∧
    (∀ t stk size f u, 0 < size → t.cp.jobs.find? (fun p => p.1 == slot) = some (slot, job) → takeFrame t slot stk size = some (f, u) →
      stk * 2 ^ 36 + job.poolBase ≤ f ∧ f + size ≤ stk * 2 ^ 36 + job.poolBase + job.poolLen ∧
      (∀ q ∈ t.cp.jobs, ∀ y ∈ q.2.frames, f + size ≤ y.1 ∨ y.1 + y.2 ≤ f) ∧ (∀ y ∈ t.svc.retired, f + size ≤ 8192 * y ∨ 8192 * y + 8192 ≤ f) ∧
      ∀ q ∈ u.cp.jobs, q.1 = slot → (f, size) ∈ q.2.frames) ∧
    (CpStarts s 0x09 [q64, q64] j b → let ia := a % 2 ^ 48;
      ((ia % 8192 ≠ 0 ∨ n % 8192 ≠ 0) → exec .unmap s = .next (cpOnly s j b 1 0)) ∧
      (ia % 8192 = 0 → n = 0 → exec .unmap s = .next (cpOnly s j b 0 0)) ∧
      (∀ w e stk o, ia % 8192 = 0 → n = 8192 → hbmRange s a n = true → mtsLeaf s slot b.pasid ia = some (w, e, 13, stk, o) → pageInside ia n stk o 8192 = true →
        nvmeUses g slot b.pasid ia n = false → ∃ t, exec .unmap s = .next t ∧ CpDone s t j b 0 0 ∧ hbmEntry t w = 0 ∧ EntrySame s t w ∧
          ∀ q ∈ t.cp.jobs, q.1 = slot → (bits e 13 27 * 8192, 8192) ∉ q.2.frames)) ∧
    (CpStarts s 0x0A [lowBits 46, q64, 63, q64 - 8191] j b →
      ((c = 3 ∨ a % 2 ^ lob ≠ 0 ∨ n % 2 ^ lob ≠ 0) → exec .mapx s = .next (cpOnly s j b 1 0)) ∧
      (c ≠ 3 → a % 2 ^ lob = 0 → n = 0 → exec .mapx s = .next (cpOnly s j b 0 0)) ∧
      (∀ tbl e, let leaf := p.q4.toNat + bits p.q3.toNat 4 2 * 64 + flags
        c ≠ 3 → a % 2 ^ lob = 0 → n = 2 ^ lob → a + n ≤ 2 ^ 46 → p.q4.toNat % 2 ^ lob = 0 → targetIs s (bits p.q3.toNat 4 2) p.q4.toNat n = true →
        rootTable s s.egrBase slot b.pasid = some tbl → entryTo s a lob egrLevels tbl = some e → bit (hbmEntry s e) 0 = false → leaf < 2 ^ 64 →
        ∃ t, exec .mapx s = .next t ∧ CpDone s t j b 0 0 ∧ hbmEntry t e = leaf ∧ EntrySame s t e)) ∧
    (CpStarts s 0x0B [lowBits 46, q64] j b →
      ((a % 8192 ≠ 0 ∨ n % 8192 ≠ 0) → exec .unmapx s = .next (cpOnly s j b 1 0)) ∧
      (a % 8192 = 0 → n = 0 → exec .unmapx s = .next (cpOnly s j b 0 0)) ∧
      (∀ tbl w e, a % 8192 = 0 → n = 8192 → a + n ≤ 2 ^ 46 → rootTable s s.egrBase slot b.pasid = some tbl → leafAt s a egrLevels tbl = some (w, e, 13) →
        ∃ t, exec .unmapx s = .next t ∧ CpDone s t j b 0 0 ∧ hbmEntry t w = 0 ∧ EntrySame s t w))

/-- R354, R355, R364, R369, R374: an NVMe transfer starts for an attached drive, a length of 1 byte to 2 MiB and mapped HBM, and
completes with the drive's status, or after two seconds with TIMEOUT, and ABORTED where a queue reset has aborted it (log entry
58); the host's CXL.mem reads and writes reach the bytes of HBM, and a read that meets an uncorrectable error poisons its sector
and retires the frame where it starts. -/
def Obligations.DriveAndHostMemory : Prop :=
  ∀ (s : State) (j : Nat) (b : BoundQ) (slot : Nat) (job : Job),
    let p := s.arg.cp
    (∀ op i (k : AKind), (op = 0x20 ∧ i = Instr.nvmeRd ∧ k = .wr) ∨ (op = 0x21 ∧ i = Instr.nvmeWr ∧ k = .rd) → CpJob s b slot job →
      CpStarts s op [15 + (q64 - lowBits 32), q64, q64, q64] j b →
      (s.cp.drives.find? (fun d => d.1 == bits p.q1.toNat 0 4) = none → exec i s = .next (cpOnly s j b 1 0)) ∧
      (∀ z d, s.cp.drives.find? (fun d => d.1 == bits p.q1.toNat 0 4) = some (z, d) → let n := p.q3.toNat * (if d.lba4k then 4096 else 512)
        ((n = 0 ∨ 2 ^ 21 < n ∨ hbmRange s p.q4.toNat n = false) → exec i s = .next (cpOnly s j b 1 0)) ∧
        (n ≠ 0 → n ≤ 2 ^ 21 → hbmRange s p.q4.toNat n = true →
          (∀ y f, faultOf (resolveAll (cpGo s j b) slot b.pasid (fullIa s (p.q4.toNat % 2 ^ 48)) n k) = some (y, f) →
            exec i s = .next (cpOnly s j b 3 f)) ∧
          (faultOf (resolveAll (cpGo s j b) slot b.pasid (fullIa s (p.q4.toNat % 2 ^ 48)) n k) = none →
            ∃ t c, exec i s = .next t ∧ CpOpen s t j b c ∧ c.since = ptp s ∧ AllMemSame s t)))) ∧
    (∀ c, cmdById s s.arg.n = some c → (cpOp c.p = 0x20 ∨ cpOp c.p = 0x21) → c.quiet = false →
      (∃ t, exec .nvmeCompletion s = .next t ∧ CpOver s t c (if c.abort then 5 else if s.arg.v = 0 then 0 else 6) (if c.abort then 0 else s.arg.v.toNat) ∧ AllMemSame s t) ∧
      (c.since + 2000000000 ≤ ptp s → ∃ t, exec .nvmeTimeout s = .next t ∧ CpOver s t c 4 0 ∧ AllMemSame s t) ∧
      (ptp s < c.since + 2000000000 → exec .nvmeTimeout s = .next s)) ∧
    (s.svc.ready = true → s.arg.v.toNat + s.arg.n ≤ 768 * 2 ^ 30 → ∃ t, exec .cxlMemRead s = .next t ∧
      t.cp.rdata.map Prod.fst = (List.range s.arg.n).map (fun i => rdByte s.hbm.cells (s.arg.v.toNat + i)) ∧ t.chip = s.chip ∧ t.host = s.host ∧
      ∀ i, rdByte t.hbm.cells i = rdByte s.hbm.cells i) ∧
    (∀ sec, let a := s.arg.v.toNat;
      s.svc.ready = true → 0 < s.arg.n → a + s.arg.n ≤ 768 * 2 ^ 30 → a / 32 ≤ sec → sec ≤ (a + s.arg.n - 1) / 32 → (sec, Err.unc) ∈ s.hbm.errs →
      sget false s.hbm.poison sec = false → ∃ t, exec .cxlMemRead s = .next t ∧ a / 8192 ∈ t.svc.retired ∧ sget false t.hbm.poison sec = true ∧
        ∀ e, (sec, e) ∉ t.hbm.errs) ∧
    (s.svc.ready = true → s.arg.v.toNat + s.arg.dat.length ≤ 768 * 2 ^ 30 → ∃ t, exec .cxlMemWrite s = .next t ∧ t.chip = s.chip ∧ t.host = s.host ∧
      ∀ i, rdByte t.hbm.cells i = if s.arg.v.toNat ≤ i ∧ i < s.arg.v.toNat + s.arg.dat.length then s.arg.dat.getD (i - s.arg.v.toNat) 0
        else rdByte s.hbm.cells i) ∧
    (s.svc.ready = false → exec .cxlMemWrite s = .next s ∧ ∃ t, exec .cxlMemRead s = .next t ∧ t.cp.rdata = [] ∧ AllMemSame s t)

/-- R323, R332, R33, R349, R350, R360, R362: the host-only commands. JOB_CREATE gives a free slot to a job with empty tables and
zeroed tokens; JOB_DESTROY ends the job, and frees its slot and zeroises its key once its cache is clean and its work is gone;
KEY_LOAD puts the unwrapped key into the key table; GANG, PART, RPC_CFG and NVME_ATT set what they name. REJECT for a slot that
is held and the halves of RPC_CFG are the model's reading (log entry 31). -/
def Obligations.HostCommands : Prop :=
  ∀ (s : State) (j : Nat) (b : BoundQ), qdDev b.desc = false →
    let p := s.arg.cp
    let g := cpGo s j b
    (CpStarts s 0x30 [lowBits 10 + lowBits 20 * 2 ^ 44, lowBits 36, q64, lowBits 40, lowBits 12 + lowBits 12 * 2 ^ 16] j b →
      let slot := bits p.q1.toNat 0 10
      let pasid := bits p.q1.toNat 44 20
      let sg0 := bits p.q5.toNat 0 12
      let sgn := bits p.q5.toNat 16 12
      ((4096 < sg0 + sgn ∨ p.q3.toNat % 2 ^ 30 ≠ 0 ∨ 2 ^ 36 < p.q2.toNat + p.q3.toNat ∨ s.cp.jobs.any (fun q => q.1 == slot) = true) →
        exec .jobCreate s = .next (cpOnly s j b 1 0)) ∧
      (∀ u, sg0 + sgn ≤ 4096 → p.q3.toNat % 2 ^ 30 = 0 → p.q2.toNat + p.q3.toNat ≤ 2 ^ 36 → p.q4.toNat / 2 ^ 36 < 12 →
        p.q4.toNat % 2 ^ 36 + 0x32800000 ≤ 2 ^ 36 → s.cp.jobs.any (fun q => q.1 == slot) = false →
        let y : Job := ⟨pasid, p.q2.toNat, p.q3.toNat, p.q4.toNat, sg0, sgn, [], []⟩
        jobTables { g with cp := { g.cp with jobs := sput g.cp.jobs slot y, gone := g.cp.gone.filter (fun q => q != pasid) } } slot pasid = some u →
        ∃ t, exec .jobCreate s = .next t ∧ t.cp.recs = u.cp.recs ++ [cpRec s b 0 0] ∧ t.hbm = u.hbm ∧ t.cp.jobs = u.cp.jobs ∧
          (∀ i k, getTok (asJob t slot) i k = {}) ∧ jobEnded t slot = none)) ∧
    (s.arg.flag = true → CpStarts s 0x31 [lowBits 10] j b → let slot := p.q1.toNat
      (s.cp.jobs.any (fun q => q.1 == slot) = false → exec .jobDestroy s = .next (cpOnly s j b 1 0)) ∧
      (s.cp.jobs.any (fun q => q.1 == slot) = true → ∃ t c, exec .jobDestroy s = .next t ∧ CpOpen s t j b c ∧ jobEnded t slot ≠ none ∧
        (∀ i, (getGr s i).slot = slot → (getGr s i).state = 2 → (getGr t i).state = 3) ∧ MemSame s.chip.mem t.chip.mem ∧ MemSame s.host t.host ∧
        ∀ x, (∀ q ∈ s.rpc, x < rpcTagAt s q.1 ∨ rpcTagAt s q.1 + 64 ≤ x) → rdByte t.hbm.cells x = rdByte s.hbm.cells x)) ∧
    (∀ c, s.arg.flag = false → cmdById s s.arg.n = some c → cpOp c.p = 0x31 → c.quiet = false → let slot := c.p.q1.toNat
      (∀ q ∈ s.rpc, q.2.slot = slot → q.2.state = 0) → (∀ d ∈ s.cp.cmds, d.job = slot → cpOp d.p ≠ 0x01 ∧ cpOp d.p ≠ 0x20 ∧ cpOp d.p ≠ 0x21) →
      (∀ w, s.cp.switch = some w → w.out ≠ slot ∧ w.inn ≠ slot) →
      ∃ t, exec .jobDestroy s = .next t ∧ CpOver s t c 0 0 ∧ (∀ q ∈ t.cp.jobs, q.1 ≠ slot) ∧ (∀ q ∈ t.cp.keys, q.1 ≠ slot) ∧ ∀ q ∈ t.images, q.1 ≠ slot) ∧
    (∀ x u slot job, jobOf s b.pasid = some (slot, job) → CpStarts s 0x32 [lowBits 10, q64] j b →
      cpAccess g slot b.pasid p.q2.toNat 64 none = .ok x u → let key := Config.unwrapKey (x.map Prod.fst)
      (key = none → exec .keyLoad s = .next (cpOnly s j b 1 0)) ∧
      (∀ w, key = some w → (u.cp.keys.any (fun q => q.1 == p.q1.toNat) = true ∨ u.cp.keys.length < 64) → ∃ t, exec .keyLoad s = .next t ∧
        t.cp.recs = u.cp.recs ++ [cpRec s b 0 0] ∧ ∀ d k, sget d t.cp.keys k = if k = p.q1.toNat then w else sget d u.cp.keys k) ∧
      (∀ w, key = some w → u.cp.keys.any (fun q => q.1 == p.q1.toNat) = false → 64 ≤ u.cp.keys.length → exec .keyLoad s = .next (cpOnly s j b 2 0))) ∧
    (CpStarts s 0x33 [q64, q64] j b →
      (p.q2 = 0 → ∃ t, exec .gang s = .next t ∧ CpDone s t j b 0 0 ∧ t.cp.gang = [] ∧ AllMemSame s t) ∧
      (∀ x u slot job, p.q2 ≠ 0 → jobOf s b.pasid = some (slot, job) → cpAccess g slot b.pasid p.q1.toNat (16 * p.q2.toNat) none = .ok x u →
        let l := (words128 (x.map Prod.fst)).map (fun w => (bits w 0 64, bits w 64 64))
        (gangOk l = false → exec .gang s = .next (cpOnly s j b 1 0)) ∧
        (s.cp.gangLast ≠ 0 → (∃ q ∈ l, q.1 < s.cp.gangLast + 250000) → exec .gang s = .next (cpOnly s j b 1 0)) ∧
        (gangOk l = true → (∀ q ∈ l, q.2 < 1024) → (s.cp.gangLast = 0 ∨ ∀ q ∈ l, s.cp.gangLast + 250000 ≤ q.1) → ∃ t, exec .gang s = .next t ∧
          t.cp.gang = l ∧ t.cp.recs = u.cp.recs ++ [cpRec s b 0 0]))) ∧
    (CpStarts s 0x34 [lowBits 16, lowBits 16] j b →
      let ds := (List.range 4).map (fun d => bits p.q2.toNat (4 * d) 4 + 1)
      let size := ds.foldl (· * ·) 1
      (size ≤ p.q1.toNat → exec .part s = .next (cpOnly s j b 1 0)) ∧
      (p.q1.toNat < size → exec .part s = .next { cpOnly s j b 0 p.q2.toNat with partMod := p.q1.toNat, partSize := size, dims := ds })) ∧
    (CpStarts s 0x35 [q64, 255] j b → let f := fun n => bits (p.q1.toNat + p.q2.toNat * 2 ^ 64) (6 * n) 6
      ((s.cp.jobs ≠ [] ∨ (∃ n < 12, 32 < f n) ∨ 256 < ((List.range 12).map f).sum) → exec .rpcCfg s = .next (cpOnly s j b 1 0)) ∧
      (s.cp.jobs = [] → (∀ n < 12, f n ≤ 32) → ((List.range 12).map f).sum ≤ 256 → ∃ t, exec .rpcCfg s = .next t ∧ CpDone s t j b 0 0 ∧
        t.rpc = [] ∧ (∀ n < 12, sget 0 t.cp.rpcGib n = f n) ∧ MemSame s.chip.mem t.chip.mem ∧ MemSame s.host t.host ∧
        let tag := fun x => ∃ a ∈ rpcSlices t, a + 1016 * 2 ^ 20 ≤ x ∧ x < a + 2 ^ 30
        ∀ x, (tag x → rdByte t.hbm.cells x = 0) ∧ (¬ tag x → rdByte t.hbm.cells x = rdByte s.hbm.cells x))) ∧
    (CpStarts s 0x36 [15, q64, q64, q64, lowBits 17] j b → ∃ t, exec .nvmeAtt s = .next t ∧ CpDone s t j b 0 0 ∧ AllMemSame s t ∧
      ∀ d k, sget d t.cp.drives k = if k = p.q1.toNat then ⟨p.q2, p.q3, p.q4, bits p.q5.toNat 0 16, bit p.q5.toNat 16⟩ else sget d s.cp.drives k)

/-! ## Posts that wait -/

/-- R279, R280, R276: the answer to what a Lantern post or signal has sent makes its word run again, and so does the end of
win.timeout; a POST or a POST.R of this module that still finds its window full then takes POST_STALL with value 2, and enters
nothing. -/
def Obligations.PostEvents : Prop :=
  ∀ (s : State) (m : ClusterIx) (d a b : Reg), s.arg.m = m → s.cur = .lantern m → lanRuns s m.toNat = true →
    (∀ i, (i = .post a ∨ i = .postR a b ∨ i = .postTry d a ∨ i = .postRtry d a b ∨ i = .tksig a) → lanFetch s m.toNat = .ok i →
      ((getCl s m.toNat).lan.ans ≠ none → exec .postAnswer s = exec i s) ∧
      (bits (rdCsr (here s) 0x151).toNat 0 40 ≤ (getCl s m.toNat).lan.stall → exec .postTimeout s = exec i s)) ∧
    ((getCl s m.toNat).lan.ans = none → exec .postAnswer s = .next s) ∧
    (∀ c, (getCl s m.toNat).lan.wait = some (.post c 255) → (getCl s m.toNat).lan.ans = some (0, 0) → lanFetch s m.toNat = .ok (.tksig a) →
      handleOk s (reg s a).toNat = true → bit (reg s a).toNat 47 = false → (handleAt s.partMod (reg s a).toNat).1 ≠ s.partMod → regBad s a = false →
      lanFree s m.toNat { reads := [a.toNat], gate := [a.toNat], fence := some (4, 31) } = true → (here s).delay = none →
      ∃ t, exec .postAnswer s = .next t ∧ (here t).pc = ((here s).pc + 4) % 2 ^ 21 ∧ (getCl t m.toNat).lan.wait = none ∧ (getCl t m.toNat).lan.stall = 0) ∧
    (let off := (reg s a).toNat
      let o := readPost s.chip.mem (clBase m.toNat) clSize off
      lanFetch s m.toNat = .ok (.post a) → (getCl s m.toNat).lan.wait = none → off % 64 = 0 → off + 64 ≤ clSize →
      (o.psnImg || o.psnRegs || o.psnMv) = false → regBad s a = false → postReason s m.toNat clSize o.img o.regs o.mv = 0 →
      placeOf (getCl s m.toNat) 0 (postRegs (mkPost s m.toNat 0 o)).length = 2 →
      bits (rdCsr (here s) 0x151).toNat 0 40 ≤ (getCl s m.toNat).lan.stall →
      LanTraps s m { reads := [a.toNat], gate := [a.toNat], fence := some (4, 31) } (exec .postTimeout s) 0x13 2)

/-! ## The fabric -/

/-- R334, R336, R349 to R351: a packet that comes over a link counts there; one of any type whose tag is not the one its link
makes of it, or of a job with no key here, is dropped and counted; one that is for another module enters the die router of its
port as it is. -/
def Obligations.PacketsDroppedOrForwarded : Prop :=
  ∀ (s : State) (i : Instr), i ∈ [.rd, .wr, .amo, .fadd, .postPacket, .tkarm, .tksigPacket, .tkrdPacket, .mcreq, .red, .data, .ack] →
    let p := s.arg.pkt
    let form := fun cls type lo hi => p.cls.toNat = cls ∧ p.type.toNat = type ∧ lo ≤ p.nfl.toNat ∧ p.nfl.toNat ≤ hi ∧ p.payload.length = 64 * p.nfl.toNat
    let r := linkIn s
    (s.arg.flag = false → (∀ k, sget 0 r.svc.rxCtrs k = if k = s.arg.n then (sget 0 s.svc.rxCtrs k + 1) % 2 ^ 64 else sget 0 s.svc.rxCtrs k) ∧
      (tagHolds s = true ↔ p.tag = tagOf s (sget 0 s.svc.rxNonces s.arg.n) (sget 0 s.svc.rxCtrs s.arg.n) p)) ∧
    ((tagHolds s = false ∨ keyOk s p.slot.toNat = false) →
      exec i s = .next { r with svc := { r.svc with tagFails := smod 0 r.svc.tagFails s.arg.n (fun n => n + 1) } }) ∧
    (tagHolds s = true → keyOk s p.slot.toNat = true → p.dmod.toNat ≠ s.partMod →
      (i = .rd ∧ form 0 0x01 0 0 ∨ i = .wr ∧ form 0 0x02 1 8 ∨ i = .amo ∧ form 0 0x03 1 1 ∨ i = .fadd ∧ form 0 0x04 1 1 ∨
        i = .postPacket ∧ form 0 0x08 5 5 ∨ i = .tkarm ∧ form 0 0x09 0 0 ∨ i = .tksigPacket ∧ form 0 0x0A 0 0 ∨ i = .tkrdPacket ∧ form 0 0x0B 0 0 ∨
        i = .mcreq ∧ form 0 0x10 0 0 ∨ i = .red ∧ form 2 0x30 8 8 ∨ i = .data ∧ form 1 0x20 0 8 ∨ i = .ack ∧ form 1 0x21 0 0) →
      ∃ t, exec i s = .next t ∧ t.sent = s.sent ++ [p] ∧ t.hops = s.hops ++ [⟨s.inj, s.arg.n / 32 % 4, 1 + s.arg.n / 16 % 2, p, s.arg.v.toNat⟩] ∧
        t.chip = s.chip ∧ AllMemSame s t)

/-- R325, R339, R352, R23: requests of remote agents. While the job stops, or is not switched in, a request is DEFERRED; one of
no job here faults with NOJOB, one outside the map with TABLE, one the MTS refuses with its kind; else a read returns the bytes
with their poison, a write is performed, and an atomic or cell add is performed at its place. What the response copies from its
request, TABLE for what peers cannot reach, and ATOMIC for an aop that names no operation are the model's reading (log entries
28 and 54). -/
def Obligations.RemoteRequests : Prop :=
  ∀ (s : State), Arrives s →
    let p := s.arg.pkt
    let r := linkIn s
    let n := p.len.toNat + 1
    let ia := fullIa r p.ia.toNat
    let w := if p.asz = 1 then 8 else 4
    let c := sextN (ofBytes ((p.payload.drop 5).take 2)) 16
    (∀ i type, i = .rd ∧ pktIs p 0 0x01 0 0 = true ∧ type = 0x20 ∨ i = .wr ∧ pktIs p 0 0x02 1 8 = true ∧ type = 0x21 ∨
        i = .amo ∧ pktIs p 0 0x03 1 1 = true ∧ type = 0x20 ∨ i = .fadd ∧ pktIs p 0 0x04 1 1 = true ∧ type = 0x21 ∨
        i = .tkarm ∧ pktIs p 0 0x09 0 0 = true ∧ type = 0x21 ∨ i = .tksigPacket ∧ pktIs p 0 0x0A 0 0 = true ∧ type = 0x21 ∨
        i = .tkrdPacket ∧ pktIs p 0 0x0B 0 0 = true ∧ type = 0x20 ∨ i = .postPacket ∧ pktIs p 0 0x08 5 5 = true ∧ type = 0x21 →
      (p.slot.toNat = s.chip.slot → p.pasid.toNat = s.chip.pasid → frozen s = true → ∃ t, exec i s = .next t ∧ Answered s s t type 1 0 []) ∧
      (p.slot.toNat ≠ s.chip.slot → (∃ j ∈ s.cp.jobs, j.1 = p.slot.toNat ∧ j.2.pasid = p.pasid.toNat) → ∃ t, exec i s = .next t ∧ Answered s s t type 1 0 []) ∧
      ((p.slot.toNat ≠ s.chip.slot ∨ p.pasid.toNat ≠ s.chip.pasid) → (∀ j ∈ s.cp.jobs, ¬(j.1 = p.slot.toNat ∧ j.2.pasid = p.pasid.toNat)) →
        ∃ t, exec i s = .next t ∧ Answered s s t type 2 fkNoJob [])) ∧
    (Admitted s → ∀ i type m k, (i = .rd ∧ pktIs p 0 0x01 0 0 = true ∧ type = 0x20 ∧ m = n ∧ k = AKind.rd ∨ i = .wr ∧ pktIs p 0 0x02 1 8 = true ∧ type = 0x21 ∧ m = n ∧ k = .wr ∨
        i = .amo ∧ pktIs p 0 0x03 1 1 = true ∧ type = 0x20 ∧ m = w ∧ k = .at) →
      (remoteAt r p.ia.toNat m k = false → ∃ t, exec i s = .next t ∧ Answered s s t type 2 fkTable []) ∧
      (∀ x f, remoteAt r p.ia.toNat m k = true → faultOf (resolveAll r s.chip.slot s.chip.pasid ia m k) = some (x, f) →
        ∃ t, exec i s = .next t ∧ Answered s s t type 2 f [])) ∧
    (Admitted s → pktIs p 0 0x01 0 0 = true → remoteAt r p.ia.toNat n .rd = true → faultOf (resolveAll r s.chip.slot s.chip.pasid ia n .rd) = none →
      ∃ t, exec .rd s = .next t ∧ Answered s (readIa r s.chip.slot s.chip.pasid ia n).2 t 0x20 0 0 ((readIa r s.chip.slot s.chip.pasid ia n).1.map Prod.fst)) ∧
    (Admitted s → pktIs p 0 0x02 1 8 = true → remoteAt r p.ia.toNat n .wr = true → faultOf (resolveAll r s.chip.slot s.chip.pasid ia n .wr) = none →
      ∃ t, exec .wr s = .next t ∧ Answered s (writeIa r s.chip.slot s.chip.pasid ia ((p.payload.take n).mapIdx (fun j b => (b, p.psn.getLsbD (j / 32))))) t 0x21 0 0 []) ∧
    (∀ old psn u rel, Admitted s → pktIs p 0 0x03 1 1 = true → p.aop.toNat ≤ 9 → remoteAt r p.ia.toNat w .at = true →
      faultOf (resolveAll r s.chip.slot s.chip.pasid ia w .at) = none →
      atomicIa r s.chip.slot s.chip.pasid ia (amoOp p.aop.toNat w (ofBytes (p.payload.take 8)) (ofBytes ((p.payload.drop 8).take 8))) (remoteSync r p ia) = .done old psn u rel →
      ∃ t, exec .amo s = .next t ∧ Answered s u t 0x20 0 0 (toBytes old w)) ∧
    (Admitted s → pktIs p 0 0x03 1 1 = true → 9 < p.aop.toNat → remoteAt r p.ia.toNat w .at = true →
      faultOf (resolveAll r s.chip.slot s.chip.pasid ia w .at) = none → ∃ t, exec .amo s = .next t ∧ Answered s r t 0x20 2 fkAtomic []) ∧
    (∀ old psn u rel, let o := faddOp (ofBytes ((p.payload.drop 4).take 1) % 3) (ofBytes (p.payload.take 4)) c
      Admitted s → pktIs p 0 0x04 1 1 = true → remoteAt r p.ia.toNat o.w .at = true → faultOf (resolveAll r s.chip.slot s.chip.pasid ia o.w .at) = none →
      atomicIa r s.chip.slot s.chip.pasid ia o (remoteSync r p ia) = .done old psn u rel → ∃ t, exec .fadd s = .next t ∧ Answered s u t 0x21 0 0 [])

/-- R276, R280, R281, R301, R308: a token packet arms, signals or reads the token it names; a remote post is answered WINDOW
once it has entered the window, FULL where it finds no room, and REJECT with its reason. -/
def Obligations.RemoteTokensAndPosts : Prop :=
  ∀ (s : State), Arrives s → Admitted s →
    let p := s.arg.pkt
    let r := linkIn s
    let cl := bits p.ia.toNat 12 5
    let k := bits p.ia.toNat 0 12
    let toks := fun (t : State) (x : Token) => ∀ m i, getTok t m i = if m = cl ∧ i = k then x else getTok s m i
    (pktIs p 0 0x09 0 0 = true → ∃ u t, exec .tkarm s = .next t ∧ Answered s u t 0x21 0 0 [] ∧ u.sent = s.sent ∧ toks t ⟨false, 0⟩ ∧ AllMemSame s t) ∧
    (pktIs p 0 0x0A 0 0 = true → ∃ u t, exec .tksigPacket s = .next t ∧ Answered s u t 0x21 0 0 [] ∧ u.sent = s.sent ∧
      toks t ⟨true, min 65535 ((getTok s cl k).cnt + 1)⟩ ∧ AllMemSame s t) ∧
    (pktIs p 0 0x0B 0 0 = true → ∃ t, exec .tkrdPacket s = .next t ∧
      Answered s s t 0x20 0 0 (toBytes ((getTok s cl k).cnt * 65536 + (if (getTok s cl k).fired then 1 else 0)) 64)) ∧
    (pktIs p 0 0x08 5 5 = true →
      let x := ofBytes (p.payload.take 64)
      let regs := (List.range (imNreg x)).map (fun j => ofBytes ((p.payload.drop (64 + 32 * j)).take 32))
      let o : PostObj := ⟨x, regs, moveBlock r cl x, false, false, false⟩
      let q := mkPost r cl 9 o
      let why := postReason r cl clSize o.img o.regs o.mv
      (why ≠ 0 → ∃ t, exec .postPacket s = .next t ∧ Answered s s t 0x21 4 why []) ∧
      (why = 0 → placeOf (getCl s cl) 9 (postRegs q).length ≠ 0 → ∃ t, exec .postPacket s = .next t ∧ Answered s s t 0x21 3 0 []) ∧
      (why = 0 → placeOf (getCl s cl) 9 (postRegs q).length = 0 → bit (imTok x 3) 47 = false →
        ∃ u t, exec .postPacket s = .next t ∧ Answered s u t 0x21 0 0 [] ∧ u.sent = s.sent ∧
          (getCl t cl).tasks.map (fun y => y.serial) = (getCl s cl).tasks.map (fun y => y.serial) ++ [(getCl s cl).serial] ∧
          ∃ z, (getCl t cl).tasks.getLast? = some z ∧ z.post.img = q.img))

/-- R325, R337, R341, R348, R352: a response reaches what waits for it, a DEFERRED one keeps its request for a later reissue,
and one that nothing waits for is dropped; a request unanswered for 2 ms of PTP time, or with no key, completes with TIMEOUT; a
member of a group adds its elements to the partial sums and sends them on, and the first one starts them. -/
def Obligations.ResponsesAndReductions : Prop :=
  ∀ (s : State),
    let p := s.arg.pkt
    let rid := p.rid.toNat
    let u := linkIn s
    (∀ i, (i = .data ∧ pktIs p 1 0x20 0 8 = true ∨ i = .ack ∧ pktIs p 1 0x21 0 0 = true) → Arrives s →
      ((∀ q ∈ s.outst, q.1 ≠ rid) → exec i s = .next u) ∧
      (∀ o, s.outst.find? (fun q => q.1 == rid) = some (rid, o) →
        (p.st = 1 → o.who ≠ .gone → (frozen s = false ∧ o.job = s.chip.slot ∨ o.job ≠ s.chip.slot ∧ ∃ j off, o.who = .granule j off) →
          exec i s = .next { u with outst := sput s.outst rid { o with deferred := true, since := ptp s } }) ∧
        (∀ m code, o.who = .word m → o.job = s.chip.slot → (getCl s m.toNat).lan.wait ∈ [some (.post rid code), some (.arm rid code), some (.tok rid)] →
          p.st ≠ 1 →
          ∃ t, exec i s = .next t ∧ (∀ q ∈ t.outst, q.1 ≠ rid) ∧ AllMemSame s t ∧
            (getCl t m.toNat).lan.ans = some (if p.st = 2 then (4, 0)
              else (if p.st = 3 then 2 else if p.st = 4 then 3 + 256 * p.fk.toNat else 0, ofBytes (p.payload.take 8)))) ∧
        (∀ m seq off a, o.who = .acc m seq off → o.job = s.chip.slot → findAcc s m.toNat seq = some a → a.phase = .reading [rid] → p.st = 0 → p.type = 0x20 →
          ∃ t, exec i s = .next t ∧ AllMemSame s t ∧ ∀ b ∈ (getCl t m.toNat).lan.accs, b.seq = seq →
            b.phase = .reading [] ∧ b.out = patch a.out off ((p.payload.take (askedLen o)).mapIdx (fun j y => (y, p.psn.getLsbD (j / 32))))))) ∧
    (∀ o m code, s.outst.find? (fun q => q.1 == s.arg.j) = some (s.arg.j, o) → o.deferred = false →
      (o.since + 2000000 ≤ ptp s ∨ o.injected = false) → o.who = .word m → o.job = s.chip.slot →
      (getCl s m.toNat).lan.wait ∈ [some (.post s.arg.j code), some (.arm s.arg.j code), some (.tok s.arg.j)] →
      ∃ t, exec .requestTimeout s = .next t ∧ (∀ q ∈ t.outst, q.1 ≠ s.arg.j) ∧ (getCl t m.toNat).lan.ans = some (4, 0) ∧ AllMemSame s t) ∧
    (∀ o, s.outst.find? (fun q => q.1 == s.arg.j) = some (s.arg.j, o) → (o.deferred = true ∨ (ptp s < o.since + 2000000 ∧ o.injected = true)) →
      exec .requestTimeout s = .next s) ∧
    (∀ q i j r, Arrives s → pktIs p 2 0x30 8 8 = true → p.pos.toNat = i → (presOf p).head? ≠ some i →
      s.mcr.find? (fun q => decide (q.smod = p.smod.toNat ∧ q.rid = rid)) = some q →
      (j = (presOf p).find? (fun j => decide (i < j)) ∧ r = (match j with | some j => memberMod u p j | none => p.smod.toNat)) → r < 65536 → r ≠ s.partMod →
      (redAdd (payloadImg p 512) q.img).length = 512 →
      ∃ t z, exec .red s = .next t ∧ t.sent = s.sent ++ [z] ∧ z.dmod = BitVec.ofNat 16 r ∧ z.type = 0x30 ∧ z.cls = 2 ∧ z.rid = p.rid ∧ z.smod = p.smod ∧
        z.payload = (redAdd (payloadImg p 512) q.img).map Prod.fst ∧ z.st = (if (presOf p).length = p.gp.toNat + 1 then 0 else 5) ∧ t.mcr = s.mcr.erase q ∧ AllMemSame s t) ∧
    (∀ i, Arrives s → Admitted s → pktIs p 0 0x10 0 0 = true → groupPos s p.gdim.toNat p.gp.toNat p.gcoord.toNat = some i → p.gpres.getLsbD i = true →
      let s1 := mcreqTravel u p false 0
      remoteAt s1 p.ia.toNat (p.len.toNat + 1) .rd = true →
      faultOf (resolveAll s1 s.chip.slot s.chip.pasid (fullIa s1 p.ia.toNat) (p.len.toNat + 1) .rd) = none →
      let x := readIa s1 s1.chip.slot s1.chip.pasid (fullIa s1 p.ia.toNat) (p.len.toNat + 1)
      ((presOf p).head? ≠ some i → ∃ t, exec .mcreq s = .next t ∧ (⟨p.smod.toNat, rid, x.1⟩ : McRead) ∈ t.mcr ∧ t.sent = x.2.sent) ∧
      (∀ j, (presOf p).head? = some i → (presOf p).find? (fun j => decide (i < j)) = some j → memberMod x.2 p j < 65536 → memberMod x.2 p j ≠ x.2.partMod →
        ∃ t z, exec .mcreq s = .next t ∧ t.sent = x.2.sent ++ [z] ∧ z.dmod = BitVec.ofNat 16 (memberMod x.2 p j) ∧ z.type = 0x30 ∧ z.pos = BitVec.ofNat 4 j ∧
          z.payload.take (redInit x.1).length = (redInit x.1).map Prod.fst))

/-- R342, R345, R349 to R352, R375, R377: schedules apply from their start slot and to every entry of their dies at once; a link
that comes up has a fresh nonce and a counter at zero; a lane that fails takes nothing else; a peer that resets brings its links
up again; a module that leaves loses its pres bit in every group; a dissolved partition leaves no key. -/
def Obligations.LinksAndGroups : Prop :=
  ∀ (s : State),
    (∀ t0 mask es, s.cp.belfryLoad = [(t0, mask, s.chip.slot, es)] → es.length = 256 → s.images.find? (fun p => p.1 == s.chip.slot) = none →
      (t0 ≤ ptp s → ∃ t, exec .belfrySlotBoundary s = .next t ∧ t.cp.belfryLoad = [] ∧ AllMemSame s t ∧
        ∀ d < 4, ∀ i < 256, sget 0 t.chip.belfry (256 * d + i) = if bit mask d then es.getD i 0 else sget 0 s.chip.belfry (256 * d + i)) ∧
      (ptp s < t0 → exec .belfrySlotBoundary s = .next s)) ∧
    (∃ t, exec .linkBringup s = .next t ∧ sget 0 t.svc.ctrs s.arg.n = 0 ∧
      (∀ d, sget d t.svc.nonces s.arg.n = BitVec.ofNat 32 (Config.freeWord s.draws).toNat) ∧ t.draws = s.draws + 2 ∧
      sget 0 t.svc.rxCtrs s.arg.n = 0 ∧ (∀ d, sget d t.svc.rxNonces s.arg.n = BitVec.ofNat 32 (Config.freeWord (s.draws + 1)).toNat) ∧
      (∀ k, k ≠ s.arg.n → sget 0 t.svc.ctrs k = sget 0 s.svc.ctrs k) ∧ t.chip = s.chip ∧ t.cp = s.cp ∧ AllMemSame s t) ∧
    (∃ t, exec .laneFailure s = .next t ∧ sget 2 t.svc.lanes (s.arg.n % 128) = sget 2 s.svc.lanes (s.arg.n % 128) - 1 ∧ t.svc.nonces = s.svc.nonces ∧
      t.svc.ctrs = s.svc.ctrs ∧ t.svc.rxNonces = s.svc.rxNonces ∧ t.svc.rxCtrs = s.svc.rxCtrs ∧
      (∀ d, sget d t.svc.back (s.arg.n % 128) ≤ ptp s + 10000) ∧ t.chip = s.chip ∧ t.cp = s.cp ∧ AllMemSame s t) ∧
    ((∀ q ∈ s.outst, q.2.pkt.dmod.toNat = s.arg.n → q.2.deferred = true) → ∃ t, exec .peerReset s = .next t ∧ t.outst = s.outst ∧
      (∀ k, sget 0 t.svc.ctrs k = if k ∈ portsTo s s.arg.n then 0 else sget 0 s.svc.ctrs k) ∧ t.chip = s.chip ∧ AllMemSame s t) ∧
    (swf 0 s.chip.mcg = true → ∃ t, exec .hotSwapRemove s = .next t ∧ AllMemSame s t ∧
      ∀ g i, let x := (sget 0 s.chip.mcg g).toNat
        let d := bits x 122 2
        i ≤ bits x 118 4 → (∀ e < 4, e ≠ d → coordOf s s.arg.n e = coordOf s s.partMod e) → bits x (4 * i) 4 = coordOf s s.arg.n d →
        (sget 0 t.chip.mcg g).getLsbD (102 + i) = false) ∧
    exec .partitionDissolved s = .next { s with cp := { s.cp with keys := [] } }

/-! ## Boot, updates and power -/

/-- R369, R371 to R374, R376, R378: power-good boots the module with no key, job or port counter, its fuses and retired frames
as they were, stacks that fail or have more than 4,096 retired frames degraded, and a patch in force only where it is accepted;
an attestation is signed and uses up one signature; an accepted update is staged and takes force where no job holds a slot; a
thermal trip leaves a module that is not ready; caps, throttling and lock. The layout of the reply and what outlives power are
the model's choice (log entries 12 and 37). -/
def Obligations.BootAndService : Prop :=
  ∀ (s : State),
    let ver := bits s.arg.v.toNat 0 16
    let good := s.arg.flag && decide (s.svc.rollback ≤ ver)
    let v := s.svc
    (∃ t, exec .powerGood s = .next t ∧ t.svc.ready = true ∧ t.cp.keys = [] ∧ t.cp.jobs = [] ∧ t.cp.slots = [] ∧ t.outst = [] ∧ t.chip = State.reset.chip ∧
      (∀ n, n ∈ degraded t.svc ↔ n < 12 ∧ (bit s.arg.n n = true ∨ 4096 < v.retired.countP (fun f => decide (8192 * f / 2 ^ 36 = n)))) ∧
      t.svc.ctrs = [] ∧ t.svc.retired = v.retired ∧ t.svc.sigsLeft = v.sigsLeft ∧ t.svc.tripped = false ∧
      (ver = 0 → t.svc.pr = false ∧ t.svc.fwver = 0 ∧ t.svc.rollback = v.rollback) ∧
      (ver ≠ 0 → good = false → t.svc.pr = true ∧ t.svc.fwver = 0 ∧ t.svc.rollback = v.rollback) ∧
      (ver ≠ 0 → good = true → t.svc.pr = false ∧ t.svc.fwver = ver ∧ t.svc.rollback = ver) ∧
      (∀ d < 4, ∀ k ∈ t.svc.spared, k / 64 = d → k ∈ s.arg.ixs) ∧ (∀ d < 4, (t.svc.spared.filter (fun k => decide (k / 64 = d))).length ≤ 2) ∧
      ∀ k ∈ s.arg.ixs, k < 256 → k ∈ t.svc.spared ∨ k ∈ t.svc.disabled) ∧
    (v.sigsLeft = 0 → exec .attestationRequest s = .next { s with svc := { v with reply := [] } }) ∧
    (v.sigsLeft ≠ 0 → ∃ m, exec .attestationRequest s = .next { s with svc := { v with sigsLeft := v.sigsLeft - 1, reply := m ++ Config.sign m } } ∧
      m.take 66 = toBytes Config.romHash.toNat 32 ++ toBytes v.patchHash.toNat 32 ++ toBytes v.fwver 2 ∧
      (m.drop 130).take (min 32 s.arg.dat.length) = s.arg.dat.take 32 ∧ m.drop (130 + min 32 s.arg.dat.length) = toBytes (v.sigsLeft - 1) 4) ∧
    (good = false → exec .liveUpdate s = .next s) ∧
    (good = true → s.cp.jobs ≠ [] → exec .liveUpdate s = .next { s with svc := { v with
      upd := true, staged := ver, stagedHash := BitVec.ofNat 256 (ofBytes s.arg.dat), rollback := ver } }) ∧
    (good = true → s.cp.jobs = [] → ∃ t, exec .liveUpdate s = .next t ∧ t.svc.upd = false ∧ t.svc.fwver = ver ∧ t.svc.rollback = ver ∧
      t.svc.patchHash = BitVec.ofNat 256 (ofBytes s.arg.dat) ∧ t.chip = s.chip ∧ t.cp = s.cp ∧ AllMemSame s t) ∧
    (2000 ≤ s.arg.n → s.arg.n ≤ 5000 → exec .powerCapSet s = .next { s with svc := { v with cap := s.arg.n } }) ∧
    (¬(2000 ≤ s.arg.n ∧ s.arg.n ≤ 5000) → exec .powerCapSet s = .next s) ∧
    exec .powerCapThrottling s = .next { s with svc := { v with draw := s.arg.n, slow := if v.cap < s.arg.n then min 23 (v.slow + 1) else v.slow - 1 } } ∧
    exec .ptpLossOfLock s = .next { s with svc := { v with plock := true } } ∧
    (∃ t, exec .thermalTrip s = .next t ∧ t.svc.tripped = true ∧ t.svc.ready = false ∧ t.cp.keys = [] ∧ t.cp.jobs = [] ∧ t.chip = State.reset.chip ∧
      t.svc.retired = v.retired ∧ t.svc.rollback = v.rollback ∧ MemSame s.host t.host)

/-! ## The machine as a whole -/

/-- R3, R44, R144, R145: a step runs the turn at the head of the agenda and moves no clock. A Lantern core's turn runs the
instruction that the word at its pc decodes to, or takes the trap of its fetch; a router's turn forwards its packet; an event's
turn runs the event; and the issue of a bundle whose header names one slot runs the instruction that slot's word decodes to.
With no turn left, a new fclk begins. The agenda and its order are the model's (log entries 3, 15 and 38). -/
def Obligations.StepRunsDecoded : Prop :=
  (∀ (s : State) (m : ClusterIx) (r : List Turn) (i : Instr), s.agenda = .lantern m :: r →
    let t := { s with agenda := r, cur := .lantern m }
    let l := (getCl s m.toNat).lan
    let b := lanCode t m.toNat l.core.pc 4
    l.on = true → s.chip.ended = none → s.cp.switch = none → l.core.pc % 4 = 0 → l.core.pc + 4 ≤ codeSize → (∀ x ∈ b, x.2 = false) →
    decodeS (BitVec.ofNat 32 (ofBytes (b.map Prod.fst))) = .ok i →
    step s = keepTime s (exec i (touchChip t (codeBase m.toNat + l.core.pc) 4))) ∧
  (∀ (s : State) (m : ClusterIx) (r : List Turn) (c : Nat × Nat), s.agenda = .lantern m :: r → let t := { s with agenda := r, cur := .lantern m }
    (getCl s m.toNat).lan.on = true → s.chip.ended = none → s.cp.switch = none → lanFetch t m.toNat = .error c →
    step s = keepTime s (.next (fetchTrap (wordFound t m.toNat) m.toNat c))) ∧
  (∀ (s : State) (id : Nat) (r : List Turn), s.agenda = .hop id :: r → step s = keepTime s (.next (routeHop { s with agenda := r } id))) ∧
  (∀ (s : State) (m : ClusterIx) (r : List Turn), s.agenda = .lantern m :: r → (getCl s m.toNat).lan.on = false →
    step s = .next { s with agenda := r, cur := .lantern m }) ∧
  (∀ (s : State) (i : Instr) (a : Arg) (r : List Turn), s.agenda = .ev i a :: r → step s = keepTime s (exec i { s with agenda := r, arg := a })) ∧
  (∀ (s : State), s.agenda = [] → step s = .next (tick s)) ∧
  (∀ (s : State) (i : Instr) (n : Inst) (slot : Nat), s.cur = .unit s.arg.k → let k := s.arg.k.toNat;
    (getUnit s k).inst = some n → n.first = false → issues s k = true → let b := fetchBundle s k
    (∀ x ∈ b, x.2 = false) → let y := b.map Prod.fst
    wordAt y 0 = 2 ^ slot → (slot = 0 ∧ b.length = 8 ∧ decodeS (BitVec.ofNat 32 (wordAt y 1)) = .ok i ∨ slot = 1 ∧ b.length = 12 ∧ decodeV (BitVec.ofNat 64 (dwordAt y 1)) = .ok i ∨
      slot = 3 ∧ b.length = 12 ∧ decodeM (BitVec.ofNat 64 (dwordAt y 1)) = .ok i ∨ slot = 4 ∧ b.length = 12 ∧ decodeC (BitVec.ofNat 64 (dwordAt y 1)) = .ok i) →
    exec .bundleIssue s = exec i (touchChip s (codeBase (k / 8) + (getUnit s k).core.pc) b.length)) ∧
  (∀ (s t : State), keepTime s (.next t) = .next { t with fclk := s.fclk, clk := s.clk, acc := s.acc, edge := s.edge })

/-- R176, R201, R404: every instruction, command, packet and event is executed in every state: where it may not run it traps,
waits, is refused by the unit it asks, or changes nothing, and in each case the machine goes on. -/
def Obligations.EveryInstructionRuns : Prop :=
  ∀ (i : Instr) (s : State), ∃ t, exec i s = .next t

/-- R163 to R175: the decoder reads back every well-formed instruction from its own encoding, each operand at every value; only
events, commands and packets, which no slot holds, have no encoding. -/
def Obligations.DecodeReadsEncoding : Prop :=
  ∀ (i : Instr), i.wf = true → (form i ≠ .event → ∃ c, encode i = some c) ∧ ∀ c, encode i = some c → decode c = .ok i

/-- R163 to R175: no two words of a slot decode to one instruction: the word of what is decoded is the word itself. -/
def Obligations.EncodingIsUnique : Prop :=
  ∀ (c : Code) (i : Instr), decode c = .ok i → i.wf = true ∧ encode i = some c

/-- R162 to R175: the words of some instructions, written out bit by bit, decode to them. -/
def Obligations.WordsDecode : Prop :=
  decodeS 0b000000_000011_000001_000010_00000000#32 = .ok (.add 3 1 2) ∧
  decodeS 0b000000_000011_000001_000010_00000001#32 = .ok (.sub 3 1 2) ∧
  decodeS 0b000001_000011_000001_11111111111111#32 = .ok (.addi 3 1 0x3FFF) ∧
  decodeS 0b010110_000011_000001_00000000001000#32 = .ok (.ldD 3 1 8) ∧
  decodeS 0b111101_000000_000101_000000_00000000#32 = .ok (.tkwait 5) ∧
  (∃ n, decodeS 0b000000_000011_000001_000010_11111111#32 = .error n) ∧ (∃ n, decodeS 0xFC000000#32 = .error n) ∧
  decodeV 0b00000000_1000_000011_000001_000010_000000_000_0_00_000000_0000000000000000#64 = .ok (.vadd ⟨8, 3, 1, 2, 0, 0, 0, 0, 0, 0⟩) ∧
  decodeV 0b01110000_0000_000101_000000_000000_000000_000_0_00_000111_0000000001000000#64 = .ok (.vld ⟨0, 5, 0, 0, 0, 0, 0, 0, 7, 64⟩) ∧
  decodeM 0b000110_0011_000000_000000_00000_00000_0_0_00000000_00000000_00000000_000000#64 = .ok (.zero ⟨3, 0, 0, 0, 0, 0, ⟨0, 0, 0, 0⟩⟩) ∧
  decodeC 0b000000_000011_000001_000010_000000_00_01_00000000_00000000_00000000_100101#64 = .ok (.cp ⟨3, 1, 2, 0, 0, 1, ⟨0, 0, 0, 0x25⟩⟩)

/-- R3, R378: over the fclk periods that have passed, the edges of clk are at most 600 in 1,200: every step keeps that bound,
whatever turn it runs, and no step takes time back. -/
def Obligations.ClocksKeepTheirRatio : Prop :=
  ∀ (s t : State), TimeInv s → step s = .next t →
    TimeInv t ∧ s.fclk ≤ t.fclk ∧ s.clk ≤ t.clk ∧ (s.agenda ≠ [] → t.fclk = s.fclk ∧ t.clk = s.clk) ∧
    (s.agenda = [] → t.fclk = s.fclk + 1 ∧ (s.svc.slow = 0 → s.acc = 0 → t.acc = 600 ∧ t.edge = false) ∧ (s.svc.slow = 0 → s.acc = 600 → t.acc = 0 ∧ t.edge = true))

/-- R3, R44, R45, R86, R136, R151, R198, R276, R360, R369: what reset leaves, where the spec gives a value: tokens, signals,
queues and counters at zero or empty, CSRs at their reset values, no program, instance, job, key or bound queue, the module not
ready, and every memory in its canonical form. That memory lists nothing is the model's choice (log entry 1). -/
def Obligations.ResetState : Prop :=
  let r := State.reset
  TimeInv r ∧ State.memWf r ∧ r.svc.ready = false ∧ r.cp.jobs = [] ∧ r.cp.keys = [] ∧ r.cp.slots = [] ∧ r.cp.qroot = 0 ∧ r.outst = [] ∧
    (∀ i, sget 0 r.cp.signals i = 0) ∧ (∀ m t, getTok r m t = ⟨false, 0⟩) ∧
    (∀ m, (getCl r m).lan.on = false ∧ (getCl r m).tasks = [] ∧ (getCl r m).shadow = none ∧
      rdCsr (getCl r m).lan.core 0xA0 = 0 ∧ rdCsr (getCl r m).lan.core 0x150 = 0x2000040 ∧ rdCsr (getCl r m).lan.core 0x151 = 0x1000000) ∧
    (∀ k, (getUnit r k).inst = none ∧ (getUnit r k).stop = none ∧
      (∀ q, sget [] (getUnit r k).queues q = []) ∧ (getUnit r k).flight = [] ∧ (getUnit r k).mx = {} ∧
      (∀ n, n < 11 → rdCsr (getUnit r k).core n = 0) ∧ rdCsr (getUnit r k).core 0x11 = 2 ∧ rdCsr (getUnit r k).core 0x20 = 0x2000)
end

