-- ==== Sys2Proof/Laws/Sparse.lean ====
section
/-! SUPPORT. Laws of sparse maps and byte memory: a read after a write, and the canonical form. -/

namespace Sys2Proof.Machine

variable {α : Type}

theorem sget_serase (d : α) (m : SMap α) (k j : Nat) : sget d (serase m k) j = if j = k then d else sget d m j := by
  induction m with
  | nil => simp [serase, sget]
  | cons p r ih =>
    obtain ⟨a, v⟩ := p
    simp only [serase, sget, List.filter_cons] at ih ⊢
    by_cases h : a = k
    · subst h; simp only [bne_self_eq_false, Bool.false_eq_true, ↓reduceIte, ih]; grind
    · simp only [bne_iff_ne, ne_eq, h, not_false_eq_true, ↓reduceIte, sget, ih]; grind

theorem sget_sput (d : α) (m : SMap α) (k j : Nat) (v : α) : sget d (sput m k v) j = if j = k then v else sget d m j := by
  induction m with
  | nil => simp [sput, sget]; grind
  | cons p r ih =>
    obtain ⟨a, w⟩ := p
    simp only [sput]
    split
    · simp only [sget]; grind
    · split <;> simp only [sget, ih] <;> grind

/-- A read of another key, under any default. -/
theorem sget_sset_ne [DecidableEq α] (d e : α) (m : SMap α) (k j : Nat) (v : α) (h : j ≠ k) : sget e (sset d m k v) j = sget e m j := by
  unfold sset
  split <;> simp [sget_serase, sget_sput, h]

/-- A read after a write. -/
@[simp] theorem sget_sset [DecidableEq α] (d : α) (m : SMap α) (k j : Nat) (v : α) :
    sget d (sset d m k v) j = if j = k then v else sget d m j := by
  unfold sset; split
  · subst v; rw [sget_serase]
  · rw [sget_sput]

@[simp] theorem sget_smod [DecidableEq α] (d : α) (m : SMap α) (k j : Nat) (f : α → α) :
    sget d (smod d m k f) j = if j = k then f (sget d m k) else sget d m j := by simp [smod]

/-- A byte read after a byte write. -/
@[simp] theorem rdByte_wrByte (m : Memory) (a b : Nat) (x : Byte) :
    rdByte (wrByte m a x) b = if b = a then x else rdByte m b := by simp [rdByte, wrByte]

/-! ## The canonical form is kept -/

theorem swf_cons [DecidableEq α] (d : α) (k : Nat) (v : α) (r : SMap α) :
    swf d ((k, v) :: r) = true ↔ v ≠ d ∧ (∀ p ∈ r, k < p.1) ∧ swf d r = true := by
  induction r generalizing k v with
  | nil => simp [swf]
  | cons p r ih =>
    obtain ⟨j, w⟩ := p
    simp only [swf, Bool.and_eq_true, bne_iff_ne, ne_eq, decide_eq_true_eq, List.mem_cons, forall_eq_or_imp]
    constructor
    · rintro ⟨h1, h2, h3⟩
      exact ⟨h1, ⟨h2, fun q hq => lt_trans h2 (((ih j w).mp h3).2.1 q hq)⟩, h3⟩
    · rintro ⟨h1, h2, h3⟩
      exact ⟨h1, h2.1, h3⟩

theorem swf_filter [DecidableEq α] (d : α) (f : Nat × α → Bool) (m : SMap α) (h : swf d m = true) : swf d (m.filter f) = true := by
  induction m with
  | nil => simpa using h
  | cons p r ih =>
    obtain ⟨k, v⟩ := p
    rw [swf_cons] at h
    rw [List.filter_cons]
    split
    · rw [swf_cons]; exact ⟨h.1, fun q hq => h.2.1 q (List.mem_of_mem_filter hq), ih h.2.2⟩
    · exact ih h.2.2

theorem swf_serase [DecidableEq α] (d : α) (m : SMap α) (k : Nat) (h : swf d m = true) : swf d (serase m k) = true := swf_filter d _ m h

theorem mem_sput (m : SMap α) (k : Nat) (v : α) (p : Nat × α) (h : p ∈ sput m k v) : p = (k, v) ∨ p ∈ m := by
  induction m with
  | nil => simpa [sput] using h
  | cons q r ih =>
    obtain ⟨j, w⟩ := q
    simp only [sput] at h
    split at h
    · simpa using h
    · split at h
      · simp only [List.mem_cons] at h ⊢; tauto
      · simp only [List.mem_cons] at h ⊢; rcases h with h | h
        · tauto
        · rcases ih h with h | h <;> tauto

theorem swf_sput [DecidableEq α] (d : α) (m : SMap α) (k : Nat) (v : α) (hv : v ≠ d) (h : swf d m = true) : swf d (sput m k v) = true := by
  induction m with
  | nil => simp [sput, swf, hv]
  | cons p r ih =>
    obtain ⟨j, w⟩ := p
    have h' := (swf_cons d j w r).mp h
    simp only [sput]
    split
    · rw [swf_cons]; refine ⟨hv, ?_, h⟩
      intro q hq; simp only [List.mem_cons] at hq
      rcases hq with rfl | hq
      · assumption
      · exact lt_trans (by assumption) (h'.2.1 q hq)
    · split
      · rw [swf_cons]; subst_vars; exact ⟨hv, h'.2.1, h'.2.2⟩
      · rw [swf_cons]; refine ⟨h'.1, ?_, ih h'.2.2⟩
        intro q hq
        rcases mem_sput r k v q hq with rfl | hq
        · simp; omega
        · exact h'.2.1 q hq

/-- Every write of a sparse map keeps its canonical form. -/
theorem swf_sset [DecidableEq α] (d : α) (m : SMap α) (k : Nat) (v : α) (h : swf d m = true) : swf d (sset d m k v) = true := by
  unfold sset
  split
  · exact swf_serase d m k h
  · exact swf_sput d m k v (by assumption) h

theorem wf_wrByte (m : Memory) (a : Nat) (b : Byte) (h : m.wf = true) : (wrByte m a b).wf = true := swf_sset _ _ _ _ h

theorem wf_wrMem (m : Memory) (a n v : Nat) (h : m.wf = true) : (wrMem m a n v).wf = true := by
  induction n generalizing a v with
  | zero => exact h
  | succ n ih => exact wf_wrByte _ _ _ (ih (a + 1) (v / 256))

/-- Two memories in canonical form that read the same at every key are equal. -/
theorem swf_ext [DecidableEq α] (d : α) (m n : SMap α) (hm : swf d m = true) (hn : swf d n = true)
    (h : ∀ k, sget d m k = sget d n k) : m = n := by
  have low : ∀ (r : SMap α) (k : Nat), (∀ p ∈ r, k < p.1) → sget d r k = d := by
    intro r k hr
    induction r with
    | nil => rfl
    | cons p r ih =>
      obtain ⟨j, w⟩ := p
      have := hr (j, w) (by simp)
      simp only [sget]
      rw [if_neg (by simp at this; omega)]
      exact ih (fun p hp => hr p (by simp [hp]))
  induction m generalizing n with
  | nil =>
    cases n with
    | nil => rfl
    | cons q r =>
      obtain ⟨j, w⟩ := q
      have := h j
      simp only [sget, ↓reduceIte] at this
      exact absurd this.symm ((swf_cons d j w r).mp hn).1
  | cons p r ih =>
    obtain ⟨k, v⟩ := p
    have hp := (swf_cons d k v r).mp hm
    cases n with
    | nil => have := h k; simp only [sget, ↓reduceIte] at this; exact absurd this hp.1
    | cons q t =>
      obtain ⟨j, w⟩ := q
      have hq := (swf_cons d j w t).mp hn
      have e : k = j := by
        rcases Nat.lt_trichotomy k j with hkj | rfl | hkj
        · have hk := h k
          simp only [sget, ↓reduceIte] at hk
          rw [if_neg (by omega), low t k (fun p hp => lt_trans hkj (hq.2.1 p hp))] at hk
          exact absurd hk hp.1
        · rfl
        · have hj := h j
          simp only [sget, ↓reduceIte] at hj
          rw [if_neg (by omega), low r j (fun p hp' => lt_trans hkj (hp.2.1 p hp'))] at hj
          exact absurd hj.symm hq.1
      subst e
      have hv := h k
      simp only [sget, ↓reduceIte] at hv
      subst hv
      congr 1
      refine ih t hp.2.2 hq.2.2 (fun i => ?_)
      by_cases hi : i = k
      · subst hi; rw [low r i hp.2.1, low t i hq.2.1]
      · have := h i
        simpa [sget, Ne.symm hi] using this

end Sys2Proof.Machine
end

