-- ==== Sys2Proof/Laws/Cp.lean ====
section
/-! SUPPORT. What the start of a command of the command processor, and the arrival of a packet, can do. -/

namespace Sys2Proof.Machine

/-- The completion of the command of this event appends its record. -/
theorem cpFinish_mkCmd (s t : State) (b : BoundQ) (st val : Nat) :
    cpFinish t (mkCmd s b s.arg.cp) st val = { t with cp := { t.cp with recs := t.cp.recs ++ [cpRec s b st val] } } := rfl

/-- What follows from how a command goes on. -/
theorem cpGo_eq (s : State) (j : Nat) (b : BoundQ) :
    modCp (putSlot s j { b with held := none }) (fun c => { c with nextId := c.nextId + 1 }) = cpGo s j b := rfl

/-- A held command that nothing refuses or holds back runs `f` on the state in which its packet has left the queue's head. -/
theorem runCmd_starts (s : State) (op : Nat) (kind : CmdKind) (named : List Nat) (f : State → CmdCtx → CmdRes) (j : Nat) (b : BoundQ)
    (h : CpStarts s op named j b) (hh : kind = .host → qdDev b.desc = false) (hs : kind = .sig → (jobOf s b.pasid).isSome = true)
    (hn : kind = .now ∨ kind = .chip → ∃ slot job, CpJob s b slot job)
    (hi : kind = .ind → jobEnded s (((jobOf s b.pasid).map Prod.fst).getD 1024) = none ∧ ((jobOf s b.pasid).isSome = true ∨ s.cp.gone.contains b.pasid = false))
    (hc : kind = .chip → switchedIn s (((jobOf s b.pasid).map Prod.fst).getD 1024) = true) :
    runCmd s op kind named f = .next (match f (cpGo s j b) ⟨j, { b with held := none }, mkCmd s b s.arg.cp, jobOf s b.pasid⟩ with
      | .done u st val => { u with cp := { u.cp with recs := u.cp.recs ++ [cpRec s b st val] } }
      | .wait u => modCp (putSlot u j b) (fun x => { x with nextId := s.cp.nextId })
      | .later u c => modCp u (fun x => { x with cmds := x.cmds ++ [c] })
      | .parked u => u) := by
  obtain ⟨h1, h2, h3, h4, h5, h6⟩ := h
  unfold runCmd
  rw [h1]
  dsimp only
  rw [if_neg (by simp [h2, h3, h4, h5])]
  have e1 : (kind == .host && (mkCmd s b s.arg.cp).dev) = false := by
    by_cases hk : kind = .host
    · simp [mkCmd, hh hk]
    · simp [hk]
  have e2 : (kind == .sig && (jobOf s b.pasid).isNone) = false := by
    by_cases hk : kind = .sig
    · have := hs hk
      simp only [Option.isNone_eq_false_iff, Bool.and_eq_false_imp]
      intro; simpa [Option.isSome_iff_ne_none] using this
    · simp [hk]
  have e3 : ((kind == .now || kind == .chip || kind == .ind) && ((jobEnded s (mkCmd s b s.arg.cp).job).isSome || ((jobOf s b.pasid).isNone && s.cp.gone.contains b.pasid))) = false := by
    by_cases hk : kind = .now ∨ kind = .chip
    · obtain ⟨slot, job, hj, he⟩ := hn hk
      simp [mkCmd, hj, he]
    · by_cases hk2 : kind = .ind
      · obtain ⟨ha, hb⟩ := hi hk2
        rcases hb with hb | hb
        · simp [mkCmd, ha, Option.isSome_iff_ne_none.mp hb]
        · have hb' : b.pasid ∉ s.cp.gone := by simpa using hb
          simp [mkCmd, ha, hb']
      · rw [not_or] at hk; simp [hk.1, hk.2, hk2]
  have e4 : ((kind == .now || kind == .chip) && (jobOf s b.pasid).isNone) = false := by
    by_cases hk : kind = .now ∨ kind = .chip
    · obtain ⟨slot, job, hj, he⟩ := hn hk
      simp [hj]
    · rw [not_or] at hk; simp [hk.1, hk.2]
  have e5 : (kind == .chip && !switchedIn s (mkCmd s b s.arg.cp).job) = false := by
    by_cases hk : kind = .chip
    · simp only [mkCmd, hc hk]; simp
    · simp [hk]
  simp only [h6, e1, e2, e3, e4, e5, Bool.or_self, Bool.false_eq_true, ↓reduceIte, cpFinish_mkCmd, cpGo_eq]
  all_goals (generalize f _ _ = r; cases r <;> rfl)

/-- What the counter of a link leaves as it stands. -/
theorem linkIn_eq (s : State) : ∃ v, linkIn s = { s with svc := v } := by
  unfold linkIn
  split
  · exact ⟨s.svc, rfl⟩
  · exact ⟨_, rfl⟩
@[simp] theorem linkIn_chip (s : State) : (linkIn s).chip = s.chip := by obtain ⟨v, h⟩ := linkIn_eq s; rw [h]
@[simp] theorem linkIn_hbm (s : State) : (linkIn s).hbm = s.hbm := by obtain ⟨v, h⟩ := linkIn_eq s; rw [h]
@[simp] theorem linkIn_host (s : State) : (linkIn s).host = s.host := by obtain ⟨v, h⟩ := linkIn_eq s; rw [h]
@[simp] theorem linkIn_cp (s : State) : (linkIn s).cp = s.cp := by obtain ⟨v, h⟩ := linkIn_eq s; rw [h]
@[simp] theorem linkIn_arg (s : State) : (linkIn s).arg = s.arg := by obtain ⟨v, h⟩ := linkIn_eq s; rw [h]
@[simp] theorem linkIn_outst (s : State) : (linkIn s).outst = s.outst := by obtain ⟨v, h⟩ := linkIn_eq s; rw [h]
@[simp] theorem linkIn_sent (s : State) : (linkIn s).sent = s.sent := by obtain ⟨v, h⟩ := linkIn_eq s; rw [h]
@[simp] theorem linkIn_partMod (s : State) : (linkIn s).partMod = s.partMod := by obtain ⟨v, h⟩ := linkIn_eq s; rw [h]
@[simp] theorem linkIn_mcr (s : State) : (linkIn s).mcr = s.mcr := by obtain ⟨v, h⟩ := linkIn_eq s; rw [h]
@[simp] theorem linkIn_fclk (s : State) : (linkIn s).fclk = s.fclk := by obtain ⟨v, h⟩ := linkIn_eq s; rw [h]
@[simp] theorem linkIn_images (s : State) : (linkIn s).images = s.images := by obtain ⟨v, h⟩ := linkIn_eq s; rw [h]

/-- A packet for this module, with its tag and key, and of an accepted form, is handled, with the link's counter advanced. -/
theorem onPacket_arrives (s : State) (ok : Packet → Bool) (f : State → Packet → State) (h : Arrives s) (hk : ok s.arg.pkt = true) :
    onPacket s ok f = .next (f (linkIn s) s.arg.pkt) := by
  obtain ⟨h1, h2, h3, -⟩ := h
  simp [onPacket, h1, h2, h3, hk]

/-- Nothing keeps a packet of the job that is switched in. -/
theorem jobGate_admitted (s : State) (h : Admitted s) : jobGate (linkIn s) s.arg.pkt = none := by
  simp [jobGate, frozen, h.1, h.2.1, show s.cp.switch.isSome = false from h.2.2]

/-- A packet of no circuit that leaves for another module is in the router of its die (R334). -/
theorem sendFrom_away (s : State) (die : Nat) (p : Packet) (h : p.dmod.toNat ≠ s.partMod) (hc : p.circ ≠ 1) :
    sendFrom s die p = { s with sent := s.sent ++ [p], inj := s.inj + 1, hops := s.hops ++ [⟨s.inj, die, 0, p, ptp s / 40 - 2⟩] } := by
  unfold sendFrom enterHop
  rw [if_neg h]
  dsimp only
  rw [if_neg (fun e => hc e.1)]

/-- An answer to another module goes to the routers (R334 to R337). -/
theorem respond_answered (s u : State) (h : Arrives s) (hu : u.partMod = s.partMod) (type st fk : Nat) (img : List (Byte × Bool)) :
    Answered s u (respond u s.arg.pkt type st fk img) type st fk (img.map Prod.fst) := by
  obtain ⟨-, -, -, h4⟩ := h
  simp only [respond, sendPkt]
  rw [sendFrom_away _ _ _ (by simpa [pkt0, hu] using h4) (by simp [pkt0])]
  refine ⟨_, rfl, rfl, rfl, rfl, rfl, rfl, rfl, rfl, rfl, rfl, ?_, ?_, rfl, rfl, rfl⟩
  · simp
  · simp [padFlits]

end Sys2Proof.Machine
end

