-- ==== Sys2Proof/Laws/State.lean ====
section
/-! SUPPORT. What each update of the state leaves alone and what reading after it gives: no later proof unfolds a record update. -/

namespace Sys2Proof.Machine

/-! ## Fields of the state after a change of the job's on-chip state -/

@[simp] theorem modChip_fclk (s : State) (f : Chip → Chip) : (modChip s f).fclk = s.fclk := rfl
@[simp] theorem modChip_clk (s : State) (f : Chip → Chip) : (modChip s f).clk = s.clk := rfl
@[simp] theorem modChip_acc (s : State) (f : Chip → Chip) : (modChip s f).acc = s.acc := rfl
@[simp] theorem modChip_edge (s : State) (f : Chip → Chip) : (modChip s f).edge = s.edge := rfl
@[simp] theorem modChip_cur (s : State) (f : Chip → Chip) : (modChip s f).cur = s.cur := rfl
@[simp] theorem modChip_arg (s : State) (f : Chip → Chip) : (modChip s f).arg = s.arg := rfl
@[simp] theorem modChip_agenda (s : State) (f : Chip → Chip) : (modChip s f).agenda = s.agenda := rfl
@[simp] theorem modChip_inputs (s : State) (f : Chip → Chip) : (modChip s f).inputs = s.inputs := rfl
@[simp] theorem modChip_draws (s : State) (f : Chip → Chip) : (modChip s f).draws = s.draws := rfl
@[simp] theorem modChip_images (s : State) (f : Chip → Chip) : (modChip s f).images = s.images := rfl
@[simp] theorem modChip_hbm (s : State) (f : Chip → Chip) : (modChip s f).hbm = s.hbm := rfl
@[simp] theorem modChip_host (s : State) (f : Chip → Chip) : (modChip s f).host = s.host := rfl
@[simp] theorem modChip_partSize (s : State) (f : Chip → Chip) : (modChip s f).partSize = s.partSize := rfl
@[simp] theorem modChip_partMod (s : State) (f : Chip → Chip) : (modChip s f).partMod = s.partMod := rfl
@[simp] theorem modChip_dims (s : State) (f : Chip → Chip) : (modChip s f).dims = s.dims := rfl
@[simp] theorem modChip_mtsRoot (s : State) (f : Chip → Chip) : (modChip s f).mtsRoot = s.mtsRoot := rfl
@[simp] theorem modChip_egrBase (s : State) (f : Chip → Chip) : (modChip s f).egrBase = s.egrBase := rfl
@[simp] theorem modChip_rpc (s : State) (f : Chip → Chip) : (modChip s f).rpc = s.rpc := rfl
@[simp] theorem modChip_rpcFail (s : State) (f : Chip → Chip) : (modChip s f).rpcFail = s.rpcFail := rfl
@[simp] theorem modChip_asker (s : State) (f : Chip → Chip) : (modChip s f).asker = s.asker := rfl
@[simp] theorem modChip_cxl (s : State) (f : Chip → Chip) : (modChip s f).cxl = s.cxl := rfl
@[simp] theorem modChip_wbLoss (s : State) (f : Chip → Chip) : (modChip s f).wbLoss = s.wbLoss := rfl
@[simp] theorem modChip_wbCount (s : State) (f : Chip → Chip) : (modChip s f).wbCount = s.wbCount := rfl
@[simp] theorem modChip_sent (s : State) (f : Chip → Chip) : (modChip s f).sent = s.sent := rfl
@[simp] theorem modChip_outst (s : State) (f : Chip → Chip) : (modChip s f).outst = s.outst := rfl
@[simp] theorem modChip_rid (s : State) (f : Chip → Chip) : (modChip s f).rid = s.rid := rfl
@[simp] theorem modChip_hops (s : State) (f : Chip → Chip) : (modChip s f).hops = s.hops := rfl
@[simp] theorem modChip_wire (s : State) (f : Chip → Chip) : (modChip s f).wire = s.wire := rfl
@[simp] theorem modChip_inj (s : State) (f : Chip → Chip) : (modChip s f).inj = s.inj := rfl
@[simp] theorem modChip_mcr (s : State) (f : Chip → Chip) : (modChip s f).mcr = s.mcr := rfl
@[simp] theorem modChip_cp (s : State) (f : Chip → Chip) : (modChip s f).cp = s.cp := rfl
@[simp] theorem modChip_svc (s : State) (f : Chip → Chip) : (modChip s f).svc = s.svc := rfl
@[simp] theorem setUnit_fclk (s : State) (k : Nat) (u : Unit) : (setUnit s k u).fclk = s.fclk := rfl
@[simp] theorem setUnit_clk (s : State) (k : Nat) (u : Unit) : (setUnit s k u).clk = s.clk := rfl
@[simp] theorem setUnit_acc (s : State) (k : Nat) (u : Unit) : (setUnit s k u).acc = s.acc := rfl
@[simp] theorem setUnit_edge (s : State) (k : Nat) (u : Unit) : (setUnit s k u).edge = s.edge := rfl
@[simp] theorem setUnit_cur (s : State) (k : Nat) (u : Unit) : (setUnit s k u).cur = s.cur := rfl
@[simp] theorem setUnit_arg (s : State) (k : Nat) (u : Unit) : (setUnit s k u).arg = s.arg := rfl
@[simp] theorem setUnit_agenda (s : State) (k : Nat) (u : Unit) : (setUnit s k u).agenda = s.agenda := rfl
@[simp] theorem setUnit_inputs (s : State) (k : Nat) (u : Unit) : (setUnit s k u).inputs = s.inputs := rfl
@[simp] theorem setUnit_draws (s : State) (k : Nat) (u : Unit) : (setUnit s k u).draws = s.draws := rfl
@[simp] theorem setUnit_images (s : State) (k : Nat) (u : Unit) : (setUnit s k u).images = s.images := rfl
@[simp] theorem setUnit_hbm (s : State) (k : Nat) (u : Unit) : (setUnit s k u).hbm = s.hbm := rfl
@[simp] theorem setUnit_host (s : State) (k : Nat) (u : Unit) : (setUnit s k u).host = s.host := rfl
@[simp] theorem setUnit_partSize (s : State) (k : Nat) (u : Unit) : (setUnit s k u).partSize = s.partSize := rfl
@[simp] theorem setUnit_partMod (s : State) (k : Nat) (u : Unit) : (setUnit s k u).partMod = s.partMod := rfl
@[simp] theorem setUnit_dims (s : State) (k : Nat) (u : Unit) : (setUnit s k u).dims = s.dims := rfl
@[simp] theorem setUnit_mtsRoot (s : State) (k : Nat) (u : Unit) : (setUnit s k u).mtsRoot = s.mtsRoot := rfl
@[simp] theorem setUnit_egrBase (s : State) (k : Nat) (u : Unit) : (setUnit s k u).egrBase = s.egrBase := rfl
@[simp] theorem setUnit_rpc (s : State) (k : Nat) (u : Unit) : (setUnit s k u).rpc = s.rpc := rfl
@[simp] theorem setUnit_rpcFail (s : State) (k : Nat) (u : Unit) : (setUnit s k u).rpcFail = s.rpcFail := rfl
@[simp] theorem setUnit_asker (s : State) (k : Nat) (u : Unit) : (setUnit s k u).asker = s.asker := rfl
@[simp] theorem setUnit_cxl (s : State) (k : Nat) (u : Unit) : (setUnit s k u).cxl = s.cxl := rfl
@[simp] theorem setUnit_wbLoss (s : State) (k : Nat) (u : Unit) : (setUnit s k u).wbLoss = s.wbLoss := rfl
@[simp] theorem setUnit_wbCount (s : State) (k : Nat) (u : Unit) : (setUnit s k u).wbCount = s.wbCount := rfl
@[simp] theorem setUnit_sent (s : State) (k : Nat) (u : Unit) : (setUnit s k u).sent = s.sent := rfl
@[simp] theorem setUnit_outst (s : State) (k : Nat) (u : Unit) : (setUnit s k u).outst = s.outst := rfl
@[simp] theorem setUnit_rid (s : State) (k : Nat) (u : Unit) : (setUnit s k u).rid = s.rid := rfl
@[simp] theorem setUnit_hops (s : State) (k : Nat) (u : Unit) : (setUnit s k u).hops = s.hops := rfl
@[simp] theorem setUnit_wire (s : State) (k : Nat) (u : Unit) : (setUnit s k u).wire = s.wire := rfl
@[simp] theorem setUnit_inj (s : State) (k : Nat) (u : Unit) : (setUnit s k u).inj = s.inj := rfl
@[simp] theorem setUnit_mcr (s : State) (k : Nat) (u : Unit) : (setUnit s k u).mcr = s.mcr := rfl
@[simp] theorem setUnit_cp (s : State) (k : Nat) (u : Unit) : (setUnit s k u).cp = s.cp := rfl
@[simp] theorem setUnit_svc (s : State) (k : Nat) (u : Unit) : (setUnit s k u).svc = s.svc := rfl
@[simp] theorem setUnit_chip_slot (s : State) (k : Nat) (u : Unit) : (setUnit s k u).chip.slot = s.chip.slot := rfl
@[simp] theorem setUnit_chip_pasid (s : State) (k : Nat) (u : Unit) : (setUnit s k u).chip.pasid = s.chip.pasid := rfl
@[simp] theorem setUnit_chip_mem (s : State) (k : Nat) (u : Unit) : (setUnit s k u).chip.mem = s.chip.mem := rfl
@[simp] theorem setUnit_chip_clusters (s : State) (k : Nat) (u : Unit) : (setUnit s k u).chip.clusters = s.chip.clusters := rfl
@[simp] theorem setUnit_chip_belfry (s : State) (k : Nat) (u : Unit) : (setUnit s k u).chip.belfry = s.chip.belfry := rfl
@[simp] theorem setUnit_chip_mcg (s : State) (k : Nat) (u : Unit) : (setUnit s k u).chip.mcg = s.chip.mcg := rfl
@[simp] theorem setUnit_chip_trace (s : State) (k : Nat) (u : Unit) : (setUnit s k u).chip.trace = s.chip.trace := rfl
@[simp] theorem setUnit_chip_ended (s : State) (k : Nat) (u : Unit) : (setUnit s k u).chip.ended = s.chip.ended := rfl
@[simp] theorem modUnit_fclk (s : State) (k : Nat) (f : Unit → Unit) : (modUnit s k f).fclk = s.fclk := rfl
@[simp] theorem modUnit_clk (s : State) (k : Nat) (f : Unit → Unit) : (modUnit s k f).clk = s.clk := rfl
@[simp] theorem modUnit_acc (s : State) (k : Nat) (f : Unit → Unit) : (modUnit s k f).acc = s.acc := rfl
@[simp] theorem modUnit_edge (s : State) (k : Nat) (f : Unit → Unit) : (modUnit s k f).edge = s.edge := rfl
@[simp] theorem modUnit_cur (s : State) (k : Nat) (f : Unit → Unit) : (modUnit s k f).cur = s.cur := rfl
@[simp] theorem modUnit_arg (s : State) (k : Nat) (f : Unit → Unit) : (modUnit s k f).arg = s.arg := rfl
@[simp] theorem modUnit_agenda (s : State) (k : Nat) (f : Unit → Unit) : (modUnit s k f).agenda = s.agenda := rfl
@[simp] theorem modUnit_inputs (s : State) (k : Nat) (f : Unit → Unit) : (modUnit s k f).inputs = s.inputs := rfl
@[simp] theorem modUnit_draws (s : State) (k : Nat) (f : Unit → Unit) : (modUnit s k f).draws = s.draws := rfl
@[simp] theorem modUnit_images (s : State) (k : Nat) (f : Unit → Unit) : (modUnit s k f).images = s.images := rfl
@[simp] theorem modUnit_hbm (s : State) (k : Nat) (f : Unit → Unit) : (modUnit s k f).hbm = s.hbm := rfl
@[simp] theorem modUnit_host (s : State) (k : Nat) (f : Unit → Unit) : (modUnit s k f).host = s.host := rfl
@[simp] theorem modUnit_partSize (s : State) (k : Nat) (f : Unit → Unit) : (modUnit s k f).partSize = s.partSize := rfl
@[simp] theorem modUnit_partMod (s : State) (k : Nat) (f : Unit → Unit) : (modUnit s k f).partMod = s.partMod := rfl
@[simp] theorem modUnit_dims (s : State) (k : Nat) (f : Unit → Unit) : (modUnit s k f).dims = s.dims := rfl
@[simp] theorem modUnit_mtsRoot (s : State) (k : Nat) (f : Unit → Unit) : (modUnit s k f).mtsRoot = s.mtsRoot := rfl
@[simp] theorem modUnit_egrBase (s : State) (k : Nat) (f : Unit → Unit) : (modUnit s k f).egrBase = s.egrBase := rfl
@[simp] theorem modUnit_rpc (s : State) (k : Nat) (f : Unit → Unit) : (modUnit s k f).rpc = s.rpc := rfl
@[simp] theorem modUnit_rpcFail (s : State) (k : Nat) (f : Unit → Unit) : (modUnit s k f).rpcFail = s.rpcFail := rfl
@[simp] theorem modUnit_asker (s : State) (k : Nat) (f : Unit → Unit) : (modUnit s k f).asker = s.asker := rfl
@[simp] theorem modUnit_cxl (s : State) (k : Nat) (f : Unit → Unit) : (modUnit s k f).cxl = s.cxl := rfl
@[simp] theorem modUnit_wbLoss (s : State) (k : Nat) (f : Unit → Unit) : (modUnit s k f).wbLoss = s.wbLoss := rfl
@[simp] theorem modUnit_wbCount (s : State) (k : Nat) (f : Unit → Unit) : (modUnit s k f).wbCount = s.wbCount := rfl
@[simp] theorem modUnit_sent (s : State) (k : Nat) (f : Unit → Unit) : (modUnit s k f).sent = s.sent := rfl
@[simp] theorem modUnit_outst (s : State) (k : Nat) (f : Unit → Unit) : (modUnit s k f).outst = s.outst := rfl
@[simp] theorem modUnit_rid (s : State) (k : Nat) (f : Unit → Unit) : (modUnit s k f).rid = s.rid := rfl
@[simp] theorem modUnit_hops (s : State) (k : Nat) (f : Unit → Unit) : (modUnit s k f).hops = s.hops := rfl
@[simp] theorem modUnit_wire (s : State) (k : Nat) (f : Unit → Unit) : (modUnit s k f).wire = s.wire := rfl
@[simp] theorem modUnit_inj (s : State) (k : Nat) (f : Unit → Unit) : (modUnit s k f).inj = s.inj := rfl
@[simp] theorem modUnit_mcr (s : State) (k : Nat) (f : Unit → Unit) : (modUnit s k f).mcr = s.mcr := rfl
@[simp] theorem modUnit_cp (s : State) (k : Nat) (f : Unit → Unit) : (modUnit s k f).cp = s.cp := rfl
@[simp] theorem modUnit_svc (s : State) (k : Nat) (f : Unit → Unit) : (modUnit s k f).svc = s.svc := rfl
@[simp] theorem modUnit_chip_slot (s : State) (k : Nat) (f : Unit → Unit) : (modUnit s k f).chip.slot = s.chip.slot := rfl
@[simp] theorem modUnit_chip_pasid (s : State) (k : Nat) (f : Unit → Unit) : (modUnit s k f).chip.pasid = s.chip.pasid := rfl
@[simp] theorem modUnit_chip_mem (s : State) (k : Nat) (f : Unit → Unit) : (modUnit s k f).chip.mem = s.chip.mem := rfl
@[simp] theorem modUnit_chip_clusters (s : State) (k : Nat) (f : Unit → Unit) : (modUnit s k f).chip.clusters = s.chip.clusters := rfl
@[simp] theorem modUnit_chip_belfry (s : State) (k : Nat) (f : Unit → Unit) : (modUnit s k f).chip.belfry = s.chip.belfry := rfl
@[simp] theorem modUnit_chip_mcg (s : State) (k : Nat) (f : Unit → Unit) : (modUnit s k f).chip.mcg = s.chip.mcg := rfl
@[simp] theorem modUnit_chip_trace (s : State) (k : Nat) (f : Unit → Unit) : (modUnit s k f).chip.trace = s.chip.trace := rfl
@[simp] theorem modUnit_chip_ended (s : State) (k : Nat) (f : Unit → Unit) : (modUnit s k f).chip.ended = s.chip.ended := rfl
@[simp] theorem setCl_fclk (s : State) (m : Nat) (c : Cluster) : (setCl s m c).fclk = s.fclk := rfl
@[simp] theorem setCl_clk (s : State) (m : Nat) (c : Cluster) : (setCl s m c).clk = s.clk := rfl
@[simp] theorem setCl_acc (s : State) (m : Nat) (c : Cluster) : (setCl s m c).acc = s.acc := rfl
@[simp] theorem setCl_edge (s : State) (m : Nat) (c : Cluster) : (setCl s m c).edge = s.edge := rfl
@[simp] theorem setCl_cur (s : State) (m : Nat) (c : Cluster) : (setCl s m c).cur = s.cur := rfl
@[simp] theorem setCl_arg (s : State) (m : Nat) (c : Cluster) : (setCl s m c).arg = s.arg := rfl
@[simp] theorem setCl_agenda (s : State) (m : Nat) (c : Cluster) : (setCl s m c).agenda = s.agenda := rfl
@[simp] theorem setCl_inputs (s : State) (m : Nat) (c : Cluster) : (setCl s m c).inputs = s.inputs := rfl
@[simp] theorem setCl_draws (s : State) (m : Nat) (c : Cluster) : (setCl s m c).draws = s.draws := rfl
@[simp] theorem setCl_images (s : State) (m : Nat) (c : Cluster) : (setCl s m c).images = s.images := rfl
@[simp] theorem setCl_hbm (s : State) (m : Nat) (c : Cluster) : (setCl s m c).hbm = s.hbm := rfl
@[simp] theorem setCl_host (s : State) (m : Nat) (c : Cluster) : (setCl s m c).host = s.host := rfl
@[simp] theorem setCl_partSize (s : State) (m : Nat) (c : Cluster) : (setCl s m c).partSize = s.partSize := rfl
@[simp] theorem setCl_partMod (s : State) (m : Nat) (c : Cluster) : (setCl s m c).partMod = s.partMod := rfl
@[simp] theorem setCl_dims (s : State) (m : Nat) (c : Cluster) : (setCl s m c).dims = s.dims := rfl
@[simp] theorem setCl_mtsRoot (s : State) (m : Nat) (c : Cluster) : (setCl s m c).mtsRoot = s.mtsRoot := rfl
@[simp] theorem setCl_egrBase (s : State) (m : Nat) (c : Cluster) : (setCl s m c).egrBase = s.egrBase := rfl
@[simp] theorem setCl_rpc (s : State) (m : Nat) (c : Cluster) : (setCl s m c).rpc = s.rpc := rfl
@[simp] theorem setCl_rpcFail (s : State) (m : Nat) (c : Cluster) : (setCl s m c).rpcFail = s.rpcFail := rfl
@[simp] theorem setCl_asker (s : State) (m : Nat) (c : Cluster) : (setCl s m c).asker = s.asker := rfl
@[simp] theorem setCl_cxl (s : State) (m : Nat) (c : Cluster) : (setCl s m c).cxl = s.cxl := rfl
@[simp] theorem setCl_wbLoss (s : State) (m : Nat) (c : Cluster) : (setCl s m c).wbLoss = s.wbLoss := rfl
@[simp] theorem setCl_wbCount (s : State) (m : Nat) (c : Cluster) : (setCl s m c).wbCount = s.wbCount := rfl
@[simp] theorem setCl_sent (s : State) (m : Nat) (c : Cluster) : (setCl s m c).sent = s.sent := rfl
@[simp] theorem setCl_outst (s : State) (m : Nat) (c : Cluster) : (setCl s m c).outst = s.outst := rfl
@[simp] theorem setCl_rid (s : State) (m : Nat) (c : Cluster) : (setCl s m c).rid = s.rid := rfl
@[simp] theorem setCl_hops (s : State) (m : Nat) (c : Cluster) : (setCl s m c).hops = s.hops := rfl
@[simp] theorem setCl_wire (s : State) (m : Nat) (c : Cluster) : (setCl s m c).wire = s.wire := rfl
@[simp] theorem setCl_inj (s : State) (m : Nat) (c : Cluster) : (setCl s m c).inj = s.inj := rfl
@[simp] theorem setCl_mcr (s : State) (m : Nat) (c : Cluster) : (setCl s m c).mcr = s.mcr := rfl
@[simp] theorem setCl_cp (s : State) (m : Nat) (c : Cluster) : (setCl s m c).cp = s.cp := rfl
@[simp] theorem setCl_svc (s : State) (m : Nat) (c : Cluster) : (setCl s m c).svc = s.svc := rfl
@[simp] theorem setCl_chip_slot (s : State) (m : Nat) (c : Cluster) : (setCl s m c).chip.slot = s.chip.slot := rfl
@[simp] theorem setCl_chip_pasid (s : State) (m : Nat) (c : Cluster) : (setCl s m c).chip.pasid = s.chip.pasid := rfl
@[simp] theorem setCl_chip_mem (s : State) (m : Nat) (c : Cluster) : (setCl s m c).chip.mem = s.chip.mem := rfl
@[simp] theorem setCl_chip_units (s : State) (m : Nat) (c : Cluster) : (setCl s m c).chip.units = s.chip.units := rfl
@[simp] theorem setCl_chip_belfry (s : State) (m : Nat) (c : Cluster) : (setCl s m c).chip.belfry = s.chip.belfry := rfl
@[simp] theorem setCl_chip_mcg (s : State) (m : Nat) (c : Cluster) : (setCl s m c).chip.mcg = s.chip.mcg := rfl
@[simp] theorem setCl_chip_trace (s : State) (m : Nat) (c : Cluster) : (setCl s m c).chip.trace = s.chip.trace := rfl
@[simp] theorem setCl_chip_ended (s : State) (m : Nat) (c : Cluster) : (setCl s m c).chip.ended = s.chip.ended := rfl
@[simp] theorem modCl_fclk (s : State) (m : Nat) (f : Cluster → Cluster) : (modCl s m f).fclk = s.fclk := rfl
@[simp] theorem modCl_clk (s : State) (m : Nat) (f : Cluster → Cluster) : (modCl s m f).clk = s.clk := rfl
@[simp] theorem modCl_acc (s : State) (m : Nat) (f : Cluster → Cluster) : (modCl s m f).acc = s.acc := rfl
@[simp] theorem modCl_edge (s : State) (m : Nat) (f : Cluster → Cluster) : (modCl s m f).edge = s.edge := rfl
@[simp] theorem modCl_cur (s : State) (m : Nat) (f : Cluster → Cluster) : (modCl s m f).cur = s.cur := rfl
@[simp] theorem modCl_arg (s : State) (m : Nat) (f : Cluster → Cluster) : (modCl s m f).arg = s.arg := rfl
@[simp] theorem modCl_agenda (s : State) (m : Nat) (f : Cluster → Cluster) : (modCl s m f).agenda = s.agenda := rfl
@[simp] theorem modCl_inputs (s : State) (m : Nat) (f : Cluster → Cluster) : (modCl s m f).inputs = s.inputs := rfl
@[simp] theorem modCl_draws (s : State) (m : Nat) (f : Cluster → Cluster) : (modCl s m f).draws = s.draws := rfl
@[simp] theorem modCl_images (s : State) (m : Nat) (f : Cluster → Cluster) : (modCl s m f).images = s.images := rfl
@[simp] theorem modCl_hbm (s : State) (m : Nat) (f : Cluster → Cluster) : (modCl s m f).hbm = s.hbm := rfl
@[simp] theorem modCl_host (s : State) (m : Nat) (f : Cluster → Cluster) : (modCl s m f).host = s.host := rfl
@[simp] theorem modCl_partSize (s : State) (m : Nat) (f : Cluster → Cluster) : (modCl s m f).partSize = s.partSize := rfl
@[simp] theorem modCl_partMod (s : State) (m : Nat) (f : Cluster → Cluster) : (modCl s m f).partMod = s.partMod := rfl
@[simp] theorem modCl_dims (s : State) (m : Nat) (f : Cluster → Cluster) : (modCl s m f).dims = s.dims := rfl
@[simp] theorem modCl_mtsRoot (s : State) (m : Nat) (f : Cluster → Cluster) : (modCl s m f).mtsRoot = s.mtsRoot := rfl
@[simp] theorem modCl_egrBase (s : State) (m : Nat) (f : Cluster → Cluster) : (modCl s m f).egrBase = s.egrBase := rfl
@[simp] theorem modCl_rpc (s : State) (m : Nat) (f : Cluster → Cluster) : (modCl s m f).rpc = s.rpc := rfl
@[simp] theorem modCl_rpcFail (s : State) (m : Nat) (f : Cluster → Cluster) : (modCl s m f).rpcFail = s.rpcFail := rfl
@[simp] theorem modCl_asker (s : State) (m : Nat) (f : Cluster → Cluster) : (modCl s m f).asker = s.asker := rfl
@[simp] theorem modCl_cxl (s : State) (m : Nat) (f : Cluster → Cluster) : (modCl s m f).cxl = s.cxl := rfl
@[simp] theorem modCl_wbLoss (s : State) (m : Nat) (f : Cluster → Cluster) : (modCl s m f).wbLoss = s.wbLoss := rfl
@[simp] theorem modCl_wbCount (s : State) (m : Nat) (f : Cluster → Cluster) : (modCl s m f).wbCount = s.wbCount := rfl
@[simp] theorem modCl_sent (s : State) (m : Nat) (f : Cluster → Cluster) : (modCl s m f).sent = s.sent := rfl
@[simp] theorem modCl_outst (s : State) (m : Nat) (f : Cluster → Cluster) : (modCl s m f).outst = s.outst := rfl
@[simp] theorem modCl_rid (s : State) (m : Nat) (f : Cluster → Cluster) : (modCl s m f).rid = s.rid := rfl
@[simp] theorem modCl_hops (s : State) (m : Nat) (f : Cluster → Cluster) : (modCl s m f).hops = s.hops := rfl
@[simp] theorem modCl_wire (s : State) (m : Nat) (f : Cluster → Cluster) : (modCl s m f).wire = s.wire := rfl
@[simp] theorem modCl_inj (s : State) (m : Nat) (f : Cluster → Cluster) : (modCl s m f).inj = s.inj := rfl
@[simp] theorem modCl_mcr (s : State) (m : Nat) (f : Cluster → Cluster) : (modCl s m f).mcr = s.mcr := rfl
@[simp] theorem modCl_cp (s : State) (m : Nat) (f : Cluster → Cluster) : (modCl s m f).cp = s.cp := rfl
@[simp] theorem modCl_svc (s : State) (m : Nat) (f : Cluster → Cluster) : (modCl s m f).svc = s.svc := rfl
@[simp] theorem modCl_chip_slot (s : State) (m : Nat) (f : Cluster → Cluster) : (modCl s m f).chip.slot = s.chip.slot := rfl
@[simp] theorem modCl_chip_pasid (s : State) (m : Nat) (f : Cluster → Cluster) : (modCl s m f).chip.pasid = s.chip.pasid := rfl
@[simp] theorem modCl_chip_mem (s : State) (m : Nat) (f : Cluster → Cluster) : (modCl s m f).chip.mem = s.chip.mem := rfl
@[simp] theorem modCl_chip_units (s : State) (m : Nat) (f : Cluster → Cluster) : (modCl s m f).chip.units = s.chip.units := rfl
@[simp] theorem modCl_chip_belfry (s : State) (m : Nat) (f : Cluster → Cluster) : (modCl s m f).chip.belfry = s.chip.belfry := rfl
@[simp] theorem modCl_chip_mcg (s : State) (m : Nat) (f : Cluster → Cluster) : (modCl s m f).chip.mcg = s.chip.mcg := rfl
@[simp] theorem modCl_chip_trace (s : State) (m : Nat) (f : Cluster → Cluster) : (modCl s m f).chip.trace = s.chip.trace := rfl
@[simp] theorem modCl_chip_ended (s : State) (m : Nat) (f : Cluster → Cluster) : (modCl s m f).chip.ended = s.chip.ended := rfl
@[simp] theorem modLan_fclk (s : State) (m : Nat) (f : Lan → Lan) : (modLan s m f).fclk = s.fclk := rfl
@[simp] theorem modLan_clk (s : State) (m : Nat) (f : Lan → Lan) : (modLan s m f).clk = s.clk := rfl
@[simp] theorem modLan_acc (s : State) (m : Nat) (f : Lan → Lan) : (modLan s m f).acc = s.acc := rfl
@[simp] theorem modLan_edge (s : State) (m : Nat) (f : Lan → Lan) : (modLan s m f).edge = s.edge := rfl
@[simp] theorem modLan_cur (s : State) (m : Nat) (f : Lan → Lan) : (modLan s m f).cur = s.cur := rfl
@[simp] theorem modLan_arg (s : State) (m : Nat) (f : Lan → Lan) : (modLan s m f).arg = s.arg := rfl
@[simp] theorem modLan_agenda (s : State) (m : Nat) (f : Lan → Lan) : (modLan s m f).agenda = s.agenda := rfl
@[simp] theorem modLan_inputs (s : State) (m : Nat) (f : Lan → Lan) : (modLan s m f).inputs = s.inputs := rfl
@[simp] theorem modLan_draws (s : State) (m : Nat) (f : Lan → Lan) : (modLan s m f).draws = s.draws := rfl
@[simp] theorem modLan_images (s : State) (m : Nat) (f : Lan → Lan) : (modLan s m f).images = s.images := rfl
@[simp] theorem modLan_hbm (s : State) (m : Nat) (f : Lan → Lan) : (modLan s m f).hbm = s.hbm := rfl
@[simp] theorem modLan_host (s : State) (m : Nat) (f : Lan → Lan) : (modLan s m f).host = s.host := rfl
@[simp] theorem modLan_partSize (s : State) (m : Nat) (f : Lan → Lan) : (modLan s m f).partSize = s.partSize := rfl
@[simp] theorem modLan_partMod (s : State) (m : Nat) (f : Lan → Lan) : (modLan s m f).partMod = s.partMod := rfl
@[simp] theorem modLan_dims (s : State) (m : Nat) (f : Lan → Lan) : (modLan s m f).dims = s.dims := rfl
@[simp] theorem modLan_mtsRoot (s : State) (m : Nat) (f : Lan → Lan) : (modLan s m f).mtsRoot = s.mtsRoot := rfl
@[simp] theorem modLan_egrBase (s : State) (m : Nat) (f : Lan → Lan) : (modLan s m f).egrBase = s.egrBase := rfl
@[simp] theorem modLan_rpc (s : State) (m : Nat) (f : Lan → Lan) : (modLan s m f).rpc = s.rpc := rfl
@[simp] theorem modLan_rpcFail (s : State) (m : Nat) (f : Lan → Lan) : (modLan s m f).rpcFail = s.rpcFail := rfl
@[simp] theorem modLan_asker (s : State) (m : Nat) (f : Lan → Lan) : (modLan s m f).asker = s.asker := rfl
@[simp] theorem modLan_cxl (s : State) (m : Nat) (f : Lan → Lan) : (modLan s m f).cxl = s.cxl := rfl
@[simp] theorem modLan_wbLoss (s : State) (m : Nat) (f : Lan → Lan) : (modLan s m f).wbLoss = s.wbLoss := rfl
@[simp] theorem modLan_wbCount (s : State) (m : Nat) (f : Lan → Lan) : (modLan s m f).wbCount = s.wbCount := rfl
@[simp] theorem modLan_sent (s : State) (m : Nat) (f : Lan → Lan) : (modLan s m f).sent = s.sent := rfl
@[simp] theorem modLan_outst (s : State) (m : Nat) (f : Lan → Lan) : (modLan s m f).outst = s.outst := rfl
@[simp] theorem modLan_rid (s : State) (m : Nat) (f : Lan → Lan) : (modLan s m f).rid = s.rid := rfl
@[simp] theorem modLan_hops (s : State) (m : Nat) (f : Lan → Lan) : (modLan s m f).hops = s.hops := rfl
@[simp] theorem modLan_wire (s : State) (m : Nat) (f : Lan → Lan) : (modLan s m f).wire = s.wire := rfl
@[simp] theorem modLan_inj (s : State) (m : Nat) (f : Lan → Lan) : (modLan s m f).inj = s.inj := rfl
@[simp] theorem modLan_mcr (s : State) (m : Nat) (f : Lan → Lan) : (modLan s m f).mcr = s.mcr := rfl
@[simp] theorem modLan_cp (s : State) (m : Nat) (f : Lan → Lan) : (modLan s m f).cp = s.cp := rfl
@[simp] theorem modLan_svc (s : State) (m : Nat) (f : Lan → Lan) : (modLan s m f).svc = s.svc := rfl
@[simp] theorem modLan_chip_slot (s : State) (m : Nat) (f : Lan → Lan) : (modLan s m f).chip.slot = s.chip.slot := rfl
@[simp] theorem modLan_chip_pasid (s : State) (m : Nat) (f : Lan → Lan) : (modLan s m f).chip.pasid = s.chip.pasid := rfl
@[simp] theorem modLan_chip_mem (s : State) (m : Nat) (f : Lan → Lan) : (modLan s m f).chip.mem = s.chip.mem := rfl
@[simp] theorem modLan_chip_units (s : State) (m : Nat) (f : Lan → Lan) : (modLan s m f).chip.units = s.chip.units := rfl
@[simp] theorem modLan_chip_belfry (s : State) (m : Nat) (f : Lan → Lan) : (modLan s m f).chip.belfry = s.chip.belfry := rfl
@[simp] theorem modLan_chip_mcg (s : State) (m : Nat) (f : Lan → Lan) : (modLan s m f).chip.mcg = s.chip.mcg := rfl
@[simp] theorem modLan_chip_trace (s : State) (m : Nat) (f : Lan → Lan) : (modLan s m f).chip.trace = s.chip.trace := rfl
@[simp] theorem modLan_chip_ended (s : State) (m : Nat) (f : Lan → Lan) : (modLan s m f).chip.ended = s.chip.ended := rfl
@[simp] theorem modMem_fclk (s : State) (f : MemSt → MemSt) : (modMem s f).fclk = s.fclk := rfl
@[simp] theorem modMem_clk (s : State) (f : MemSt → MemSt) : (modMem s f).clk = s.clk := rfl
@[simp] theorem modMem_acc (s : State) (f : MemSt → MemSt) : (modMem s f).acc = s.acc := rfl
@[simp] theorem modMem_edge (s : State) (f : MemSt → MemSt) : (modMem s f).edge = s.edge := rfl
@[simp] theorem modMem_cur (s : State) (f : MemSt → MemSt) : (modMem s f).cur = s.cur := rfl
@[simp] theorem modMem_arg (s : State) (f : MemSt → MemSt) : (modMem s f).arg = s.arg := rfl
@[simp] theorem modMem_agenda (s : State) (f : MemSt → MemSt) : (modMem s f).agenda = s.agenda := rfl
@[simp] theorem modMem_inputs (s : State) (f : MemSt → MemSt) : (modMem s f).inputs = s.inputs := rfl
@[simp] theorem modMem_draws (s : State) (f : MemSt → MemSt) : (modMem s f).draws = s.draws := rfl
@[simp] theorem modMem_images (s : State) (f : MemSt → MemSt) : (modMem s f).images = s.images := rfl
@[simp] theorem modMem_hbm (s : State) (f : MemSt → MemSt) : (modMem s f).hbm = s.hbm := rfl
@[simp] theorem modMem_host (s : State) (f : MemSt → MemSt) : (modMem s f).host = s.host := rfl
@[simp] theorem modMem_partSize (s : State) (f : MemSt → MemSt) : (modMem s f).partSize = s.partSize := rfl
@[simp] theorem modMem_partMod (s : State) (f : MemSt → MemSt) : (modMem s f).partMod = s.partMod := rfl
@[simp] theorem modMem_dims (s : State) (f : MemSt → MemSt) : (modMem s f).dims = s.dims := rfl
@[simp] theorem modMem_mtsRoot (s : State) (f : MemSt → MemSt) : (modMem s f).mtsRoot = s.mtsRoot := rfl
@[simp] theorem modMem_egrBase (s : State) (f : MemSt → MemSt) : (modMem s f).egrBase = s.egrBase := rfl
@[simp] theorem modMem_rpc (s : State) (f : MemSt → MemSt) : (modMem s f).rpc = s.rpc := rfl
@[simp] theorem modMem_rpcFail (s : State) (f : MemSt → MemSt) : (modMem s f).rpcFail = s.rpcFail := rfl
@[simp] theorem modMem_asker (s : State) (f : MemSt → MemSt) : (modMem s f).asker = s.asker := rfl
@[simp] theorem modMem_cxl (s : State) (f : MemSt → MemSt) : (modMem s f).cxl = s.cxl := rfl
@[simp] theorem modMem_wbLoss (s : State) (f : MemSt → MemSt) : (modMem s f).wbLoss = s.wbLoss := rfl
@[simp] theorem modMem_wbCount (s : State) (f : MemSt → MemSt) : (modMem s f).wbCount = s.wbCount := rfl
@[simp] theorem modMem_sent (s : State) (f : MemSt → MemSt) : (modMem s f).sent = s.sent := rfl
@[simp] theorem modMem_outst (s : State) (f : MemSt → MemSt) : (modMem s f).outst = s.outst := rfl
@[simp] theorem modMem_rid (s : State) (f : MemSt → MemSt) : (modMem s f).rid = s.rid := rfl
@[simp] theorem modMem_hops (s : State) (f : MemSt → MemSt) : (modMem s f).hops = s.hops := rfl
@[simp] theorem modMem_wire (s : State) (f : MemSt → MemSt) : (modMem s f).wire = s.wire := rfl
@[simp] theorem modMem_inj (s : State) (f : MemSt → MemSt) : (modMem s f).inj = s.inj := rfl
@[simp] theorem modMem_mcr (s : State) (f : MemSt → MemSt) : (modMem s f).mcr = s.mcr := rfl
@[simp] theorem modMem_cp (s : State) (f : MemSt → MemSt) : (modMem s f).cp = s.cp := rfl
@[simp] theorem modMem_svc (s : State) (f : MemSt → MemSt) : (modMem s f).svc = s.svc := rfl
@[simp] theorem modMem_chip_slot (s : State) (f : MemSt → MemSt) : (modMem s f).chip.slot = s.chip.slot := rfl
@[simp] theorem modMem_chip_pasid (s : State) (f : MemSt → MemSt) : (modMem s f).chip.pasid = s.chip.pasid := rfl
@[simp] theorem modMem_chip_units (s : State) (f : MemSt → MemSt) : (modMem s f).chip.units = s.chip.units := rfl
@[simp] theorem modMem_chip_clusters (s : State) (f : MemSt → MemSt) : (modMem s f).chip.clusters = s.chip.clusters := rfl
@[simp] theorem modMem_chip_belfry (s : State) (f : MemSt → MemSt) : (modMem s f).chip.belfry = s.chip.belfry := rfl
@[simp] theorem modMem_chip_mcg (s : State) (f : MemSt → MemSt) : (modMem s f).chip.mcg = s.chip.mcg := rfl
@[simp] theorem modMem_chip_trace (s : State) (f : MemSt → MemSt) : (modMem s f).chip.trace = s.chip.trace := rfl
@[simp] theorem modMem_chip_ended (s : State) (f : MemSt → MemSt) : (modMem s f).chip.ended = s.chip.ended := rfl

/-! ## Agents after a change -/

theorem getUnit_setUnit (s : State) (k j : Nat) (u : Unit) : getUnit (setUnit s k u) j = if j = k then u else getUnit s j := by
  simp [getUnit, setUnit]
theorem getUnit_modUnit (s : State) (k j : Nat) (f : Unit → Unit) : getUnit (modUnit s k f) j = if j = k then f (getUnit s k) else getUnit s j := by
  simp [modUnit, getUnit_setUnit]
@[simp] theorem getUnit_setUnit_self (s : State) (k : Nat) (u : Unit) : getUnit (setUnit s k u) k = u := by simp [getUnit_setUnit]
@[simp] theorem getUnit_modUnit_self (s : State) (k : Nat) (f : Unit → Unit) : getUnit (modUnit s k f) k = f (getUnit s k) := by simp [getUnit_modUnit]
theorem getCl_setCl (s : State) (m j : Nat) (c : Cluster) : getCl (setCl s m c) j = if j = m then c else getCl s j := by
  simp [getCl, setCl]
theorem getCl_modCl (s : State) (m j : Nat) (f : Cluster → Cluster) : getCl (modCl s m f) j = if j = m then f (getCl s m) else getCl s j := by
  simp [modCl, getCl_setCl]
theorem getCl_modLan (s : State) (m j : Nat) (f : Lan → Lan) :
    getCl (modLan s m f) j = if j = m then { getCl s m with lan := f (getCl s m).lan } else getCl s j := by
  simp [modLan, getCl_modCl]
@[simp] theorem getCl_setCl_self (s : State) (m : Nat) (c : Cluster) : getCl (setCl s m c) m = c := by simp [getCl_setCl]
@[simp] theorem getCl_modCl_self (s : State) (m : Nat) (f : Cluster → Cluster) : getCl (modCl s m f) m = f (getCl s m) := by simp [getCl_modCl]
@[simp] theorem getCl_modLan_self (s : State) (m : Nat) (f : Lan → Lan) : getCl (modLan s m f) m = { getCl s m with lan := f (getCl s m).lan } := by
  simp [getCl_modLan]
@[simp] theorem getUnit_setCl (s : State) (m k : Nat) (c : Cluster) : getUnit (setCl s m c) k = getUnit s k := rfl
@[simp] theorem getUnit_modCl (s : State) (m k : Nat) (f : Cluster → Cluster) : getUnit (modCl s m f) k = getUnit s k := rfl
@[simp] theorem getUnit_modLan (s : State) (m k : Nat) (f : Lan → Lan) : getUnit (modLan s m f) k = getUnit s k := rfl
@[simp] theorem getUnit_modMem (s : State) (k : Nat) (f : MemSt → MemSt) : getUnit (modMem s f) k = getUnit s k := rfl
@[simp] theorem getCl_setUnit (s : State) (m k : Nat) (u : Unit) : getCl (setUnit s k u) m = getCl s m := rfl
@[simp] theorem getCl_modUnit (s : State) (m k : Nat) (f : Unit → Unit) : getCl (modUnit s k f) m = getCl s m := rfl
@[simp] theorem getCl_modMem (s : State) (m : Nat) (f : MemSt → MemSt) : getCl (modMem s f) m = getCl s m := rfl
@[simp] theorem modMem_mem (s : State) (f : MemSt → MemSt) : (modMem s f).chip.mem = f s.chip.mem := rfl
@[simp] theorem touchAll_nil (s : State) : touchAll s [] = s := rfl

/-! ## A stream after a change -/

@[simp] theorem wrS_pc (c : Core) (r : Nat) (v : W64) : (wrS c r v).pc = c.pc := by unfold wrS; split <;> rfl
@[simp] theorem wrS_delay (c : Core) (r : Nat) (v : W64) : (wrS c r v).delay = c.delay := by unfold wrS; split <;> rfl
@[simp] theorem wrS_after (c : Core) (r : Nat) (v : W64) : (wrS c r v).after = c.after := by unfold wrS; split <;> rfl
@[simp] theorem wrS_tw (c : Core) (r : Nat) (v : W64) : (wrS c r v).tw = c.tw := by unfold wrS; split <;> rfl
@[simp] theorem wrS_md (c : Core) (r : Nat) (v : W64) : (wrS c r v).md = c.md := by unfold wrS; split <;> rfl
@[simp] theorem wrS_tags (c : Core) (r : Nat) (v : W64) : (wrS c r v).tags = c.tags := by unfold wrS; split <;> rfl
@[simp] theorem wrS_dest (c : Core) (r : Nat) (v : W64) : (wrS c r v).dest = c.dest := by unfold wrS; split <;> rfl
@[simp] theorem wrS_freed (c : Core) (r : Nat) (v : W64) : (wrS c r v).freed = c.freed := by unfold wrS; split <;> rfl
@[simp] theorem wrS_gen (c : Core) (r : Nat) (v : W64) : (wrS c r v).gen = c.gen := by unfold wrS; split <;> rfl
@[simp] theorem wrS_csr (c : Core) (r : Nat) (v : W64) : (wrS c r v).csr = c.csr := by unfold wrS; split <;> rfl
@[simp] theorem wrCsr_pc (c : Core) (n : Nat) (v : W64) : (wrCsr c n v).pc = c.pc := rfl
@[simp] theorem wrCsr_delay (c : Core) (n : Nat) (v : W64) : (wrCsr c n v).delay = c.delay := rfl
@[simp] theorem wrCsr_after (c : Core) (n : Nat) (v : W64) : (wrCsr c n v).after = c.after := rfl
@[simp] theorem wrCsr_tw (c : Core) (n : Nat) (v : W64) : (wrCsr c n v).tw = c.tw := rfl
@[simp] theorem wrCsr_sreg (c : Core) (n : Nat) (v : W64) : (wrCsr c n v).sreg = c.sreg := rfl
@[simp] theorem wrCsr_md (c : Core) (n : Nat) (v : W64) : (wrCsr c n v).md = c.md := rfl
@[simp] theorem wrCsr_tags (c : Core) (n : Nat) (v : W64) : (wrCsr c n v).tags = c.tags := rfl
@[simp] theorem wrCsr_dest (c : Core) (n : Nat) (v : W64) : (wrCsr c n v).dest = c.dest := rfl
@[simp] theorem wrCsr_freed (c : Core) (n : Nat) (v : W64) : (wrCsr c n v).freed = c.freed := rfl
@[simp] theorem wrCsr_gen (c : Core) (n : Nat) (v : W64) : (wrCsr c n v).gen = c.gen := rfl
@[simp] theorem setMeta_pc (c : Core) (h : Nat) (x : Meta) : (setMeta c h x).pc = c.pc := by unfold setMeta; split <;> rfl
@[simp] theorem setMeta_delay (c : Core) (h : Nat) (x : Meta) : (setMeta c h x).delay = c.delay := by unfold setMeta; split <;> rfl
@[simp] theorem setMeta_after (c : Core) (h : Nat) (x : Meta) : (setMeta c h x).after = c.after := by unfold setMeta; split <;> rfl
@[simp] theorem setMeta_tw (c : Core) (h : Nat) (x : Meta) : (setMeta c h x).tw = c.tw := by unfold setMeta; split <;> rfl
@[simp] theorem setMeta_sreg (c : Core) (h : Nat) (x : Meta) : (setMeta c h x).sreg = c.sreg := by unfold setMeta; split <;> rfl
@[simp] theorem setMeta_tags (c : Core) (h : Nat) (x : Meta) : (setMeta c h x).tags = c.tags := by unfold setMeta; split <;> rfl
@[simp] theorem setMeta_dest (c : Core) (h : Nat) (x : Meta) : (setMeta c h x).dest = c.dest := by unfold setMeta; split <;> rfl
@[simp] theorem setMeta_freed (c : Core) (h : Nat) (x : Meta) : (setMeta c h x).freed = c.freed := by unfold setMeta; split <;> rfl
@[simp] theorem setMeta_gen (c : Core) (h : Nat) (x : Meta) : (setMeta c h x).gen = c.gen := by unfold setMeta; split <;> rfl
@[simp] theorem setMeta_csr (c : Core) (h : Nat) (x : Meta) : (setMeta c h x).csr = c.csr := by unfold setMeta; split <;> rfl
@[simp] theorem bump_pc (c : Core) (n k : Nat) : (bump c n k).pc = c.pc := rfl
@[simp] theorem bump_delay (c : Core) (n k : Nat) : (bump c n k).delay = c.delay := rfl
@[simp] theorem bump_after (c : Core) (n k : Nat) : (bump c n k).after = c.after := rfl
@[simp] theorem bump_tw (c : Core) (n k : Nat) : (bump c n k).tw = c.tw := rfl
@[simp] theorem bump_sreg (c : Core) (n k : Nat) : (bump c n k).sreg = c.sreg := rfl
@[simp] theorem bump_md (c : Core) (n k : Nat) : (bump c n k).md = c.md := rfl
@[simp] theorem bump_tags (c : Core) (n k : Nat) : (bump c n k).tags = c.tags := rfl
@[simp] theorem bump_dest (c : Core) (n k : Nat) : (bump c n k).dest = c.dest := rfl
@[simp] theorem bump_freed (c : Core) (n k : Nat) : (bump c n k).freed = c.freed := rfl
@[simp] theorem bump_gen (c : Core) (n k : Nat) : (bump c n k).gen = c.gen := rfl
@[simp] theorem goOn_tw (c : Core) (n : Nat) : (goOn c n).tw = c.tw := by unfold goOn; split <;> rfl
@[simp] theorem goOn_sreg (c : Core) (n : Nat) : (goOn c n).sreg = c.sreg := by unfold goOn; split <;> rfl
@[simp] theorem goOn_md (c : Core) (n : Nat) : (goOn c n).md = c.md := by unfold goOn; split <;> rfl
@[simp] theorem goOn_tags (c : Core) (n : Nat) : (goOn c n).tags = c.tags := by unfold goOn; split <;> rfl
@[simp] theorem goOn_dest (c : Core) (n : Nat) : (goOn c n).dest = c.dest := by unfold goOn; split <;> rfl
@[simp] theorem goOn_freed (c : Core) (n : Nat) : (goOn c n).freed = c.freed := by unfold goOn; split <;> rfl
@[simp] theorem goOn_gen (c : Core) (n : Nat) : (goOn c n).gen = c.gen := by unfold goOn; split <;> rfl
@[simp] theorem goOn_csr (c : Core) (n : Nat) : (goOn c n).csr = c.csr := by unfold goOn; split <;> rfl

theorem rdS_wrS (c : Core) (r q : Nat) (v : W64) : rdS (wrS c r v) q = if q = r then (if r = 0 then 0 else v) else rdS c q := by
  by_cases h : r = 0 <;> by_cases g : q = 0 <;> by_cases e : q = r <;> simp_all [rdS, wrS]
theorem rdCsr_wrCsr (c : Core) (n j : Nat) (v : W64) : rdCsr (wrCsr c n v) j = if j = n then v else rdCsr c j := by
  by_cases e : j = n
  · subst e; simp [rdCsr, wrCsr]
  · simp [rdCsr, wrCsr, sget_sset_ne _ _ _ _ _ _ e, e]
theorem hmeta_setMeta (c : Core) (h j : Nat) (x : Meta) : hmeta (setMeta c h x) j = if j = h ∧ holds h then x else hmeta c j := by
  by_cases e : j = h <;> by_cases g : holds h <;> by_cases g' : holds j <;> simp_all [hmeta, setMeta]

@[simp] theorem rdS_setMeta (c : Core) (h r : Nat) (x : Meta) : rdS (setMeta c h x) r = rdS c r := by simp [rdS]
@[simp] theorem rdS_wrCsr (c : Core) (n r : Nat) (v : W64) : rdS (wrCsr c n v) r = rdS c r := rfl
@[simp] theorem rdS_bump (c : Core) (n k r : Nat) : rdS (bump c n k) r = rdS c r := rfl
@[simp] theorem rdS_goOn (c : Core) (n r : Nat) : rdS (goOn c n) r = rdS c r := by simp [rdS]
@[simp] theorem rdCsr_setMeta (c : Core) (h n : Nat) (x : Meta) : rdCsr (setMeta c h x) n = rdCsr c n := by simp [rdCsr]
@[simp] theorem rdCsr_wrS (c : Core) (r n : Nat) (v : W64) : rdCsr (wrS c r v) n = rdCsr c n := by simp [rdCsr]
@[simp] theorem rdCsr_goOn (c : Core) (k n : Nat) : rdCsr (goOn c k) n = rdCsr c n := by simp [rdCsr]
@[simp] theorem hmeta_wrS (c : Core) (r h : Nat) (v : W64) : hmeta (wrS c r v) h = hmeta c h := by simp [hmeta]
@[simp] theorem hmeta_wrCsr (c : Core) (n h : Nat) (v : W64) : hmeta (wrCsr c n v) h = hmeta c h := rfl
@[simp] theorem hmeta_bump (c : Core) (n k h : Nat) : hmeta (bump c n k) h = hmeta c h := rfl
@[simp] theorem hmeta_goOn (c : Core) (n h : Nat) : hmeta (goOn c n) h = hmeta c h := by simp [hmeta]
theorem rdCsr_bump (c : Core) (n k j : Nat) : rdCsr (bump c n k) j = if j = n then rdCsr c n + BitVec.ofNat 64 k else rdCsr c j := rdCsr_wrCsr ..

end Sys2Proof.Machine
end

