-- ==== Sys2Proof/Laws/Memory.lean ====
section
/-! SUPPORT. Byte memory: what a write of several bytes leaves, and that every memory operation keeps the canonical form. -/

namespace Sys2Proof.Machine

theorem toBytes_length (v n : Nat) : (toBytes v n).length = n := by
  induction n generalizing v with
  | zero => rfl
  | succ n ih => simp [toBytes, ih]

/-- Writes of bytes at rising addresses: the last that names an address decides. -/
theorem rdByte_foldl_mapIdx (img : List (Byte × Bool)) (m : Memory) (a i : Nat) :
    rdByte ((img.mapIdx (fun j b => (a + j, b.1, b.2))).foldl (fun x w => wrByte x w.1 w.2.1) m) i
      = if h : a ≤ i ∧ i < a + img.length then (img[i - a]'(by omega)).1 else rdByte m i := by
  induction img generalizing a m with
  | nil => simp
  | cons b r ih =>
    rw [List.mapIdx_cons, List.foldl_cons]
    have e : (List.mapIdx (fun j (b : Byte × Bool) => (a + (j + 1), b.1, b.2)) r) = List.mapIdx (fun j b => (a + 1 + j, b.1, b.2)) r := by
      congr 1; funext j b; rw [Nat.add_assoc, Nat.add_comm 1 j]
    rw [e, ih]
    simp only [Nat.add_zero, rdByte_wrByte, List.length_cons]
    by_cases h0 : i = a
    · subst h0; simp
    · by_cases h1 : a + 1 ≤ i ∧ i < a + 1 + r.length
      · rw [dif_pos h1, dif_pos (by omega)]
        have : i - a = (i - (a + 1)) + 1 := by omega
        simp [this]
      · rw [dif_neg h1, dif_neg (by omega), if_neg h0]

/-- A byte read after consecutive bytes are written. -/
theorem rdByte_writeImg (m : MemSt) (a i : Nat) (img : List (Byte × Bool)) :
    rdByte (writeImg m a img).cells i = if h : a ≤ i ∧ i < a + img.length then (img[i - a]'(by omega)).1 else rdByte m.cells i :=
  rdByte_foldl_mapIdx img m.cells a i

theorem toBytes_getElem (v n j : Nat) (h : j < n) : (toBytes v n)[j]'(by rw [toBytes_length]; exact h) = BitVec.ofNat 8 (v / 256 ^ j) := by
  induction n generalizing v j with
  | zero => omega
  | succ n ih =>
    cases j with
    | zero => simp [toBytes]
    | succ j =>
      simp only [toBytes, List.getElem_cons_succ]
      rw [ih (v / 256) j (by omega), Nat.div_div_eq_div_mul, Nat.pow_succ, Nat.mul_comm]

/-- A byte read after the low bytes of a register are written: the register's bytes, lowest first. -/
theorem rdByte_writeReg (m : MemSt) (a i n : Nat) (v : W64) :
    rdByte (writeImg m a ((toBytes v.toNat n).map (fun b => (b, false)))).cells i
      = if a ≤ i ∧ i < a + n then v.extractLsb' (8 * (i - a)) 8 else rdByte m.cells i := by
  rw [rdByte_writeImg]
  simp only [List.length_map, toBytes_length]
  by_cases h : a ≤ i ∧ i < a + n
  · rw [dif_pos h, if_pos h]
    simp only [List.getElem_map]
    rw [toBytes_getElem _ _ _ (by omega)]
    apply BitVec.eq_of_toNat_eq
    simp [BitVec.extractLsb'_toNat, Nat.shiftRight_eq_div_pow, Nat.pow_mul]
  · rw [dif_neg h, if_neg h]

theorem wf_foldl_wrByte {β : Type} (l : List β) (f : β → Nat) (g : β → Byte) (m : Memory) (h : m.wf = true) :
    (l.foldl (fun x w => wrByte x (f w) (g w)) m).wf = true := by
  induction l generalizing m with
  | nil => exact h
  | cons b r ih => exact ih _ (wf_wrByte m _ _ h)

theorem swf_foldl_sset {α β : Type} [DecidableEq α] (d : α) (l : List β) (f : SMap α → β → SMap α)
    (hf : ∀ x b, swf d x = true → swf d (f x b) = true) (m : SMap α) (h : swf d m = true) : swf d (l.foldl f m) = true := by
  induction l generalizing m with
  | nil => exact h
  | cons b r ih => exact ih _ (hf m b h)

/-- A write of bytes keeps the canonical form of memory and of its poison bits. -/
theorem wf_writeSet (m : MemSt) (ws : List (Nat × Byte × Bool)) (h : m.wf = true) : (writeSet m ws).wf = true := by
  simp only [MemSt.wf, Bool.and_eq_true] at h ⊢
  refine ⟨wf_foldl_wrByte ws _ _ _ h.1, swf_foldl_sset false _ _ ?_ _ h.2⟩
  intro x b hx
  dsimp only
  split
  · exact swf_sset _ _ _ _ hx
  · split
    · exact swf_sset _ _ _ _ hx
    · exact hx

theorem wf_writeImg (m : MemSt) (a : Nat) (img : List (Byte × Bool)) (h : m.wf = true) : (writeImg m a img).wf = true := wf_writeSet m _ h

theorem wf_writeNat (m : MemSt) (a n v : Nat) (h : m.wf = true) : (writeNat m a n v).wf = true := wf_writeImg m _ _ h

theorem wf_setPsn (m : MemSt) (sec : Nat) (b : Bool) (h : m.wf = true) : (setPsn m sec b).wf = true := by
  simp only [MemSt.wf, Bool.and_eq_true] at h ⊢
  exact ⟨h.1, swf_sset _ _ _ _ h.2⟩

/-- A read that meets the error codes changes no byte. -/
theorem touch_cells (m : MemSt) (a n : Nat) : (touch m a n).1.cells = m.cells := by
  unfold touch
  split
  · rfl
  · dsimp only
    split <;> rfl

theorem wf_touch (m : MemSt) (a n : Nat) (h : m.wf = true) : (touch m a n).1.wf = true := by
  unfold touch
  split
  · exact h
  · dsimp only
    split
    · exact h
    · simp only [MemSt.wf, Bool.and_eq_true] at h ⊢
      exact ⟨h.1, swf_foldl_sset false _ _ (fun x b hx => swf_sset _ _ _ _ hx) _ h.2⟩

/-- Counting errors changes no memory. -/
@[simp] theorem countErr_mem (s : State) (a ce ue : Nat) : (countErr s a ce ue).chip.mem = s.chip.mem := by
  unfold countErr
  split
  · rfl
  · dsimp only [modCore]
    split
    · rfl
    · split
      · rfl
      · split <;> rfl
@[simp] theorem countErr_hbm (s : State) (a ce ue : Nat) : (countErr s a ce ue).hbm = s.hbm := by
  unfold countErr
  split
  · rfl
  · dsimp only [modCore]
    split
    · rfl
    · split
      · rfl
      · split <;> rfl
@[simp] theorem countErr_host (s : State) (a ce ue : Nat) : (countErr s a ce ue).host = s.host := by
  unfold countErr
  split
  · rfl
  · dsimp only [modCore]
    split
    · rfl
    · split
      · rfl
      · split <;> rfl

theorem touchChip_mem (s : State) (a n : Nat) : (touchChip s a n).chip.mem = (touch s.chip.mem a n).1 := by simp [touchChip, modChip]
@[simp] theorem touchChip_cells (s : State) (a n : Nat) : (touchChip s a n).chip.mem.cells = s.chip.mem.cells := by
  rw [touchChip_mem, touch_cells]
@[simp] theorem touchChip_hbm (s : State) (a n : Nat) : (touchChip s a n).hbm = s.hbm := by simp [touchChip, modChip]
@[simp] theorem touchChip_host (s : State) (a n : Nat) : (touchChip s a n).host = s.host := by simp [touchChip, modChip]

/-- A read of on-chip memory answers its bytes in order. -/
theorem readLoc_chip (s : State) (a n : Nat) : (readLoc s (.chip a) n).1.map Prod.fst = (List.range n).map (fun j => rdByte s.chip.mem.cells (a + j)) := by
  simp [readLoc, rdImg]

/-- The memory after reset is in canonical form. -/
theorem reset_memWf : MemSt.wf State.reset.chip.mem = true ∧ MemSt.wf State.reset.hbm = true ∧ MemSt.wf State.reset.host = true := by decide

end Sys2Proof.Machine
end

