-- ==== Sys2Proof/Laws/Word.lean ====
section
/-! SUPPORT. One instruction word: what running it comes to where nothing stops it. -/

namespace Sys2Proof.Machine

theorem chk_cause_none (c : Chk) (h : c.ok = true) : c.cause = none := by
  rcases c with ⟨a, b, d⟩
  cases a <;> cases b <;> cases d <;> simp_all [Chk.ok, Chk.cause]

theorem lanRun_free (s : State) (m : Nat) (sem : Sem) (o : SlotOut) (ho : sem (lanView s m) = o)
    (hc : o.chk.ok = true) (ht : o.trap = none) (h : lanFree s m o = true) : lanRun s m none sem = lanDid s m o := by
  simp only [lanFree, Bool.and_eq_true, Bool.not_eq_true', Option.isNone_iff_eq_none] at h
  obtain ⟨⟨⟨⟨h1, h2⟩, h3⟩, h4⟩, h5⟩ := h
  have e : lanCause s m none o = none := by
    simp only [lanCause, h1, h2, h3, h4, ht, chk_cause_none _ hc]
    rfl
  have eo : lanOut s m sem = o := ho
  unfold lanRun
  simp only [eo, e, h4, h5]
  all_goals rfl

theorem bunOuts_solo (s : State) (k slot : Nat) (own : Option Nat) (sem : Sem) (link : Nat) :
    bunOuts s k ⟨(getUnit s k).core.pc, if slot = 0 then 8 else 12, false, 0, [], none, [⟨slot, own, sem⟩]⟩ link
      = [(⟨slot, own, sem⟩, sem ⟨s, s, .unit (BitVec.ofNat 8 k), (getUnit s k).core, getUnit s k, slot, (getUnit s k).core.pc, link, false, []⟩)] := rfl

theorem bunCheck_ok (x : SlotIn) (o : SlotOut) (h : o.chk.ok = true) : bunCheck [(x, o)] = none := by
  rcases o with ⟨⟩
  rename_i chk _ _ _ _ _ _ _ _
  rcases chk with ⟨a, b, d⟩
  cases a <;> cases b <;> cases d <;> simp_all [Chk.ok, bunCheck]

/-- Only the slot number of an instruction decides how its bundle is held. -/
theorem bunHeld_sem (s : State) (k a n slot : Nat) (p q : Sem) (o : SlotOut) :
    bunHeld s k ⟨a, n, false, 0, [], none, [⟨slot, none, p⟩]⟩ [(⟨slot, none, p⟩, o)]
      = bunHeld s k ⟨a, n, false, 0, [], none, [⟨slot, none, q⟩]⟩ [(⟨slot, none, q⟩, o)] := rfl

theorem bunIssue_sem (s : State) (k a n slot : Nat) (p q : Sem) (o : SlotOut) :
    bunIssue s k ⟨a, n, false, 0, [], none, [⟨slot, none, p⟩]⟩ [(⟨slot, none, p⟩, o)]
      = bunIssue s k ⟨a, n, false, 0, [], none, [⟨slot, none, q⟩]⟩ [(⟨slot, none, q⟩, o)] := by
  unfold bunIssue
  simp only [List.find?_cons]
  cases (o.ctl != .seq) <;> rfl

theorem twNamed_sem (c : Core) (a n slot : Nat) (p q : Sem) (o : SlotOut) :
    twNamed c ⟨a, n, false, 0, [], none, [⟨slot, none, p⟩]⟩ [(⟨slot, none, p⟩, o)]
      = twNamed c ⟨a, n, false, 0, [], none, [⟨slot, none, q⟩]⟩ [(⟨slot, none, q⟩, o)] := rfl

theorem bunRun_free (s : State) (k slot : Nat) (sem : Sem) (o : SlotOut) (ho : sem (soloView s k slot) = o)
    (hc : o.chk.ok = true) (h : soloFree s k slot o = true) :
    bunRun s k ⟨(getUnit s k).core.pc, if slot = 0 then 8 else 12, false, 0, [], none, [⟨slot, none, sem⟩]⟩
      (unitLink s k (codeAddr ((getUnit s k).core.pc + (if slot = 0 then 8 else 12 : Nat)))) = unitDid s k slot o := by
  simp only [soloFree, Bool.and_eq_true, Bool.not_eq_true', Option.isNone_iff_eq_none, beq_iff_eq] at h
  obtain ⟨⟨h1, h2⟩, h3⟩ := h
  simp only [soloView] at ho
  unfold bunRun
  simp only [bunOuts_solo, ho, List.flatMap_cons, List.flatMap_nil, List.append_nil, bunCheck_ok _ o hc]
  have e1 : firstCase (bunCases (getUnit s k) ⟨(getUnit s k).core.pc, if slot = 0 then 8 else 12, false, 0, [], none, [⟨slot, none, sem⟩]⟩
    [(⟨slot, none, sem⟩, o)]) = none := h1
  simp only [e1, h3]
  simp only [soloBundle] at h2
  simp only [bunHeld_sem _ k _ _ slot sem (fun _ => o) o, bunIssue_sem _ k _ _ slot sem (fun _ => o) o,
    twNamed_sem _ _ _ slot sem (fun _ => o) o, h2, unitDid, soloBundle]
  rfl

/-- What the issue of a one-slot bundle changes in its unit before the instruction's effect. -/
def soloStart (s : State) (k : Nat) (o : SlotOut) : State :=
  modUnit s k (fun u => { u with
    core := { u.core with tw := none }
    flight := u.flight.map (fun f => { f with r := f.r - 1 })
    owed := none
    divFree := if o.div then s.clk + 20 else u.divFree
    inst := u.inst.map (fun i => { i with first := false }) })

/-- A unit after its instruction's effect: one more bundle, counted. -/
def soloEnd (s : State) (k : Nat) : State := modUnit s k (fun u => { u with core := bump u.core 1 1, bundle := u.bundle + 1 })

/-- The bundle at a unit's pc has taken the tags that it waits for. -/
def soloNamed (s : State) (k slot : Nat) (o : SlotOut) : State :=
  modUnit s k (fun u => { u with core := { u.core with tw := some (u.core.tw.getD
    (twNamed u.core (soloBundle (getUnit s k) slot ⟨slot, none, fun _ => o⟩) [(⟨slot, none, fun _ => o⟩, o)])) } })

/-- A one-slot bundle that issues, step by step. -/
theorem unitDid_eq (s : State) (k slot : Nat) (o : SlotOut) (hf : o.finds = []) (hp : o.pops = []) :
    unitDid s k slot o = bunControl (soloEnd (o.eff (soloStart (soloNamed s k slot o) k o)) k) k
      (soloBundle (getUnit s k) slot ⟨slot, none, fun _ => o⟩) o.ctl := by
  simp only [unitDid, hf, touchAll_nil]
  unfold bunIssue
  have hc : ([((⟨slot, none, fun _ => o⟩ : SlotIn), o)].find? (fun o => o.2.ctl != .seq)).elim .seq (fun o => o.2.ctl) = o.ctl := by
    simp only [List.find?_cons, List.find?_nil]
    by_cases h : o.ctl = .seq
    · simp [h]
    · simp [bne_iff_ne.mpr h]
  simp only [hc]
  simp [hp, soloEnd, soloStart, soloNamed, takePops, takeWaits, ageFlights, soloBundle]

/-- A word that runs to its effect: what its meaning comes to. -/
theorem runOne_free (i : Instr) (slot : Nat) (sem : Sem) (s : State) (o : SlotOut)
    (ho : sem (hereView s slot) = o) (h : wordFree s i slot o = true) : runOne i slot sem s = .next (wordDid s slot o) := by
  simp only [wordFree, Bool.and_eq_true, Option.isNone_iff_eq_none] at h
  obtain ⟨⟨⟨h1, h2⟩, h3⟩, h4⟩ := h
  unfold runOne wordDid
  rw [h1]
  cases hg : s.cur <;> simp only [hg, hereView] at h4 ho ⊢
  · rw [lanRun_free s _ sem o ho h2 h3 h4]
  · rw [bunRun_free s _ slot sem o ho h2 h4]

@[simp] theorem hereView_s (s : State) (slot : Nat) : (hereView s slot).s = s := by unfold hereView; cases s.cur <;> rfl
@[simp] theorem hereView_st (s : State) (slot : Nat) : (hereView s slot).st = s := by unfold hereView; cases s.cur <;> rfl
@[simp] theorem hereView_g (s : State) (slot : Nat) : (hereView s slot).g = s.cur := by
  unfold hereView; cases s.cur <;> simp [lanView, soloView]
@[simp] theorem hereView_core (s : State) (slot : Nat) : (hereView s slot).core = here s := by
  unfold hereView here; cases s.cur <;> rfl
@[simp] theorem hereView_u (s : State) (slot : Nat) : (hereView s slot).u = hereUnit s := by
  unfold hereView hereUnit; cases s.cur <;> rfl
@[simp] theorem hereView_addr (s : State) (slot : Nat) : (hereView s slot).addr = (here s).pc := by
  unfold hereView here; cases s.cur <;> rfl
@[simp] theorem hereView_pops (s : State) (slot : Nat) : (hereView s slot).pops = [] := by
  unfold hereView; cases s.cur <;> rfl
@[simp] theorem hereView_loopend (s : State) (slot : Nat) : (hereView s slot).loopend = false := by
  unfold hereView; cases s.cur <;> rfl
@[simp] theorem hereView_sr (s : State) (slot : Nat) (r : Reg) : (hereView s slot).sr r = reg s r := by
  simp [View.sr, reg]
@[simp] theorem hereView_lan (s : State) (slot : Nat) : (hereView s slot).lan = onLan s := by
  unfold View.lan onLan; rw [hereView_g]; all_goals (cases s.cur <;> rfl)
@[simp] theorem hereView_base (s : State) (slot : Nat) : (hereView s slot).base = padBase s := by
  unfold View.base padBase; rw [hereView_g]; all_goals (cases s.cur <;> rfl)
@[simp] theorem hereView_size (s : State) (slot : Nat) : (hereView s slot).size = padSize s := by
  unfold View.size padSize; rw [hereView_lan]; unfold onLan; cases s.cur <;> rfl
@[simp] theorem hereView_regPsn (s : State) (slot : Nat) (r : Reg) : regPsn (hereView s slot) r = regBad s r := by
  simp [regPsn, regBad, hS]

end Sys2Proof.Machine
end

