-- ==== Sys2Proof/Laws/Scalar.lean ====
section
/-! SUPPORT. Scalar arithmetic: what each meaning asks for, and its values in the terms the rules use. -/

namespace Sys2Proof.Machine

theorem aluOut_view (s : State) (slot : Nat) (d : Reg) (rs : List Reg) (lat : Nat) (f : View → W64) :
    aluOut d rs lat f (hereView s slot) = scalarOut s d rs lat (f (hereView s slot)) := by
  simp [aluOut, scalarOut, hS]; rfl

theorem alu2_view (s : State) (slot : Nat) (d a b : Reg) (lat : Nat) (f : W64 → W64 → W64) :
    alu2 d a b lat f (hereView s slot) = scalarOut s d [a, b] lat (f (reg s a) (reg s b)) := by
  simp [alu2, aluOut_view]

theorem alu1_view (s : State) (slot : Nat) (d a : Reg) (f : W64 → W64) :
    alu1 d a f (hereView s slot) = scalarOut s d [a] 1 (f (reg s a)) := by
  simp [alu1, aluOut_view]

theorem aluI_view (s : State) (slot : Nat) (d a : Reg) (imm : BitVec 14) (f : W64 → W64 → W64) :
    aluI d a imm f (hereView s slot) = scalarOut s d [a] 1 (f (reg s a) (imm.signExtend 64)) := by
  simp [aluI, alu1_view]

theorem aluDiv_view (s : State) (slot : Nat) (d a b : Reg) (f : W64 → W64 → W64) :
    aluDiv d a b f (hereView s slot) = { scalarOut s d [a, b] 20 (f (reg s a) (reg s b)) with div := true } := by
  simp [aluDiv, alu2_view]

theorem flag_eq (b : Bool) : flag b = truth b := rfl

theorem slt_eq (x y : W64) : x.slt y = decide (x.toInt < y.toInt) := rfl
theorem ult_eq (x y : W64) : x.ult y = decide (x.toNat < y.toNat) := rfl

theorem rorW_eq (x : W64) (n : Nat) (h : n < 64) : rorW x n = x.rotateRight n := by
  rw [BitVec.rotateRight_def, Nat.mod_eq_of_lt h]; rfl

theorem min_eq (x y : W64) : (if x.slt y then x else y) = BitVec.ofInt 64 (min x.toInt y.toInt) := by
  by_cases h : x.toInt < y.toInt
  · simp [BitVec.slt, h, min_eq_left h.le]
  · simp [BitVec.slt, h, min_eq_right (not_lt.mp h)]

theorem max_eq (x y : W64) : (if x.slt y then y else x) = BitVec.ofInt 64 (max x.toInt y.toInt) := by
  by_cases h : x.toInt < y.toInt
  · simp [BitVec.slt, h, max_eq_right h.le]
  · simp [BitVec.slt, h, max_eq_left (not_lt.mp h)]

theorem minu_eq (x y : W64) : (if x.ult y then x else y) = BitVec.ofNat 64 (min x.toNat y.toNat) := by
  by_cases h : x.toNat < y.toNat
  · simp [BitVec.ult, h, min_eq_left h.le]
  · simp [BitVec.ult, h, min_eq_right (not_lt.mp h)]

theorem maxu_eq (x y : W64) : (if x.ult y then y else x) = BitVec.ofNat 64 (max x.toNat y.toNat) := by
  by_cases h : x.toNat < y.toNat
  · simp [BitVec.ult, h, max_eq_right h.le]
  · simp [BitVec.ult, h, max_eq_left (not_lt.mp h)]

theorem mul_eq (x y : W64) : x * y = BitVec.ofInt 64 (x.toInt * y.toInt) := by
  rw [BitVec.ofInt_mul, BitVec.ofInt_toInt, BitVec.ofInt_toInt]

theorem mulHi_nat (x y : Nat) : mulHi x y = BitVec.ofNat 64 (x * y / 2 ^ 64) := by
  unfold mulHi; rw [← BitVec.ofInt_natCast]; norm_cast

/-- The first number below `n` that has a property is the one before which none has it. -/
theorem find_range (p : Nat → Bool) (n k : Nat) (hk : k ≤ n) (h0 : ∀ j < k, p j = false) (h1 : k < n → p k = true) :
    ((List.range n).find? p).getD n = k := by
  rcases Nat.lt_or_ge k n with h | h
  · have : (List.range n).find? p = some k := by
      rw [List.find?_range_eq_some]
      exact ⟨h1 h, by simpa using h, fun j hj => by simp [h0 j hj]⟩
    simp [this]
  · have e : k = n := by omega
    subst e
    have : (List.range k).find? p = none := by
      rw [List.find?_eq_none]; intro x hx; simp [h0 x (by simpa using hx)]
    simp [this]

theorem clzW_eq (x : W64) (n : Nat) (hn : n ≤ 64) (h0 : ∀ j < n, x.getLsbD (63 - j) = false)
    (h1 : n < 64 → x.getLsbD (63 - n) = true) : clzW x = BitVec.ofNat 64 n := by
  unfold clzW; rw [find_range _ _ n hn h0 h1]

theorem ctzW_eq (x : W64) (n : Nat) (hn : n ≤ 64) (h0 : ∀ j < n, x.getLsbD j = false)
    (h1 : n < 64 → x.getLsbD n = true) : ctzW x = BitVec.ofNat 64 n := by
  unfold ctzW; rw [find_range _ _ n hn h0 h1]

theorem divS_fst (x y : W64) : (divS x y).1 = if y = 0 then BitVec.allOnes 64 else x.sdiv y := by
  unfold divS
  split
  · rfl
  · apply BitVec.eq_of_toInt_eq
    rw [BitVec.toInt_ofInt, BitVec.toInt_sdiv]

theorem divS_snd (x y : W64) : (divS x y).2 = if y = 0 then x else x.srem y := by
  unfold divS
  split
  · rfl
  · apply BitVec.eq_of_toInt_eq
    rw [BitVec.toInt_ofInt, BitVec.toInt_srem, ← BitVec.toInt_srem]
    rw [← BitVec.toInt_ofInt, BitVec.ofInt_toInt]

theorem divU_fst (x y : W64) : (divU x y).1 = if y = 0 then BitVec.allOnes 64 else x / y := by
  unfold divU
  split
  · rfl
  · apply BitVec.eq_of_toNat_eq
    simp only [BitVec.toNat_ofNat, BitVec.toNat_udiv]
    exact Nat.mod_eq_of_lt (lt_of_le_of_lt (Nat.div_le_self _ _) x.isLt)

theorem divU_snd (x y : W64) : (divU x y).2 = if y = 0 then x else x % y := by
  unfold divU
  split
  · rfl
  · apply BitVec.eq_of_toNat_eq
    simp only [BitVec.toNat_ofNat, BitVec.toNat_umod]
    exact Nat.mod_eq_of_lt (lt_of_le_of_lt (Nat.mod_le _ _) x.isLt)

theorem lui_eq (i : BitVec 20) : (i.signExtend 64) <<< 14 = BitVec.ofInt 64 (i.toInt * 2 ^ 14) := by
  rw [BitVec.shiftLeft_eq_mul_twoPow, BitVec.ofInt_mul]
  congr 1

theorem codeAddr_eq (n : Int) : BitVec.ofNat 64 (codeAddr n) = BitVec.ofInt 64 (n % 2 ^ 21) := by
  unfold codeAddr wrap
  rw [← BitVec.ofInt_natCast, Int.toNat_of_nonneg (Int.emod_nonneg _ (by norm_num))]

theorem slti_eq (x : W64) (i : BitVec 14) : flag (x.slt (i.signExtend 64)) = truth (decide (x.toInt < i.toInt)) := by
  rw [flag_eq, slt_eq, BitVec.toInt_signExtend_of_le (by norm_num)]

theorem field_zero (x : W64) (p n : Nat) : fieldW x p n = (x.extractLsb' p n).zeroExtend 64 := by
  apply BitVec.eq_of_toNat_eq
  simp [fieldW, bits, Nat.shiftRight_eq_div_pow]

theorem field_sign (x : W64) (p : Nat) (l : Nat) (h : p + l < 64) :
    BitVec.ofInt 64 (sextN (fieldW x p (l + 1)).toNat (l + 1)) = (x.extractLsb' p (l + 1)).signExtend 64 := by
  have e : sextN (fieldW x p (l + 1)).toNat (l + 1) = (x.extractLsb' p (l + 1)).toInt := by
    have h0 : (x.extractLsb' p (l + 1)).toNat = (fieldW x p (l + 1)).toNat := by
      rw [field_zero, BitVec.toNat_setWidth, Nat.mod_eq_of_lt]
      exact lt_of_lt_of_le (x.extractLsb' p (l + 1)).isLt (Nat.pow_le_pow_right (by norm_num) (by omega))
    unfold sextN
    rw [BitVec.toInt_eq_msb_cond, ← h0]
    have hl : bits (x.extractLsb' p (l + 1)).toNat 0 (l + 1) = (x.extractLsb' p (l + 1)).toNat := by
      simp [bits]
    rw [hl]
    have hm : (bits (x.extractLsb' p (l + 1)).toNat (l + 1 - 1) 1 = 1) ↔ (x.extractLsb' p (l + 1)).msb = true := by
      rw [BitVec.msb_eq_getLsbD_last, ← BitVec.testBit_toNat, Nat.testBit_eq_decide_div_mod_eq]
      simp [bits]
    by_cases hb : (x.extractLsb' p (l + 1)).msb = true
    · rw [if_pos (hm.mpr hb), if_pos hb]; norm_cast
    · rw [if_neg (fun c => hb (hm.mp c)), if_neg hb]
  rw [e]
  rfl

/-- A replaced field holds the low bits of the source, and the other bits are the destination's. -/
theorem insertW_eq (d a v : W64) (p n : Nat)
    (h : ∀ j < 64, v.getLsbD j = if p ≤ j ∧ j < p + n then a.getLsbD (j - p) else d.getLsbD j) : insertW d a p n = v := by
  apply BitVec.eq_of_getLsbD_eq
  intro j hj
  rw [h j hj]
  have hm : (BitVec.ofNat 64 ((2 ^ n - 1) * 2 ^ p)).getLsbD j = decide (p ≤ j ∧ j < p + n) := by
    rw [BitVec.getLsbD_ofNat, ← Nat.shiftLeft_eq, Nat.testBit_shiftLeft, Nat.testBit_two_pow_sub_one]
    by_cases h1 : p ≤ j <;> by_cases h2 : j < p + n <;> simp [hj, h1, h2] <;> omega
  unfold insertW
  simp only [BitVec.getLsbD_or, BitVec.getLsbD_and, BitVec.getLsbD_not, BitVec.getLsbD_shiftLeft, hm, hj, decide_true, Bool.true_and]
  by_cases h1 : p ≤ j <;> by_cases h2 : j < p + n <;> simp [h1, h2]

theorem toBytes_eq (v n : Nat) : toBytes v n = (List.range n).map (fun j => BitVec.ofNat 8 (v / 256 ^ j)) := by
  induction n generalizing v with
  | zero => rfl
  | succ n ih =>
    rw [toBytes, ih, List.range_succ_eq_map, List.map_cons, List.map_map]
    simp [Function.comp_def, Nat.div_div_eq_div_mul, Nat.pow_succ, Nat.mul_comm]

theorem ofBytes_toBytes (v n : Nat) : ofBytes (toBytes v n) = v % 256 ^ n := by
  induction n generalizing v with
  | zero => simp [toBytes, ofBytes, Nat.mod_one]
  | succ n ih => rw [toBytes, ofBytes, ih, Nat.pow_succ, Nat.mul_comm (256 ^ n), Nat.mod_mul]; simp

/-- Byte `j` of the reversed word is byte `7 - j`. -/
theorem bswapW_eq (x v : W64) (h : ∀ j < 8, v.extractLsb' (8 * j) 8 = x.extractLsb' (8 * (7 - j)) 8) : bswapW x = v := by
  have hb : ∀ j < 8, BitVec.ofNat 8 (x.toNat / 256 ^ (7 - j)) = BitVec.ofNat 8 (v.toNat / 256 ^ j) := by
    intro j hj
    have := congrArg BitVec.toNat (h j hj)
    apply BitVec.eq_of_toNat_eq
    simp only [BitVec.extractLsb'_toNat, Nat.shiftRight_eq_div_pow, Nat.pow_mul] at this
    simpa using this.symm
  have e : (toBytes x.toNat 8).reverse = toBytes v.toNat 8 := by
    rw [toBytes_eq, toBytes_eq]
    have h0 := hb 0; have h1 := hb 1; have h2 := hb 2; have h3 := hb 3
    have h4 := hb 4; have h5 := hb 5; have h6 := hb 6; have h7 := hb 7
    simp_all [List.range_succ]
  rw [bswapW, e, ofBytes_toBytes]
  apply BitVec.eq_of_toNat_eq
  have := v.isLt
  simp
  omega

end Sys2Proof.Machine
end

