-- ==== Sys2Proof/Laws/Vector.lean ====
section
/-! SUPPORT. Lanes of vectors, and what a lane-wise instruction comes to. -/

namespace Sys2Proof.Machine

theorem lanes_getElem? (w j : Nat) (v : Vec) (h : j < 4096 / w) : (lanes w v)[j]? = some (lane w v j) := by
  simp [lanes, lane, h, BitVec.extractLsb'_toNat, Nat.shiftRight_eq_div_pow]

theorem lanes_getD (w j : Nat) (v : Vec) (h : j < 4096 / w) : (lanes w v).getD j 0 = lane w v j := by
  simp [List.getD_eq_getElem?_getD, lanes_getElem? w j v h]

@[simp] theorem lanes_length (w : Nat) (v : Vec) : (lanes w v).length = 4096 / w := by simp [lanes]

@[simp] theorem maskBits_length (w : Nat) (m : BitVec 128) : (maskBits w m).length = 4096 / w := by simp [maskBits]

/-- Digit `j` of a number spelled in base 2^w. -/
theorem digit_foldr (w : Nat) (l : List Nat) (j : Nat) :
    l.foldr (fun x acc => x % 2 ^ w + acc * 2 ^ w) 0 / 2 ^ (w * j) % 2 ^ w = l.getD j 0 % 2 ^ w := by
  induction l generalizing j with
  | nil => simp
  | cons x l ih =>
    simp only [List.foldr_cons]
    cases j with
    | zero => simp [Nat.add_mul_mod_self_right]
    | succ j =>
      rw [Nat.mul_succ, Nat.add_comm (w * j) w, pow_add, ← Nat.div_div_eq_div_mul,
        Nat.add_mul_div_right _ _ (Nat.two_pow_pos w), Nat.div_eq_of_lt (Nat.mod_lt _ (Nat.two_pow_pos w)), Nat.zero_add, ih]
      simp

theorem foldr_lt (w : Nat) (l : List Nat) : l.foldr (fun x acc => x % 2 ^ w + acc * 2 ^ w) 0 < 2 ^ (w * l.length) := by
  induction l with
  | nil => simp
  | cons x l ih =>
    simp only [List.foldr_cons, List.length_cons, Nat.mul_succ, pow_add]
    have h1 := Nat.mod_lt x (Nat.two_pow_pos w)
    have h2 : (l.foldr (fun x acc => x % 2 ^ w + acc * 2 ^ w) 0 + 1) * 2 ^ w ≤ 2 ^ (w * l.length) * 2 ^ w := Nat.mul_le_mul_right _ ih
    rw [Nat.add_mul] at h2
    omega

/-- Lane `j` of a vector spelled by lanes. -/
theorem lane_ofLanes (w : Nat) (l : List Nat) (j : Nat) (hl : l.length ≤ 4096 / w) : lane w (ofLanes w l) j = l.getD j 0 % 2 ^ w := by
  have h := foldr_lt w l
  have h2 : w * l.length ≤ 4096 := le_trans (Nat.mul_le_mul_left w hl) (Nat.mul_div_le 4096 w)
  have h3 := lt_of_lt_of_le h (Nat.pow_le_pow_right (by norm_num) h2)
  simp only [lane, ofLanes, BitVec.toNat_ofNat, Nat.mod_eq_of_lt h3, digit_foldr]

/-- What the destination lanes become (R204). -/
theorem mergeLanes_fst (op : List Nat → Nat × Flags) (mz : Bool) (es : List Bool) (os : List Nat) (rs : List (List Nat)) (j : Nat)
    (h1 : j < es.length) (h2 : j < os.length) (h3 : j < rs.length) :
    (mergeLanes op mz es os rs).1.getD j 0 = if es.getD j false then (op (rs.getD j [])).1 else if mz then 0 else os.getD j 0 := by
  induction es generalizing os rs j with
  | nil => simp at h1
  | cons e es ih =>
    cases os with
    | nil => simp at h2
    | cons o os =>
      cases rs with
      | nil => simp at h3
      | cons r rs =>
        cases j with
        | zero => cases e <;> simp [mergeLanes]
        | succ j =>
          have := ih os rs j (by simpa using h1) (by simpa using h2) (by simpa using h3)
          cases e <;> simp [mergeLanes] at this ⊢ <;> exact this

theorem mergeLanes_length (op : List Nat → Nat × Flags) (mz : Bool) (es : List Bool) (os : List Nat) (rs : List (List Nat)) :
    (mergeLanes op mz es os rs).1.length ≤ es.length := by
  induction es generalizing os rs with
  | nil => simp [mergeLanes]
  | cons e es ih =>
    cases os <;> cases rs <;> simp [mergeLanes]
    cases e <;> simp [ih]

theorem or_foldl (l : List Nat) (g : Nat → Flags) (x : Flags) :
    l.foldl (fun x j => x ||| g j) x = x ||| l.foldl (fun x j => x ||| g j) 0 := by
  induction l generalizing x with
  | nil => simp
  | cons a l ih => rw [List.foldl_cons, List.foldl_cons, ih, ih (0 ||| g a)]; simp [BitVec.or_assoc]

/-- The flags of the enabled lanes (R204). -/
theorem mergeLanes_snd (op : List Nat → Nat × Flags) (mz : Bool) (es : List Bool) (os : List Nat) (rs : List (List Nat))
    (h2 : os.length = es.length) (h3 : rs.length = es.length) :
    (mergeLanes op mz es os rs).2 =
      ((List.range es.length).filter (fun j => es.getD j false)).foldl (fun x j => x ||| (op (rs.getD j [])).2) 0 := by
  induction es generalizing os rs with
  | nil => simp [mergeLanes]
  | cons e es ih =>
    cases os with
    | nil => simp at h2
    | cons o os =>
      cases rs with
      | nil => simp at h3
      | cons r rs =>
        have := ih os rs (by simpa using h2) (by simpa using h3)
        rw [List.length_cons, List.range_succ_eq_map, List.filter_cons, List.filter_map]
        cases e
        · simp only [mergeLanes, List.foldl_map, List.getD_cons_zero, List.getD_cons_succ, Bool.false_eq_true, ↓reduceIte, this, Function.comp_def]
        · simp only [mergeLanes, List.foldl_map, List.getD_cons_zero, List.getD_cons_succ, ↓reduceIte, this, Function.comp_def, List.foldl_cons]
          rw [or_foldl _ (fun j => (op (rs.getD j [])).2) (0 ||| _)]; simp

@[simp] theorem laneRows_length (n : Nat) (ls : List (List Nat)) (h : ∀ l ∈ ls, l.length = n) : (laneRows n ls).length = n := by
  induction ls with
  | nil => simp [laneRows]
  | cons l ls ih =>
    have := ih (fun l hl => h l (by simp [hl]))
    simp only [laneRows, List.foldr_cons, List.length_zipWith] at this ⊢
    simp [h l (by simp), this]

theorem laneRows_getD (n : Nat) (ls : List (List Nat)) (h : ∀ l ∈ ls, l.length = n) (j : Nat) (hj : j < n) :
    (laneRows n ls).getD j [] = ls.map (fun l => l.getD j 0) := by
  induction ls with
  | nil => simp [laneRows, hj]
  | cons l ls ih =>
    have h1 := ih (fun l hl => h l (by simp [hl]))
    have h2 : (laneRows n ls).length = n := laneRows_length n ls (fun l hl => h l (by simp [hl]))
    have h3 := h l (by simp)
    have e : laneRows n (l :: ls) = List.zipWith (fun x r => x :: r) l (laneRows n ls) := rfl
    rw [e, List.map_cons, ← h1]
    simp [List.getD_eq_getElem?_getD, h2, h3, hj]

/-- val of a lane (R207). -/
theorem tv_eq (f : VF) (x : Nat) (hx : x < 2 ^ tyWidth f.ty.toNat) : tv f.ty.toNat x = laneVal f x := by
  have hb : 0 < tyWidth f.ty.toNat := by unfold tyWidth; split <;> norm_num
  obtain ⟨k, hk⟩ : ∃ k, tyWidth f.ty.toNat = k + 1 := ⟨_, (Nat.succ_pred_eq_of_pos hb).symm⟩
  simp only [tv, laneVal, tySigned, hk, sextN, bits] at *
  have h1 : x / 2 ^ 0 % 2 ^ (k+1) = x := by simpa using Nat.mod_eq_of_lt hx
  simp only [Nat.add_sub_cancel, h1, pow_one]
  have h2 : x / 2 ^ k % 2 = 1 ↔ 2 ^ k ≤ x := by
    have h3 : x / 2 ^ k < 2 := Nat.div_lt_of_lt_mul (by rw [← pow_succ]; exact hx)
    rw [Nat.mod_eq_of_lt h3]
    constructor
    · intro h; by_contra h4; rw [Nat.div_eq_of_lt (not_le.mp h4)] at h; omega
    · intro h; have := (Nat.one_le_div_iff (Nat.two_pow_pos k)).mpr h; omega
  by_cases h4 : f.ty.toNat < 4
  · simp [h4, h2]
  · simp [h4]

theorem unitOnly_view (f : Sem) (s : State) (slot : Nat) (h : onLan s = false) : unitOnly f (hereView s slot) = f (hereView s slot) := by
  simp [unitOnly, h]

/-- A lane-wise form that stands alone runs to its lanes (R204, R206). -/
theorem laneForm_wise (s : State) (i : Instr) (f : VF) (srcs : List (BitVec 6)) (w lat : Nat) (rows : View → List (List Nat))
    (op : List Nat → Nat × Flags) (g : Nat → Nat × Flags) (hl : onLan s = false)
    (he : exec i s = runOne i 1 (laneForm f srcs w lat rows op) s)
    (hn : (rows (hereView s 1)).length = 4096 / w)
    (hg : ∀ j < 4096 / w, (op ((rows (hereView s 1)).getD j [])).1 % 2 ^ w = (g j).1 % 2 ^ w ∧ (op ((rows (hereView s 1)).getD j [])).2 = (g j).2) :
    LaneWise s i f srcs w lat g := by
  have hm : ∀ j < 4096 / w, (laneOn (hereView s 1) f w).getD j false = laneEn s f w j := by
    intro j hj; simp [laneOn, maskBits, laneEn, hj]
  have hlen : (laneOn (hereView s 1) f w).length = 4096 / w := by simp [laneOn]
  refine ⟨ofLanes w (mergeLanes op (f.mz == 1) (laneOn (hereView s 1) f w) (lanes w (rdV (hereUnit s) f.d.toNat)) (rows (hereView s 1))).1, ?_, ?_⟩
  · intro j hj
    rw [lane_ofLanes _ _ _ (le_trans (mergeLanes_length _ _ _ _ _) (by rw [hlen])),
      mergeLanes_fst _ _ _ _ _ _ (by rw [hlen]; exact hj) (by simpa using hj) (by rw [hn]; exact hj), hm j hj]
    split
    · exact (hg j hj).1
    · have e : (f.mz == 1) = decide (f.mz = 1) := by rw [Bool.eq_iff_iff]; simp
      rw [e]; by_cases h : f.mz = 1
      · simp [h]
      · simp only [h, decide_false, Bool.false_eq_true, ↓reduceIte, lanes_getD w j _ hj]
        simp [lane]
  · intro h
    rw [he]
    refine runOne_free _ 1 _ s _ ?_ h
    simp only [laneForm, unitOnly_view _ _ _ hl, hereView_u, hereView_g, hereView_core, vecOut, hV]
    rw [mergeLanes_snd _ _ _ _ _ (by simp [hlen]) (by rw [hlen, hn]), hlen]
    have hf : ∀ l : List Nat, (∀ j ∈ l, j < 4096 / w) →
        (l.filter (fun j => (laneOn (hereView s 1) f w).getD j false)).foldl (fun x j => x ||| (op ((rows (hereView s 1)).getD j [])).2) (0 : Flags)
          = (l.filter (laneEn s f w)).foldl (fun x j => x ||| (g j).2) 0 := by
      intro l hl
      have e1 : l.filter (fun j => (laneOn (hereView s 1) f w).getD j false) = l.filter (laneEn s f w) :=
        List.filter_congr (fun j hj => hm j (hl j hj))
      rw [e1]
      exact List.foldl_ext _ _ _ (fun x j hj => by rw [(hg j (hl j (List.mem_of_mem_filter hj))).2])
    rw [hf _ (fun j hj => List.mem_range.mp hj)]
    rfl

/-- A form whose lane j depends on lane j of each source. -/
theorem laneSem_wise (s : State) (i : Instr) (f : VF) (srcs : List (BitVec 6)) (lat : Nat) (op : List Nat → Nat × Flags) (g : Nat → Nat × Flags)
    (hl : onLan s = false) (he : exec i s = runOne i 1 (laneSem f srcs lat op) s)
    (hg : ∀ j < 4096 / tyWidth f.ty.toNat, (op (srcs.map (fun x => lane (tyWidth f.ty.toNat) (src s f x) j))).1 % 2 ^ tyWidth f.ty.toNat
      = (g j).1 % 2 ^ tyWidth f.ty.toNat ∧ (op (srcs.map (fun x => lane (tyWidth f.ty.toNat) (src s f x) j))).2 = (g j).2) :
    LaneWise s i f srcs (tyWidth f.ty.toNat) lat g := by
  have hls : ∀ l ∈ srcs.map (fun x => lanes (tyWidth f.ty.toNat) (vsrc (hereView s 1) f x.toNat)), l.length = 4096 / tyWidth f.ty.toNat := by
    simp
  refine laneForm_wise s i f srcs _ lat _ op g hl he (laneRows_length _ _ hls) ?_
  intro j hj
  rw [laneRows_getD _ _ hls j hj, List.map_map]
  have e : (srcs.map ((fun l => l.getD j 0) ∘ fun x => lanes (tyWidth f.ty.toNat) (vsrc (hereView s 1) f x.toNat)))
      = srcs.map (fun x => lane (tyWidth f.ty.toNat) (src s f x) j) := by
    apply List.map_congr_left; intro x _; simp [lanes_getElem? _ _ _ hj, src]
  rw [e]; exact hg j hj

end Sys2Proof.Machine
end

