-- ==== Sys2Proof/Tests/Slice0.lean ====
section
/-! SUPPORT. The model's own tests: states to test on, the words of every slot instruction decoded, terms that are ill formed, a witness
for every obligation that has hypotheses (witness_<obligation>), and small tests of single steps (test_<what>). Expected values
are worked out by hand from the rules that the docstrings name. -/

namespace Sys2Proof.Tests

open Sys2Proof Sys2Proof.Machine

-- one theorem at a time: checked side by side, they would need more memory
set_option Elab.async false

/-! ## States of the tests -/

/-- A module with unit 0 running an instance of task 0, its program at 0. -/
def unitS : State :=
  { State.reset with
    cur := .unit 0
    chip := { slot := 3, pasid := 7, units := [(0, { inst := some ⟨0, 0, 0, 64, false, 0⟩ })] } }
/-- A module with the graph program of Lantern core 0 running. -/
def lanS : State :=
  { State.reset with cur := .lantern 0, chip := { slot := 3, pasid := 7, clusters := [(0, { lan := { on := true } })] } }
/-- Unit 0 and Lantern core 0 with a change of their stream. -/
def unitC (f : Core → Core) : State := modUnit unitS 0 (fun u => { u with core := f u.core })
def unitU (f : Machine.Unit → Machine.Unit) : State := modUnit unitS 0 f
def lanC (f : Core → Core) : State := modLan lanS 0 (fun l => { l with core := f l.core })
/-- Scalar registers with these values. -/
def unitR (l : SMap W64) : State := unitC (fun c => { c with sreg := l })
def lanR (l : SMap W64) : State := lanC (fun c => { c with sreg := l })
/-- Each instruction runs to its effect in its slot. -/
def allFree (s : State) (slot : Nat) (l : List Instr) : Bool := l.all (fun i => wordFree s i slot (asks s i slot))
/-- What a step of `exec` leaves, the state itself where it stops. -/
def after (i : Instr) (s : State) : State := match exec i s with | .next t => t | _ => s

/-! ## Words written out bit by bit from spec 10 and 11 -/

/-- R162, R164: the ALU group, selected by fn. -/
theorem test_words_alu_1 : ∀ p ∈ ([
    (0b000000_000011_100001_010100_00000000#32, .add 3 33 20),
    (0b000000_000011_100001_010100_00000001#32, .sub 3 33 20),
    (0b000000_000011_100001_010100_00000010#32, .and 3 33 20),
    (0b000000_000011_100001_010100_00000011#32, .or 3 33 20),
    (0b000000_000011_100001_010100_00000100#32, .xor 3 33 20),
    (0b000000_000011_100001_010100_00000101#32, .andn 3 33 20),
    (0b000000_000011_100001_010100_00000110#32, .orn 3 33 20),
    (0b000000_000011_100001_010100_00000111#32, .xnor 3 33 20),
    (0b000000_000011_100001_010100_00001000#32, .shl 3 33 20),
    (0b000000_000011_100001_010100_00001001#32, .shr 3 33 20),
    (0b000000_000011_100001_010100_00001010#32, .sra 3 33 20),
    (0b000000_000011_100001_010100_00001011#32, .ror 3 33 20),
    (0b000000_000011_100001_010100_00001100#32, .slt 3 33 20),
    (0b000000_000011_100001_010100_00001101#32, .sltu 3 33 20),
    (0b000000_000011_100001_010100_00001110#32, .min 3 33 20),
    (0b000000_000011_100001_010100_00001111#32, .max 3 33 20),
    (0b000000_000011_100001_010100_00010000#32, .minu 3 33 20),
    (0b000000_000011_100001_010100_00010001#32, .maxu 3 33 20),
    (0b000000_000011_100001_000000_00010010#32, .clz 3 33),
    (0b000000_000011_100001_000000_00010011#32, .ctz 3 33),
    (0b000000_000011_100001_000000_00010100#32, .popc 3 33),
    (0b000000_000011_100001_000000_00010101#32, .bswap 3 33),
    (0b000000_000011_100001_010100_00100000#32, .mul 3 33 20),
    (0b000000_000011_100001_010100_00100001#32, .mulh 3 33 20)] :
    List (BitVec 32 × Instr)), decodeS p.1 = .ok p.2 := by
  decide

/-- R162, R164: the ALU group, selected by fn. -/
theorem test_words_alu_2 : ∀ p ∈ ([
    (0b000000_000011_100001_010100_00100010#32, .mulhu 3 33 20),
    (0b000000_000011_100001_010100_00100011#32, .mulhsu 3 33 20),
    (0b000000_000011_100001_010100_00101000#32, .div 3 33 20),
    (0b000000_000011_100001_010100_00101001#32, .divu 3 33 20),
    (0b000000_000011_100001_010100_00101010#32, .rem 3 33 20),
    (0b000000_000011_100001_010100_00101011#32, .remu 3 33 20)] :
    List (BitVec 32 × Instr)), decodeS p.1 = .ok p.2 := by
  decide

/-- R163, R165: immediates, shifts, constants and bit fields; a field of 4 bits at 60 is the last that fits. -/
theorem test_words_immediate : ∀ p ∈ ([
    (0b000001_111111_000001_10000000000001#32, .addi 63 1 0x2001),
    (0b000010_111111_000001_10000000000001#32, .andi 63 1 0x2001),
    (0b000011_111111_000001_10000000000001#32, .ori 63 1 0x2001),
    (0b000100_111111_000001_10000000000001#32, .xori 63 1 0x2001),
    (0b000101_111111_000001_10000000000001#32, .slti 63 1 0x2001),
    (0b000110_111111_000001_10000000000001#32, .sltiu 63 1 0x2001),
    (0b000111_111111_000001_00_000000_100101#32, .shli 63 1 37),
    (0b000111_111111_000001_01_000000_100101#32, .shri 63 1 37),
    (0b000111_111111_000001_10_000000_100101#32, .srai 63 1 37),
    (0b000111_111111_000001_11_000000_100101#32, .rori 63 1 37),
    (0b001000_000101_10000000000000000001#32, .lui 5 0x80001),
    (0b001001_000101_10000000000000000001#32, .addpc 5 0x80001),
    (0b001010_000101_001001_111100_000011_00#32, .bfxu 5 9 60 3),
    (0b001011_000101_001001_111100_000011_00#32, .bfxs 5 9 60 3),
    (0b001100_000101_001001_111100_000011_00#32, .bfi 5 9 60 3)] :
    List (BitVec 32 × Instr)), decodeS p.1 = .ok p.2 := by
  decide

/-- R163, R165: loads and stores; 24 registers from s40 end at s63. -/
theorem test_words_scalar_memory : ∀ p ∈ ([
    (0b010000_000111_001000_11111111111000#32, .ldB 7 8 0x3FF8),
    (0b010001_000111_001000_11111111111000#32, .ldBu 7 8 0x3FF8),
    (0b010010_000111_001000_11111111111000#32, .ldH 7 8 0x3FF8),
    (0b010011_000111_001000_11111111111000#32, .ldHu 7 8 0x3FF8),
    (0b010100_000111_001000_11111111111000#32, .ldW 7 8 0x3FF8),
    (0b010101_000111_001000_11111111111000#32, .ldWu 7 8 0x3FF8),
    (0b010110_000111_001000_11111111111000#32, .ldD 7 8 0x3FF8),
    (0b011000_000111_001000_11111111111000#32, .stB 7 8 0x3FF8),
    (0b011001_000111_001000_11111111111000#32, .stH 7 8 0x3FF8),
    (0b011010_000111_001000_11111111111000#32, .stW 7 8 0x3FF8),
    (0b011011_000111_001000_11111111111000#32, .stD 7 8 0x3FF8),
    (0b010111_101000_001000_010111_10000001#32, .ldm 40 8 23 0x81),
    (0b011100_101000_001000_010111_10000001#32, .stm 40 8 23 0x81)] :
    List (BitVec 32 × Instr)), decodeS p.1 = .ok p.2 := by
  decide

/-- R163, R165: branches, jumps, loops, taint, fence, CSRs, traps and the end of an instance. -/
theorem test_words_control : ∀ p ∈ ([
    (0b100000_000100_000101_10101010111100#32, .beq 4 5 0x2ABC),
    (0b100001_000100_000101_10101010111100#32, .bne 4 5 0x2ABC),
    (0b100010_000100_000101_10101010111100#32, .blt 4 5 0x2ABC),
    (0b100011_000100_000101_10101010111100#32, .bge 4 5 0x2ABC),
    (0b100100_000100_000101_10101010111100#32, .bltu 4 5 0x2ABC),
    (0b100101_000100_000101_10101010111100#32, .bgeu 4 5 0x2ABC),
    (0b100110_000001_11111111111111111110#32, .jal 1 0xFFFFE),
    (0b100111_000001_000010_01001000110100#32, .jalr 1 2 0x1234),
    (0b101000_000000_001001_00000000000000#32, .loop 9),
    (0b101001_000000_000000_01111111111111#32, .loopi 8191),
    (0b101100_000011_000000_001000_00110000#32, .tjoin 3 8 0 3),
    (0b101101_000011_000000_000000_10000000#32, .tclr 3 2),
    (0b101110_01_011111_1000000000000001_00#32, .twait 1 31 0x8001),
    (0b101111_100_10011_000000000000000000#32, .fence 4 0b10011),
    (0b110000_000110_000000_00000010100000#32, .csrr 6 0xA0),
    (0b110001_000000_000110_00000010100000#32, .csrw 6 0xA0),
    (0b110010_0000000000_1011111011101111#32, .trap 0xBEEF),
    (0b110011_00000000000000000000000000#32, .eret),
    (0b110100_00000000000000000000000000#32, .tail)] :
    List (BitVec 32 × Instr)), decodeS p.1 = .ok p.2 := by
  decide

/-- R175: the Lantern-only forms. -/
theorem test_words_lantern_1 : ∀ p ∈ ([
    (0b111000_001111_000111_000000_00000000#32, .dsetb 15 7),
    (0b111000_001111_000111_000011_00000001#32, .dsete 15 7 3),
    (0b111000_001111_000111_000001_00000010#32, .dsets 15 7 1),
    (0b111000_001111_000111_000000_00000011#32, .dseta 15 7),
    (0b111000_000111_001111_000000_00001000#32, .dgetb 7 15),
    (0b111000_000111_001111_000011_00001001#32, .dgete 7 15 3),
    (0b111000_000111_001111_000001_00001010#32, .dgets 7 15 1),
    (0b111000_000111_001111_000000_00001011#32, .dgeta 7 15),
    (0b111000_001111_000100_000000_00010000#32, .dmov 15 4),
    (0b111000_001111_000100_000000_00010001#32, .daddb 15 4),
    (0b111001_001001_000111_11111111111111#32, .dld 9 7 0x3FFF),
    (0b111001_011001_000111_11111111111111#32, .dldG 9 7 0x3FFF),
    (0b111010_001001_000111_11111111111111#32, .dst 9 7 0x3FFF),
    (0b111010_011001_000111_11111111111111#32, .dstG 9 7 0x3FFF),
    (0b111011_000101_000110_000000_00000000#32, .ldg 5 6),
    (0b111011_000000_000110_000111_00000001#32, .stg 6 7),
    (0b111011_000101_000110_000111_00000010#32, .amogAdd 5 6 7),
    (0b111011_000101_000110_000111_00000011#32, .amogSwp 5 6 7),
    (0b111011_000101_000110_000111_00000100#32, .amogCas 5 6 7),
    (0b111011_000101_000110_000111_00001000#32, .lcp 5 6 7),
    (0b111100_000000_001111_000111_00000000#32, .tdecl 15 7),
    (0b111100_000000_000111_000000_00000001#32, .trel 7),
    (0b111100_000000_000110_000000_00000100#32, .post 6),
    (0b111100_000101_000110_000000_00000101#32, .postTry 5 6)] :
    List (BitVec 32 × Instr)), decodeS p.1 = .ok p.2 := by
  decide

/-- R175: the Lantern-only forms. -/
theorem test_words_lantern_2 : ∀ p ∈ ([
    (0b111100_000000_000110_000111_00000110#32, .postR 6 7),
    (0b111100_000101_000110_000111_00000111#32, .postRtry 5 6 7),
    (0b111101_000000_000110_000000_00000000#32, .tkwait 6),
    (0b111101_000000_000110_000000_00000001#32, .tksig 6),
    (0b111101_000101_000110_000000_00000010#32, .tkrd 5 6),
    (0b111101_000000_000110_000000_00000100#32, .usig 6),
    (0b111110_000101_000000_000111_00000000#32, .winq 5 7),
    (0b111110_000000_000110_000000_00000001#32, .retry 6)] :
    List (BitVec 32 × Instr)), decodeS p.1 = .ok p.2 := by
  decide

/-- R166, R168: lane arithmetic, with a queue as its first source and a mask. -/
theorem test_words_vector_arithmetic_1 : ∀ p ∈ ([
    (0b00000000_0101_011111_100111_000010_000000_011_1_00_000000_0000000000000000#64, .vadd ⟨5, 31, 39, 2, 0, 3, 1, 0, 0, 0⟩),
    (0b00000001_0101_011111_100111_000010_000000_011_1_00_000000_0000000000000000#64, .vsub ⟨5, 31, 39, 2, 0, 3, 1, 0, 0, 0⟩),
    (0b00000010_0101_011111_100111_000010_000000_011_1_00_000000_0000000000000000#64, .vmul ⟨5, 31, 39, 2, 0, 3, 1, 0, 0, 0⟩),
    (0b00000011_0101_011111_100111_000010_000000_011_1_00_000000_0000000000000000#64, .vmulh ⟨5, 31, 39, 2, 0, 3, 1, 0, 0, 0⟩),
    (0b00000100_1000_011111_100111_000010_010001_011_1_10_000000_0000000000000000#64, .vfma ⟨8, 31, 39, 2, 17, 3, 1, 2, 0, 0⟩),
    (0b00000101_1000_011111_100111_000010_010001_011_1_10_000000_0000000000000000#64, .vfms ⟨8, 31, 39, 2, 17, 3, 1, 2, 0, 0⟩),
    (0b00000110_1000_011111_100111_000010_010001_011_1_10_000000_0000000000000000#64, .vfnma ⟨8, 31, 39, 2, 17, 3, 1, 2, 0, 0⟩),
    (0b00000111_0101_011111_100111_000010_010001_011_1_00_000000_0000000000000000#64, .vmac ⟨5, 31, 39, 2, 17, 3, 1, 0, 0, 0⟩),
    (0b00001000_0101_011111_100111_000010_000000_011_1_00_000000_0000000000000000#64, .vand ⟨5, 31, 39, 2, 0, 3, 1, 0, 0, 0⟩),
    (0b00001001_0101_011111_100111_000010_000000_011_1_00_000000_0000000000000000#64, .vor ⟨5, 31, 39, 2, 0, 3, 1, 0, 0, 0⟩),
    (0b00001010_0101_011111_100111_000010_000000_011_1_00_000000_0000000000000000#64, .vxor ⟨5, 31, 39, 2, 0, 3, 1, 0, 0, 0⟩),
    (0b00001011_0101_011111_100111_000010_000000_011_1_00_000000_0000000000000000#64, .vandn ⟨5, 31, 39, 2, 0, 3, 1, 0, 0, 0⟩),
    (0b00001100_0101_011111_100111_000010_000000_011_1_00_000000_0000000000000000#64, .vshl ⟨5, 31, 39, 2, 0, 3, 1, 0, 0, 0⟩),
    (0b00001101_0101_011111_100111_000010_000000_011_1_00_000000_0000000000000000#64, .vshr ⟨5, 31, 39, 2, 0, 3, 1, 0, 0, 0⟩),
    (0b00001110_0101_011111_100111_000010_000000_011_1_00_000000_0000000000000000#64, .vsra ⟨5, 31, 39, 2, 0, 3, 1, 0, 0, 0⟩),
    (0b00001111_0101_011111_100111_000010_000000_011_1_00_000000_0000000000000000#64, .vrshr ⟨5, 31, 39, 2, 0, 3, 1, 0, 0, 0⟩),
    (0b00010000_0101_011111_100111_000010_000000_011_1_00_000000_0000000000000000#64, .vadds ⟨5, 31, 39, 2, 0, 3, 1, 0, 0, 0⟩),
    (0b00010001_0101_011111_100111_000010_000000_011_1_00_000000_0000000000000000#64, .vsubs ⟨5, 31, 39, 2, 0, 3, 1, 0, 0, 0⟩),
    (0b00010010_0101_011111_100111_000010_000000_011_1_00_000000_0000000000000000#64, .vmin ⟨5, 31, 39, 2, 0, 3, 1, 0, 0, 0⟩),
    (0b00010011_0101_011111_100111_000010_000000_011_1_00_000000_0000000000000000#64, .vmax ⟨5, 31, 39, 2, 0, 3, 1, 0, 0, 0⟩),
    (0b00010100_0101_011111_100111_000000_000000_011_1_00_000000_0000000000000000#64, .vabs ⟨5, 31, 39, 0, 0, 3, 1, 0, 0, 0⟩),
    (0b00010101_0101_011111_100111_000000_000000_011_1_00_000000_0000000000000000#64, .vneg ⟨5, 31, 39, 0, 0, 3, 1, 0, 0, 0⟩),
    (0b00010110_0101_011111_100111_000010_000000_011_1_00_000000_0000000000000000#64, .vabd ⟨5, 31, 39, 2, 0, 3, 1, 0, 0, 0⟩),
    (0b00010111_0101_011111_100111_000000_000000_011_1_00_000000_0000000000000000#64, .vclz ⟨5, 31, 39, 0, 0, 3, 1, 0, 0, 0⟩)] :
    List (BitVec 64 × Instr)), decodeV p.1 = .ok p.2 := by
  decide

/-- R166, R168: lane arithmetic, with a queue as its first source and a mask. -/
theorem test_words_vector_arithmetic_2 : ∀ p ∈ ([
    (0b00011000_0101_011111_100111_000000_000000_011_1_00_000000_0000000000000000#64, .vpopc ⟨5, 31, 39, 0, 0, 3, 1, 0, 0, 0⟩)] :
    List (BitVec 64 × Instr)), decodeV p.1 = .ok p.2 := by
  decide

/-- R166 to R169: conversions, permutes, reductions, compares and masks. -/
theorem test_words_vector_move_1 : ∀ p ∈ ([
    (0b00100000_0000_000001_000010_000000_000000_000_0_11_000000_0000100010000000#64, .vcvt ⟨0, 1, 2, 0, 0, 0, 0, 3, 0, 2176⟩),
    (0b00100001_0000_000001_000010_000011_000100_000_0_01_000000_1000110010000000#64, .vrq ⟨0, 1, 2, 3, 4, 0, 0, 1, 0, 35968⟩),
    (0b00100010_0001_000100_000101_000000_000000_000_0_00_000000_0000000000000000#64, .vwidenLo ⟨1, 4, 5, 0, 0, 0, 0, 0, 0, 0⟩),
    (0b00100011_0001_000100_000101_000000_000000_000_0_00_000000_0000000000000000#64, .vwidenHi ⟨1, 4, 5, 0, 0, 0, 0, 0, 0, 0⟩),
    (0b00100100_0001_000100_000101_000110_000000_000_0_00_000000_0000000000000000#64, .vnarrow ⟨1, 4, 5, 6, 0, 0, 0, 0, 0, 0⟩),
    (0b00110000_0010_000100_000101_000110_000000_000_0_00_000000_0000000000000000#64, .vperm ⟨2, 4, 5, 6, 0, 0, 0, 0, 0, 0⟩),
    (0b00110001_0010_000100_000101_000110_000111_000_0_00_000000_0000000000000000#64, .vperm2 ⟨2, 4, 5, 6, 7, 0, 0, 0, 0, 0⟩),
    (0b00110010_0010_000100_000101_000110_000000_000_0_00_000000_0000000000000000#64, .vrot ⟨2, 4, 5, 6, 0, 0, 0, 0, 0, 0⟩),
    (0b00110011_0010_000100_000101_000110_000111_000_0_00_000000_0000000000000000#64, .vslide ⟨2, 4, 5, 6, 7, 0, 0, 0, 0, 0⟩),
    (0b00110100_0010_000100_000101_000110_000000_000_0_00_000000_0000000000000000#64, .vzipLo ⟨2, 4, 5, 6, 0, 0, 0, 0, 0, 0⟩),
    (0b00110101_0010_000100_000101_000110_000000_000_0_00_000000_0000000000000000#64, .vzipHi ⟨2, 4, 5, 6, 0, 0, 0, 0, 0, 0⟩),
    (0b00110110_0010_000100_000101_000110_000000_000_0_00_000000_0000000000000000#64, .vunzipE ⟨2, 4, 5, 6, 0, 0, 0, 0, 0, 0⟩),
    (0b00110111_0010_000100_000101_000110_000000_000_0_00_000000_0000000000000000#64, .vunzipO ⟨2, 4, 5, 6, 0, 0, 0, 0, 0, 0⟩),
    (0b00111000_0010_000100_000101_000110_000000_000_0_00_000000_0000000000000000#64, .vbcast ⟨2, 4, 5, 6, 0, 0, 0, 0, 0, 0⟩),
    (0b01000000_0000_000100_000101_000110_000000_000_0_00_000000_0000000000000000#64, .vclmul ⟨0, 4, 5, 6, 0, 0, 0, 0, 0, 0⟩),
    (0b01000001_0100_000100_000101_000110_000000_000_0_00_000000_0000000000000000#64, .vclmulh ⟨4, 4, 5, 6, 0, 0, 0, 0, 0, 0⟩),
    (0b01000010_0000_000100_000101_000000_000000_000_0_00_001001_0000000000000000#64, .vpxor ⟨0, 4, 5, 0, 0, 0, 0, 0, 9, 0⟩),
    (0b01000011_0000_000100_000101_000110_000000_000_0_00_000000_0000000000000000#64, .vpsum ⟨0, 4, 5, 6, 0, 0, 0, 0, 0, 0⟩),
    (0b01001000_1001_000100_000101_000000_000000_000_0_00_000000_0000000000000000#64, .vradd ⟨9, 4, 5, 0, 0, 0, 0, 0, 0, 0⟩),
    (0b01001001_1001_000100_000101_000000_000000_000_0_00_000000_0000000000000000#64, .vrmin ⟨9, 4, 5, 0, 0, 0, 0, 0, 0, 0⟩),
    (0b01001010_1001_000100_000101_000000_000000_000_0_00_000000_0000000000000000#64, .vrmax ⟨9, 4, 5, 0, 0, 0, 0, 0, 0, 0⟩),
    (0b01001011_0000_000100_000101_000000_000000_000_0_00_000000_0000000000000000#64, .vrxor ⟨0, 4, 5, 0, 0, 0, 0, 0, 0, 0⟩),
    (0b01001100_1001_000100_000101_000000_000000_000_0_00_000000_0000000000000000#64, .vrmini ⟨9, 4, 5, 0, 0, 0, 0, 0, 0, 0⟩),
    (0b01001101_1001_000100_000101_000000_000000_000_0_00_000000_0000000000000000#64, .vrmaxi ⟨9, 4, 5, 0, 0, 0, 0, 0, 0, 0⟩)] :
    List (BitVec 64 × Instr)), decodeV p.1 = .ok p.2 := by
  decide

/-- R166 to R169: conversions, permutes, reductions, compares and masks. -/
theorem test_words_vector_move_2 : ∀ p ∈ ([
    (0b01010000_1010_000100_000101_000110_000000_000_0_00_000000_0000000000000000#64, .vceq ⟨10, 4, 5, 6, 0, 0, 0, 0, 0, 0⟩),
    (0b01010001_1010_110111_000101_000110_000000_000_0_00_000000_0000000000000000#64, .vcne ⟨10, 55, 5, 6, 0, 0, 0, 0, 0, 0⟩),
    (0b01010010_1010_000100_000101_000110_000000_000_0_00_000000_0000000000000000#64, .vclt ⟨10, 4, 5, 6, 0, 0, 0, 0, 0, 0⟩),
    (0b01010011_1010_110111_000101_000110_000000_000_0_00_000000_0000000000000000#64, .vcle ⟨10, 55, 5, 6, 0, 0, 0, 0, 0, 0⟩),
    (0b01010100_1010_000100_000101_000110_000000_000_0_00_000000_0000000000000000#64, .vcgt ⟨10, 4, 5, 6, 0, 0, 0, 0, 0, 0⟩),
    (0b01010101_1010_110111_000101_000110_000000_000_0_00_000000_0000000000000000#64, .vcge ⟨10, 55, 5, 6, 0, 0, 0, 0, 0, 0⟩),
    (0b01010110_1010_000100_000101_000110_000000_000_0_00_000000_0000000000000000#64, .vcun ⟨10, 4, 5, 6, 0, 0, 0, 0, 0, 0⟩),
    (0b01010111_1001_000100_000101_000110_000000_001_0_00_000000_0000000000000000#64, .vsel ⟨9, 4, 5, 6, 0, 1, 0, 0, 0, 0⟩),
    (0b01011000_0000_110001_110010_110011_000000_000_0_00_000000_0000000000000000#64, .mand ⟨0, 49, 50, 51, 0, 0, 0, 0, 0, 0⟩),
    (0b01011001_0000_110001_110010_110011_000000_000_0_00_000000_0000000000000000#64, .mor ⟨0, 49, 50, 51, 0, 0, 0, 0, 0, 0⟩),
    (0b01011010_0000_110001_110010_110011_000000_000_0_00_000000_0000000000000000#64, .mxor ⟨0, 49, 50, 51, 0, 0, 0, 0, 0, 0⟩),
    (0b01011011_0000_110001_110010_110011_000000_000_0_00_000000_0000000000000000#64, .mandn ⟨0, 49, 50, 51, 0, 0, 0, 0, 0, 0⟩),
    (0b01011100_0000_110001_110010_000000_000000_000_0_00_000000_0000000000000000#64, .mnot ⟨0, 49, 50, 0, 0, 0, 0, 0, 0, 0⟩),
    (0b01100000_0000_000100_111110_000000_000000_000_0_00_000000_1111111111111111#64, .vmov ⟨0, 4, 62, 0, 0, 0, 0, 0, 0, 65535⟩),
    (0b01100001_0110_000000_000101_000110_000000_000_0_00_001011_0000000000000000#64, .vext ⟨6, 0, 5, 6, 0, 0, 0, 0, 11, 0⟩),
    (0b01100010_0110_000100_000000_000110_000000_000_0_00_001011_0000000000000000#64, .vins ⟨6, 4, 0, 6, 0, 0, 0, 0, 11, 0⟩)] :
    List (BitVec 64 × Instr)), decodeV p.1 = .ok p.2 := by
  decide

/-- R168, R169: vector memory, operand queues and tile slices. -/
theorem test_words_vector_memory : ∀ p ∈ ([
    (0b01110000_0000_000100_000000_000000_000000_000_0_00_001000_1111111111111100#64, .vld ⟨0, 4, 0, 0, 0, 0, 0, 0, 8, 65532⟩),
    (0b01110001_0000_000100_000000_000000_000000_000_0_00_001000_0000000000000100#64, .vst ⟨0, 4, 0, 0, 0, 0, 0, 0, 8, 4⟩),
    (0b01110010_0000_011110_000000_000000_000001_000_0_00_001000_0000000000000000#64, .vldm ⟨0, 30, 0, 0, 1, 0, 0, 0, 8, 0⟩),
    (0b01110011_0000_011110_000000_000000_000001_000_0_00_001000_0000000000000000#64, .vstm ⟨0, 30, 0, 0, 1, 0, 0, 0, 8, 0⟩),
    (0b01110100_0110_000100_000101_000000_000000_000_0_00_001000_0000000000000000#64, .vgth ⟨6, 4, 5, 0, 0, 0, 0, 0, 8, 0⟩),
    (0b01110101_0010_000100_000101_000000_000000_000_0_00_001000_0000000000000000#64, .vsct ⟨2, 4, 5, 0, 0, 0, 0, 0, 8, 0⟩),
    (0b01111000_0000_101000_000000_000000_000000_000_0_00_001000_0000000000000000#64, .qld ⟨0, 40, 0, 0, 0, 0, 0, 0, 8, 0⟩),
    (0b01111000_0000_100000_000000_000000_000000_000_0_01_001000_0000000000000000#64, .qldZ1 ⟨0, 32, 0, 0, 0, 0, 0, 1, 8, 0⟩),
    (0b01111000_0000_100111_000000_000000_000000_000_0_10_001000_0000000000000000#64, .qldZ2 ⟨0, 39, 0, 0, 0, 0, 0, 2, 8, 0⟩),
    (0b01111100_0000_000100_000000_000000_000000_000_0_00_001000_1111111111100000#64, .vtrd ⟨0, 4, 0, 0, 0, 0, 0, 0, 8, 65504⟩),
    (0b01111101_0000_000000_000100_000000_000000_000_0_00_001000_0111100000100000#64, .vtwr ⟨0, 0, 4, 0, 0, 0, 0, 0, 8, 30752⟩)] :
    List (BitVec 64 × Instr)), decodeV p.1 = .ok p.2 := by
  decide

/-- R170, R171: the matrix commands, with a consumed and a produced token. -/
theorem test_words_matrix : ∀ p ∈ ([
    (0b000000_1111_000000_001100_00000_00000_1_0_10001010_00000000_00000000_100001#64, .mmaQ ⟨15, 0, 12, 0, 0, 1, ⟨0x8A, 0, 0, 0x21⟩⟩),
    (0b000001_1111_011101_000000_00000_00000_1_0_10001010_00000000_00000000_100001#64, .mmaV ⟨15, 29, 0, 0, 0, 1, ⟨0x8A, 0, 0, 0x21⟩⟩),
    (0b000010_1111_010100_010101_00000_00000_1_0_10001010_00000000_00000000_100001#64, .mmaR ⟨15, 20, 21, 0, 0, 1, ⟨0x8A, 0, 0, 0x21⟩⟩),
    (0b000100_0000_010100_000000_00000_00000_1_0_10001010_00000000_00000000_100001#64, .wld ⟨0, 20, 0, 0, 0, 1, ⟨0x8A, 0, 0, 0x21⟩⟩),
    (0b000101_0000_000000_000000_00000_00000_0_0_10001010_00000000_00000000_100001#64, .swap ⟨0, 0, 0, 0, 0, 0, ⟨0x8A, 0, 0, 0x21⟩⟩),
    (0b000110_1111_000000_000000_00000_00000_0_0_10001010_00000000_00000000_100001#64, .zero ⟨15, 0, 0, 0, 0, 0, ⟨0x8A, 0, 0, 0x21⟩⟩),
    (0b001000_1111_010100_010101_00000_00000_1_0_10001010_00000000_00000000_100001#64, .drain ⟨15, 20, 21, 0, 0, 1, ⟨0x8A, 0, 0, 0x21⟩⟩),
    (0b001001_1111_010100_010101_00000_00000_1_0_10001010_00000000_00000000_100001#64, .drainZ1 ⟨15, 20, 21, 0, 0, 1, ⟨0x8A, 0, 0, 0x21⟩⟩),
    (0b001010_1111_010100_010101_00000_00000_1_0_10001010_00000000_00000000_100001#64, .drainZ2 ⟨15, 20, 21, 0, 0, 1, ⟨0x8A, 0, 0, 0x21⟩⟩)] :
    List (BitVec 64 × Instr)), decodeM p.1 = .ok p.2 := by
  decide

/-- R172 to R174: the copy commands. -/
theorem test_words_copy_1 : ∀ p ∈ ([
    (0b000000_001010_001011_001100_001101_10_11_10001010_00000000_00000000_100001#64, .cp ⟨10, 11, 12, 13, 2, 3, ⟨0x8A, 0, 0, 0x21⟩⟩),
    (0b000001_001010_001011_001100_001101_10_11_10001010_00000000_00000000_100001#64, .cpP ⟨10, 11, 12, 13, 2, 3, ⟨0x8A, 0, 0, 0x21⟩⟩),
    (0b000010_001010_001011_001100_001101_10_11_10001010_00000000_00000000_100001#64, .cpBox ⟨10, 11, 12, 13, 2, 3, ⟨0x8A, 0, 0, 0x21⟩⟩),
    (0b000100_001010_001011_001100_001101_10_11_10001010_00000000_00000000_100001#64, .cpGth ⟨10, 11, 12, 13, 2, 3, ⟨0x8A, 0, 0, 0x21⟩⟩),
    (0b000101_001010_001011_001100_001101_10_11_10001010_00000000_00000000_100001#64, .cpSct ⟨10, 11, 12, 13, 2, 3, ⟨0x8A, 0, 0, 0x21⟩⟩),
    (0b000110_001010_001011_001100_001101_10_11_10001010_00000000_00000000_100001#64, .cpCvt ⟨10, 11, 12, 13, 2, 3, ⟨0x8A, 0, 0, 0x21⟩⟩),
    (0b000111_001010_001011_001100_001101_10_11_10001010_00000000_00000000_100001#64, .cpZip ⟨10, 11, 12, 13, 2, 3, ⟨0x8A, 0, 0, 0x21⟩⟩),
    (0b001000_001010_001011_001100_001101_10_11_10001010_00000000_00000000_100001#64, .cpUnz ⟨10, 11, 12, 13, 2, 3, ⟨0x8A, 0, 0, 0x21⟩⟩),
    (0b001010_001010_001011_001100_001101_10_11_10001010_00000000_00000000_100001#64, .cpXp ⟨10, 11, 12, 13, 2, 3, ⟨0x8A, 0, 0, 0x21⟩⟩),
    (0b001100_001010_001011_001100_001101_10_11_10001010_00000000_00000000_100001#64, .mcred ⟨10, 11, 12, 13, 2, 3, ⟨0x8A, 0, 0, 0x21⟩⟩),
    (0b010000_001010_001011_001100_011001_00_11_10001010_00000000_00000000_100001#64, .amoAdd ⟨10, 11, 12, 25, 0, 3, ⟨0x8A, 0, 0, 0x21⟩⟩),
    (0b010001_001010_001011_001100_011001_00_11_10001010_00000000_00000000_100001#64, .amoAnd ⟨10, 11, 12, 25, 0, 3, ⟨0x8A, 0, 0, 0x21⟩⟩),
    (0b010010_001010_001011_001100_011001_00_11_10001010_00000000_00000000_100001#64, .amoOr ⟨10, 11, 12, 25, 0, 3, ⟨0x8A, 0, 0, 0x21⟩⟩),
    (0b010011_001010_001011_001100_011001_00_11_10001010_00000000_00000000_100001#64, .amoXor ⟨10, 11, 12, 25, 0, 3, ⟨0x8A, 0, 0, 0x21⟩⟩),
    (0b010100_001010_001011_001100_011001_00_11_10001010_00000000_00000000_100001#64, .amoMin ⟨10, 11, 12, 25, 0, 3, ⟨0x8A, 0, 0, 0x21⟩⟩),
    (0b010101_001010_001011_001100_011001_00_11_10001010_00000000_00000000_100001#64, .amoMax ⟨10, 11, 12, 25, 0, 3, ⟨0x8A, 0, 0, 0x21⟩⟩),
    (0b010110_001010_001011_001100_011001_00_11_10001010_00000000_00000000_100001#64, .amoMinu ⟨10, 11, 12, 25, 0, 3, ⟨0x8A, 0, 0, 0x21⟩⟩),
    (0b010111_001010_001011_001100_011001_00_11_10001010_00000000_00000000_100001#64, .amoMaxu ⟨10, 11, 12, 25, 0, 3, ⟨0x8A, 0, 0, 0x21⟩⟩),
    (0b011000_001010_001011_001100_011001_00_11_10001010_00000000_00000000_100001#64, .amoSwp ⟨10, 11, 12, 25, 0, 3, ⟨0x8A, 0, 0, 0x21⟩⟩),
    (0b011001_001010_001011_001100_011001_00_11_10001010_00000000_00000000_100001#64, .amoCas ⟨10, 11, 12, 25, 0, 3, ⟨0x8A, 0, 0, 0x21⟩⟩),
    (0b011010_001010_001011_001100_111000_00_11_10001010_00000000_00000000_100001#64, .amoFaddF32 ⟨10, 11, 12, 56, 0, 3, ⟨0x8A, 0, 0, 0x21⟩⟩),
    (0b011011_001010_001011_001100_111000_00_11_10001010_00000000_00000000_100001#64, .amoFaddBf16 ⟨10, 11, 12, 56, 0, 3, ⟨0x8A, 0, 0, 0x21⟩⟩),
    (0b011100_001010_001011_001100_111000_00_11_10001010_00000000_00000000_100001#64, .amoFaddF16 ⟨10, 11, 12, 56, 0, 3, ⟨0x8A, 0, 0, 0x21⟩⟩),
    (0b100000_000000_001011_001100_100010_00_00_10001010_00000000_00000000_100001#64, .sig ⟨0, 11, 12, 34, 0, 0, ⟨0x8A, 0, 0, 0x21⟩⟩)] :
    List (BitVec 64 × Instr)), decodeC p.1 = .ok p.2 := by
  decide

/-- R172 to R174: the copy commands. -/
theorem test_words_copy_2 : ∀ p ∈ ([
    (0b100001_000000_000000_001100_010010_00_00_10001010_00000000_00000000_100001#64, .swait ⟨0, 0, 12, 18, 0, 0, ⟨0x8A, 0, 0, 0x21⟩⟩),
    (0b100010_000000_001011_001100_100100_00_00_10001010_00000000_00000000_100001#64, .bpost ⟨0, 11, 12, 36, 0, 0, ⟨0x8A, 0, 0, 0x21⟩⟩),
    (0b100011_000000_001011_001100_010100_00_00_10001010_00000000_00000000_100001#64, .bwait ⟨0, 11, 12, 20, 0, 0, ⟨0x8A, 0, 0, 0x21⟩⟩),
    (0b100100_000000_001011_001100_100000_00_00_10001010_00000000_00000000_100001#64, .barrive ⟨0, 11, 12, 32, 0, 0, ⟨0x8A, 0, 0, 0x21⟩⟩),
    (0b100101_001010_000000_001100_000000_00_00_10001010_00000000_00000000_100001#64, .semrd ⟨10, 0, 12, 0, 0, 0, ⟨0x8A, 0, 0, 0x21⟩⟩),
    (0b101000_000000_001011_000000_000000_00_00_10001010_00000000_00000000_100001#64, .cpost ⟨0, 11, 0, 0, 0, 0, ⟨0x8A, 0, 0, 0x21⟩⟩),
    (0b110000_001010_001011_000000_000000_00_11_10001010_00000000_00000000_100001#64, .ldr ⟨10, 11, 0, 0, 0, 3, ⟨0x8A, 0, 0, 0x21⟩⟩),
    (0b110001_011111_001011_000000_000000_00_11_10001010_00000000_00000000_100001#64, .ldrV ⟨31, 11, 0, 0, 0, 3, ⟨0x8A, 0, 0, 0x21⟩⟩),
    (0b110010_001010_001011_000000_000000_11_00_10001010_00000000_00000000_100001#64, .str ⟨10, 11, 0, 0, 3, 0, ⟨0x8A, 0, 0, 0x21⟩⟩),
    (0b110011_001010_000000_011111_000000_11_00_10001010_00000000_00000000_100001#64, .strV ⟨10, 0, 31, 0, 3, 0, ⟨0x8A, 0, 0, 0x21⟩⟩)] :
    List (BitVec 64 × Instr)), decodeC p.1 = .ok p.2 := by
  decide

/-! ## Ill-formed terms

Each limit of spec 10 and 11 that a field can break, one term each: the check refuses it, with the case of R158. -/

/-- R165, R175, R197: the limits of S-slot and Lantern fields. -/
theorem test_illFormed_scalar : ∀ i ∈ ([.bfxu 1 2 60 4, .bfxs 1 2 63 1, .bfi 1 2 0x3F 0x3F, .ldm 41 8 23 0, .stm 63 8 1 0, .loopi 0,
    .loopi 8192, .fence 5 1, .fence 7 0, .csrr 1 0x3FFF, .csrw 1 0x3FFF, .dsete 1 2 4, .dgete 1 2 4, .dsets 1 2 0, .dsets 1 2 4,
    .dgets 1 2 0, .dgets 1 2 4, .winq 1 8] : List Instr), i.wf = false ∧ illegal i = some 2 := by decide

/-- R158, R167: lane types, specifiers, and the queues where none may stand (case 5). -/
theorem test_illFormed_vector : (∀ i ∈ ([.vadd ⟨3, 1, 2, 3, 0, 0, 0, 0, 0, 0⟩, .vfma ⟨0, 1, 2, 3, 4, 0, 0, 0, 0, 0⟩,
    .vclmul ⟨1, 1, 2, 3, 0, 0, 0, 0, 0, 0⟩, .vadd ⟨0, 0x30, 2, 3, 0, 0, 0, 0, 0, 0⟩, .vadd ⟨0, 1, 0x29, 3, 0, 0, 0, 0, 0, 0⟩,
    .vadd ⟨0, 1, 0x3D, 3, 0, 0, 0, 0, 0, 0⟩, .vadd ⟨0, 1, 2, 3, 1, 0, 0, 0, 0, 0⟩, .mand ⟨0, 0x2F, 0x30, 0x30, 0, 0, 0, 0, 0, 0⟩,
    .mand ⟨0, 0x30, 2, 0x30, 0, 0, 0, 0, 0, 0⟩, .vst ⟨0, 0x20, 0, 0, 0, 0, 0, 0, 0, 0⟩, .qld ⟨0, 0x29, 0, 0, 0, 0, 0, 0, 0, 0⟩,
    .vld ⟨0, 1, 1, 0, 0, 0, 0, 0, 0, 0⟩, .vldm ⟨0, 30, 0, 0, 2, 0, 0, 0, 0, 0⟩, .vldm ⟨0, 0, 0, 0, 32, 0, 0, 0, 0, 0⟩] : List Instr),
      i.wf = false ∧ illegal i = some 2) ∧
    (∀ i ∈ ([.vadd ⟨0, 0x20, 2, 3, 0, 0, 0, 0, 0, 0⟩, .vadd ⟨0, 1, 0x28, 3, 0, 0, 0, 0, 0, 0⟩, .vceq ⟨0, 0x28, 1, 2, 0, 0, 0, 0, 0, 0⟩,
      .mand ⟨0, 0x20, 0x30, 0x30, 0, 0, 0, 0, 0, 0⟩] : List Instr), i.wf = false ∧ illegal i = some 5) := by decide

/-- R167, R169, R210 to R212: one immediate and one broadcast register at most, and fields that nothing reads are zero. -/
theorem test_illFormed_vector_fields : ∀ i ∈ ([.vadd ⟨0, 1, 0x3E, 0x3E, 0, 0, 0, 0, 0, 0⟩, .vadd ⟨0, 1, 0x3F, 0x3F, 0, 0, 0, 0, 0, 0⟩,
    .vgth ⟨0, 1, 0x3E, 0, 0, 0, 0, 0, 0, 0⟩, .vgth ⟨0, 1, 0x3F, 0, 0, 0, 0, 0, 0, 0⟩, .vadd ⟨0, 1, 2, 3, 0, 0, 0, 0, 0, 1⟩,
    .vadd ⟨0, 1, 2, 3, 0, 0, 0, 0, 1, 0⟩, .mand ⟨0, 0x30, 0x30, 0x30, 0, 1, 0, 0, 0, 0⟩, .mand ⟨0, 0x30, 0x30, 0x30, 0, 0, 1, 0, 0, 0⟩,
    .vadd ⟨0, 1, 2, 3, 0, 0, 0, 1, 0, 0⟩, .vmin ⟨8, 1, 2, 3, 0, 0, 0, 1, 0, 0⟩, .qld ⟨0, 0x20, 0, 0, 0, 0, 0, 3, 0, 0⟩,
    .vcvt ⟨0, 1, 2, 0, 0, 0, 0, 0, 0, 0x6000⟩, .vcvt ⟨0, 1, 2, 0, 0, 0, 0, 0, 0, 1⟩, .vrq ⟨0, 1, 2, 3, 4, 0, 0, 0, 0, 0⟩,
    .qld ⟨0, 0x28, 0, 0, 0, 1, 0, 0, 0, 0⟩, .vtrd ⟨0, 1, 0, 0, 0, 0, 0, 0, 0, 1⟩] : List Instr), i.wf = false ∧ illegal i = some 2 := by
  decide

/-- R170, R171, R243: what each matrix form leaves zero, formats of two classes, and a token that is not enabled and not zero. -/
theorem test_illFormed_matrix : ∀ i ∈ ([.mmaQ ⟨0, 1, 0, 0, 0, 1, ⟨0, 0, 0, 0⟩⟩, .mmaV ⟨0, 30, 0, 0, 0, 1, ⟨0, 0, 0, 0⟩⟩,
    .mmaV ⟨0, 0, 1, 0, 0, 1, ⟨0, 0, 0, 0⟩⟩, .mmaR ⟨0, 0, 0, 0, 8, 0, ⟨0, 0, 0, 0⟩⟩, .mmaR ⟨0, 0, 0, 1, 0, 1, ⟨0, 0, 0, 0⟩⟩,
    .wld ⟨1, 0, 0, 0, 0, 1, ⟨0, 0, 0, 0⟩⟩, .swap ⟨0, 0, 0, 0, 0, 1, ⟨0, 0, 0, 0⟩⟩, .zero ⟨0, 1, 0, 0, 0, 0, ⟨0, 0, 0, 0⟩⟩,
    .drain ⟨0, 0, 0, 1, 0, 1, ⟨0, 0, 0, 0⟩⟩, .zero ⟨0, 0, 0, 0, 0, 0, ⟨1, 0, 0, 0⟩⟩, .zero ⟨0, 0, 0, 0, 0, 0, ⟨0, 0x7F, 0, 0⟩⟩,
    .zero ⟨0, 0, 0, 0, 0, 0, ⟨0, 0, 4, 0⟩⟩, .zero ⟨0, 0, 0, 0, 0, 0, ⟨0, 0, 0, 0x1F⟩⟩] : List Instr), i.wf = false ∧ illegal i = some 2 := by
  decide

/-- R172 to R174, R265: unused registers and spaces, MCRED's space, and the orders and scopes that no command has. -/
theorem test_illFormed_copy : ∀ i ∈ ([.sig ⟨1, 0, 0, 0, 0, 0, ⟨0, 0, 0, 0⟩⟩, .swait ⟨0, 1, 0, 0, 0, 0, ⟨0, 0, 0, 0⟩⟩,
    .ldrV ⟨32, 0, 0, 0, 0, 0, ⟨0, 0, 0, 0⟩⟩, .strV ⟨0, 0, 32, 0, 0, 0, ⟨0, 0, 0, 0⟩⟩, .semrd ⟨1, 0, 2, 1, 0, 0, ⟨0, 0, 0, 0⟩⟩,
    .sig ⟨0, 0, 0, 0, 1, 0, ⟨0, 0, 0, 0⟩⟩, .str ⟨0, 0, 0, 0, 0, 1, ⟨0, 0, 0, 0⟩⟩, .mcred ⟨0, 0, 0, 0, 0, 2, ⟨0, 0, 0, 0⟩⟩,
    .sig ⟨0, 0, 0, 0b110000, 0, 0, ⟨0, 0, 0, 0⟩⟩, .bpost ⟨0, 0, 0, 0b010000, 0, 0, ⟨0, 0, 0, 0⟩⟩, .swait ⟨0, 0, 0, 0b100000, 0, 0, ⟨0, 0, 0, 0⟩⟩,
    .amoAdd ⟨0, 0, 0, 0b000010, 0, 0, ⟨0, 0, 0, 0⟩⟩, .amoAdd ⟨0, 0, 0, 0b011010, 0, 0, ⟨0, 0, 0, 0⟩⟩, .amoFaddF32 ⟨0, 0, 0, 1, 0, 0, ⟨0, 0, 0, 0⟩⟩,
    .cp ⟨0, 0, 0, 0, 0, 0, ⟨2, 0, 0, 0⟩⟩] : List Instr), i.wf = false ∧ illegal i = some 2 := by
  decide +kernel

/-- R163, R164, R168, R171, R173, R175: opcodes and functions that nothing has are refused by name. -/
theorem test_unassigned_words : ([0b000000_000011_000001_000010_00010110#32, 0b001101_00000000000000000000000000#32, 0b111111_00000000000000000000000000#32,
      0b111000_000001_000001_000000_00000100#32, 0b111101_000000_000001_000000_00000011#32, 0b110011_00000000000000000000000001#32].all (fun w => (decodeS w).toOption.isNone)) = true ∧ (decodeV 0x1900000000000000#64).toOption = none ∧ (decodeV 0xFF00000000000000#64).toOption = none ∧
    (decodeM 0x0C00000000000000#64).toOption = none ∧ (decodeM 0x1800000040000000#64).toOption = none ∧
    (decodeC 0x0C00000000000000#64).toOption = none ∧ (decodeC 0xFC00000000000000#64).toOption = none := by decide +kernel

/-! ## Witnesses: scalar instructions and control -/

/-- ScalarForms: a register form in a unit and on a Lantern core, and every listed instruction in both. -/
theorem witness_ScalarForms : wordFree unitS (.add 3 1 2) 0 (scalarOut unitS 3 [1, 2] 1 0) = true ∧
    wordFree lanS (.mul 3 1 2) 0 (scalarOut lanS 3 [1, 2] 3 0) = true ∧
    wordFree unitS (.div 3 1 2) 0 { scalarOut unitS 3 [1, 2] 20 (BitVec.allOnes 64) with div := true } = true ∧
    (∀ s ∈ [unitS, lanS], allFree s 0 [.add 0 1 2, .sub 3 1 2, .and 3 1 2, .or 3 1 2, .xor 3 1 2, .andn 3 1 2, .orn 3 1 2, .xnor 3 1 2,
      .shl 3 1 2, .shr 3 1 2, .sra 3 1 2, .ror 3 1 2, .slt 3 1 2, .sltu 3 1 2, .min 3 1 2, .max 3 1 2, .minu 3 1 2, .maxu 3 1 2,
      .mul 3 1 2, .mulh 3 1 2, .mulhu 3 1 2, .mulhsu 3 1 2, .clz 3 1, .ctz 3 1, .popc 3 1, .bswap 3 1, .div 3 1 2, .divu 3 1 2,
      .rem 3 1 2, .remu 3 1 2, .addi 3 1 0x2000, .andi 3 1 1, .ori 3 1 1, .xori 3 1 1, .slti 3 1 1, .sltiu 3 1 1, .shli 3 1 63,
      .shri 3 1 1, .srai 3 1 1, .rori 3 1 1, .lui 3 0x80000, .addpc 3 1, .bfxu 3 1 0 63, .bfxs 3 1 63 0, .bfi 3 1 1 62] = true) := by
  decide +kernel

/-- ScalarForms: the counts of CLZ and CTZ at both ends of their range, and the words of BSWAP and BFI. -/
theorem witness_ScalarForms_bits : let x : W64 := 0x8000000000000001
    (∀ j < 64, (0 : W64).getLsbD (63 - j) = false) ∧ x.getLsbD 63 = true ∧ x.getLsbD 0 = true ∧ (1 : W64).getLsbD (63 - 63) = true ∧
    (∀ j < 63, (1 : W64).getLsbD (63 - j) = false) ∧
    (∀ j < 8, (0x0807060504030201 : W64).extractLsb' (8 * j) 8 = (0x0102030405060708 : W64).extractLsb' (8 * (7 - j)) 8) ∧
    (∀ j < 64, (0xF00F : W64).getLsbD j = if 4 ≤ j ∧ j < 4 + 8 then (0x100 : W64).getLsbD (j - 4) else (0xFFFF : W64).getLsbD j) := by
  decide +kernel

/-- R185, R187: a product's high half, a quotient of the most negative number by -1, and a division by zero. -/
theorem test_scalar_results :
    let s := lanR [(1, 0x8000000000000000), (2, 0xFFFFFFFFFFFFFFFF)]
    rdS (here (after (.mulhu 3 1 2) s)) 3 = 0x7FFFFFFFFFFFFFFF ∧ rdS (here (after (.div 3 1 2) s)) 3 = 0x8000000000000000 ∧
    rdS (here (after (.rem 3 1 2) s)) 3 = 0 ∧ rdS (here (after (.div 3 1 0) s)) 3 = 0xFFFFFFFFFFFFFFFF ∧
    rdS (here (after (.sra 3 1 2) s)) 3 = 0xFFFFFFFFFFFFFFFF ∧ rdS (here (after (.add 0 1 2) s)) 0 = 0 := by
  decide +kernel

/-- ScalarResults: agents of both kinds, and a scalar result in its last bundle. -/
theorem witness_ScalarResults : lanS.cur = .lantern 0 ∧ unitS.cur = .unit 0 ∧
    (let f : Flight := ⟨0, 63, 5, 1, [], false, true, 0, 0, false, 0, false, 0⟩
     let s := unitU (fun u => { u with flight := [f] })
     issues s s.arg.k.toNat = true ∧ (getUnit s s.arg.k.toNat).flight.filter (fun f => decide (f.r ≤ 1)) = [f] ∧ f.cls = 0 ∧
       (f.tags.any (fun p => tagSet (getUnit s 0).core p.1 && !tagLive (getUnit s 0).core p.1 p.2) = false) ∧ f.reg ≠ 0 ∧ f.reg ≠ 96) := by
  decide +kernel

/-- ScalarMemory: loads, stores and register lists run, at the last bytes of a scratchpad too. -/
theorem witness_ScalarMemory : (∀ s ∈ [unitS, lanS, unitR [(1, 0x50000 - 8)]], s.cur = .unit 0 →
      wordFree s (.ldD 3 1 0) 0 (loadOut s 3 1 (accessAt s 1 0) 8 0) = true ∧ wordFree s (.stD 3 1 0) 0 (storeOut s 3 1 (accessAt s 1 0) 8) = true) ∧
    (∀ s ∈ [unitS, lanS], allFree s 0 [.ldB 3 1 0, .ldBu 3 1 0, .ldH 3 1 0, .ldHu 3 1 0, .ldW 3 1 0, .ldWu 3 1 0, .ldD 3 1 0, .stB 3 1 0,
      .stH 3 1 0, .stW 3 1 0, .stD 3 1 0, .ldm 40 1 23 0, .stm 40 1 23 0, .ldm 3 1 0 0xFF] = true) := by
  decide +kernel

/-- R189: a store is the low bytes of its register, lowest first, and a load extends the sign. -/
theorem test_store_then_load :
    let s := after (.stH 1 0 16) (lanR [(1, 0x12345680)])
    rdByte s.chip.mem.cells (clBase 0 + 16) = 0x80 ∧ rdByte s.chip.mem.cells (clBase 0 + 17) = 0x56 ∧
    rdByte s.chip.mem.cells (clBase 0 + 18) = 0 ∧ rdS (here (after (.ldB 3 0 16) s)) 3 = 0xFFFFFFFFFFFFFF80 ∧
    rdS (here (after (.ldHu 3 0 16) s)) 3 = 0x5680 := by
  decide +kernel

/-- ControlTransfers: branches and jumps run, forward and backward, taken and not. -/
theorem witness_ControlTransfers : (∀ s ∈ [unitC (fun c => { c with pc := 64, sreg := [(2, 0x40)] }), lanC (fun c => { c with pc := 64, sreg := [(2, 0x40)] })],
      traced s s.cur = false ∧ allFree s 0 [.beq 1 2 4, .bne 1 2 0x3FF0, .blt 1 2 4, .bge 1 2 4, .bltu 1 2 4, .bgeu 1 2 4, .jal 3 4, .jalr 3 2 0x3FF0] = true) ∧
    (let o : SlotOut := { ctl := .jump 4 }; o.finds = [] ∧ o.pops = [] ∧ o.ctl = .jump 4) := by
  decide +kernel

/-- R150, R192: a taken branch waits for its delay word, and JAL links past it. -/
theorem test_branch_has_delay_word :
    let t := after (.beq 0 0 16) (lanC (fun c => { c with pc := 64 }))
    (here t).pc = 68 ∧ (here t).delay = some 128 ∧ (here (after (.add 0 0 0) t)).pc = 128 ∧
    rdS (here (after (.jal 5 16) lanS)) 5 = 8 := by
  decide +kernel

/-- LoopsAndTaint: loops of the smallest and greatest counts, and joins of registers and of a queue. -/
theorem witness_LoopsAndTaint : (let s := unitR [(1, 0xFFFFFFFF)]; s.cur = .unit 0 ∧ allFree s 0 [.loop 1, .loopi 1, .loopi 8191] = true) ∧
    classHolder (onLan unitS) 0 63 = some 63 ∧ classHolder (onLan unitS) 1 31 = some 95 ∧ classHolder (onLan unitS) 2 7 = some 103 ∧
    classHolder (onLan lanS) 1 15 = some 143 ∧ onLan unitS = false ∧ (8 : BitVec 6).toNat ≤ 8 ∧
    allFree unitS 0 [.tjoin 3 4 0 0, .tjoin 31 7 1 2, .tjoin 3 8 0 3, .tclr 3 0, .twait 0 3 0x8000] = true ∧
    allFree lanS 0 [.tjoin 3 15 0 1, .tclr 15 1, .twait 1 15 0xFF] = true := by
  decide +kernel

/-- R194: LOOPI puts a level at the bundle after it. -/
theorem test_loop_level : (getUnit (after (.loopi 5) unitS) 0).loops = [⟨5, 8⟩] ∧ (getUnit (after (.loopi 5) unitS) 0).core.pc = 8 := by decide +kernel

/-- FenceInstruction: a fence with nothing outstanding, in both agents; the word of R196; scopes at both sides of the last. -/
theorem witness_FenceInstruction : (∀ s ∈ [unitS, lanS], wordFree s (.fence 4 31) 0 { fence := some (4, 31) } = true ∧
      wordFree s (.fence 0 0) 0 { fence := some (0, 0) } = true) ∧ (4 : BitVec 3).toNat ≤ 4 ∧ 5 ≤ (5 : BitVec 3).toNat := by
  decide +kernel

/-- R79: a store whose bytes have not all been acknowledged holds a fence of kind 2 at system scope, and no fence of kind 0. -/
theorem test_fence_waits_for_stores :
    let s := modLan lanS 0 (fun l => { l with accs := [⟨0, 1, 2 ^ 47, 0, 0, 0, none, .fresh, none, []⟩] })
    fenceHeld s s.cur 4 4 = true ∧ fenceHeld s s.cur 4 1 = false := by
  decide +kernel

/-- TrapEntryAndReturn: a handler installed, TRAP in both agents, ERET in handler mode and outside it, and a load past the end. -/
theorem witness_TrapEntryAndReturn :
    (∀ s ∈ [unitC (fun c => { c with csr := [(0xA0, 0x101)] }), lanC (fun c => { c with csr := [(0xA0, 0x101)] })],
      wordFree s (.trap 0xFFFF) 0 { xfer := true, ctl := .trap 0xFFFF } = true ∧ traced s s.cur = false ∧
      bit (rdCsr (here s) 0xA0).toNat 0 = true ∧ bit (rdCsr (here s) 0xA1).toNat 31 = false) ∧
    (∀ s ∈ [unitC (fun c => { c with csr := [(0xA0, 0x101), (0xA1, 0x80000004)] }), lanC (fun c => { c with csr := [(0xA0, 0x101), (0xA1, 0x80000004)] })],
      wordFree s .eret 0 { xfer := true, ctl := .eret } = true ∧ traced s s.cur = false) ∧
    (∀ s ∈ [unitS, lanS], traced s s.cur = false ∧ bit (rdCsr (here s) 0xA1).toNat 31 = false ∧ bit (rdCsr (here s) 0xA0).toNat 0 = false ∧
      (here s).delay = none ∧ s.chip.ended = none ∧ (here s).pc % 4 = 0 ∧ (here s).pc + 8 ≤ codeSize) ∧
    (let s := lanC (fun c => { c with csr := [(0xA0, 0x101)], sreg := [(1, 0x2000000)] })
     s.cur = .lantern 0 ∧ traced s s.cur = false ∧ bit (rdCsr (here s) 0xA0).toNat 0 = true ∧ bit (rdCsr (here s) 0xA1).toNat 31 = false ∧
     (here s).tw = none ∧ (getCl s 0).lan.accs = [] ∧ hmeta (here s) 1 = {} ∧ hmeta (here s) 3 = {} ∧ clSize < accessAt s 1 0 + 1) := by
  decide +kernel

/-- R201, R202: TRAP goes to the handler with the next word as where it resumes; a misplaced load goes there with itself. -/
theorem test_trap_entry :
    let s := lanC (fun c => { c with pc := 64, csr := [(0xA0, 0x101)], sreg := [(1, 0x2000000)] })
    (let t := after (.trap 9) s; (here t).pc = 0x100 ∧ rdCsr (here t) 0xA1 = 0x80000004 ∧ rdCsr (here t) 0xA2 = 68 ∧ rdCsr (here t) 0xA4 = 9) ∧
    (let t := after (.ldB 3 1 0) s; (here t).pc = 0x100 ∧ rdCsr (here t) 0xA1 = 0x80000002 ∧ rdCsr (here t) 0xA2 = 64 ∧ rdCsr (here t) 0xA4 = 0x2000000) := by
  decide +kernel

/-- BundleIssueAndTail: code that is poisoned, a bundle that waits for a semaphore, and one that issues, a slotless one too; a pending
TWAIT holds that one. TAIL in both agents. -/
theorem witness_BundleIssueAndTail :
    (let s := modMem unitS (fun m => writeImg m (codeBase 0) [(0, true)])
     issues s s.arg.k.toNat = true ∧ (fetchBundle s s.arg.k.toNat).any (fun x => x.2) = true) ∧
    (∀ p ∈ ([(0, false), (0x40, true)] : List (Byte × Bool)), let s := modMem unitS (fun m => writeImg m (codeBase 0 + 1) [(p.1, false)])
      let y := fetchBundle s 0
      let d := bundleOf 0 (y.map Prod.fst)
      let outs := bunOuts s 0 d (unitLink s 0 (codeAddr d.len))
      (getUnit s 0).inst = some ⟨0, 0, 0, 64, false, 0⟩ ∧ issues s s.arg.k.toNat = true ∧ y.all (fun x => !x.2) = true ∧ d.len ≤ y.length ∧ (firstCase (bunCases (getUnit s 0) d outs)).isNone = true ∧
      bunHeld s 0 d outs = p.2 ∧ (bunCheck outs).isNone = true ∧ (getUnit s 0).owed = none ∧ bankStalls (outs.flatMap (fun o => o.2.acc)) = 0) ∧
    (∀ w ∈ [none, some [(3, 0)]], let s := unitC (fun c => { c with tw := w, tags := [(3, 0)] })
      issues s s.arg.k.toNat = true ∧ twHeld (getUnit s 0).core = w.isSome) ∧
    (∀ n ∈ ([⟨0, 0, 0, 64, true, 0⟩, ⟨0, 0, 0, codeSize - 4, true, 0⟩] : List Inst), let s := unitU (fun u => { u with inst := some n, core := { u.core with pc := codeSize - 4 } })
      let hd := rdCode s 0 n.codeAt (codeSize - 4) 4
      issues s s.arg.k.toNat = true ∧ s.chip.mem.errs = [] ∧ s.chip.mem.lost = [] ∧ hd.all (fun x => !x.2) = true ∧ ofBytes (hd.map Prod.fst) = 0 ∧
      ofBytes ((rdCode s 0 n.codeAt n.entry 4).map Prod.fst) % 1024 = 0 ∧ (getUnit s 0).core.delay = none ∧ (getUnit s 0).core.tw = none ∧ (getUnit s 0).owed = none) ∧
    ∀ s ∈ [unitS, lanS], wordFree s .tail 0 { xfer := true, ctl := .tail } = true := by
  decide +kernel

/-- R144, R157: a bundle of no slots moves pc past its header. -/
theorem test_slotless_bundle : (getUnit (after .bundleIssue unitS) 0).core.pc = 4 ∧ (getUnit (after .bundleIssue unitS) 0).bundle = 1 ∧
    rdCsr (getUnit (after .bundleIssue unitS) 0).core 1 = 1 := by
  decide +kernel

/-- CsrAccess: reads and writes that each agent may make, at both ends of the tile status registers. -/
theorem witness_CsrAccess : ([0, 0x30, 0x3F, 0x93, 0x94, 0xB3, 0x100, 0x12F, 0xA0].all (fun c => csrMay (onLan unitS) c false)) = true ∧
    allFree unitS 0 [.csrr 3 0x30, .csrr 3 0x3F, .csrr 3 0x93, .csrr 3 0xB3, .csrr 3 0x12F, .csrw 3 0xA0, .csrw 3 0x3F] = true ∧
    allFree lanS 0 [.csrr 3 0xA1, .csrw 3 0xA0, .csrw 3 0x91] = true ∧ csrMay (onLan unitS) 0xA0 true = true ∧ csrMay (onLan lanS) 0x132 true = true := by
  decide +kernel

/-- R198: a write of trap.en keeps the bits it has no field for. -/
theorem test_csr_write_masks : let s := lanR [(1, 0xFFFFFFFFFFFFFFFF)]
    rdCsr (here (after (.csrw 1 0xA0) s)) 0xA0 = 0x1FFFFD ∧ rdS (here (after (.csrr 2 0xA0) (after (.csrw 1 0xA0) s))) 2 = 0x1FFFFD := by
  decide +kernel

/-- CsrWriteEvents: both kinds of range registers, at both ends, and a tile that is free. -/
theorem witness_CsrWriteEvents : (∀ n ∈ [0x100, 0x101, 0x12E], let s := { unitS with arg := { n := n } }
      0x100 ≤ s.arg.n ∧ s.arg.n ≤ 0x12F ∧ (s.arg.n - 0x100) % 3 ≠ 2) ∧
    (∀ n ∈ [0x102, 0x12F], let s := { unitS with arg := { n := n } }; 0x100 ≤ s.arg.n ∧ s.arg.n ≤ 0x12F ∧ (s.arg.n - 0x100) % 3 = 2) ∧
    tileBusy (getUnit unitS unitS.arg.k.toNat) (unitS.arg.j % 16) = false := by
  decide +kernel

/-! ## Witnesses: the Lantern core -/

/-- A Lantern core whose range register 0 maps the VAs from 0 to HBM for every access, with these scalar registers. -/
def lanG (l : SMap W64) : State := lanC (fun c => { c with sreg := l, csr := [(0x100, 0), (0x101, 0x10000), (0x102, 0x0100000000F8)] })

/-- Descriptors: every form, at the first and the last dimension it takes. -/
theorem witness_Descriptors : onLan lanS = true ∧ allFree lanS 0 [.dsetb 15 1, .dsete 15 1 0, .dsete 15 1 3, .dsets 15 1 1, .dsets 15 1 3, .dseta 15 1,
      .dgetb 3 15, .dgete 3 15 0, .dgete 3 15 3, .dgets 3 15 1, .dgets 3 15 3, .dgeta 3 15, .dmov 15 0, .daddb 15 1, .dld 15 1 1, .dst 15 1 1] = true ∧
    (let y : Desc := BitVec.ofNat 256 (5 * 2 ^ 112); ∀ j < 256, y.getLsbD j = if 112 ≤ j ∧ j < 112 + 20 then (5 : W64).getLsbD (j - 112) else (0 : Desc).getLsbD j) := by
  decide +kernel

/-- R269: a field of a descriptor register is replaced and read back, and no other. -/
theorem test_descriptor_fields :
    let t := after (.dsets 2 1 3) (after (.dsetb 2 1) (lanR [(1, 0xFFFFFFFFFFFFFFFF)]))
    rdS (here (after (.dgets 3 2 3) t)) 3 = 0xFFFFFFF ∧ rdS (here (after (.dgets 3 2 2) t)) 3 = 0 ∧ rdS (here (after (.dgetb 3 2) t)) 3 = 0xFFFFFFFFFFFFFFFF ∧
    rdS (here (after (.dgete 3 2 0) t)) 3 = 0 := by
  decide +kernel

/-- LanternAccesses: each access by VA, and an LCP of 64 bytes and of none; a core whose tag 0 is taken. -/
theorem witness_LanternAccesses : let s := lanG [(1, 0x40), (2, 0x1000), (3, 0x40)]
    onLan s = true ∧ translate s 0 0x40 8 .rd = some 0x010000000040 ∧ translate s 0 0x40 8 .wr = some 0x010000000040 ∧
    translate s 0 0x40 8 .at = some 0x010000000040 ∧ translate s 0 0x60 32 .rd = some 0x010000000060 ∧ translate s 0 0x60 32 .wr = some 0x010000000060 ∧
    allFree s 0 [.ldg 4 1, .stg 1 2, .amogAdd 4 1 2, .amogAdd 0 1 2, .amogSwp 4 1 2, .amogCas 4 1 2, .dldG 15 1 1, .dstG 15 1 1, .lcp 2 1 3, .lcp 2 1 0] = true ∧
    (reg s 3).toNat < 2 ^ 32 ∧ operand s 0 3 0x1000 0 64 .wr = .ok 0x010000001000 ∧ operand s 0 3 0x40 0 64 .rd = .ok 0x010000000040 ∧
    holds 3 = true ∧ freeTag (getCl s 0).lan.core 8 = some 0 ∧ freeTag (getCl (after (.ldg 4 1) s) 0).lan.core 8 = some 1 := by
  decide +kernel

/-- TensorTable: a descriptor of the cluster scratchpad and one of VAs, and identifiers at both ends of the table. -/
theorem witness_TensorTable : let s := modLan (lanG [(1, 255)]) 0 (fun l => { l with d := [(0, BitVec.ofNat 256 (64 * 2 ^ 192)), (1, BitVec.ofNat 256 (2 ^ 27 + 64 * 2 ^ 192))] })
    onLan s = true ∧ tSpace (dreg s 0) = 0 ∧ translate s 0 64 (tWhole (dreg s 0)).2 .rw = some 0x010000000040 ∧ tValid (dreg s 0) = true ∧
    tSpace (dreg s 1) ≠ 0 ∧ tValid (dreg s 1) = true ∧ (reg s 1).toNat < 256 ∧ tLive (tensorOf s 0 255) = false ∧ tensorLive (getCl s 0) 0 = false ∧
    allFree s 0 [.tdecl 0 1, .tdecl 1 0, .trel 1] = true ∧
    (let y : Desc := BitVec.ofNat 256 (1 + 2 ^ 27 + 64 * 2 ^ 192); ∀ j < 256, y.getLsbD j = (decide (j = 0) || (dreg s 1).getLsbD j)) ∧
    (let y : Desc := BitVec.ofNat 256 (1 + 0x010000000040 * 2 ^ 192)
     ∀ j < 256, y.getLsbD j = (decide (j = 0) || (if 192 ≤ j then Nat.testBit 0x010000000040 (j - 192) else (dreg s 0).getLsbD j))) := by
  decide +kernel

/-- R274: TDECL sets the live bit, and a second TDECL of the entry is a TENSOR trap. -/
theorem test_tdecl_twice : let t := after (.tdecl 1 0) (modLan lanS 0 (fun l => { l with d := [(1, BitVec.ofNat 256 (2 ^ 27))] }))
    tLive (tensorOf t 0 0) = true ∧ (asks t (.tdecl 1 0) 0).trap.isSome = true := by
  decide +kernel

/-- A cluster scratchpad with a task image at 64: one instance of a kernel that any unit may run; window entries for it. -/
def lanP (l : SMap W64) : State :=
  let s := lanC (fun c => { c with sreg := l })
  { s with chip := { s.chip with mem := { s.chip.mem with cells := [⟨clBase 0 + 79, 1⟩] } } }

/-- Posts: a post that enters, through its own window and through a handle of this module; and one rejected, at offset 0. -/
theorem witness_Posts : let s := lanP [(1, 64), (2, 0), (3, 0)]
    let o := readPost s.chip.mem (clBase 0) clSize 64
    s.cur = .lantern 0 ∧ (getCl s 0).lan.wait = none ∧ (o.psnImg || o.psnRegs || o.psnMv) = false ∧ regBad s 1 = false ∧
    postReason s 0 clSize o.img o.regs o.mv = 0 ∧ placeOf (getCl s 0) 0 (postRegs (mkPost s 0 0 o)).length = 0 ∧
    (acceptPost s 0 (mkPost s 0 0 o) false (.word 0)).2 = none ∧
    handleOk s 0 = true ∧ bit 0 47 = false ∧ bits 0 0 12 = 0 ∧ (handleAt s.partMod 0).1 = s.partMod ∧ regBad s 2 = false ∧
    (let c := (handleAt s.partMod 0).2.1
     let o2 := { o with mv := moveBlock s c o.img }
     postReason s c clSize o2.img o2.regs o2.mv = 0 ∧ placeOf (getCl s c) 9 (postRegs (mkPost s c 9 o2)).length = 0 ∧
       (acceptPost s c (mkPost s c 9 o2) false (.word 0)).2 = none) ∧
    allFree s 0 [.post 1, .postTry 4 1, .postR 1 2, .postRtry 4 1 2] = true ∧
    (let o := readPost s.chip.mem (clBase 0) clSize 0
     (o.psnImg || o.psnRegs || o.psnMv) = false ∧ postReason s 0 clSize o.img o.regs o.mv = 1 ∧ allFree s 0 [.postTry 4 3] = true) ∧
    (let s := lanC (fun c => { c with csr := [(0xA0, 0x101)] }); let o : SlotOut := { reads := [3], gate := [3], fence := some (4, 31) }
     o.chk.ok = true ∧ lanFree s 0 o = true ∧ traced s (.lantern 0) = false ∧ bit (rdCsr (here s) 0xA0).toNat 0 = true ∧
       bit (rdCsr (here s) 0xA1).toNat 31 = false) := by
  decide +kernel

/-- R278, R279: POST.TRY of an image of zeros answers REJECT with reason 1; POST of a good one adds a task to the window. -/
theorem test_posts : rdS (here (after (.postTry 4 3) (lanP []))) 4 = 0x103 ∧
    (getCl (after (.post 1) (lanP [(1, 64)])) 0).tasks.length = 1 ∧ rdS (here (after (.postTry 4 1) (lanP [(1, 64)]))) 4 = 0 := by
  decide +kernel

/-- TokensAndQueries: a fired token and an armed one of this module, the words of USIG, WINQ and RETRY. -/
theorem witness_TokensAndQueries : let s := modCl (lanR [(1, 0), (2, 0x1FF7)]) 0 (fun c => { c with tokens := [(0, ⟨true, 1⟩)] })
    s.cur = .lantern 0 ∧ handleOk s (reg s 1).toNat = true ∧ bit (reg s 1).toNat 47 = false ∧ (handleAt s.partMod (reg s 1).toNat).1 = s.partMod ∧
    regBad s 1 = false ∧ (getTok s 0 0).fired = true ∧ allFree s 0 [.tkwait 1, .tksig 1, .tkrd 4 1, .usig 1, .winq 4 0, .winq 4 7, .retry 1] = true ∧
    bits (reg s 1).toNat 14 50 = 0 ∧ bits (reg s 1).toNat 9 3 = 0 ∧ bits (reg s 1).toNat 3 1 = 0 ∧ (reg s 1).toNat < 2 ^ ringL s 0 := by
  decide +kernel

/-- R276, R281: TKSIG fires and counts; USIG sends a signal of its count; a WINQ of query 5 gives the overflow room. -/
theorem test_tokens : getTok (after (.tksig 1) lanS) 0 0 = ⟨true, 1⟩ ∧
    (getCl (after (.usig 1) (lanR [(1, 0x3015)])) 0).signals = [⟨5, 1, 4, 3, some ⟨1, 0⟩, none⟩] ∧
    rdS (here (after (.winq 4 5) (modCl lanS 0 (fun c => { c with ovfCap := 9 })))) 4 = 9 := by
  decide +kernel

/-! ## Witnesses: vector instructions -/

/-- The fields of a vector word. -/
def vf (ty : BitVec 4) (d a b c : BitVec 6) : VF := ⟨ty, d, a, b, c, 0, 0, 0, 0, 0⟩
/-- Unit 0 with v1 and v2 at these values. -/
def unitV (x y : Nat) : State := unitU (fun u => { u with v := [(1, BitVec.ofNat 4096 x), (2, BitVec.ofNat 4096 y)] })

/-- VectorOperands: a register, an entry of the last queue, an immediate and a scalar, each at both ends of its specifiers. -/
theorem witness_VectorOperands : let s := unitU (fun u => { u with queues := [(7, [⟨true, 0, 0, 5, false⟩])] })
    onLan s = false ∧ (0 : BitVec 6).toNat < 0x20 ∧ (0x1F : BitVec 6).toNat < 0x20 ∧ 0x20 ≤ (0x27 : BitVec 6).toNat ∧ (0x27 : BitVec 6).toNat < 0x28 ∧
    (sget [] (hereUnit s).queues ((0x27 : BitVec 6).toNat - 0x20)).head? = some ⟨true, 0, 0, 5, false⟩ ∧
    (src s (vf 0 0 0 0 0) 0x27).toNat = 5 ∧ lane 32 (src s { vf 8 0 0 0 0 with imm := 0x3F80 } 0x3E) 127 = 0x3F800000 ∧
    lane 8 (src s { vf 2 0 0 0 0 with imm := 0xFFFE } 0x3E) 3 = 0xFE := by
  decide +kernel

/-- VectorIntegerLanes: every operation runs, at each width of lane, with a mask too; a z of VCLZ and an x of VCLMUL that fit. -/
theorem witness_VectorIntegerLanes : onLan unitS = false ∧ (6 : BitVec 4).toNat < 8 ∧
    (∀ ty ∈ [0, 1, 2, 4, 5, 6], let f := { vf (BitVec.ofNat 4 ty) 3 1 2 0 with mask := 1, mz := 1 }; let g := { f with c := 4 }; let h := { f with b := 0 }
      allFree unitS 1 [.vadd f, .vsub f, .vmul f, .vmulh f, .vadds f, .vsubs f, .vmin f, .vmax f, .vabd f, .vand f, .vor f, .vxor f, .vandn f,
        .vmac g, .vabs h, .vneg h, .vpopc h, .vclz h, .vshl f, .vshr f, .vsra f, .vrshr f] = true) ∧
    allFree unitS 1 [.vclmul (vf 0 3 1 2 0), .vclmulh (vf 4 3 1 2 0)] = true ∧
    (let a := fun j => lane 32 (src (unitV 1 0) (vf 0 3 1 0 0) 1) j; let z := fun j => if j = 0 then 31 else 32
      (List.range 128).all (fun j => decide (z j ≤ 32 ∧ a j < 2 ^ (32 - z j) ∧ (z j < 32 → 2 ^ (32 - z j - 1) ≤ a j)))) = true ∧
    tyWidth 0 = 32 := by
  decide +kernel

/-- VectorIntegerLanes: the carry-less products of lanes that are all zero are zero. -/
theorem witness_VectorIntegerLanes_clmul : let f := vf 0 3 1 2 0
    let a := fun j => lane 32 (src unitS f f.a) j
    let b := fun j => lane 32 (src unitS f f.b) j
    tyWidth f.ty.toNat = 32 ∧ ∀ j < 128, (0 : Nat) < 2 ^ 63 ∧ ∀ n < 63, (0 : Nat).testBit n =
      ((List.range 32).foldl (fun q i => q ^^ ((b j).testBit i && decide (i ≤ n) && (a j).testBit (n - i))) false) := by
  have h : src unitS (vf 0 3 1 2 0) (vf 0 3 1 2 0).b = 0 := by decide +kernel
  refine ⟨rfl, fun j _ => ⟨by decide, fun n _ => ?_⟩⟩
  simp only [h]
  simp [lane]

/-- R207: lanes wrap, saturate, and compare with their sign; a disabled lane keeps its value. -/
theorem test_vector_integer : let s := unitV 0x7FFFFFFF80000000 0x00000001FFFFFFFF
    let out := fun (i : Instr) => ((getUnit (after i s) 0).flight.map (fun f => f.val.toNat % 2 ^ 64))
    out (.vadd (vf 0 3 1 2 0)) = [0x800000007FFFFFFF] ∧ out (.vadds (vf 0 3 1 2 0)) = [0x7FFFFFFF80000000] ∧
    out (.vmax (vf 0 3 1 2 0)) = [0x7FFFFFFFFFFFFFFF] ∧ out (.vmax (vf 4 3 1 2 0)) = [0x7FFFFFFFFFFFFFFF] ∧
    out (.vclz { vf 0 3 1 0 0 with mask := 1 }) = [0] := by
  decide +kernel

/-- VectorFloatLanes and FloatExactLanes: each operation, in each float type; the terms of fl. -/
theorem witness_VectorFloatLanes : onLan unitS = false ∧ 8 ≤ (10 : BitVec 4).toNat ∧ (10 : BitVec 4).toNat ≤ 10 ∧
    (∀ ty ∈ [8, 9, 10], let f := { vf (BitVec.ofNat 4 ty) 3 1 2 0 with rm := 3 }; let g := { f with c := 4 }; let h := { f with rm := 0 }
      allFree unitS 1 [.vadd f, .vsub f, .vmul f, .vabd f, .vfma g, .vfms g, .vfnma g, .vmin h, .vmax h, .vabs { h with b := 0 }, .vneg { h with b := 0 }] = true) ∧
    Val.nan ∉ [Val.inf false, Val.inf true] ∧ Val.inf (!false) ∉ [Val.inf false] ∧ (some Val.nan : Option Val) ∉ [(none : Option Val)] ∧
    (∀ v ∈ [Val.zero true], v = .zero false ∨ v = .zero true) := by
  decide +kernel

/-- R210: 1 + 1 in FP32, the least of -0 and +0, and infinity less infinity. -/
theorem test_vector_float : let out := fun (s : State) (i : Instr) => ((getUnit (after i s) 0).flight.map (fun f => (f.val.toNat % 2 ^ 32, f.flags)))
    out (unitV 0x3F800000 0x3F800000) (.vadd { vf 8 3 1 2 0 with }) = [(0x40000000, 0)] ∧
    out (unitV 0x00000000 0x80000000) (.vmin (vf 8 3 1 2 0)) = [(0x80000000, 0)] ∧
    (out (unitV 0x7F800000 0x7F800000) (.vsub (vf 8 3 1 2 0))).map Prod.fst = [0x7FC00000] := by
  decide +kernel

/-- VectorMovement and VectorConversions: every form, and the narrow and wide types of widening and narrowing. -/
theorem witness_VectorMovement : onLan unitS = false ∧ tyWidth 1 < 32 ∧ 8 < tyWidth 1 ∧
    (∀ ty ∈ [0, 1, 2, 4, 5, 6], let f := vf (BitVec.ofNat 4 ty) 3 1 2 0; let g := { f with c := 4 }
      allFree unitS 1 [.vperm f, .vrot f, .vzipLo f, .vzipHi f, .vunzipE f, .vunzipO f, .vbcast f, .vperm2 g, .vslide g, .vext { f with d := 0, sreg := 5 },
        .vins { f with a := 0, sreg := 5 }, .vpsum f] = true) ∧
    allFree unitS 1 [.vmov (vf 0 3 1 0 0), .vwidenLo (vf 1 3 1 0 0), .vwidenHi (vf 6 3 1 0 0), .vnarrow (vf 0 3 1 2 0), .vnarrow (vf 5 3 1 2 0),
      .vpxor { vf 0 3 1 0 0 with sreg := 5 }] = true ∧
    (∀ p ∈ [(0x0B, 0), (0, 0x0B), (0x05, 0x0B)], allFree unitS 1 [.vcvt { vf 0 3 1 0 0 with imm := BitVec.ofNat 16 (p.1 * 2 ^ 11 + p.2 * 2 ^ 6) }] = true) ∧
    (∀ p ∈ [(0x11, 0x16), (0x16, 0x11)], 0x11 ≤ p.1 ∧ p.1 ≤ 0x16 ∧ 0x11 ≤ p.2 ∧ p.2 ≤ 0x16 ∧
      allFree unitS 1 [.vrq { vf 0 3 1 2 4 with imm := BitVec.ofNat 16 (p.1 * 2 ^ 11 + p.2 * 2 ^ 6) }] = true) := by
  decide +kernel

/-- R213, R215: VROT rotates towards lane 0; VEXT extends the sign of its lane. -/
theorem test_vector_move : let s := unitV 0x00000000_00000007_FFFFFFFE_00000005 1
    ((getUnit (after (.vrot (vf 0 3 1 2 0)) s) 0).flight.map (fun f => f.val.toNat % 2 ^ 64)) = [0x00000007FFFFFFFE] ∧
    ((getUnit (after (.vext { vf 0 0 1 2 0 with sreg := 5 }) s) 0).flight.map (fun f => (f.cls, f.reg, f.val.toNat))) = [(0, 5, 0xFFFFFFFFFFFFFFFE)] := by
  decide +kernel

/-- VectorReductions: every form, with all lanes enabled and with none; the least, the greatest and a NaN lane. -/
theorem witness_VectorReductions : onLan unitS = false ∧
    (∀ ty ∈ [0, 2, 5, 8, 10], ∀ m ∈ [(0 : BitVec 3), 1], let f := { vf (BitVec.ofNat 4 ty) 3 1 0 0 with mask := m }
      allFree unitS 1 [.vradd f, .vrmin f, .vrmax f, .vrmini f, .vrmaxi f] = true) ∧ allFree unitS 1 [.vrxor (vf 2 3 1 0 0)] = true ∧
    (let f := { vf 0 3 1 0 0 with mask := 1 }; (List.range 128).filter (laneEn unitS f 32) = []) ∧
    (let s := unitV 7 0; let a := fun j => lane 32 (src s (vf 4 3 1 0 0) 1) j
      (List.range 128).all (fun i => laneEn s (vf 4 3 1 0 0) 32 i && !decide (a 0 < a i) && (decide (i = 0) || decide (a i < a 0))) = true) ∧
    valOf 0 0x7FC00000 = .nan := by
  decide +kernel

/-- VectorSelection: compares into vectors and into masks, at both ends of the masks, selects and mask operations. -/
theorem witness_VectorSelection : onLan unitS = false ∧ (0 : BitVec 6).toNat < 0x20 ∧ 0x30 ≤ (0x37 : BitVec 6).toNat ∧
    (∀ ty ∈ [0, 6, 8], ∀ d ∈ [(3 : BitVec 6), 0x30, 0x37], let f := vf (BitVec.ofNat 4 ty) d 1 2 0
      allFree unitS 1 ([.vceq f, .vcne f, .vclt f, .vcle f, .vcgt f, .vcge f] ++ (if ty = 8 then [.vcun f] else [])) = true) ∧
    allFree unitS 1 [.vsel { vf 0 3 1 2 0 with mask := 7 }, .mand (vf 0 0x31 0x30 0x37 0), .mor (vf 0 0x31 0x30 0x37 0), .mxor (vf 0 0x31 0x30 0x37 0),
      .mandn (vf 0 0x31 0x30 0x37 0), .mnot (vf 0 0x31 0x30 0 0)] = true := by
  decide +kernel

/-- R219: of the two 16-bit lanes of a mask bit, both must hold; a NaN compares unequal. -/
theorem test_compares : let out := fun (s : State) (i : Instr) => ((getUnit (after i s) 0).flight.map (fun f => (f.cls, f.reg, f.val.toNat % 4)))
    out (unitV 0x00010001_00010000 0x00010001_00010001) (.vceq (vf 1 0x31 1 2 0)) = [(2, 1, 2)] ∧
    out (unitV 0x7FC00000 0x7FC00000) (.vcne (vf 8 0x31 1 2 0)) = [(2, 1, 1)] := by
  decide +kernel

/-- VectorResults: a result due for a vector register and one for a mask register; registers at both ends. -/
theorem witness_VectorResults : unitS.cur = .unit 0 ∧ (∀ d ∈ [0, 31], d < 32) ∧ (∀ n ∈ [1, 7], 0 < n ∧ n < 8) ∧
    (∀ f ∈ ([⟨1, 31, 5, 1, [], false, false, 0, 0, false, 0, false, 2⟩, ⟨2, 0, 5, 0, [], false, false, 0, 0, false, 0, false, 0⟩] : List Flight),
      let s := unitU (fun u => { u with flight := [f] })
      issues s s.arg.k.toNat = true ∧ (getUnit s s.arg.k.toNat).flight.filter (fun f => decide (f.r ≤ 1)) = [f] ∧ (f.cls = 1 ∨ f.cls = 2)) := by
  decide +kernel

/-- VectorMemory: every form, at the start of the scratchpad and with its last byte at the end. -/
theorem witness_VectorMemory : let s := unitR [(1, 0x50000 - 512)]
    onLan s = false ∧ s.cur = .unit 0 ∧ (let f := { vf 0 3 0 0 0 with sreg := 1 };
      wordFree s (.vst f) 1 (laneStoreOut s f 32 [] (fun j => accessAt s f.sreg f.imm.toInt + 4 * j)) = true ∧
      allFree s 1 [.vld f, .vst f, .vldm f, .vstm { f with d := 31 }] = true) ∧
    (let f := vf 0 3 2 0 0;
      wordFree s (.vsct f) 1 (laneStoreOut s f 32 [2] (fun j => accessAt s f.sreg f.imm.toInt + lane 32 (src s f 2) j * 4)) = true ∧
      allFree s 1 [.vgth f, .vsct f] = true) := by
  decide +kernel

/-- R221: an enabled lane is stored and a disabled one is not. -/
theorem test_vector_store : let s := unitU (fun u => { u with v := [(3, BitVec.allOnes 4096)], m := [(1, 2)] })
    let t := after (.vst { vf 0 3 0 0 0 with mask := 1 }) s
    rdByte t.chip.mem.cells (unitBase 0 + 4) = 0xFF ∧ rdByte t.chip.mem.cells (unitBase 0 + 3) = 0 ∧ rdByte t.chip.mem.cells (unitBase 0 + 8) = 0 := by
  decide +kernel

/-- OperandQueues: a QLD of each form with a free tag, to a queue and to qa, and one whose bytes arrive. -/
theorem witness_OperandQueues : unitS.cur = .unit 0 ∧ 0x20 ≤ (0x28 : BitVec 6).toNat ∧ freeTag (getUnit unitS 0).core 16 = some 0 ∧
    allFree unitS 1 [.qld (vf 0 0x20 0 0 0), .qld { vf 0 0x27 0 0 0 with mask := 1 }, .qld (vf 0 0x28 0 0 0), .qldZ1 { vf 0 0x20 0 0 0 with rm := 1 },
      .qldZ2 { vf 0 0x28 0 0 0 with rm := 2 }] = true ∧
    (let s := after (.qld (vf 0 0x27 0 0 0)) unitS
     let s := { s with arg := { eng := .stream 0, j := 0 } }
     s.chip.ended = none ∧ (getUnit s 0).qlds.map (fun q => (q.gen, q.codec, q.q, q.len)) = [(s.arg.j, 0, 7, 512)]) := by
  decide +kernel

/-- R224, R225: a QLD's bytes fill the entry it reserved and free its tag. -/
theorem test_queue_fill : let s := after (.qld (vf 0 0x27 0 0 0)) { unitS with chip := { unitS.chip with mem := { unitS.chip.mem with cells := [⟨unitBase 0 + 1, 9⟩] } } }
    let t := after .taggedReadArrival { s with arg := { eng := .stream 0, j := 0 } }
    (sget [] (getUnit s 0).queues 7).map (fun e => e.filled) = [false] ∧ (sget [] (getUnit t 0).queues 7).map (fun e => (e.filled, e.val.toNat)) = [(true, 0x900)] ∧
    tagSet (getUnit s 0).core 0 = true ∧ tagSet (getUnit t 0).core 0 = false := by
  decide +kernel

/-- TileSlices: a row and a column read and write, and a slice write that lands, at the last row. -/
theorem witness_TileSlices : onLan unitS = false ∧ unitS.cur = .unit 0 ∧
    allFree unitS 1 [.vtrd { vf 0 3 0 0 0 with imm := 0xFFE0 }, .vtrd { vf 0 3 0 0 0 with imm := 0 }, .vtwr { vf 0 0 1 0 0 with imm := 0x7FE0 }] = true ∧
    (let f : Flight := ⟨3, 15, 5, 1, [], false, false, 0, 1, false, 63, true, 0⟩
     let s := unitU (fun u => { u with flight := [f] })
     issues s s.arg.k.toNat = true ∧ (getUnit s s.arg.k.toNat).flight.filter (fun f => decide (f.r ≤ 1)) = [f] ∧ f.cls = 3 ∧ f.idx < 64) := by
  decide +kernel

/-- R226: a VTWR of row 2 lands four bundles later in that row. -/
theorem test_tile_slice : let s := after (.vtwr { vf 0 0 1 0 0 with imm := 0x0840 }) (unitV 0x0000000900000008 0)
    let t := after .resultLanding (modUnit s 0 (fun u => { u with flight := u.flight.map (fun f => { f with r := 1 }) }))
    (getUnit s 0).flight.map (fun f => (f.cls, f.reg, f.idx, f.r)) = [(3, 1, 2, 4)] ∧
    sget 0 (sget {} (getUnit t 0).tiles 1).el 128 = 8 ∧ sget 0 (sget {} (getUnit t 0).tiles 1).el 129 = 9 ∧ sget 0 (sget {} (getUnit t 0).tiles 1).el 1 = 0 := by
  decide +kernel

/-! ## Witnesses: engine commands -/

/-- The fields of a copy command and of a matrix command without tokens. -/
def cf (rd ra rb : Reg) (rc : BitVec 6) (dsp ssp : BitVec 2) : CF := ⟨rd, ra, rb, rc, dsp, ssp, ⟨0, 0, 0, 0⟩⟩
def mf (tile : BitVec 4) (sb sk : Reg) (fa fb : BitVec 5) : MF := ⟨tile, sb, sk, fa, fb, 0, ⟨0, 0, 0, 0⟩⟩
/-- Unit 0 with operands of every command: move descriptors at 128 (compressed) and 192 (rank 2) of its scratchpad, a task
image at 256, group 0 valid, and VAs mapped to HBM. -/
def unitX : State :=
  let s := unitR [(2, 64), (3, 0x1000), (4, 3), (5, 128), (6, 192), (7, 256), (9, 7)]
  { s with chip := { s.chip with
    mem := { s.chip.mem with cells := [⟨unitBase 0 + 141, 0x80⟩, ⟨unitBase 0 + 205, 4⟩, ⟨unitBase 0 + 271, 1⟩] }
    mcg := [(0, BitVec.ofNat 128 (2 ^ 127))]
    clusters := [(0, { lan := { core := { csr := [(0x100, 0), (0x101, 0x10000), (0x102, 0x0100000000F8)] } } })] } }
/-- The command is handed off with its bundle. -/
def handsOff (s : State) (slot : Nat) (l : List Instr) : Bool := l.all (fun i => wordFree s i slot (asks s i slot) && handedAtOnce s 0 slot i)

/-- CommandsEnterQueues: every command issues and is handed off; a free tag and holders of both kinds for returned values. -/
theorem witness_CommandsEnterQueues : unitX.cur = .unit 0 ∧ freeTag (getUnit unitX 0).core 16 = some 0 ∧ holds 3 = true ∧ holds (64 + 31) = true ∧
    handsOff unitX 3 [.mmaQ (mf 0 0 2 3 3), .mmaV (mf 15 29 0 3 3), .mmaR (mf 0 1 1 3 3), .wld (mf 0 1 0 0 3), .swap (mf 0 0 0 0 0), .zero (mf 15 0 0 0 0),
      .drain (mf 0 1 1 0 0), .drainZ1 (mf 0 1 9 0 0), .drainZ2 (mf 0 1 9 0 0)] = true ∧
    handsOff unitX 4 [.cp (cf 3 1 2 0 1 1), .cpP (cf 3 1 2 0 1 1), .cpBox (cf 3 1 2 0 1 1), .cpGth (cf 3 1 2 0 1 1), .cpSct (cf 3 1 2 0 1 1), .cpCvt (cf 3 1 2 0 1 1),
      .cpZip (cf 3 1 5 0 1 1), .cpUnz (cf 3 1 5 0 1 1), .cpXp (cf 3 1 6 0 1 1), .mcred (cf 3 1 2 0 1 3)] = true ∧
    handsOff unitX 4 [.amoAdd (cf 3 1 2 1 0 1), .amoAdd (cf 0 1 2 0 0 1), .amoAnd (cf 3 1 2 1 0 1), .amoOr (cf 3 1 2 1 0 1), .amoXor (cf 3 1 2 1 0 1), .amoMin (cf 3 1 2 1 0 1),
      .amoMax (cf 3 1 2 1 0 1), .amoMinu (cf 3 1 2 1 0 1), .amoMaxu (cf 3 1 2 1 0 1), .amoSwp (cf 3 1 2 1 0 1), .amoCas (cf 3 1 2 1 0 1),
      .amoFaddF32 (cf 4 1 2 0 0 1), .amoFaddBf16 (cf 4 1 2 0 0 1), .amoFaddF16 (cf 4 1 2 0 0 1)] = true ∧
    handsOff unitX 4 [.sig (cf 0 1 2 0 0 0), .swait (cf 0 0 2 0 0 0), .bpost (cf 0 1 2 0 0 0), .bwait (cf 0 1 0 0 0 0), .barrive (cf 0 1 2 0 0 0), .semrd (cf 3 0 4 0 0 0),
      .cpost (cf 0 7 0 0 0 0), .ldr (cf 3 1 0 0 0 1), .ldrV (cf 31 1 0 0 0 1), .str (cf 3 1 0 0 1 0), .strV (cf 3 0 1 0 1 0)] = true := by
  decide +kernel

/-- CommandOperands: a copy with a barrier; the hypotheses on barriers at register 0 and beside it. -/
theorem witness_CommandOperands : unitX.cur = .unit 0 ∧ handsOff unitX 4 [.cp (cf 3 1 2 8 1 1), .cpP (cf 3 1 2 0 3 2)] = true := by decide +kernel

/-- R245: CP is handed off with the addresses of its spaces and its length. -/
theorem test_copy_operands : (slotQ (getUnit (after (.cp (cf 3 1 2 0 1 1)) unitX) 0) 4).map (fun c => c.x.map (fun x => (x.dst, x.src, x.len))) =
    [some (clBase 0 + 0x1000, clBase 0, 64)] ∧
    (slotQ (getUnit (after (.sig (cf 0 1 2 0 0 0)) unitX) 0) 4).map (fun c => c.x.map (fun x => (x.dst, x.a.toNat, x.b.toNat))) = [some (0, 0, 3)] := by
  decide +kernel

/-! ## Witnesses: copy engines and matrix engines -/

/-- A command in a queue and a started command, with nothing set but these. -/
def qc (i : Instr) (slot : Nat) : QCmd := ⟨i, slot, 0, 0, 0, false, false, false, [], [], ⟨0, 0, 0, false, 0, false, 0, 0⟩, none, none⟩
def rn (x : Xfer) : Run := ⟨5, x, 0, 0, 4, none, none, 0, 0, [], false, false, false, false, none, []⟩
/-- Unit 0 with a change, its first copy queue named by the event, and the command and chunk of these numbers. -/
def uceS (n : Nat) (f : Machine.Unit → Machine.Unit) : State := { unitU f with arg := { eng := .uce 0 0, j := 5, n := n } }
/-- A copy queue with one command in it, or one started command. -/
def uceQ (c : QCmd) : State := uceS 0 (fun u => { u with uce0 := { q := [c] }, sems := [(1, ⟨2, false, false, none⟩)] })
def uceR (r : Run) : State := uceS 0 (fun u => { u with uce0 := { runs := [r] }, sems := [(1, ⟨2, false, false, none⟩)] })

/-- CopyQueueEvents: a gate that opens, a command that is handed off, one that starts and takes both counts of a semaphore, a
SWAIT that is granted, a token that fires and a signal that arrives. -/
theorem witness_CopyQueueEvents :
    (let c := qc (.swait (cf 0 0 2 0 0 0)) 4; let s := { uceQ c with arg := { eng := .uce 0 0, flag := false } }
     slotQ (getUnit s 0) 4 = [c] ∧ c.handed = false ∧ c.opened = false ∧ cmdGated (getUnit s 0) c = false ∧ s.arg.flag = false ∧ s.chip.ended = none) ∧
    (let c := { qc (.swait (cf 0 0 2 0 0 0)) 4 with opened := true }; let s := uceQ c
     slotQ (getUnit s 0) 4 = [c] ∧ s.arg.flag = true ∧ (resolverOf c.ins c.par (cmdIn s 0 c)).1 = ({} : Chk) ∧ (resolverOf c.ins c.par (cmdIn s 0 c)).2.op ≠ 0x28) ∧
    (let c := { qc (.bpost { cf 0 1 2 0 0 0 with tok := ⟨0x85, 0, 0, 0⟩ }) 4 with handed := true, x := some (xfer0 0x22) }; let s := uceQ c
     slotQ (getUnit s 0) 4 = [c] ∧ c.x = some (xfer0 0x22) ∧ (xfer0 0x22).op ≠ 0x25 ∧ (xfer0 0x22).op ≠ 0x21 ∧ (getX s (.uce 0 0)).runs.any runBlocks = false ∧
     engStopped s (.uce 0 0) = false ∧ tokTake (tokOf c.ins) = [(1, 2)] ∧
     (∀ p ∈ tokTake (tokOf c.ins), (((tokTake (tokOf c.ins)).filter (fun r => r.1 == p.1)).map Prod.snd).sum ≤ (sget {} (getUnit s 0).sems p.1).cnt)) ∧
    (let x := { xfer0 0x21 with a := 1, b := 1 }
     let c := { qc (.swait { cf 0 0 2 0 0 0 with tok := ⟨0x84, 0, 0, 0⟩ }) 4 with handed := true, x := some x }; let s := uceQ c
     slotQ (getUnit s 0) 4 = [c] ∧ x.op = 0x21 ∧ (getX s (.uce 0 0)).runs.any runBlocks = false ∧ engStopped s (.uce 0 0) = false ∧
     findRun s (.uce 0 0) (getCl s 0).runId = none ∧ tokTake (tokOf c.ins) = [(1, 1)] ∧ 1 ≤ (sget {} (getUnit s 0).sems 1).cnt ∧
     x.b.toNat ≤ (sget {} (getUnit s 0).sems x.a.toNat).cnt - 1) ∧
    (let r := rn { xfer0 0x21 with a := 1, b := 2 }; let s := uceR r
     findRun s (.uce 0 0) s.arg.j = some r ∧ r.done = false ∧ r.x.op = 0x21 ∧ r.x.b.toNat ≤ (sget {} (getUnit s 0).sems r.x.a.toNat).cnt) ∧
    (let r := { rn (xfer0 0x21) with gv := some 31, done := true }; let s := uceR r
     ((getX s (.uce 0 0)).runs.takeWhile (fun r => r.done || r.gv.isNone)).filter (fun r => r.gv.isSome) = [r] ∧
     ((getX s (.uce 0 0)).runs.map (fun r => r.id)).Nodup ∧ (getUnit s 0).inst.map (fun i => i.serial) = some r.inst) ∧
    (let g : Signal := ⟨0, 5, 1, 3, none, none⟩; let s := modCl unitS 0 (fun c => { c with signals := [g] })
     s.arg.m.toNat = g.unit / 8 ∧ (getCl s 0).signals = [g] ∧ (getUnit s g.unit).inst.isSome = true ∧ g.slot = s.chip.slot ∧ g.run = none) := by
  decide +kernel

/-- R85, R87: a started command takes the counts its tokens name, and a fired token joins the clk's increments. -/
theorem test_tokens_of_commands :
    (sget {} (getUnit (after .engineCommandStart (uceQ { qc (.swait { cf 0 0 2 0 0 0 with tok := ⟨0x85, 0, 0, 0⟩ }) 4 with handed := true, x := some (xfer0 0x21) })) 0).sems 1).cnt = 0 ∧
    (getUnit (after .engineTokenFire (uceR { rn (xfer0 0x21) with gv := some 31, done := true })) 0).incs = [⟨31, 1, false, some ⟨0, 0⟩⟩] := by
  decide +kernel

/-- Whether a chunk of a copy completes, or faults with no hold slot, at this kind. -/
def chunkOk (s : State) (e : Eng) : Bool :=
  match getChunk { s with asker := some (.chunk e s.arg.j s.arg.n 0) } e s.arg.j s.arg.n with
  | some (s1, r1, c) => (match chunkTry s1 e r1 c with | .ok s2 fin _ => fin && arriveOk s2 e r1 | _ => false)
  | none => false
def chunkFaults (s : State) (e : Eng) : Bool :=
  match getChunk { s with asker := some (.chunk e s.arg.j s.arg.n 0) } e s.arg.j s.arg.n with
  | some (s1, r1, c) => (match chunkTry s1 e r1 c with
    | .fault s2 0 _ kind _ => kind != fkTimeout && decide (ringUsed s2 0 < 2 ^ ringL s2 0) && (getCl s2 0).ringWait.isEmpty
    | _ => false)
  | none => false

/-- CopyCommandEvents: each way a command completes; a chunk between two places of a cluster, and one from HBM that nothing maps. -/
theorem witness_CopyCommandEvents :
    (∀ x ∈ [xfer0 0, { xfer0 0x22 with a := 1 }, { xfer0 0x24 with a := 1 }, xfer0 0x20, xfer0 0x23], let r := rn x; let s := uceR r
      findRun s (.uce 0 0) s.arg.j = some r ∧ r.done = false ∧ runReady s (.uce 0 0) r = true ∧ relOk s (.uce 0 0) r = true ∧ s.chip.ended = none ∧ s.arg.eng = .uce 0 0) ∧
    chunked 0 = true ∧ walkLen (xfer0 0) ≤ (rn (xfer0 0)).next ∧ (rn (xfer0 0)).chunks = [] ∧ (rn (xfer0 0x20)).next = 0 ∧
    (Barrier.ofNat (rdMem (uceR (rn (xfer0 0x23))).chip.mem.cells 0 16)).phase = bit (xfer0 0x23).a.toNat 0 ∧
    (let r := { rn { xfer0 0x30 with rd := 63 } with chunks := [⟨0, 0, 1, .bound, [(1, false)], none, []⟩], tag := some (2, 0) }; let s := uceR r
     findRun s (.uce 0 0) s.arg.j = some r ∧ 0 < r.x.rd ∧ r.x.rd < 64 ∧ (getUnit s 0).inst.map (fun i => i.serial) = some r.inst) ∧
    chunkOk (uceR { rn { xfer0 0 with src := clBase 0, dst := clBase 0 + 64, len := 32 } with
      next := 32, nchunk := 1, chunks := [⟨0, 0, 32, .writing [], [], none, []⟩] }) (.uce 0 0) = true ∧
    chunkFaults (uceR (rn { xfer0 0 with src := 0x010000000000, dst := clBase 0 + 64, len := 32 })) (.uce 0 0) = true := by
  decide +kernel

/-- R57, R63, R104, R248: the parts of a write carry the image's bytes to the destination; a source that nothing maps is recorded. -/
theorem test_copy_chunk :
    (let t := pushParts unitS (writeParts (clBase 0 + 60) 0 40) (List.replicate 39 (0, false) ++ [(7, false)])
     (writeParts (clBase 0 + 60) 0 40).map (fun p => p.2) = [(0, 4), (4, 32), (36, 4)] ∧
     rdByte t.chip.mem.cells (clBase 0 + 99) = 7 ∧ rdByte t.chip.mem.cells (clBase 0 + 100) = 0) ∧
    (getCl (after .memorySideFault (uceR (rn { xfer0 0 with src := 0x010000000000, dst := clBase 0 + 64, len := 32 }))) 0).pend.length = 1 := by
  decide +kernel

/-- Unit 0 with its matrix engine so, clk at 1, and the event naming it. -/
def mxS (m : Mx) : State := { unitU (fun u => { u with mx := m }) with clk := 1, arg := { eng := .mat 0 } }
/-- A matrix command handed off. -/
def mq (i : Instr) : QCmd := { qc i 3 with handed := true, x := some (xfer0 0x80) }

/-- SwapAndZero and MatrixEngine: SWAP, ZERO and an MMA ready to leave with the shadow bank loaded, a WLD without; a second SWAP. -/
theorem witness_SwapAndZero : (∀ p ∈ ([(true, .swap (mf 0 0 0 0 0)), (false, .zero (mf 15 0 0 0 0)), (false, .wld (mf 0 0 0 0 3)), (false, .mmaQ (mf 0 0 0 3 3)),
      (false, .mmaV (mf 0 0 0 3 3)), (false, .mmaR (mf 0 0 0 3 3))] : List (Bool × Instr)), let c := mq p.2; let s := mxS { q := [c], loaded := p.1 }
    s.chip.ended = none ∧ engStopped s (.mat 0) = false ∧ (getUnit s 0).mx.q = [c] ∧ c.x.isSome = true ∧ c.issued < s.clk ∧
      (getUnit s 0).mx.leftAt ≠ some s.clk ∧ c.inst = (getUnit s 0).mx.inst ∧ takeOk (getUnit s 0) (tokTake (tokOf c.ins)) = true ∧
      leaveOk (getUnit s 0).mx p.2 = true) ∧
    (let w := (getUnit (after .matrixCommandLeave (mxS { q := [mq (.swap (mf 0 0 0 0 0))], loaded := true })) 0).mx
     let s2 := { mxS { w with q := [mq (.swap (mf 0 0 0 0 0))], loaded := true } with clk := 2 }
     (getUnit s2 0).mx.act = w.act ∧ (getUnit s2 0).mx.shadow = w.shadow ∧ (getUnit s2 0).mx.leftAt ≠ some s2.clk ∧ leaveOk (getUnit s2 0).mx (.swap (mf 0 0 0 0 0)) = true) := by
  decide +kernel

/-- An MMA of formats of code 3 and a DRAIN under way. -/
def mmaRun (dn : Option Nat) : CompRun := ⟨{ mq (.mmaV (mf 2 0 0 3 3)) with par := ⟨3, 3, 0, false, 0, false, 0, 0⟩ }, 4, 1, dn, false, false, false, false, [], [], false⟩
def drainRun (dn : Option Nat) : CompRun := ⟨{ mq (.drain (mf 2 0 0 0 0)) with x := some { xfer0 0x88 with a := 1 } }, 4, 0, dn, false, false, false, false, [], [], false⟩

/-- MatrixEngine: a step, and the completions of a WLD, an MMA and a DRAIN; a row that a DRAIN stores; a token. -/
theorem witness_MatrixEngine :
    (let s := mxS { comp := [mmaRun none], wrow := 63 }; let mx := (getUnit s 0).mx; let c := mmaRun none
     s.arg.k = 0 ∧ s.chip.ended = none ∧ engStopped s (.mat 0) = false ∧ mx.comp.find? stepsLeft = some c ∧ c.cmd.ins = .mmaV (mf 2 0 0 3 3) ∧
       mx.stepAt ≠ some s.clk ∧ c.fault = false ∧ c.psnRows = false ∧ 1 ≤ c.step ∧ mx.wrow < 64 ∧ mxClass c.cmd.par.fa = some 1) ∧
    mxClass 1 = some 0 ∧ mxClass 5 = some 2 ∧
    (let s := mxS { wld := some ⟨mq (.wld (mf 0 0 0 0 3)), 1, 4, some 1⟩ }; (getUnit s 0).mx.wld.map (fun w => w.doneAt) = some (some 1) ∧ 1 ≤ s.clk) ∧
    (let s := mxS { comp := [mmaRun (some 1)] }
     (getUnit s 0).mx.comp.find? (fun c => isMma c.cmd.ins && c.doneAt.any (fun n => decide (n ≤ s.clk))) = some (mmaRun (some 1))) ∧
    (∀ d ∈ [some 1, none], let s := mxS { comp := [drainRun d] }; (getUnit s 0).mx.comp.find? (fun c => !isMma c.cmd.ins) = some (drainRun d) ∧
      (drainRun d).step < 1 ∧ ¬((getUnit s 0).mx.leftAt = some s.clk ∧ (getUnit s 0).mx.seq = (drainRun d).seq + 1)) ∧
    (let z : MTok := ⟨4, some 3, 0, true, false, none⟩; let s := mxS { toks := [z] }
     s.arg.eng = .mat 0 ∧ ((getUnit s 0).mx.toks.takeWhile (fun z => z.done || z.gv.isNone)).filter (fun z => z.gv.isSome) = [z] ∧
       (getUnit s 0).inst.map (fun i => i.serial) = some z.inst) := by
  decide +kernel

/-- R242, R241: a DRAIN row leaves zeros of its format; SWAP exchanges the banks. -/
theorem test_matrix : let t := after .matrixCommandLeave (mxS { q := [mq (.swap (mf 0 0 0 0 0))], loaded := true, act := { desc := 1 }, shadow := { desc := 2 } })
    (getUnit t 0).mx.act.desc = 2 ∧ (getUnit t 0).mx.shadow.desc = 1 ∧
    (let s := mxS { comp := [drainRun none] }
     let u := after .drainComplete (modUnit s 0 (fun u => { u with tiles := [(2, { el := [(63, 0x3F800000)] })] }))
     rdByte u.chip.mem.cells (unitBase 0 + 255) = 0x3F ∧ rdByte u.chip.mem.cells (unitBase 0 + 256) = 0) := by
  decide +kernel

/-! ## Witnesses: asynchronous events -/

/-- AsynchronousTraps: a divider whose time has come, a deferred check, a stopped unit at either end of its cluster, and a ring. -/
theorem witness_AsynchronousTraps :
    (unitS.chip.ended = none ∧ (getUnit unitS 0).divFree ≤ unitS.clk) ∧
    (let s := unitU (fun u => { u with dfr := [⟨9, 4, 0⟩] }); (getUnit s 0).dfr = [⟨9, 4, 0⟩] ∧ (getUnit s 0).stop = none) ∧
    (∀ j ∈ [0, 7], let s := modUnit (lanC (fun c => { c with csr := [(0xA0, 0x101)] })) j (fun u => { u with stop := some ⟨1, 0, 0, false, false⟩ })
      let c := (getCl s 0).lan.core
      frozen s = false ∧ (getCl s 0).lan.on = true ∧ hm c = false ∧ c.after = none ∧ (getCl s 0).lan.wait = none ∧ trapEn c = true ∧ j < 8 ∧
        (getUnit s (8 * 0 + j)).stop = some ⟨1, 0, 0, false, false⟩ ∧ (∀ i < j, (getUnit s (8 * 0 + i)).stop = none)) ∧
    (let s := modLan (lanC (fun c => { c with csr := [(0xA0, 0x101), (0x141, 4), (0x142, 1)] })) 0 (fun l => { l with ring := true })
     (getCl s 0).lan.ring = true ∧ ringUsed s 0 = 1 ∧ trapEn (getCl s 0).lan.core = true ∧ (getCl s 0).lan.on = true) := by
  decide +kernel

/-! ## Witnesses: tasks and contexts -/

/-- The post of the task image of `lanP`, and one whose first consumed token and produced token name token 0 of this cluster. -/
def pst : Post := mkPost (lanP [(1, 64)]) 0 0 (readPost (lanP [(1, 64)]).chip.mem (clBase 0) clSize 64)
def pstT : Post := { pst with img := BitVec.ofNat 512 (2 ^ 120 + 2 ^ 495 + 2 ^ 303) }
/-- Cluster 0 with a change, and the event naming task 5. -/
def clS (f : Cluster → Cluster) : State := { modCl lanS 0 f with arg := { j := 5 } }
/-- A task and a region entry with a buffer. -/
def tsk (p : Post) (st : TState) (rs : List RegEnt) : Task := ⟨5, p, st, rs, 0, 0, 0, none, []⟩
def regEnt (b : Option Nat) : RegEnt := ⟨0, 0, 2, [0, 0, 0, 0], [1, 1, 1, 1], 0, 4, [], b, none, [], false⟩

/-- ScoreboardEvents: a ready task whose one unit is free, a queued post, a child whose CPOST runs, and a watched token. -/
theorem witness_ScoreboardEvents :
    (let s := clS (fun c => { c with tasks := [tsk pst .ready []] })
     s.chip.ended = none ∧ (match nextDispatch s 0 with | some (t, .unit j) => decide (t = tsk pst .ready [] ∧ j = 0) | _ => false) = true) ∧
    (ovfNext (getCl (clS (fun c => { c with ovf := [(0, [pst])] })) 0)).map Prod.fst = some 0 ∧
    (let p := { pst with origin := 1 }; let s := modUnit (clS (fun c => { c with child := [(5, p)] })) 0 (fun u => { u with uce0 := { runs := [rn { xfer0 0x28 with post := 5 }] } })
     (getCl s 0).child.find? (fun p => p.1 == s.arg.j) = some (5, p) ∧ p.id = 0 ∧ 1 ≤ p.origin ∧ p.origin ≤ 8 ∧
       ((getUnit s (8 * 0 + (p.origin - 1))).uce0.runs.any (fun r => decide (r.x.op = 0x28 ∧ r.x.post = 5))) = true ∧
       placeOf (getCl s 0) p.origin (postRegs p).length = 0 ∧ bit (imTok p.img.toNat 3) 47 = false) ∧
    (let s := clS (fun c => { c with tasks := [tsk pstT .waiting []], tokens := [(0, ⟨true, 1⟩)] }); let h := imTok pstT.img.toNat (s.arg.n % 3)
     (watched (getCl s 0)).find? (fun x => x.1 == s.arg.j) = some (5, pstT) ∧ bit h 47 = true ∧ pstT.sat.getD (s.arg.n % 3) true = false ∧
       (handleAt s.partMod h).1 = s.partMod ∧ (getTok s (handleAt s.partMod h).2.1 (handleAt s.partMod h).2.2).fired = true) := by
  decide +kernel

/-- ScoreboardEvents: a commit copy that starts and one that is complete, an instance that has drained, and tasks that can be freed. -/
theorem witness_ScoreboardEvents_ends :
    (let t := tsk pst .commit [regEnt (some 0)]; let s := clS (fun c => { c with tasks := [t] })
     ((commitsReady s 0).find? (fun p => p.1.serial == s.arg.j && p.2.idx == s.arg.n)).isSome = true ∧
       [Eng.cce s.arg.m 0, Eng.cce s.arg.m 1].find? (engFree s) = some (Eng.cce 0 0)) ∧
    (let r := { rn (xfer0 0x40) with done := true, task := some 5 }; let s := { clS (fun c => { c with cce0 := { runs := [r] } }) with arg := { eng := .cce 0 0, j := 5 } }
     findRun s s.arg.eng s.arg.j = some r ∧ r.task = some 5 ∧ r.x.op = 0x40 ∧ r.done = true) ∧
    (let s := { unitU (fun u => { u with tracker := [(5, 2)] }) with arg := { eng := .stream 0, j := 5 } }
     (getUnit s 0).tracker.find? (fun p => p.1 == s.arg.j) = some (5, 2) ∧ outstanding s 0 5 = false) ∧
    (let t := tsk pstT .commit []; let s := clS (fun c => { c with tasks := [t] }); let h := imTok t.post.img.toNat 3
     (getCl s 0).tasks.find? (fun t => t.serial == s.arg.j) = some t ∧ taskFreeable (getCl s 0) t = true ∧ bit h 47 = true ∧ (handleAt s.partMod h).1 = s.partMod) := by
  decide +kernel

/-- R304, R307: a dispatched instance starts after its header with its word in s1; a freed task fires the token it produces. -/
theorem test_tasks :
    (let t := after .taskDispatch (clS (fun c => { c with tasks := [tsk { pst with img := BitVec.ofNat 512 (2 ^ 120 + 3 * 2 ^ 134) } .ready []] }))
     (getUnit t 0).core.pc = 16 ∧ (getUnit t 0).inst.isSome = true ∧ rdS (getUnit t 0).core 1 = 0) ∧
    (let t := after .taskFree (clS (fun c => { c with tasks := [tsk pstT .commit []] }))
     (getCl t 0).tasks = [] ∧ getTok t 0 0 = ⟨true, 1⟩) := by
  decide +kernel

/-- A job of slot `n`. -/
def job0 (pasid : Nat) : Job := ⟨pasid, 0x100000, 0x1000000, 0x40000000, 0, 16, [], []⟩
/-- A context switch at this phase, with the job of slot 3 here and that of slot 4 saved, late enough for every delay. -/
def swS (ph : Nat) : State :=
  { unitC (fun c => { c with csr := [(0xA0, 0x101)] }) with
    fclk := 120000
    images := [(4, { slot := 4, pasid := 8, units := [(0, { core := { csr := [(0xA0, 0x201)] } })] })]
    cp := { jobs := [(3, job0 7), (4, job0 8)], switch := some ⟨0, 3, 4, ph⟩ } }

/-- ContextAndTrace: a switch instant that has come, each phase of a switch, a deferred request, and a sampling period. -/
theorem witness_ContextAndTrace :
    (let s := { unitS with cp := { gang := [(0, 4)] } }; s.chip.trace.period = 0 ∧ s.cp.switch = none ∧ s.cp.gang = [(0, 4)] ∧ 0 ≤ ptp s ∧
      (∀ m ∈ liveClusters s, lanRuns s m = true → lanTraps s m = false) ∧ (∀ p ∈ s.outst, p.2.job = s.chip.slot → p.2.deferred = true → keepsDeferred p.2 = true)) ∧
    (let s := swS 0; s.chip.trace.period = 0 ∧ s.cp.switch = some ⟨0, 3, 4, 0⟩ ∧ quiesced s = true ∧ s.cp.jobs.any (fun p => p.1 == 3) = true) ∧
    (let s := swS 1; (s.images.find? (fun p => p.1 == 4)).isSome = true ∧ (s.images.find? (fun p => p.1 == 4)).all (fun p => p.2.clusters == []) = true) ∧
    (let s := swS 2; 0 + 40000 ≤ ptp s ∧ s.chip.trace.queue = []) ∧
    (let o : Outst := ⟨{ unitS.arg.pkt with dmod := 1 }, .arm 0, 0, true, 3, 0, true⟩; let s := { unitS with fclk := 120000, outst := [(5, o)], arg := { j := 5 } }
     s.outst.find? (fun p => p.1 == s.arg.j) = some (5, o) ∧ o.deferred = true ∧ o.since + 1000 ≤ ptp s ∧ frozen s = false ∧ o.job = s.chip.slot ∧
       (∀ p ∈ s.outst, sameFlow p.2 o = true → o.seq ≤ p.2.seq) ∧ o.who = .arm 0 ∧ o.pkt.dmod.toNat ≠ s.partMod) ∧
    (let s := { unitS with clk := 8, chip := { unitS.chip with trace := { period := 4, units := 1 } } }
     s.chip.trace.period ≠ 0 ∧ s.clk % s.chip.trace.period = 0 ∧ frozen s = false ∧ s.chip.ended = none ∧ liveUnits s = [0] ∧ liveClusters s = [] ∧
       issues s 0 = true ∧ s.chip.trace.units.getLsbD 0 = true ∧ sget 0 s.chip.trace.lost 0 = 0 ∧ s.chip.trace.queue.length < 64) := by
  decide +kernel

/-- HandlerModeKept: the three instructions at states where each does its part, and what is saved of the job that leaves. -/
theorem witness_HandlerModeKept : (∀ n ∈ [0xA0, 0xA4], 0xA0 ≤ n ∧ n ≤ 0xA4) ∧
    (match exec .gangSwitch (swS 0) with
      | .next t => (t.images.find? (fun p => p.1 == 3)).isSome && (t.images.find? (fun p => p.1 == 3)).all (fun p => p.1 == 3 && rdCsr (sget {} p.2.units 0).core 0xA0 == 0x101)
      | _ => false) = true ∧
    (match exec .contextRestore (swS 1) with | .next t => rdCsr (sget {} t.chip.units 0).core 0xA0 == 0x201 | _ => false) = true ∧
    (match exec .jobStart (swS 2) with | .next t => t.cp.switch == none | _ => false) = true := by
  decide +kernel

/-! ## Witnesses: the page cache and the ring -/

/-- Eight bytes written to a memory. -/
def put8 (m : MemSt) (p : Nat × Nat) : MemSt := writeImg m p.1 ((toBytes p.2 8).map (fun b => (b, false)))
/-- Tables of slot 3, PASID 7: IA 0 is the 8 KiB of HBM at 0x30000, and egress page 0 the 8 KiB of host memory at 0x8000. -/
def tables : MemSt :=
  [(63 * 2 ^ 30 + 24, 7 * 2 ^ 44 + 0x20001), (0x20000, 0x22001), (0x22000, 0x24001), (0x24000, 0x3000F),
   (63 * 2 ^ 30 + 8192 + 24, 7 * 2 ^ 44 + 0x10001), (0x10000, 0x12001), (0x12000, 0x14001), (0x14000, 0x16001), (0x16000, 0x800F)].foldl put8 {}
/-- A module with these tables, one GiB of stack 0 for the cache, this granule as granule 5, and the event naming it. -/
def rpcS (g : Granule) : State :=
  { unitS with hbm := tables, rpc := [(5, g)], arg := { j := 5 }, cp := { jobs := [(3, job0 7)], rpcGib := [(0, 1)] } }

/-- PageCacheEvents: granules at each stage, with a page that is mapped and one that is not. -/
theorem witness_PageCacheEvents :
    (let g : Granule := { state := 1, slot := 3, step := 4 }; getGr (rpcS g) 5 = g ∧ g.rids = []) ∧
    (∀ st ∈ [1, 3], let g : Granule := { state := st, slot := 3, frame := 62 * 2 ^ 30 + 5 * 8192, dirty := 1, step := 3, ask := 2048 }; let s := rpcS g
      getGr s 5 = g ∧ g.step ≠ 4 ∧ g.frame = rpcFrame s 5 ∧ rpcTagAt s 5 = 62 * 2 ^ 30 + 1016 * 2 ^ 20 + 320 ∧ g.rids = [] ∧ g.dirty ≠ 0 ∧
      (match egress s 3 (slotPasid s 3) (0 * 8192) .rd, egress s 3 (slotPasid s 3) (0 * 8192) .wr with | .ok (.host a), .ok (.host b) => decide (a = 0x8000 ∧ b = 0x8000) | _, _ => false) = true) ∧
    (let g : Granule := { state := 1, slot := 3, page := 1 }; (match egress (rpcS g) 3 (slotPasid (rpcS g) 3) (1 * 8192) .rd with | .fault f => f == fkNotMapped | _ => false) = true) ∧
    (let g : Granule := { state := 3, slot := 3, next := some (3, 2) }; getGr (rpcS g) 5 = g ∧ g.dirty = 0 ∧ g.rids = []) ∧
    (let h : Granule := { state := 2, slot := 3, host := true, hostAt := 0x8000, dirty := 2, lvalid := 2, frame := 0x40000 }; let s := { rpcS h with arg := { v := 0x8040 } }
     s.rpc = [(5, h)] ∧ h.hostAt / 8192 = s.arg.v.toNat / 8192 ∧ h.dirty.getLsbD (s.arg.v.toNat % 8192 / 64) = true ∧ h.lvalid.getLsbD (s.arg.v.toNat % 8192 / 64) = true) ∧
    (let s := modLan (rpcS { state := 2, slot := 3 }) 0 (fun l => { l with core := { l.core with csr := [(0x131, 8192)] } })
     (getCl s 0).lan.rpcOp = 0 ∧ bits (rdCsr (getCl s 0).lan.core 0x130).toNat 13 33 ≤ 0 ∧ 0 < bits (rdCsr (getCl s 0).lan.core 0x131).toNat 13 33 ∧
     (getGr s 5).state = 2 ∧ (getGr s 5).rids = [] ∧ (getGr s 5).dirty = 0 ∧ (getGr s 5).slot = s.chip.slot) ∧
    (let s := modLan (rpcS { state := 2, slot := 3 }) 0 (fun l => { l with rpcOp := 4, rpcHi := 1 })
     4 ≤ (getCl s 0).lan.rpcOp ∧ rpcRange s 0 = [5] ∧ (∀ i ∈ rpcRange s 0, (getGr s i).state ≠ 1 → (getGr s i).rids = [])) := by
  decide +kernel

/-- R33, R35, R36: a snoop takes a dirty line back to host memory, and no line that is clean; a granule's tag stands in HBM. -/
theorem test_page_cache :
    let h : Granule := { state := 2, slot := 3, host := true, hostAt := 0x8000, dirty := 2, lvalid := 3, frame := 0x40000 }
    let s := { rpcS h with hbm := put8 (put8 tables (0x40000, 0x44)) (0x40040, 0x55), arg := { v := 0x8040 } }
    let t := after .hostSnoop s
    rdByte t.host.cells 0x8040 = 0x55 ∧ rdByte t.host.cells 0x8000 = 0 ∧ (getGr t 5).dirty = 0 ∧ (getGr t 5).lvalid = 1 ∧
    rdMem t.hbm.cells (62 * 2 ^ 30 + 1016 * 2 ^ 20 + 320) 8 = 2 ^ 63 + 3 * 2 ^ 52 + 1 := by
  decide +kernel

/-- A fault of copy queue 0 of unit 0 at ring position 0, of this class, with its chunk, and the event naming the position. -/
def flt (cls : Nat) (e : Eng) : FaultRec := ⟨e, cls, 5, 0, true, 0, 32, fkNotMapped⟩
def ringS (f : FaultRec) : State :=
  let s := uceR { rn (xfer0 0) with chunks := [⟨0, 0, 32, .faulted, [], none, []⟩] }
  { modCl s 0 (fun c => { c with pend := [(0, f)], lan := { c.lan with core := { c.lan.core with csr := [(0x141, 4), (0x142, 1)] } } }) with arg := {} }

/-- RingSettlement: an entry of each class that can be settled, one that is not pending, and a head that can move. -/
theorem witness_RingSettlement :
    (∀ cls ∈ [0, 1, 4, 5, 6], let f := flt cls (.uce 0 0); let s := ringS f
      pendAt s 0 (s.arg.v.toNat / 4 % 1024) = some f ∧ isAcc s f = false ∧ f.cls ≠ 7 ∧ f.held = true ∧ s.arg.v.toNat / 2 ^ 40 % 64 = 0 ∧
        s.arg.v.toNat / 2 ^ 40 + f.img ≤ clSize) ∧
    (let s := { ringS (flt 0 (.uce 0 0)) with arg := { v := 4 * 1023 } }
     pendAt s 0 (s.arg.v.toNat / 4 % 1024) = none ∧ bit (rdCsr (getCl s 0).lan.core 0x141).toNat 31 = false) ∧
    (let f := flt 7 (.mat 0); let s := ringS f; pendAt s 0 (s.arg.v.toNat / 4 % 1024) = some f ∧ f.eng = .mat 0 ∧ isAcc s f = false) ∧
    (let s := { modCl (ringS (flt 0 (.uce 0 0))) 0 (fun c => { c with pend := [] }) with arg := { v := 1 } }
     (getCl s 0).ringWait = [] ∧ (s.arg.v.toNat % 2 ^ 11 % 2 ^ (ringL s 0 + 1) + 2 ^ (ringL s 0 + 1) - ringHead s 0) % 2 ^ (ringL s 0 + 1) = 1 ∧
       pendAt s 0 ((ringHead s 0 + 0) % 2 ^ ringL s 0) = none) := by
  decide +kernel

/-- R106, R108: SUPPLY gives a faulted chunk the bytes of a buffer; a settled entry is consumed by a write of ring.head. -/
theorem test_ring : let s := { ringS (flt 0 (.uce 0 0)) with chip := { (ringS (flt 0 (.uce 0 0))).chip with mem := { cells := [⟨clBase 0 + 1, 7⟩] } } }
    let t := after .ringCmpSupply s
    (getX t (.uce 0 0)).runs.map (fun r => r.chunks.map (fun c => (c.phase, (c.img.getD 1 (0, true)).1))) = [[(.bound, 7)]] ∧
    ringHead (after .ringHeadWrite { t with arg := { v := 1 } }) 0 = 1 := by
  decide +kernel

/-! ## Witnesses: the command processor -/

/-- A number as a word. -/
def wd (n : Nat) : W64 := BitVec.ofNat 64 n
/-- A packet of an opcode with these operands, and the queue that holds it in slot 2. -/
def cpk (op : Nat) (q1 q2 q3 q4 q5 q6 : W64) : CpPacket := ⟨BitVec.ofNat 64 op, q1, q2, q3, q4, q5, q6, 0⟩
def bq (p : Option CpPacket) : BoundQ := ⟨7, 1, 0, 0x100, 1, 1, false, 0, [], p⟩
/-- The job of PASID 7 in slot 3 is switched in and has the tables above; its queue 1 holds the packet of the event. -/
def cpS (p : CpPacket) : State :=
  { unitS with hbm := tables, svc := { ready := true }, arg := { cp := p, ref := ⟨7, 1⟩ }, cp := { jobs := [(3, job0 7)], slots := [(2, bq (some p))] } }
/-- The packet of the event starts its command (CpStarts), for a job that nothing has ended (CpJob), in slot 3 and switched in. -/
def starts (s : State) (op : Nat) (named : List Nat) : Bool :=
  decide (heldSlot s = some (2, bq (some s.arg.cp)) ∧ cpOp s.arg.cp = op ∧ (bq (some s.arg.cp)).halted = false ∧ fenced s (cmdRef 7 1) s.arg.cp = false ∧
    resetRuns s 7 1 = false ∧ strayBits s.arg.cp named = false ∧ jobOf s 7 = some (3, job0 7) ∧ jobEnded s 3 = none ∧ switchedIn s 3 = true ∧
    qdDev (bq (some s.arg.cp)).desc = false)
/-- A command of an opcode that has started, number 9, and the event that asks about it. -/
def cc (op : Nat) : CpCmd := ⟨9, ⟨7, 1⟩, cpk op 0 0 0 0 0 0, false, 3, 0, [], [], none, false, false, 0⟩
def ccS (c : CpCmd) : State := { cpS (cpk 0 0 0 0 0 0 0) with arg := { n := 9, flag := false }, cp := { jobs := [(3, job0 7)], slots := [(2, bq none)], cmds := [c] } }

/-- `starts` is CpStarts and CpJob. -/
theorem starts_spec (s : State) (op : Nat) (named : List Nat) (h : starts s op named = true) :
    CpStarts s op named 2 (bq (some s.arg.cp)) ∧ CpJob s (bq (some s.arg.cp)) 3 (job0 7) := by
  have h := of_decide_eq_true h
  exact ⟨⟨h.1, h.2.1, h.2.2.1, h.2.2.2.1, h.2.2.2.2.1, h.2.2.2.2.2.1⟩, ⟨h.2.2.2.2.2.2.1, h.2.2.2.2.2.2.2.1⟩⟩

/-- SignalCommands: signals at both ends of the job's range and beyond it, a WAIT that holds and one that parks, INDIRECTs of no,
one, the most and too many packets, and one that is over. -/
theorem witness_SignalCommands : starts (cpS (cpk 0 0 0 0 0 0 0)) 0 [] = true ∧
    (∀ q ∈ [0, 15, 16], starts (cpS (cpk 3 (wd q) 1 1 0 0 0)) 3 [lowBits 12, q64, 1] = true) ∧
    (∀ p ∈ [(0, 0, 0), (0, 5, 0), (15, 0, 1), (0, 5, 2), (0, 0, 3), (16, 0, 0)], starts (cpS (cpk 2 (wd p.1) (wd p.2.1) (wd p.2.2) 0 0 0)) 2 [lowBits 12, q64, 3] = true) ∧
    (job0 7).sig0 ≤ 15 ∧ 15 < (job0 7).sig0 + (job0 7).sigN ∧ (cpS (cpk 2 0 5 0 0 0 0)).cp.binds = [] ∧
    ¬((5 : W64).toNat ≤ (sget 0 (cpS (cpk 2 0 5 0 0 0 0)).cp.signals 0).toNat) ∧
    (∀ n ∈ [0, 1, 65536, 65537], let s := cpS (cpk 4 64 (wd n) 0 0 0 0); s.arg.flag = true ∧ starts s 4 [q64 - 63, lowBits 17] = true ∧
      (openCmds s (cmdRef 7 1)).any (fun c => cpOp c.p == 0x04) = false) ∧
    (let s := ccS (cc 4); s.arg.flag = false ∧ cmdById s s.arg.n = some (cc 4) ∧ cpOp (cc 4).p = 0x04 ∧ (cc 4).quiet = false ∧
      slotOfQ s 7 1 = some (2, bq none)) ∧
    (let s := { ccS (cc 4) with cp := { jobs := [(3, job0 7)], cmds := [cc 4], parked := [⟨7, 1, 0, 5, 0, cpk 2 0 5 0 0 0 0, [], false⟩] } }
     s.arg.flag = false ∧ cmdById s s.arg.n = some (cc 4) ∧ slotOfQ s 7 1 = none ∧ s.cp.parked.all (fun w => w.pasid == 7 && w.q == 1 && w.ind.isEmpty) = true) ∧
    (let s := cpS (cpk 4 64 1 0 0 0 0)
     let t := { s with chip := { s.chip with ended := some 1 } }
     heldSlot t = some (2, bq (some s.arg.cp)) ∧ fenced t (cmdRef 7 1) s.arg.cp = false ∧ resetRuns t 7 1 = false ∧ strayBits s.arg.cp [q64 - 63, lowBits 17] = false ∧
       (jobOf t 7).map Prod.fst = some 3 ∧ jobEnded t 3 ≠ none) := by
  decide +kernel

/-- R363: SIGNAL sets or adds; an index beyond the job's range is REJECT. -/
theorem test_signal : sget 0 (after .signal (cpS (cpk 3 15 9 1 0 0 0))).cp.signals 15 = 9 ∧
    (after .signal (cpS (cpk 3 16 9 1 0 0 0))).cp.recs.map (fun r => r.st) = [1] ∧ (after .wait (cpS (cpk 2 0 5 0 0 0 0))).cp.parked.length = 1 := by
  decide +kernel

/-- LaunchCommands: a PLACE of no bytes and of 32, LAUNCHes with the greatest pool and one beyond, a swap with no image and one
whose image nothing maps, and a LAUNCH that is over, that waits and that is aborted. -/
theorem witness_LaunchCommands : let nl := [lowBits 32, lowBits 21 + 2 ^ 51 + lowBits 12 * 2 ^ 52, q64, q64, q64, q64 - lowBits 15]
    (∀ n ∈ [0, 32], starts (cpS (cpk 5 0 (BitVec.ofNat 64 (clBase 0)) (wd n) 0 0 0)) 5 [q64, q64, q64] = true) ∧
    (let s := cpS (cpk 5 0 (BitVec.ofNat 64 (clBase 0)) 32 0 0 0)
     hbmRange s 0 32 = true ∧ placeDst s (clBase 0) 32 = true ∧ (match cpAccess (cpGo s 2 (bq (some s.arg.cp))) 3 7 0 32 none with | .ok _ _ => true | _ => false) = true) ∧
    (∀ g ∈ [32768, 32769], starts (cpS (cpk 1 1 (BitVec.ofNat 64 (2 ^ 51 + 15 * 2 ^ 52)) 0 0 0 (BitVec.ofNat 64 (g * 2 ^ 32)))) 1 nl = true) ∧
    128 * (0 + 32768) ≤ clSize ∧ (getCl (cpS (cpk 1 1 0 0 0 0 0)) 0).shadow = none ∧
    (∀ im ∈ [0, 0x010000000000], let g : Staged := ⟨9, 16, 5, wd im, 0, 0⟩; let s := modCl (ccS (cc 1)) 0 (fun c => { c with shadow := some g })
      (getCl s 0).shadow = some g ∧ (getCl s 0).lan.on = false ∧ frozen s = false ∧ Machine.ended s = false ∧ swapWaits (getCl s 0) g = false) ∧
    (faultOf (resolveAll (ccS (cc 1)) 3 7 (fullIa (ccS (cc 1)) 0x010000000000) codeSize .rd)).isSome = true ∧
    (∀ rs ∈ [[], [(0, 0)]], let c := { cc 1 with runs := rs }; let s := ccS c
      cmdById s s.arg.n = some c ∧ jobEnded s c.job = none ∧ c.staged = [] ∧ c.runs.all (launchOver (asJob s c.job) c.id) = true) ∧
    (let s := ccS (cc 1); jobEnded { s with chip := { s.chip with ended := some 1 } } 3 = some 1) := by
  decide +kernel

/-- R362: a swap starts the program at its entry with its argument in s1. -/
theorem test_launch : let t := after .launchSwapIn (modCl (ccS { cc 1 with staged := [0] }) 0 (fun c => { c with shadow := some ⟨9, 16, 5, 0, 0, 0⟩ }))
    (getCl t 0).lan.on = true ∧ (getCl t 0).lan.core.pc = 16 ∧ rdS (getCl t 0).lan.core 1 = 5 ∧ (getCl t 0).shadow = none ∧
    (after .launchComplete t).cp.recs = [] := by
  decide +kernel

/-- Whether the command processor can read `n` bytes at IA 0 for the job, after the packet has left its queue. -/
def reads (s : State) (n : Nat) : Bool := match cpAccess (cpGo s 2 (bq (some s.arg.cp))) 3 7 0 n none with | .ok _ _ => true | _ => false

/-- UnitAndScheduleCommands: units stopped and running, schedules read and refused by their time, groups at both ends of the
table, and tracing. -/
theorem witness_UnitAndScheduleCommands :
    (∀ op ∈ [0x10, 0x11], ∀ st ∈ [none, some ⟨1, 0, 0, false, false⟩], let s := modUnit (cpS (cpk op 0 0 0 0 0 0)) 0 (fun u => { u with stop := st })
      starts s op [lowBits 8] = true ∧ (getUnit s 0).stop = st ∧ (getUnit (asJob s 3) 0).stop = st ∧
      (getUnit s 0).mx.act.valid = false ∧ (getUnit s 0).mx.shadow.valid = false) ∧
    (∀ t ∈ [0, 39, 40], starts (cpS (cpk 0x18 0 15 (wd t) 0 0 0)) 0x18 [q64, 15, q64] = true) ∧
    (let s := cpS (cpk 0x18 0 15 40 0 0 0); reads s 4096 = true ∧ 40 % 40 = 0 ∧ ptp s < 40 ∧ belfryOk s 0 0 = true ∧ belfryOk s 3 (2 ^ 16) = false ∧ (List.range 4).filter (bit s.arg.cp.q2.toNat) = [0, 1, 2, 3]) ∧
    (∀ p ∈ [(0, 1), (1023, 1), (0, 1024), (1023, 2), (0, 0)], starts (cpS (cpk 0x19 0 (wd p.1) (wd p.2) 0 0 0)) 0x19 [q64, lowBits 10, q64] = true) ∧
    (let s := cpS (cpk 0x19 0 0 1 0 0 0); s.arg.flag = true ∧ reads s 16 = true ∧ groupOk s 0 = true ∧ groupOk s (2 ^ 64) = false ∧ mcOpen s 3 0 1 s.inj = false) ∧
    (let s := ccS (cc 0x19); cmdById s s.arg.n = some (cc 0x19) ∧ mcOpen s 3 0 0 0 = false) ∧ starts (cpS (cpk 0x1A 1 2 3 0 0 0)) 0x1A [q64, q64, q64] = true := by
  decide +kernel

/-- MappingCommands: ranges refused, empty and mapped, for each command, and the page whose entry each one meets. -/
theorem witness_MappingCommands :
    (∀ p ∈ [(0, 8192, 3), (1, 8192, 0), (0x2000, 0, 0), (0x2000, 8192, 0), (0xC000000000, 8192, 0)],
      starts (cpS (cpk 0x08 (BitVec.ofNat 64 p.1) (BitVec.ofNat 64 p.2.1) (BitVec.ofNat 64 p.2.2) 0 0 0)) 0x08 [lowBits 48, q64, 15] = true) ∧
    (let s := cpS (cpk 0x08 0x2000 8192 0 0 0 0); hbmRange s 0x2000 8192 = true ∧ iaRow 0x2000 = some 0 ∧ hbmRange s 0xC000000000 8192 = false ∧
      rootTable s (sget 0 s.mtsRoot (hbmSlo 0x2000).1) 3 7 = some 0x20000 ∧ entryTo s (hbmSlo 0x2000).2 13 mtsLevels 0x20000 = some 0x24008 ∧
      bit (hbmEntry s 0x24008) 0 = false) ∧
    (∀ p ∈ [(1, 8192), (0, 0), (0, 8192)], starts (cpS (cpk 0x09 (wd p.1) (wd p.2) 0 0 0 0)) 0x09 [q64, q64] = true ∧ starts (cpS (cpk 0x0B (wd p.1) (wd p.2) 0 0 0 0)) 0x0B [lowBits 46, q64] = true) ∧
    (let s := cpS (cpk 0x09 0 8192 0 0 0 0); mtsLeaf s 3 7 0 = some (0x24000, 0x3000F, 13, 0, 0) ∧ pageInside 0 8192 0 0 8192 = true ∧
      nvmeUses (cpGo s 2 (bq (some s.arg.cp))) 3 7 0 8192 = false ∧ rootTable s s.egrBase 3 7 = some 0x10000 ∧ leafAt s 0 egrLevels 0x10000 = some (0x16000, 0x800F, 13)) ∧
    (∀ p ∈ [(0x2000, 8192, 3), (0x2000, 0, 0), (0x2000, 8192, 0)], starts (cpS (cpk 0x0A (wd p.1) (wd p.2.1) (wd p.2.2) 0x10000 0 0)) 0x0A [lowBits 46, q64, 63, q64 - 8191] = true) ∧
    (let s := cpS (cpk 0x0A 0x2000 8192 0 0x10000 0 0); targetIs s 0 0x10000 8192 = true ∧ entryTo s 0x2000 13 egrLevels 0x10000 = some 0x16008 ∧
      bit (hbmEntry s 0x16008) 0 = false) := by
  decide +kernel

/-- A job whose pool is one page. -/
def frS : State := { cpS (cpk 0x08 0x2000 8192 0 0 0 0) with cp := { jobs := [(3, { job0 7 with poolLen := 8192 })] } }
/-- MappingCommands: a job whose pool is one page gets that page as its frame, whichever the free choice. -/
theorem witness_MappingCommands_frame : (takeFrame frS 3 0 8192).map Prod.fst = some 0x100000 := by
  have h : frameFree frS 0x100000 8192 = true := by decide +kernel
  have j : frS.cp.jobs.find? (fun p => p.1 == 3) = some (3, { job0 7 with poolLen := 8192 }) := by decide +kernel
  simp only [takeFrame, j]
  simp [job0, draw, Nat.mod_one, h]

/-- R366: UNMAP clears the entry of the page it unmaps, and MAPX sets one. -/
theorem test_mapping : hbmEntry (after .unmap (cpS (cpk 0x09 0 8192 0 0 0 0))) 0x24000 = 0 ∧ hbmEntry (after .mapx (cpS (cpk 0x0A 0x2000 8192 4 0x10000 0 0))) 0x16008 = 0x10007 := by
  decide +kernel

/-- DriveAndHostMemory: transfers of an attached drive and of another, of no bytes, of one block and of a page that nothing maps;
a command that a drive has and that it has had for two seconds; host accesses to the last byte of HBM. -/
theorem witness_DriveAndHostMemory : let dr := fun (s : State) => { s with cp := { s.cp with drives := [(1, ⟨0, 0, 0, 16, false⟩)] } }
    (∀ op ∈ [0x20, 0x21], ∀ p ∈ [(1, 1, 0), (1, 0, 0), (2, 1, 0), (1, 1, 0x2000)], let s := dr (cpS (cpk op (wd p.1) 0 (wd p.2.1) (wd p.2.2) 0 0))
      starts s op [15 + (q64 - lowBits 32), q64, q64, q64] = true) ∧
    (let s := dr (cpS (cpk 0x20 1 0 1 0 0 0)); s.cp.drives.find? (fun d => d.1 == 1) = some (1, ⟨0, 0, 0, 16, false⟩) ∧ s.cp.drives.find? (fun d => d.1 == 2) = none ∧
      hbmRange s 0 512 = true ∧ hbmRange s 0x2000 512 = true ∧ faultOf (resolveAll (cpGo s 2 (bq (some s.arg.cp))) 3 7 (fullIa s 0) 512 .wr) = none ∧
      (faultOf (resolveAll (cpGo s 2 (bq (some s.arg.cp))) 3 7 (fullIa s 0x2000) 512 .rd)).isSome = true) ∧
    (∀ op ∈ [0x20, 0x21], ∀ f ∈ [0, 2400000000], let s := { ccS (cc op) with fclk := f }; cmdById s s.arg.n = some (cc op) ∧ (cc op).quiet = false ∧
      (f = 0 ∧ ptp s < 0 + 2000000000 ∨ 0 + 2000000000 ≤ ptp s)) ∧
    (let s := { cpS (cpk 0 0 0 0 0 0 0) with arg := { v := BitVec.ofNat 64 (768 * 2 ^ 30 - 1), n := 1, dat := [5] } }
     s.svc.ready = true ∧ s.arg.v.toNat + s.arg.n ≤ 768 * 2 ^ 30 ∧ s.arg.v.toNat + s.arg.dat.length ≤ 768 * 2 ^ 30) ∧
    (let s := { cpS (cpk 0 0 0 0 0 0 0) with arg := { v := 31, n := 2 }, hbm := { errs := [(0, .unc), (1, .unc)] } }
     s.svc.ready = true ∧ 0 < s.arg.n ∧ s.arg.v.toNat / 32 = 0 ∧ (s.arg.v.toNat + s.arg.n - 1) / 32 = 1 ∧ sget false s.hbm.poison 0 = false ∧ sget false s.hbm.poison 1 = false) ∧
    unitS.svc.ready = false := by
  decide +kernel

/-- HostCommands: jobs made, refused and ended, keys read, schedules, partitions of the right size and of one too small, cache
sizes at and past their limit, and drives. What a key unwraps to is a free value (Config.unwrapKey), so no state decides it. -/
theorem witness_HostCommands : let nj := [lowBits 10 + lowBits 20 * 2 ^ 44, lowBits 36, q64, lowBits 40, lowBits 12 + lowBits 12 * 2 ^ 16]
    (∀ p ∈ [(4, 0x40000000), (3, 0x40000000), (4, 0x40000001)], starts (cpS (cpk 0x30 (BitVec.ofNat 64 (p.1 + 9 * 2 ^ 44)) 0 (BitVec.ofNat 64 p.2) 0 (BitVec.ofNat 64 (4095 + 2 ^ 16)) 0)) 0x30 nj = true) ∧
    4095 + 1 ≤ 4096 ∧ 0x40000000 % 2 ^ 30 = 0 ∧ 0 + 0x40000000 ≤ 2 ^ 36 ∧ 0 / 2 ^ 36 < 12 ∧ 0 % 2 ^ 36 + 0x32800000 ≤ 2 ^ 36 ∧
    ((cpS (cpk 0x30 4 0 0 0 0 0)).cp.jobs.any (fun q => q.1 == 4)) = false ∧
    (∀ q ∈ [3, 4], let s := cpS (cpk 0x31 (wd q) 0 0 0 0 0); s.arg.flag = true ∧ starts s 0x31 [lowBits 10] = true) ∧
    (let c := { cc 0x31 with p := cpk 0x31 3 0 0 0 0 0 }; let s := ccS c
     cmdById s s.arg.n = some c ∧ s.rpc = [] ∧ s.cp.cmds.all (fun d => decide (d.job = 3 → cpOp d.p ≠ 0x01 ∧ cpOp d.p ≠ 0x20 ∧ cpOp d.p ≠ 0x21)) = true ∧ s.cp.switch = none) ∧
    (let s := cpS (cpk 0x32 4 0 0 0 0 0); starts s 0x32 [lowBits 10, q64] = true ∧ reads s 64 = true) ∧
    (∀ n ∈ [0, 1], let s := cpS (cpk 0x33 0 (wd n) 0 0 0 0); starts s 0x33 [q64, q64] = true ∧ (n = 0 ∨ reads s 16 = true) ∧ gangOk [(0, 0)] = true ∧ s.cp.switch = none ∧ s.cp.gangLast = 0) ∧
    (∀ l ∈ [1, 2], let s := { cpS (cpk 0x33 0 1 0 0 0 0) with cp := { (cpS (cpk 0x33 0 1 0 0 0 0)).cp with gangLast := l } }
      starts s 0x33 [q64, q64] = true ∧ reads s 16 = true ∧ (250001 < s.cp.gangLast + 250000 ↔ l = 2)) ∧
    gangOk [(0, 0), (249999, 1)] = false ∧
    (∀ p ∈ [(0, 0x0001), (1, 0x0001), (2, 0x0001)], starts (cpS (cpk 0x34 (wd p.1) (wd p.2) 0 0 0 0)) 0x34 [lowBits 16, lowBits 16] = true) ∧
    (∀ p ∈ [32, 33], let s := { cpS (cpk 0x35 (wd p) 0 0 0 0 0) with cp := { slots := [(2, bq (some (cpk 0x35 (wd p) 0 0 0 0 0)))] } }
      heldSlot s = some (2, bq (some s.arg.cp)) ∧ strayBits s.arg.cp [q64, 255] = false ∧ s.cp.jobs = []) ∧
    starts (cpS (cpk 0x36 1 2 3 4 5 0)) 0x36 [15, q64, q64, q64, lowBits 17] = true := by
  decide +kernel

/-- R360: PART takes a module's place in a partition, and refuses one beyond it. -/
theorem test_part : (after .part (cpS (cpk 0x34 1 1 0 0 0 0))).partMod = 1 ∧ (after .part (cpS (cpk 0x34 1 1 0 0 0 0))).partSize = 2 ∧
    (after .part (cpS (cpk 0x34 2 1 0 0 0 0))).cp.recs.map (fun r => r.st) = [1] := by
  decide +kernel

/-- HostCommands: the tables of a new job are found. -/
theorem witness_HostCommands_tables : let s := cpS (cpk 0x30 4 0 0 0 0 0)
    (jobTables { s with cp := { s.cp with jobs := sput s.cp.jobs 4 { job0 9 with poolLen := 0x40000000 } } } 4 9).isSome = true := by
  decide +kernel

/-- A module whose queue root is at 0 of host memory, with one bound queue in slot 2, no fetched packet, and this event. -/
def cqS (b : BoundQ) (a : Arg) : State :=
  { cpS (cpk 0 0 0 0 0 0 0) with arg := a, cp := { qroot := 1, jobs := [(3, job0 7)], slots := [(2, b)] } }
/-- A doorbell word of queue 1 of a PASID. -/
def door (pasid tail : Nat) : W64 := BitVec.ofNat 64 (pasid * 2 ^ 44 + 2 ^ 38 + tail)

/-- CommandQueues: doorbells of a bound queue with room, at its limit and beyond it, of an absent one and of one paged out; a
tail word of a device queue; fetches of a command and of an unassigned opcode. -/
theorem witness_CommandQueues :
    (∀ t ∈ [1, 2, 3], let s := cqS (bq none) { v := door 7 t }; let v := s.arg.v.toNat
      s.svc.ready = true ∧ s.arg.n = 0 ∧ bit s.cp.qroot.toNat 0 = true ∧ resetRuns s (bits v 44 20) (bits v 38 6) = false ∧ bits v 44 20 = 7 ∧ bits v 38 6 = 1 ∧
      slotOfQ s 7 1 = some (2, bq none) ∧ s.cp.slots.find? (fun p => p.1 == 2) = some (2, bq none) ∧ qdDev (bq none).desc = false ∧
      (decide ((bits v 0 16 + 65536 - 1) % 65536 ≤ 2 ^ qdLsz (bq none).desc)) = decide (t ≠ 3)) ∧
    (let s := cqS (bq none) { v := door 9 1 }; slotOfQ s 9 1 = none ∧ staysParked s 9 1 = false ∧ bit (hostNum s (0 * 4096 + 8 * 9) 8) 0 = false) ∧
    (let s := { cqS (bq none) { v := door 9 1 } with host := put8 {} (72, 1) }; let e := hostNum s (0 * 4096 + 8 * 9) 8; bit e 0 = true ∧ bit e 1 = false) ∧
    (let b := { bq none with desc := 16, head := 0 }; let s := { cqS b { ref := ⟨7, 1⟩ } with cp := { jobs := [(3, job0 7)], slots := [(2, b)], tailw := [(7, 1, 0)] } }
     s.cp.tailw.contains (7, 1, s.arg.j) = true ∧ resetRuns s 7 1 = false ∧ slotOfQ s 7 1 = some (2, b) ∧ qdDev b.desc = true ∧
     (match cpAccess s 3 7 (qdTailw b.desc) 8 none with | .ok x _ => decide ((ofBytes (x.map Prod.fst) % 65536 + 65536 - 0) % 65536 ≤ 1) | _ => false) = true) ∧
    (∀ x ∈ [0, 7], let b := { bq none with tail := 2 }; let s := { cqS b { j := 2 } with host := put8 {} (0, x) }
      let p := cpPacketOf (hostRead s (qdRing b.desc + 64 * (b.head % 1)) 64)
      s.cp.slots.find? (fun p => p.1 == s.arg.j) = some (2, b) ∧ b.held = none ∧ b.ind = [] ∧ b.head ≠ b.tail ∧ resetRuns s 7 1 = false ∧
      (openCmds s (cmdRef 7 1)) = [] ∧ opAssigned (cpOp p) = decide (x = 0) ∧ fenced s (cmdRef 7 1) p = false) := by
  decide +kernel

/-- CommandQueues: a record with an address and one without, a queue that has been empty long enough, a parked queue whose
condition has held, and both halves of a reset. -/
theorem witness_CommandQueues_ends :
    (∀ r ∈ ([⟨false, 3, 0x400, 5, 0, 9, none, ⟨7, 1⟩⟩, ⟨true, 3, 0, 5, 0, 9, none, ⟨7, 1⟩⟩] : List CpRec), let s := { cqS (bq none) {} with cp := { recs := [r] } }
      s.cp.recs[s.arg.j]? = some r ∧ r.val < 2 ^ 64 ∧ r.tag < 2 ^ 32 ∧ r.st < 256 ∧ (r.addr = 0 ∨ r.dev = false)) ∧
    (let s := { cqS (bq none) { j := 2 } with fclk := 120000 }; s.cp.slots.find? (fun p => p.1 == s.arg.j) = some (2, bq none) ∧ (bq none).head = (bq none).tail ∧
      (bq none).idle + 64000 ≤ ptp s ∧ s.cp.binds = []) ∧
    (∀ e ∈ [0x1083, 0x1081], let w : Parked := ⟨7, 2, 0, 0, 0, cpk 2 0 0 0 0 0 0, [], true⟩
     let s := { cqS (bq none) { ref := ⟨7, 2⟩ } with cp := { qroot := 1, parked := [w], slots := [(0, bq none)] }, host := put8 (put8 {} (56, e)) (0x1080, 3) }
     s.cp.parked.find? (fun p => p.pasid == 7 && p.q == 2) = some w ∧ w.met = true ∧ s.cp.binds = [] ∧ freeSlot s = some 1 ∧ doorHeld s 7 2 = false ∧
       (match walkQueue s 7 2 with
         | (.found a x, _) => decide (e = 0x1083 ∧ a = 0x1080 ∧ qdDev x = false ∧
             (sget (qdHead x) s.cp.tails (refKey 7 2) % 65536 + 65536 - qdHead x) % 65536 ≤ 2 ^ qdLsz x)
         | (.away, _) => decide (e = 0x1081)
         | (.gone, _) => false) = true) ∧
    (let s := cqS (bq none) { v := door 7 1 }; bit s.arg.v.toNat 0 = true ∧ slotOfQ s 7 1 = some (2, bq none) ∧ openCmds s (cmdRef 7 1) = []) ∧
    (let s := { cqS (bq none) { v := door 7 1 } with cp := { resetting := [(7, 1)], slots := [(2, bq none)] } }
     resetRuns s 7 1 = true ∧ openCmds s (cmdRef 7 1) = [] ∧ s.cp.recs.any (fun x => x.r == cmdRef 7 1) = false ∧ slotOfQ s 7 1 = some (2, bq none) ∧ s.cp.binds = []) := by
  decide +kernel

/-- R356, R358, R359: a doorbell within the queue's size sets its tail and one beyond it halts it; a record is 16 bytes. -/
theorem test_queues : (sget (bq none) (after .doorbell (cqS (bq none) { v := door 7 2 })).cp.slots 2).tail = 2 ∧
    (sget (bq none) (after .doorbell (cqS (bq none) { v := door 7 3 })).cp.slots 2).halted = true ∧
    hostNum (after .completionRecordWrite { cqS (bq none) {} with cp := { recs := [⟨false, 3, 0x400, 5, 6, 9, none, ⟨7, 1⟩⟩] } }) 0x400 16 = 9 * 2 ^ 64 + 5 * 2 ^ 32 + 6 := by
  decide +kernel

/-- Core 0 at a word of its code store, with a range of its state. -/
def lanW (w : Nat) (f : Lan → Lan) : State :=
  let s := lanP [(1, 64)]
  let s := { s with chip := { s.chip with mem := writeNat s.chip.mem (codeBase 0) 4 w } }
  modLan { s with arg := {} } 0 f

/-- PostEvents: a word of each form with an answer and with its time over, a remote TKSIG that is answered, and a POST whose
window and overflow queue are full. -/
theorem witness_PostEvents :
    (∀ w ∈ [0xF0004004, 0xF0004206, 0xF0204005, 0xF0204207, 0xF4004001], let s := lanW w (fun l => { l with ans := some (0, 0), stall := 2 ^ 24 })
      s.arg.m = 0 ∧ s.cur = .lantern 0 ∧ lanRuns s 0 = true ∧ (getCl s 0).lan.ans ≠ none ∧
      bits (rdCsr (here s) 0x151).toNat 0 40 ≤ (getCl s 0).lan.stall ∧
      (match lanFetch s 0 with
        | .ok i => decide (i ∈ [.post 1, .postR 1 2, .postTry 2 1, .postRtry 2 1 2, .tksig 1])
        | .error _ => false) = true) ∧
    (let s := { lanW 0xF4004001 (fun l => { l with ans := some (0, 0), wait := some (.post 3 255), core := { l.core with sreg := [(1, BitVec.ofNat 64 (2 ^ 48))] } }) with partSize := 2 }
     (getCl s 0).lan.wait = some (.post 3 255) ∧ (match lanFetch s 0 with | .ok i => decide (i = .tksig 1) | _ => false) = true ∧ handleOk s (reg s 1).toNat = true ∧
       bit (reg s 1).toNat 47 = false ∧ (handleAt s.partMod (reg s 1).toNat).1 ≠ s.partMod ∧ regBad s 1 = false ∧
       lanFree s 0 { reads := [1], gate := [1], fence := some (4, 31) } = true ∧ (here s).delay = none) ∧
    (let s := modCl (lanW 0xF0004004 (fun l => { l with stall := 2 ^ 24, core := { l.core with csr := [(0xA0, 0x101)] } })) 0
       (fun c => { c with ovf := [(0, [pst])] })
     let o := readPost s.chip.mem (clBase 0) clSize (reg s 1).toNat
     (getCl s 0).lan.wait = none ∧ (o.psnImg || o.psnRegs || o.psnMv) = false ∧ postReason s 0 clSize o.img o.regs o.mv = 0 ∧
       placeOf (getCl s 0) 0 (postRegs (mkPost s 0 0 o)).length = 2 ∧ (match lanFetch s 0 with | .ok i => decide (i = .post 1) | _ => false) = true ∧
       bits (rdCsr (here s) 0x151).toNat 0 40 ≤ (getCl s 0).lan.stall ∧ traced s (.lantern 0) = false ∧ lanFree s 0 { reads := [1], gate := [1], fence := some (4, 31) } = true ∧
       bit (rdCsr (here s) 0xA0).toNat 0 = true) := by
  decide +kernel

/-! ## Witnesses: the fabric -/

/-- A packet of the job in slot 3 from module 1 of the four of a ring, to module 0. -/
def pk (cls type nfl ia : Nat) : Packet :=
  { pkt0 lanS cls type with ia := BitVec.ofNat 48 ia, dmod := 0, smod := 1, slot := 3, pasid := 7, rid := 5, nfl := BitVec.ofNat 4 nfl, payload := List.replicate (64 * nfl) 0 }
/-- Module 0 with the key of slot 3, and the arrival of this packet. -/
def fabS (p : Packet) : State := { lanS with partSize := 4, dims := [4, 1, 1, 1], arg := { pkt := p }, cp := { keys := [(3, 0)], jobs := [(3, job0 7), (4, job0 8)] } }
/-- The packet of the event arrives for this module, and its job is here. -/
def comes (s : State) : Bool :=
  decide (tagHolds s = true ∧ keyOk s s.arg.pkt.slot.toNat = true ∧ s.arg.pkt.dmod.toNat = s.partMod ∧ s.arg.pkt.smod.toNat ≠ s.partMod)
def admits (s : State) : Bool := comes s && decide (s.arg.pkt.slot.toNat = s.chip.slot ∧ s.arg.pkt.pasid.toNat = s.chip.pasid ∧ frozen s = false)

/-- What the two tests say. -/
theorem comes_spec (s : State) (h : comes s = true) : Arrives s := by
  simpa [comes, Arrives] using h
theorem admits_spec (s : State) (h : admits s = true) : Arrives s ∧ Admitted s := by
  simp only [admits, Bool.and_eq_true, decide_eq_true_eq] at h
  exact ⟨comes_spec s h.1, h.2⟩

/-- A packet that has crossed no link (arg.flag) counts on none, so what is said of the state with the arrival counted is said of it. -/
theorem link_free (s : State) (h : s.arg.flag = true) : linkIn s = s := by simp [linkIn, h]

/-- PacketsDroppedOrForwarded: a tag that fails, a job with no key, and each type on its way to another module. -/
theorem witness_PacketsDroppedOrForwarded :
    (let s := fabS (pk 0 1 0 0); { s with arg := { s.arg with flag := false } }.arg.flag = false) ∧ (fabS (pk 0 1 0 0)).arg.flag = true ∧
    (let s := fabS { pk 0 1 0 0 with slot := 4 }; keyOk s s.arg.pkt.slot.toNat = false) ∧
    ([(0, 1, 0), (0, 2, 1), (0, 2, 8), (0, 3, 1), (0, 4, 1), (0, 8, 5), (0, 9, 0), (0, 10, 0), (0, 11, 0), (0, 16, 0), (2, 0x30, 8), (1, 0x20, 0), (1, 0x20, 8), (1, 0x21, 0)].all (fun x =>
      let p := { pk x.1 x.2.1 x.2.2 0 with dmod := 2 }
      let s := fabS p
      tagHolds s && keyOk s p.slot.toNat && decide (p.dmod.toNat ≠ s.partMod ∧ p.cls.toNat = x.1 ∧ p.type.toNat = x.2.1 ∧ p.nfl.toNat = x.2.2 ∧
        p.payload.length = 64 * p.nfl.toNat ∧ p.aop.toNat ≤ 9))) = true := by
  decide +kernel

/-- RemoteRequests: of a job that stops, that is saved, and that is not here; outside the map, refused by the MTS, and performed. -/
theorem witness_RemoteRequests :
    (let s := fabS (pk 0 1 0 0); let t := { s with cp := { s.cp with switch := some ⟨0, 3, 4, 0⟩ } }
      comes t = true ∧ t.arg.pkt.slot.toNat = t.chip.slot ∧ t.arg.pkt.pasid.toNat = t.chip.pasid ∧ frozen t = true) ∧
    (let s := fabS { pk 0 1 0 0 with slot := 4, pasid := 8 }; let t := { s with cp := { s.cp with keys := [(4, 0)] } }
      comes t = true ∧ t.arg.pkt.slot.toNat ≠ t.chip.slot ∧ t.cp.jobs.any (fun j => decide (j.1 = t.arg.pkt.slot.toNat ∧ j.2.pasid = t.arg.pkt.pasid.toNat)) = true) ∧
    (let s := fabS { pk 0 1 0 0 with pasid := 9 }; comes s = true ∧ s.arg.pkt.pasid.toNat ≠ s.chip.pasid ∧
      s.cp.jobs.all (fun j => !decide (j.1 = s.arg.pkt.slot.toNat ∧ j.2.pasid = s.arg.pkt.pasid.toNat)) = true) ∧
    ([(1, 0, 0x020000000000 + clSize - 1, true, true), (1, 0, 0xFFFFFFFFFFFF, false, false), (1, 0, 0x010000000000, true, false)].all (fun x =>
      let s := fabS (pk 0 x.1 x.2.1 x.2.2.1)
      admits s && pktIs s.arg.pkt 0 x.1 0 0 && (remoteAt s s.arg.pkt.ia.toNat 1 .rd == x.2.2.2.1) &&
        ((faultOf (resolveAll s s.chip.slot s.chip.pasid (fullIa s s.arg.pkt.ia.toNat) 1 .rd)).isNone == x.2.2.2.2 || !x.2.2.2.1))) = true := by
  decide +kernel

/-- RemoteRequests: requests that are performed, a whole write of 512 bytes up to the end of a scratchpad among them. -/
theorem witness_RemoteRequests_done :
    (∀ f : Bool, let s := fabS { pk 0 2 (if f then 8 else 1) (if f then clBase 0 + clSize - 512 else clBase 0) with len := if f then 511 else 0 }
      let n := s.arg.pkt.len.toNat + 1
      admits s = true ∧ pktIs s.arg.pkt 0 2 1 8 = true ∧ remoteAt s s.arg.pkt.ia.toNat n .wr = true ∧
        faultOf (resolveAll s s.chip.slot s.chip.pasid (fullIa s s.arg.pkt.ia.toNat) n .wr) = none) ∧
    (∀ a < 10, let s := fabS { pk 0 3 1 (clBase 0 + 8) with asz := 1, aop := BitVec.ofNat 4 a }
      let p := s.arg.pkt
      admits s = true ∧ pktIs p 0 3 1 1 = true ∧ p.aop.toNat = a ∧ remoteAt s p.ia.toNat 8 .at = true ∧
        faultOf (resolveAll s s.chip.slot s.chip.pasid (fullIa s p.ia.toNat) 8 .at) = none ∧
        (match atomicIa s s.chip.slot s.chip.pasid (fullIa s p.ia.toNat) (amoOp p.aop.toNat 8 (ofBytes (p.payload.take 8)) (ofBytes ((p.payload.drop 8).take 8)))
          (remoteSync s p (fullIa s p.ia.toNat)) with | .done .. => true | _ => false) = true) ∧
    (∀ a < 3, let s := fabS { pk 0 4 1 (clBase 0 + 8) with payload := [0, 0, 0, 0, BitVec.ofNat 8 a] ++ List.replicate 59 0 }
      let p := s.arg.pkt
      let o := faddOp (ofBytes ((p.payload.drop 4).take 1) % 3) (ofBytes (p.payload.take 4)) (sextN (ofBytes ((p.payload.drop 5).take 2)) 16)
      admits s = true ∧ pktIs p 0 4 1 1 = true ∧ remoteAt s p.ia.toNat o.w .at = true ∧
        faultOf (resolveAll s s.chip.slot s.chip.pasid (fullIa s p.ia.toNat) o.w .at) = none ∧
        (match atomicIa s s.chip.slot s.chip.pasid (fullIa s p.ia.toNat) o (remoteSync s p (fullIa s p.ia.toNat)) with | .done .. => true | _ => false) = true) := by
  decide +kernel

/-- R336, R339: a write stores its bytes and is acknowledged, an add returns the old value, and a read of no job here faults. -/
theorem test_remote_requests :
    let t := after .wr (fabS { pk 0 2 1 (clBase 0 + 8) with payload := 5 :: List.replicate 63 0 })
    let u := after .amo { t with arg := { pkt := { pk 0 3 1 (clBase 0 + 8) with asz := 1, payload := 3 :: List.replicate 63 0 } } }
    rdByte t.chip.mem.cells (clBase 0 + 8) = 5 ∧ t.sent.map (fun p => (p.type, p.st, p.dmod)) = [(0x21, 0, 1)] ∧
    rdByte u.chip.mem.cells (clBase 0 + 8) = 8 ∧ (u.sent.drop 1).map (fun p => (p.type, p.payload.take 8)) = [(0x20, toBytes 5 8)] ∧
    (after .rd (fabS { pk 0 1 0 0 with pasid := 9 })).sent.map (fun p => (p.type, p.st, p.fk.toNat)) = [(0x20, 2, fkNoJob)] := by
  decide +kernel

/-- RemoteTokensAndPosts: each token packet, and a post that enters, that is rejected, and that finds its window full. -/
theorem witness_RemoteTokensAndPosts :
    ([9, 10, 11].all (fun t => let s := fabS (pk 0 t 0 (31 * 4096 + 4095)); admits s && pktIs s.arg.pkt 0 t 0 0)) = true ∧
    (∀ f : Bool, let s := fabS { pk 0 8 5 0 with payload := toBytes (if f then 2 ^ 120 else 0) 320 }
      let p := s.arg.pkt
      let x := ofBytes (p.payload.take 64)
      let regs := (List.range (imNreg x)).map (fun j => ofBytes ((p.payload.drop (64 + 32 * j)).take 32))
      let o : PostObj := ⟨x, regs, moveBlock s 0 x, false, false, false⟩
      admits s = true ∧ pktIs p 0 8 5 5 = true ∧ decide (postReason s 0 clSize o.img o.regs o.mv = 0) = f ∧
        (f = true → placeOf (getCl s 0) 9 (postRegs (mkPost s 0 9 o)).length = 0 ∧ bit (imTok x 3) 47 = false ∧
          placeOf { getCl s 0 with ovf := [(0, [pst])] } 9 (postRegs (mkPost s 0 9 o)).length ≠ 0)) := by
  decide +kernel

/-- R276, R336: the token packets arm, signal and read a token. -/
theorem test_token_packets :
    let t := after .tksigPacket (fabS (pk 0 10 0 4098))
    let at' := fun (n : Nat) => { t with sent := [], arg := { pkt := pk 0 n 0 4098 } }
    getTok t 1 2 = ⟨true, 1⟩ ∧ getTok t 1 3 = ⟨false, 0⟩ ∧ getTok (after .tkarm (at' 9)) 1 2 = ⟨false, 0⟩ ∧
    (after .tkrdPacket (at' 11)).sent.map (fun p => (p.type, p.payload.take 4)) = [(0x20, [1, 0, 1, 0])] := by
  decide +kernel

/-- A request of this number waits for its answer. -/
def askS (p : Packet) (o : Outst) : State := { fabS p with outst := [(5, o)] }
def outs (w : Reqr) (d : Bool) : Outst := ⟨pk 0 1 0 0, w, 0, d, 3, 0, true⟩

/-- ResponsesAndReductions: responses that nothing waits for, that are DEFERRED, and that a word or an access waits for, with each status. -/
theorem witness_ResponsesAndReductions :
    (∀ t ∈ [0x20, 0x21], let s := fabS (pk 1 t 0 0); comes s = true ∧ pktIs s.arg.pkt 1 t 0 8 = true ∧ s.outst.all (fun q => decide (q.1 ≠ 5)) = true) ∧
    (let o := outs (.word 0) false; let s := askS { pk 1 0x20 0 0 with st := 1 } o
      comes s = true ∧ s.outst.find? (fun q => q.1 == 5) = some (5, o) ∧ s.arg.pkt.st = 1 ∧ frozen s = false) ∧
    (∀ st < 5, st ≠ 1 → let o := outs (.word 0) false
      let s := modLan (askS { pk 1 0x21 0 0 with st := BitVec.ofNat 4 st } o) 0 (fun l => { l with wait := some (.post 5 0) })
      comes s = true ∧ pktIs s.arg.pkt 1 0x21 0 0 = true ∧ s.outst.find? (fun q => q.1 == s.arg.pkt.rid.toNat) = some (5, o) ∧ (getCl s 0).lan.wait = some (.post 5 0) ∧
        s.arg.pkt.st ≠ 1) ∧
    (let o := outs (.acc 0 4 0) false; let a : LAcc := ⟨4, 0, 0, 3, 0, 0, none, .reading [5], none, [(0, false)]⟩
     let s := modLan (askS (pk 1 0x20 1 0) o) 0 (fun l => { l with accs := [a] })
     comes s = true ∧ pktIs s.arg.pkt 1 0x20 0 8 = true ∧ findAcc s 0 4 = some a ∧ a.phase = .reading [5] ∧ s.outst.find? (fun q => q.1 == 5) = some (5, o)) := by
  decide +kernel

/-- ResponsesAndReductions: a request past its 2 ms and one that no key let out; one that still waits; a partial sum on its way
round the ring and back to its requester; a load-and-reduce request at the first member and at a later one. -/
theorem witness_ResponsesAndReductions_ring :
    (let o := outs (.word 0) false
     let s := fun (t : Nat) (k : Nat) => modLan { askS (pk 0 1 0 0) o with arg := { j := 5 }, fclk := t, cp := { keys := [(k, 0)] } } 0 (fun l => { l with wait := some (.tok 5) })
     (s 2400000 3).outst.find? (fun q => q.1 == 5) = some (5, o) ∧ o.since + 2000000 ≤ ptp (s 2400000 3) ∧ (getCl (s 0 4) 0).lan.wait = some (.tok 5) ∧
       ({ o with injected := false } : Outst).injected = false ∧ ptp (s 2399999 3) < o.since + 2000000 ∧ o.injected = true ∧ o.deferred = false) ∧
    (∀ i ∈ [1, 2], let p := { pk 2 0x30 8 0 with gp := 2, gpres := 7, gcoord := 0x301, pos := BitVec.ofNat 4 i }
      let q : McRead := ⟨1, 5, List.replicate 256 (0, false)⟩
      let s := { fabS p with mcr := [q] }
      let r := match (presOf p).find? (fun j => decide (i < j)) with | some j => memberMod s p j | none => p.smod.toNat
      comes s = true ∧ pktIs p 2 0x30 8 8 = true ∧ p.pos.toNat = i ∧ (presOf p).head? = some 0 ∧
        s.mcr.find? (fun q => decide (q.smod = p.smod.toNat ∧ q.rid = p.rid.toNat)) = some q ∧ r = (if i = 1 then 3 else 1) ∧ r ≠ s.partMod ∧
        (redAdd (payloadImg p 512) q.img).length = 512) ∧
    (∀ c ∈ [0x320, 0x302], let p := { pk 0 0x10 0 (clBase 0) with gp := 2, gpres := 7, gcoord := BitVec.ofNat 64 c, len := 255 }
      let s := fabS p
      let i := if c = 0x320 then 0 else 1
      let s1 := mcreqTravel s p false 0
      admits s = true ∧ pktIs p 0 0x10 0 0 = true ∧ groupPos s p.gdim.toNat p.gp.toNat p.gcoord.toNat = some i ∧ p.gpres.getLsbD i = true ∧
        remoteAt s p.ia.toNat 256 .rd = true ∧ faultOf (resolveAll s1 s.chip.slot s.chip.pasid (fullIa s1 p.ia.toNat) 256 .rd) = none ∧
        (presOf p).head? = some 0 ∧ (presOf p).find? (fun j => decide (0 < j)) = some 1 ∧ (i = 0 → memberMod s p 1 = 2 ∧ memberMod s p 1 ≠ s.partMod)) := by
  decide +kernel

/-- R336, R341: a word's request is answered REJECT with its reason, and times out after 2 ms. -/
theorem test_answers :
    let w := fun (s : State) => modLan s 0 (fun l => { l with wait := some (.post 5 0) })
    (getCl (after .ack (w (askS { pk 1 0x21 0 0 with st := 4, fk := 3 } (outs (.word 0) false)))) 0).lan.ans = some (771, 0) ∧
    (getCl (after .requestTimeout (w { askS (pk 0 1 0 0) (outs (.word 0) false) with arg := { j := 5 }, fclk := 2400000 })) 0).lan.ans = some (4, 0) ∧
    (after .requestTimeout (w { askS (pk 0 1 0 0) (outs (.word 0) false) with arg := { j := 5 }, fclk := 2399999 })).outst.length = 1 := by
  decide +kernel

/-- R348: BF16 elements are added to the FP32 partial sums, in ring order. -/
theorem test_reduction : (redAdd ((toBytes 0x3FC00000 4).map (fun b => (b, false))) [(0x80, false), (0x3F, false)]).map Prod.fst = toBytes 0x40200000 4 := by
  decide +kernel

/-- A schedule of 256 entries of every die from an instant; and group 7, positions 0 to 4 of dimension 0, with module 1 at position 1. -/
def sched (t : Nat) : State := { lanS with cp := { belfryLoad := [(t, 15, 3, List.replicate 256 (5 : BitVec 128))] } }
def grpS : State := { fabS (pk 0 1 0 0) with arg := { n := 1 }, chip := { lanS.chip with mcg := [(7, BitVec.ofNat 128 (0x10 + 7 * 2 ^ 102 + 2 ^ 118))] } }

/-- LinksAndGroups: the schedule that is loaded. -/
theorem witness_LinksAndGroups_sched (t : Nat) : (sched t).cp.belfryLoad = [(t, 15, (sched t).chip.slot, List.replicate 256 (5 : BitVec 128))] ∧
    (List.replicate 256 (5 : BitVec 128)).length = 256 := ⟨rfl, List.length_replicate ..⟩

/-- LinksAndGroups: a schedule at its slot and before it, no request to the peer, and a group this module's neighbour leaves. -/
theorem witness_LinksAndGroups :
    (∀ t < 2, decide (t ≤ ptp (sched t)) = decide (t = 0)) ∧
    grpS.outst = [] ∧ swf 0 grpS.chip.mcg = true ∧ bits (sget 0 grpS.chip.mcg 7).toNat 122 2 = 0 ∧ 1 ≤ bits (sget 0 grpS.chip.mcg 7).toNat 118 4 ∧
    bits (sget 0 grpS.chip.mcg 7).toNat 4 4 = coordOf grpS 1 0 ∧ (sget 0 grpS.chip.mcg 7).getLsbD 103 = true ∧
    (∀ e < 4, e = 0 ∨ coordOf grpS grpS.arg.n e = coordOf grpS grpS.partMod e) ∧ (sget 0 (after .hotSwapRemove grpS).chip.mcg 7).getLsbD 103 = false := by
  decide +kernel

/-! ## Witnesses: the module and the machine as a whole -/

/-- BootAndService: versions that are absent, refused and accepted; signatures left and none; caps at their ends. -/
theorem witness_BootAndService :
    (∀ v < 3, ∀ f : Bool, let s := { lanS with arg := { v := BitVec.ofNat 64 v, flag := f, ixs := [3, 300] }, svc := { rollback := 1 } }
      bits s.arg.v.toNat 0 16 = v ∧ (s.arg.flag && decide (s.svc.rollback ≤ v)) = (f && decide (v ≠ 0)) ∧ s.svc.sigsLeft ≠ 0 ∧ s.cp.jobs = []) ∧
    (let s := { lanS with svc := { sigsLeft := 0 } }; s.svc.sigsLeft = 0) ∧ (cpS (cpk 0 0 0 0 0 0 0)).cp.jobs ≠ [] ∧
    (let s := { lanS with arg := { n := 2 ^ 11 }, svc := { retired := [5] } }; bit s.arg.n 11 = true ∧ bit s.arg.n 0 = false ∧ s.svc.retired.countP (fun f => decide (8192 * f / 2 ^ 36 = 0)) = 1) ∧
    (2000 ≤ 2000 ∧ 5000 ≤ 5000) ∧ ¬(2000 ≤ 1999 ∧ 1999 ≤ 5000) := by
  decide +kernel

/-- R371, R376, R378: an update below the rollback counter is not taken; one that is accepted takes force with no job; a cap outside its range is not set. -/
theorem test_service :
    let s := { lanS with arg := { v := 4, n := 1999 }, svc := { rollback := 4 } }
    (after .liveUpdate s).svc.fwver = 4 ∧ (after .liveUpdate { s with svc := { rollback := 5 } }).svc.fwver = 0 ∧
    (after .liveUpdate { s with cp := { jobs := [(3, job0 7)] } }).svc.upd = true ∧
    (after .powerCapSet s).svc.cap = 5000 ∧ (after .powerCapSet { s with arg := { n := 2000 } }).svc.cap = 2000 ∧
    (after .powerGood s).svc.ready = true ∧ degraded (after .powerGood { s with arg := { n := 2 ^ 11 } }).svc = [11] := by
  decide +kernel

/-- Unit 0 with these bytes as its bundle at 0. -/
def bunS (l : List Nat) : State :=
  let s := unitS
  { s with chip := { s.chip with mem := (List.range l.length).foldl (fun m j => writeNat m (codeBase 0 + 4 * j) 4 (l.getD j 0)) s.chip.mem } }

/-- StepRunsDecoded: a core's turn, one of a core that does not run, an event's turn, and bundles of one slot of each kind. -/
theorem witness_StepRunsDecoded :
    (let s := { lanW 0x00304200 id with agenda := [.lantern 0] }
     let t := { s with agenda := [], cur := .lantern 0 }
     let l := (getCl s 0).lan
     let b := lanCode t 0 l.core.pc 4
     l.on = true ∧ s.chip.ended = none ∧ s.cp.switch = none ∧ l.core.pc % 4 = 0 ∧ l.core.pc + 4 ≤ codeSize ∧ b.all (fun x => !x.2) = true ∧
       (match decodeS (BitVec.ofNat 32 (ofBytes (b.map Prod.fst))) with | .ok _ => true | _ => false) = true) ∧
    (let s := modLan { lanS with agenda := [.lantern 0] } 0 (fun l => { l with core := { l.core with pc := 0x200000 } })
     (getCl s 0).lan.on = true ∧ (match lanFetch { s with agenda := [], cur := .lantern 0 } 0 with | .error _ => true | _ => false) = true) ∧
    ({ unitS with agenda := [.hop 2] } : State).agenda = [.hop 2] ∧
    (let s := { unitS with agenda := [.lantern 31, .ev .powerCapSet { n := 3000 }] }; s.agenda = .lantern 31 :: [.ev .powerCapSet { n := 3000 }] ∧ (getCl s 31).lan.on = false) ∧
    ([(0, [1, 0x00304200]), (1, [2, 0x0, 0x80c108]), (3, [8, 0x0, 0x18c00000]), (4, [16, 0x40000025, 0x304200])].all (fun x =>
      let s := bunS x.2
      let b := fetchBundle s 0
      let y := b.map Prod.fst
      decide ((getUnit s 0).inst.map (fun n => n.first) = some false) && issues s 0 && b.all (fun q => !q.2) && decide (wordAt y 0 = 2 ^ x.1) &&
        decide (b.length = 4 * x.2.length) &&
        (match x.1 with
         | 0 => (match decodeS (BitVec.ofNat 32 (wordAt y 1)) with | .ok _ => true | _ => false)
         | 1 => (match decodeV (BitVec.ofNat 64 (dwordAt y 1)) with | .ok _ => true | _ => false)
         | 3 => (match decodeM (BitVec.ofNat 64 (dwordAt y 1)) with | .ok _ => true | _ => false)
         | _ => (match decodeC (BitVec.ofNat 64 (dwordAt y 1)) with | .ok _ => true | _ => false)))) = true := by
  decide +kernel

/-- DecodeReadsEncoding, EncodingIsUnique: an instruction of each kind of word is well formed and is read back. -/
theorem witness_DecodeReadsEncoding :
    ([.add 3 1 2, .beq 1 2 0x3FFF, .tkwait 63, .vadd ⟨8, 3, 1, 2, 0, 0, 0, 0, 0, 0⟩, .zero ⟨3, 0, 0, 0, 0, 0, ⟨0, 0, 0, 0⟩⟩].all (fun i =>
      i.wf && (match encode i with | some c => (match decode c with | .ok j => decide (i = j) | _ => false) | none => false))) = true := by
  decide +kernel

/-- ClocksKeepTheirRatio: after reset, and with a turn left. -/
theorem witness_ClocksKeepTheirRatio : TimeInv State.reset ∧ TimeInv { unitS with agenda := [.lantern 31] } ∧
    (∃ t, step { unitS with agenda := [.lantern 31] } = .next t) ∧ ({ unitS with agenda := [.lantern 31] } : State).agenda ≠ [] := by
  refine ⟨⟨by decide, by decide⟩, ⟨by decide, by decide⟩, ⟨_, rfl⟩, by decide⟩

/-- R3: two fclk hold one edge of clk at 600 MHz, and turns hold none. -/
theorem test_clock : (tick (tick State.reset)).clk = 1 ∧ (tick State.reset).clk = 0 ∧ (tick (tick State.reset)).fclk = 2 := by
  decide +kernel

end Sys2Proof.Tests
end

section
/-! PROOFS. The clocks along a step (spec 00 R3, 20 R378). -/

namespace Sys2Proof.Machine

/-- The clocks of `t` stand where those of `s` do (R3). -/
def ClocksSame (s t : State) : Prop := t.fclk = s.fclk ∧ t.clk = s.clk ∧ t.acc = s.acc ∧ t.edge = s.edge

theorem ClocksSame.refl (s : State) : ClocksSame s s := ⟨rfl, rfl, rfl, rfl⟩

theorem ClocksSame.trans {s t u : State} (h : ClocksSame s t) (g : ClocksSame t u) : ClocksSame s u := by
  obtain ⟨h1, h2, h3, h4⟩ := h
  obtain ⟨g1, g2, g3, g4⟩ := g
  exact ⟨g1.trans h1, g2.trans h2, g3.trans h3, g4.trans h4⟩

/-- What keeps the clocks for one agent keeps them for a list of agents. -/
theorem ClocksSame.foldl {f : State → Nat → State} (hf : ∀ t n, ClocksSame t (f t n)) (l : List Nat) (s : State) :
    ClocksSame s (l.foldl f s) := by
  induction l generalizing s with
  | nil => exact .refl s
  | cons n r ih => exact (hf s n).trans (ih (f s n))

theorem modCl_clocks (s : State) (m : Nat) (f : Cluster → Cluster) : ClocksSame s (modCl s m f) := ⟨rfl, rfl, rfl, rfl⟩

theorem tickCl_clocks (s : State) (m : Nat) : ClocksSame s (tickCl s m) := modCl_clocks ..

theorem refresh_clocks (s : State) (m : Nat) : ClocksSame s (refresh s m) := modCl_clocks ..

theorem modUnit_clocks (s : State) (k : Nat) (f : Unit → Unit) : ClocksSame s (modUnit s k f) := ⟨rfl, rfl, rfl, rfl⟩

theorem countCyc_clocks (s : State) (k : Nat) : ClocksSame s (countCyc s k) := by
  unfold countCyc
  split
  · exact modUnit_clocks ..
  · exact .refl s

/-- What changes with time moves the clocks by one fclk, and no further. -/
theorem tickState_clocks (s : State) : ClocksSame (tickTime s) (tickState s) := by
  have clusters := ClocksSame.foldl tickCl_clocks (liveClusters (tickTime s)) (tickTime s)
  have units := fun t => ClocksSame.foldl (fun t k => (modUnit_clocks t k endUnit).trans (countCyc_clocks _ k)) (liveUnits t) t
  have windows := fun t => ClocksSame.foldl refresh_clocks (liveClusters t) t
  unfold tickState
  dsimp only
  split
  · exact clusters
  · exact clusters.trans ((units _).trans (.trans ⟨rfl, rfl, rfl, rfl⟩ (windows _)))

theorem takeInput_clocks (s : State) (l : List Turn) : ClocksSame s (takeInput s l) := by
  unfold takeInput
  split
  · split <;> exact ⟨rfl, rfl, rfl, rfl⟩
  · exact .refl s

/-- A new fclk moves the clocks as `tickTime` does. -/
theorem tick_clocks (s : State) : ClocksSame (tickTime s) (tick s) :=
  (tickState_clocks s).trans ((takeInput_clocks _ _).trans ⟨rfl, rfl, rfl, rfl⟩)

/-- A turn leaves the clocks, whatever it answers. -/
theorem keepTime_clocks {s t : State} {o : Out} (h : keepTime s o = .next t) : ClocksSame s t := by
  cases o with
  | next u => cases h; exact ⟨rfl, rfl, rfl, rfl⟩
  | fault r => cases h
  | refused r => cases h

/-- A step either begins a new fclk, with no turn left, or runs a turn and leaves the clocks (R3). -/
theorem step_clocks {s t : State} (h : step s = .next t) : s.agenda = [] ∧ t = tick s ∨ s.agenda ≠ [] ∧ ClocksSame s t := by
  unfold step at h
  split at h
  next ha => cases h; exact .inl ⟨ha, rfl⟩
  next m r ha =>
    refine .inr ⟨by simp [ha], ?_⟩
    dsimp only at h
    split at h
    · split at h <;> exact keepTime_clocks h
    · cases h; exact ⟨rfl, rfl, rfl, rfl⟩
  next id r ha => exact .inr ⟨by simp [ha], keepTime_clocks h⟩
  next i a r ha => exact .inr ⟨by simp [ha], keepTime_clocks h⟩

/-- One fclk with no edge of clk: the fraction grows by at most 600 in 1,200 (R3, R378). -/
theorem tickTime_noEdge (s : State) (h : s.acc + (600 - 25 * s.svc.slow) < 1200) :
    tickTime s = { s with fclk := s.fclk + 1, acc := s.acc + (600 - 25 * s.svc.slow), edge := false } := by
  simp [tickTime, show ¬1200 ≤ s.acc + (600 - 25 * s.svc.slow) by omega]

/-- One fclk with an edge of clk, which takes its 1,200 from the fraction (R3, R378). -/
theorem tickTime_edge (s : State) (h : 1200 ≤ s.acc + (600 - 25 * s.svc.slow)) :
    tickTime s = { s with fclk := s.fclk + 1, acc := s.acc + (600 - 25 * s.svc.slow) - 1200, edge := true, clk := s.clk + 1 } := by
  simp [tickTime, h]

theorem tickTime_fclk (s : State) : (tickTime s).fclk = s.fclk + 1 := by
  unfold tickTime; dsimp only; split <;> rfl

theorem tickTime_clk_le (s : State) : s.clk ≤ (tickTime s).clk := by
  unfold tickTime; dsimp only; split <;> simp

/-- The bound on the edges of clk speaks of the clocks alone. -/
theorem TimeInv.of_clocks {s t : State} (h : ClocksSame s t) (hs : TimeInv s) : TimeInv t := by
  obtain ⟨h1, h2, h3, -⟩ := h
  simpa [TimeInv, h1, h2, h3] using hs

/-- One fclk adds at most 600 to what the edges and the fraction make, and 600 to what they may make (R3, R378). -/
theorem tickTime_timeInv {s : State} (hs : TimeInv s) : TimeInv (tickTime s) := by
  obtain ⟨hacc, hbound⟩ := hs
  by_cases h : 1200 ≤ s.acc + (600 - 25 * s.svc.slow)
  · rw [tickTime_edge s h]; constructor <;> dsimp only <;> omega
  · rw [tickTime_noEdge s (by omega)]; constructor <;> dsimp only <;> omega

/-- Settles O59: a step is a turn, which leaves the clocks, or a new fclk, whose clocks are those of `tickTime`. -/
theorem clocksKeepTheirRatio : Obligations.ClocksKeepTheirRatio := by
  unfold Obligations.ClocksKeepTheirRatio
  intro s t hs h
  rcases step_clocks h with ⟨ha, rfl⟩ | ⟨ha, same⟩
  · obtain ⟨hf, hc, hacc, hedge⟩ := tick_clocks s
    refine ⟨(tickTime_timeInv hs).of_clocks (tick_clocks s), ?_, ?_, fun hne => absurd ha hne, fun _ => ⟨?_, fun slow0 acc0 => ?_, fun slow0 acc600 => ?_⟩⟩
    · rw [hf, tickTime_fclk]; omega
    · rw [hc]; exact tickTime_clk_le s
    · rw [hf, tickTime_fclk]
    · rw [hacc, hedge, tickTime_noEdge s (by omega)]; simp [slow0, acc0]
    · rw [hacc, hedge, tickTime_edge s (by omega)]; simp [slow0, acc600]
  · have invariant := hs.of_clocks same
    obtain ⟨hf, hc, -, -⟩ := same
    exact ⟨invariant, hf.ge, hc.ge, fun _ => ⟨hf, hc⟩, fun hnil => absurd hnil ha⟩

end Sys2Proof.Machine
end

section
/-! PROOFS. The word of a slot: where a decoded instruction stands and how it runs alone, and the turns of a step (spec 00 R3, 03 R44, 09 R144, R145). -/

namespace Sys2Proof.Machine

/-! ## The word of a slot -/

/-- The slot that an instruction's word stands in (R163 to R175): S, V, M and C; an event has none. -/
def wordSlot (i : Instr) : Option Nat :=
  match form i with
  | .sw _ | .lan _ => some 0
  | .v _ _ => some 1
  | .m _ _ => some 3
  | .c _ _ => some 4
  | .event => none

/-- An instruction that has a word has a meaning, and runs as that meaning alone in its slot (R144, R145). -/
theorem exec_word {i : Instr} {slot : Nat} (h : wordSlot i = some slot) : ∃ f, semOf i = some f ∧ ∀ s, exec i s = runOne i slot f s := by
  cases i <;> cases h <;> exact ⟨_, rfl, fun _ => rfl⟩

/-- What a parser answers, if an instruction, stands in `slot`. -/
def InSlot (slot : Nat) (r : Except Nat Instr) : Prop := ∀ i, r = .ok i → wordSlot i = some slot

@[simp] theorem inSlot_error (slot n : Nat) : InSlot slot (.error n) := fun _ h => nomatch h

@[simp] theorem inSlot_ok (slot : Nat) (i : Instr) : InSlot slot (.ok i) ↔ wordSlot i = some slot :=
  ⟨fun h => h i rfl, fun h j e => by cases e; exact h⟩

@[simp] theorem inSlot_ite (slot : Nat) (c : Prop) [Decidable c] (a b : Except Nat Instr) :
    InSlot slot (if c then a else b) ↔ (c → InSlot slot a) ∧ (¬c → InSlot slot b) := by
  by_cases h : c <;> simp [h]

/-- The selectors of a major opcode, and the forms that need none, are words of the S slot and of the Lantern core. -/
theorem inSlot_parseS (u : S32) : InSlot 0 (parseS u) := by
  unfold parseS
  split <;> simp [parse00, parse07, parse38, parse39, parse3A, parse3B, parse3C, parse3D, parse3E, wordSlot, form]

theorem inSlot_parseV (op : Nat) (f : VF) : InSlot 1 (parseV op f) := by
  unfold parseV
  split <;> simp [wordSlot, form]

theorem inSlot_parseM (op : Nat) (f : MF) : InSlot 3 (parseM op f) := by
  unfold parseM
  split <;> simp [wordSlot, form]

theorem inSlot_parseC (op : Nat) (f : CF) : InSlot 4 (parseC op f) := by
  unfold parseC
  split <;> simp [wordSlot, form]

/-- The field limits let through only what was parsed, and only if its own bits are legal. -/
theorem legal_ok {r : Except Nat Instr} {i : Instr} (h : legal r = .ok i) : r = .ok i ∧ illegal i = none := by
  unfold legal at h
  split at h
  · cases h
  · split at h <;> cases h
    exact ⟨rfl, ‹_›⟩

/-- What a decoder answers has a word of its slot, whose own bits are legal. -/
theorem legal_word {slot : Nat} {r : Except Nat Instr} {i : Instr} (hr : InSlot slot r) (h : legal r = .ok i) :
    wordSlot i = some slot ∧ illegal i = none := by
  obtain ⟨parsed, fits⟩ := legal_ok h
  exact ⟨hr i parsed, fits⟩

theorem decodeS_word {w : W32} {i : Instr} (h : decodeS w = .ok i) : wordSlot i = some 0 ∧ illegal i = none :=
  legal_word (inSlot_parseS _) h

theorem decodeV_word {w : W64} {i : Instr} (h : decodeV w = .ok i) : wordSlot i = some 1 ∧ illegal i = none :=
  legal_word (inSlot_parseV _ _) h

theorem decodeM_word {w : W64} {i : Instr} (h : decodeM w = .ok i) : wordSlot i = some 3 ∧ illegal i = none :=
  legal_word ((inSlot_ite ..).mpr ⟨fun _ => inSlot_parseM _ _, fun _ => inSlot_error 3 2⟩) h

theorem decodeC_word {w : W64} {i : Instr} (h : decodeC w = .ok i) : wordSlot i = some 4 ∧ illegal i = none :=
  legal_word (inSlot_parseC _ _) h

/-! ## A bundle of one slot -/

/-- Counting the errors of a read changes no more than counters of one agent. -/
theorem countErr_cases (s : State) (a ce ue : Nat) :
    countErr s a ce ue = s ∨ ∃ g, countErr s a ce ue = modCore s g (fun c => bumpSat (bumpSat c 0xC0 ce) 0xC1 ue) := by
  unfold countErr
  split_ifs
  · exact .inl rfl
  · exact .inr ⟨_, rfl⟩
  · exact .inr ⟨_, rfl⟩
  · exact .inr ⟨_, rfl⟩
  · exact .inl rfl

@[simp] theorem modCore_cur (s : State) (g : Agent) (f : Core → Core) : (modCore s g f).cur = s.cur := by cases g <;> rfl

theorem modCore_unit_pc (s : State) (g : Agent) (f : Core → Core) (hf : ∀ c, (f c).pc = c.pc) (k : Nat) :
    (getUnit (modCore s g f) k).core.pc = (getUnit s k).core.pc := by
  cases g with
  | lantern m => rfl
  | unit j =>
    simp only [modCore, getUnit_modUnit]
    split
    · next e => rw [hf, e]
    · rfl

@[simp] theorem countErr_cur (s : State) (a ce ue : Nat) : (countErr s a ce ue).cur = s.cur := by
  rcases countErr_cases s a ce ue with h | ⟨g, h⟩ <;> simp [h]

theorem countErr_unit_pc (s : State) (a ce ue k : Nat) : (getUnit (countErr s a ce ue) k).core.pc = (getUnit s k).core.pc := by
  rcases countErr_cases s a ce ue with h | ⟨g, h⟩ <;> rw [h]
  exact modCore_unit_pc s g (fun c => bumpSat (bumpSat c 0xC0 ce) 0xC1 ue) (fun _ => rfl) k

@[simp] theorem touchChip_cur (s : State) (a n : Nat) : (touchChip s a n).cur = s.cur := countErr_cur ..

@[simp] theorem touchChip_unit_pc (s : State) (a n k : Nat) : (getUnit (touchChip s a n) k).core.pc = (getUnit s k).core.pc :=
  countErr_unit_pc ..

/-- Bytes of a bundle that holds one word, in this slot (R144). -/
def soloLen (slot : Nat) : Nat := if slot = 0 then 8 else 12

/-- A header that names one slot: a bundle of that slot's word and nothing else (R144). -/
theorem bundleOf_solo (addr slot : Nat) (y : List Byte) (hs : slot < 5) (h : wordAt y 0 = 2 ^ slot) :
    bundleOf addr y = ⟨addr, soloLen slot, false, 0, [], none, [slotOf y (slot, 1)]⟩ := by
  unfold bundleOf
  rw [h]
  interval_cases slot <;> rfl

/-- A unit that issues, past its first bundle and with no poison in this one, runs the bundle its bytes spell (R145). -/
theorem execBundleIssue_runs {s : State} {k : Nat} {n : Inst} {d : Bun} (hk : s.arg.k.toNat = k) (hn : (getUnit s k).inst = some n)
    (hf : n.first = false) (hi : issues s k = true) (clean : ∀ x ∈ fetchBundle s k, x.2 = false)
    (hd : bundleOf (getUnit s k).core.pc ((fetchBundle s k).map Prod.fst) = d) (whole : d.len ≤ (fetchBundle s k).length) :
    execBundleIssue s = .next (bunRun (bundleFound s k) k d (unitLink (bundleFound s k) k (codeAddr ((getUnit s k).core.pc + d.len)))) := by
  have unpoisoned : (fetchBundle s k).any (fun p => p.2) = false := by simpa using clean
  unfold execBundleIssue
  simp only [hk, hn, hi, unpoisoned, hf, hd, Nat.not_lt.mpr whole]
  rfl

/-- A one-slot bundle of a word that decodes to `i` comes to `i` alone in that slot, once its fetch has met its errors (R144, R145). -/
theorem exec_bundleIssue_solo {s : State} {k : UnitIx} {n : Inst} {i : Instr} {slot : Nat} (hcur : s.cur = .unit k) (hk : s.arg.k = k)
    (hn : (getUnit s k.toNat).inst = some n) (hf : n.first = false) (hi : issues s k.toNat = true)
    (clean : ∀ x ∈ fetchBundle s k.toNat, x.2 = false) (hlen : (fetchBundle s k.toNat).length = soloLen slot) (hs : slot < 5)
    (header : wordAt ((fetchBundle s k.toNat).map Prod.fst) 0 = 2 ^ slot)
    (word : slotOf ((fetchBundle s k.toNat).map Prod.fst) (slot, 1) = slotIn slot (.ok i)) (hw : wordSlot i = some slot ∧ illegal i = none) :
    exec .bundleIssue s = exec i (bundleFound s k.toNat) := by
  obtain ⟨f, meaning, runs⟩ := exec_word hw.1
  have solo : slotIn slot (.ok i) = ⟨slot, none, f⟩ := by simp [slotIn, meaning]
  have issued := execBundleIssue_runs (congrArg _ hk) hn hf hi clean (bundleOf_solo _ slot _ hs header) hlen.ge
  have pc : (getUnit (bundleFound s k.toNat) k.toNat).core.pc = (getUnit s k.toNat).core.pc := touchChip_unit_pc ..
  have cur : (bundleFound s k.toNat).cur = .unit k := (touchChip_cur ..).trans hcur
  calc exec .bundleIssue s
    _ = _ := issued
    _ = runOne i slot f (bundleFound s k.toNat) := by
      simp only [runOne, cur, pc, word, solo, hw.2, soloLen]
    _ = exec i (bundleFound s k.toNat) := (runs _).symm

/-! ## The turns of a step -/

/-- A core runs in its turn where its program does and neither its job has ended nor the module switches (R3). -/
theorem lanRuns_turn {s : State} {m : ClusterIx} (r : List Turn) (on : (getCl s m.toNat).lan.on = true) (live : s.chip.ended = none)
    (unfrozen : s.cp.switch = none) : lanRuns { s with agenda := r, cur := .lantern m } m.toNat = true := by
  have on' : (getCl { s with agenda := r, cur := .lantern m } m.toNat).lan.on = true := on
  simp [lanRuns, ended, frozen, on', live, unfrozen]

/-- The turn of a core that runs, where its fetch finds an instruction (R44). -/
theorem step_lantern_ok {s t : State} {m : ClusterIx} {r : List Turn} {i : Instr} (ha : s.agenda = .lantern m :: r)
    (ht : { s with agenda := r, cur := .lantern m } = t) (runs : lanRuns t m.toNat = true) (fetched : lanFetch t m.toNat = .ok i) :
    step s = keepTime s (exec i (wordFound t m.toNat)) := by
  unfold step
  simp [ha, ht, runs, fetched]

/-- The turn of a core that runs, where its fetch traps (R44, R176). -/
theorem step_lantern_error {s t : State} {m : ClusterIx} {r : List Turn} {c : Nat × Nat} (ha : s.agenda = .lantern m :: r)
    (ht : { s with agenda := r, cur := .lantern m } = t) (runs : lanRuns t m.toNat = true) (failed : lanFetch t m.toNat = .error c) :
    step s = keepTime s (.next (fetchTrap (wordFound t m.toNat) m.toNat c)) := by
  unfold step
  simp [ha, ht, runs, failed]

/-- The turn of a core that does not run passes with no effect (R3). -/
theorem step_lantern_idle {s : State} {m : ClusterIx} {r : List Turn} (ha : s.agenda = .lantern m :: r)
    (idle : lanRuns { s with agenda := r, cur := .lantern m } m.toNat = false) : step s = .next { s with agenda := r, cur := .lantern m } := by
  unfold step
  simp [ha, idle]

/-- A fetch of an aligned word inside the code store, with no poison, answers what the word decodes to (R44). -/
theorem lanFetch_ok {s : State} {m : Nat} {i : Instr} (aligned : (getCl s m).lan.core.pc % 4 = 0)
    (inside : (getCl s m).lan.core.pc + 4 ≤ codeSize) (clean : ∀ x ∈ lanCode s m (getCl s m).lan.core.pc 4, x.2 = false)
    (word : decodeS (BitVec.ofNat 32 (ofBytes ((lanCode s m (getCl s m).lan.core.pc 4).map Prod.fst))) = .ok i) : lanFetch s m = .ok i := by
  have unpoisoned : (lanCode s m (getCl s m).lan.core.pc 4).any (fun p => p.2) = false := by simpa using clean
  unfold lanFetch
  simp [aligned, Nat.not_lt.mpr inside, unpoisoned, word]

/-- A fetch of an aligned word inside the code store meets the errors of its four bytes (R47). -/
theorem wordFound_inside {s : State} {m : Nat} (aligned : (getCl s m).lan.core.pc % 4 = 0) (inside : (getCl s m).lan.core.pc + 4 ≤ codeSize) :
    wordFound s m = touchChip s (codeBase m + (getCl s m).lan.core.pc) 4 := by
  simp [wordFound, aligned, Nat.not_lt.mpr inside]

/-- Settles O54: each kind of turn by what `step` does with it, and the issue of a one-slot bundle by what its slot decodes to. -/
theorem stepRunsDecoded : Obligations.StepRunsDecoded := by
  unfold Obligations.StepRunsDecoded
  refine ⟨?word, ?fetchTrap, ?hop, ?idle, ?event, ?newFclk, ?bundle, fun _ _ => rfl⟩
  case word =>
    intro s m r i ha t l b on live unfrozen aligned inside clean word
    rw [step_lantern_ok ha rfl (lanRuns_turn r on live unfrozen) (lanFetch_ok aligned inside clean word)]
    exact congrArg (fun x => keepTime s (exec i x)) (wordFound_inside aligned inside)
  case fetchTrap =>
    intro s m r c ha t on live unfrozen failed
    exact step_lantern_error ha rfl (lanRuns_turn r on live unfrozen) failed
  case hop =>
    intro s id r ha
    simp [step, ha]
  case idle =>
    intro s m r ha off
    have off' : (getCl { s with agenda := r, cur := .lantern m } m.toNat).lan.on = false := off
    exact step_lantern_idle ha (by simp [lanRuns, off'])
  case event =>
    intro s i a r ha
    simp [step, ha]
  case newFclk =>
    intro s ha
    simp [step, ha]
  case bundle =>
    intro s i n slot hcur k hn hf hi b clean y header word
    have issue := exec_bundleIssue_solo (i := i) (slot := slot) hcur rfl hn hf hi clean
    rcases word with ⟨rfl, hlen, word⟩ | ⟨rfl, hlen, word⟩ | ⟨rfl, hlen, word⟩ | ⟨rfl, hlen, word⟩
    · exact issue hlen (by decide) header (congrArg (slotIn 0) word) (decodeS_word word)
    · exact issue hlen (by decide) header (congrArg (slotIn 1) word) (decodeV_word word)
    · exact issue hlen (by decide) header (congrArg (slotIn 3) word) (decodeM_word word)
    · exact issue hlen (by decide) header (congrArg (slotIn 4) word) (decodeC_word word)

end Sys2Proof.Machine
end

section
/-! PROOFS. The state after reset (spec 00 R3). -/

namespace Sys2Proof.Machine

/-- No unit is listed after reset: each is the idle one. -/
theorem getUnit_reset (k : Nat) : getUnit State.reset k = {} := rfl

/-- No cluster is listed after reset: each is the idle one. -/
theorem getCl_reset (m : Nat) : getCl State.reset m = {} := rfl

/-- A stream that nothing has run holds each CSR at its reset value (R198). -/
theorem rdCsr_idle (n : Nat) : rdCsr {} n = csrReset n := rfl

/-- Counters and the other CSRs below 0x11 reset to 0 (R198). -/
theorem csrReset_low {n : Nat} (h : n < 0x11) : csrReset n = 0 := by
  simp [csrReset, show n ≠ 0x11 ∧ ¬0x20 ≤ n ∧ n ≠ 0x141 ∧ n ≠ 0x150 ∧ n ≠ 0x151 ∧ n ≠ 0x152 by omega]

/-- Every memory after reset is in canonical form, and no job has a saved image. -/
theorem reset_allMemWf : State.memWf State.reset := by
  obtain ⟨hchip, hhbm, hhost⟩ := reset_memWf
  exact ⟨hchip, hhbm, hhost, fun p hp => absurd hp List.not_mem_nil⟩

/-- Settles O60: every part of the state stands at its default, and each CSR at its reset value. -/
theorem resetState : Obligations.ResetState := by
  unfold Obligations.ResetState
  refine ⟨by constructor <;> decide, reset_allMemWf, rfl, rfl, rfl, rfl, rfl, rfl, fun _ => rfl, fun _ _ => rfl, fun m => ?_, fun k => ?_⟩
  · rw [getCl_reset]
    exact ⟨rfl, rfl, rfl, rfl, rfl, rfl⟩
  · rw [getUnit_reset]
    exact ⟨rfl, rfl, fun _ => rfl, rfl, rfl, fun n hn => (rdCsr_idle n).trans (csrReset_low (by omega)), rfl, rfl⟩

end Sys2Proof.Machine
end

section
/-! PROOFS. CSR writes that are events of their own (spec 02 R19, 03 R46, 08 R141). -/

namespace Sys2Proof.Machine

/-- Memory that is the same memory reads the same. -/
theorem AllMemSame.of_eq {s t : State} (hc : t.chip.mem = s.chip.mem := by simp) (hh : t.hbm = s.hbm := by simp)
    (ho : t.host = s.host := by simp) : AllMemSame s t := by
  refine ⟨fun i => ?_, fun i => ?_, fun i => ?_⟩
  · rw [hc]; exact ⟨rfl, rfl⟩
  · rw [hh]; exact ⟨rfl, rfl⟩
  · rw [ho]; exact ⟨rfl, rfl⟩

/-- The address of a range register has its own writable bits (R197). -/
theorem csrMap_rangeAddress {n : Nat} (lo : 0x100 ≤ n) (hi : n ≤ 0x12F) (third : (n - 0x100) % 3 = 2) :
    csrMap n = some (.r, .rw, 0xFFFFFFFFFFFFE0F8) := by
  unfold csrMap
  simp [show ∀ k, k < 0x100 → n ≠ k from fun k hk => by omega, show ¬ n ≤ 2 by omega, show ¬ n ≤ 0x2F by omega, show ¬ n ≤ 0x3F by omega,
    show ¬ n ≤ 0x7F by omega, show ¬ n ≤ 0x83 by omega, show ¬ n ≤ 0xB3 by omega, lo, hi, third]

/-- A plain write of a CSR leaves the other CSRs. -/
theorem rdCsr_csrPlain (c : Core) (n j : Nat) (v : W64) :
    rdCsr (csrPlain c n v) j =
      if j = n then (rdCsr c n &&& ~~~BitVec.ofNat 64 (((csrMap n).map (fun x => x.2.2)).getD 0)) ||| (v &&& BitVec.ofNat 64 (((csrMap n).map (fun x => x.2.2)).getD 0))
      else rdCsr c j := rdCsr_wrCsr ..

/-- The write of a range register's address commits the staged base and limit with it (R19). -/
theorem getCl_rangeCommit (s : State) (m n : Nat) (v : W64) :
    (getCl (rangeCommit s m n v) m).lan.core =
      csrPlain (wrCsr (wrCsr (getCl s m).lan.core (n - 2) (sget (rdCsr (getCl s m).lan.core (n - 2)) (getCl s m).lan.stage (n - 2)))
        (n - 1) (sget (rdCsr (getCl s m).lan.core (n - 1)) (getCl s m).lan.stage (n - 1))) n v := by
  simp [rangeCommit]

/-- The count of a key that a filter of keys keeps or drops. -/
theorem sget_filter_key {α : Type} (d : α) (m : SMap α) (keep : Nat → Bool) (k : Nat) :
    sget d (m.filter (fun p => keep p.1)) k = if keep k then sget d m k else d := by
  induction m with
  | nil => simp [sget]
  | cons p r ih =>
    obtain ⟨j, v⟩ := p
    by_cases hj : keep j <;> by_cases e : j = k
    · subst e; simp [sget, hj]
    · simp [sget, hj, e, ih]
    · subst e; simp [hj, ih]
    · simp [sget, hj, e, ih]

/-- A bit of a field is a bit of the number. -/
theorem bit_bits (x w i : Nat) (h : i < w) : bit (bits x 0 w) i = bit x i := by
  simp only [bit, bits, pow_zero, Nat.div_one]
  rw [show w = i + (w - i) by omega, pow_add, Nat.mod_mul_right_div_self]
  rw [show w - i = (w - i - 1) + 1 by omega, pow_succ', Nat.mod_mul_right_mod]

/-- Settles O10: each event by the one update it makes. -/
theorem csrWriteEvents : Obligations.CsrWriteEvents := by
  unfold Obligations.CsrWriteEvents
  intro s
  refine ⟨?stage, ?commit, ?hist, ?tile⟩
  case stage =>
    intro lo hi third m
    refine ⟨rangeStage s m s.arg.n s.arg.v, ?_, ?_, ?_, fun _ => rfl, .of_eq rfl rfl rfl⟩
    · exact congrArg Host.Outcome.next (if_pos ⟨lo, hi, third⟩)
    · simp [rangeStage]
    · simp [rangeStage]
  case commit =>
    intro lo hi third m c n
    refine ⟨rangeCommit s m n s.arg.v, ?_, ?_, ?_, ?_, fun j h0 h1 h2 => ?_, fun _ => rfl, .of_eq rfl rfl rfl⟩
    · exact congrArg Host.Outcome.next (if_pos ⟨lo, hi, third⟩)
    all_goals rw [getCl_rangeCommit, rdCsr_csrPlain, csrMap_rangeAddress lo hi third]
    · simp [rdCsr_wrCsr, n, show s.arg.n ≠ s.arg.n - 1 by omega, show s.arg.n ≠ s.arg.n - 2 by omega, c]
    · simp [rdCsr_wrCsr, n, show s.arg.n - 1 ≠ s.arg.n by omega, c]
    · simp [rdCsr_wrCsr, n, show s.arg.n - 2 ≠ s.arg.n by omega, show s.arg.n - 2 ≠ s.arg.n - 1 by omega, c]
    · simp [rdCsr_wrCsr, h0, h1, h2, c]
  case hist =>
    intro k
    refine ⟨_, rfl, fun set hs bin hb => ?_, by simp [histClear, k], .of_eq rfl rfl rfl⟩
    simp only [k, getUnit_modUnit_self, histClear]
    rw [sget_filter_key 0 _ (fun j => !bit (bits s.arg.v.toNat 0 4) (j / 64)), show (64 * set + bin) / 64 = set by omega, bit_bits _ _ _ hs]
    cases bit s.arg.v.toNat set <;> simp
  case tile =>
    intro k j free
    refine ⟨modUnit s k (fun u => tileWrite u j s.arg.v.toNat), ?_, ?_, fun i hi => ?_, ?_, .of_eq rfl rfl rfl⟩
    · exact congrArg Host.Outcome.next (if_neg (by simpa using free))
    · simp [tileWrite, bits]
    · simp [tileWrite, hi]
    · simp [tileWrite]

end Sys2Proof.Machine
end

section
/-! PROOFS. Traps and the return from them (spec 09 R158, 11 R201, R202, 17 R314, R315). -/

namespace Sys2Proof.Machine

/-! ## Trace, control and delivery -/

/-- An agent that is not traced leaves no record (R330). -/
theorem traceRec_untraced {s t : State} {g : Agent} (h : traced s g = false) (ty a b : Nat)
    (same : t.chip.trace = s.chip.trace := by simp) :
    traceRec t g ty a b = t := by
  have h' : traced t g = false := by simpa only [traced, same] using h
  simp [traceRec, h']

/-- trap.npc of a trap: the transfer that was pending, marked so (R200, R201). -/
def npcOf (pending : Option Nat) : W64 :=
  match pending with
  | none => 0
  | some t => BitVec.ofNat 64 (2 ^ 63 + bits t 2 19 * 4)

/-- The trap CSRs after delivery, and every other CSR (R201). -/
theorem rdCsr_deliver (c : Core) (cause slot : Nat) (val : W64) (resume : Nat) (pending : Option Nat) (n : Nat) :
    rdCsr (deliver c cause slot val resume pending) n =
      if n = 0xA3 then npcOf pending
      else if n = 0xA2 then BitVec.ofNat 64 (bits resume 2 19 * 4)
      else if n = 0xA4 then val
      else if n = 0xA1 then BitVec.ofNat 64 (2 ^ 31 + slot * 256 + cause)
      else rdCsr c n := by
  have frame : ∀ (x : Core) (pc : Nat), rdCsr { x with pc := pc, delay := none } n = rdCsr x n := fun _ _ => rfl
  simp only [deliver, frame, rdCsr_wrCsr]
  rfl

/-- A delivered trap goes to the handler's first word (R201). -/
theorem deliver_pc (c : Core) (cause slot : Nat) (val : W64) (resume : Nat) (pending : Option Nat) :
    (deliver c cause slot val resume pending).pc = (rdCsr c 0xA0).toNat / 4 % 2 ^ 19 * 4 := rfl

@[simp] theorem deliver_delay (c : Core) (cause slot : Nat) (val : W64) (resume : Nat) (pending : Option Nat) :
    (deliver c cause slot val resume pending).delay = none := rfl

theorem codeAddr_afterWord (a : Nat) : codeAddr ((a : Int) + 4) = (a + 4) % 2 ^ 21 := by
  unfold codeAddr wrap
  norm_cast

theorem codeAddr_afterBundle (a : Nat) : codeAddr ((a : Int) + 8) = (a + 8) % 2 ^ 21 := by
  unfold codeAddr wrap
  norm_cast

/-- The stream that runs, after a change of its Lantern core. -/
theorem here_modLan {s : State} {m : ClusterIx} (cur : s.cur = .lantern m) (f : Lan → Lan) : here (modLan s m.toNat f) = (f (getCl s m.toNat).lan).core := by
  simp [here, cur, getCore]

/-- The stream that runs, after a change of its unit. -/
theorem here_modUnit {s : State} {k : UnitIx} (cur : s.cur = .unit k) (f : Unit → Unit) : here (modUnit s k.toNat f) = (f (getUnit s k.toNat)).core := by
  simp [here, cur, getCore]

/-! ## What a free word may assume -/

/-- A bundle with a case of R158 in one of its slots breaks a case. -/
theorem firstCase_isSome {l : List (Nat × Nat)} {n j : Nat} (h : (n, j) ∈ l) (hn : n < 9) (hj : j < 6) : (firstCase l).isSome = true := by
  simp only [firstCase, List.findSome?_isSome_iff, List.mem_range, List.find?_isSome]
  exact ⟨j, hj, n, hn, (n, j), h, by simp⟩

/-- An instruction that runs to its effect is in no delay slot if it transfers (R158 case 6), and in handler mode if it is ERET (case 7). -/
theorem wordFree_transfer {s : State} {i : Instr} {o : SlotOut} (h : wordFree s i 0 o = true) :
    (o.xfer = true → (here s).delay = none) ∧ (o.ctl = .eret → hm (here s) = true) := by
  unfold wordFree at h
  rcases hc : s.cur with m | k <;> simp only [hc, Bool.and_eq_true] at h <;> obtain ⟨-, free⟩ := h
  · simp only [lanFree, Bool.and_eq_true, Bool.not_eq_true', Bool.and_eq_false_iff] at free
    obtain ⟨⟨⟨⟨-, noDelay⟩, handler⟩, -⟩, -⟩ := free
    exact ⟨fun hx => by simpa [here, hc, getCore, hx] using noDelay, fun he => by simpa [here, hc, getCore, he] using handler⟩
  · simp only [soloFree, Bool.and_eq_true] at free
    obtain ⟨⟨noCase, -⟩, -⟩ := free
    have lawful : ∀ n < 9, (n, 0) ∉ bunCases (getUnit s k.toNat) (soloBundle (getUnit s k.toNat) 0 ⟨0, none, fun _ => o⟩) [(⟨0, none, fun _ => o⟩, o)] := by
      intro n hn mem
      have broken := firstCase_isSome mem hn (by norm_num)
      rw [Option.isNone_iff_eq_none] at noCase
      simp [noCase] at broken
    constructor
    · intro hx
      by_contra hd
      exact lawful 6 (by norm_num) (by simp [bunCases, hx, Option.isSome_iff_ne_none.mpr (show (getUnit s k.toNat).core.delay ≠ none by simpa [here, hc, getCore] using hd)])
    · intro he
      by_contra hh
      exact lawful 7 (by norm_num) (by simp [bunCases, he, show hm (getUnit s k.toNat).core = false by simpa [here, hc, getCore] using hh])

/-! ## TRAP and ERET that run -/

/-- A stream whose word has issued, before control goes on (R145, R184). -/
def issuedCore (c : Core) : Core := bump { c with tw := none } 1 1

theorem rdCsr_issuedCore (c : Core) {n : Nat} (h : n ≠ 1) : rdCsr (issuedCore c) n = rdCsr c n := by
  simp only [issuedCore, rdCsr_bump, h, if_false]
  rfl

/-- A Lantern core whose word has issued with no effect of its own. -/
def lanIssued (s : State) (m : Nat) : State :=
  modLan (modLan s m (fun l => { l with core := { l.core with tw := none }, stall := 0, wait := none, ans := none })) m
    (fun l => { l with core := bump l.core 1 1 })

/-- A unit whose one-slot bundle has issued with no effect of its own. -/
def unitIssued (s : State) (k : Nat) (o : SlotOut) : State := soloEnd (soloStart (soloNamed s k 0 o) k o) k

theorem lanIssued_core (s : State) (m : Nat) : (getCl (lanIssued s m) m).lan.core = issuedCore (getCl s m).lan.core := by
  simp [lanIssued, issuedCore]

theorem unitIssued_core (s : State) (k : Nat) (o : SlotOut) : (getUnit (unitIssued s k o) k).core = issuedCore (getUnit s k).core := by
  simp [unitIssued, soloEnd, soloStart, soloNamed, issuedCore]

@[simp] theorem lanIssued_mem (s : State) (m : Nat) : (lanIssued s m).chip.mem = s.chip.mem := rfl
@[simp] theorem lanIssued_hbm (s : State) (m : Nat) : (lanIssued s m).hbm = s.hbm := rfl
@[simp] theorem lanIssued_host (s : State) (m : Nat) : (lanIssued s m).host = s.host := rfl
@[simp] theorem lanIssued_cur (s : State) (m : Nat) : (lanIssued s m).cur = s.cur := rfl
@[simp] theorem lanIssued_traced (s : State) (m : Nat) (g : Agent) : traced (lanIssued s m) g = traced s g := rfl
@[simp] theorem unitIssued_mem (s : State) (k : Nat) (o : SlotOut) : (unitIssued s k o).chip.mem = s.chip.mem := rfl
@[simp] theorem unitIssued_hbm (s : State) (k : Nat) (o : SlotOut) : (unitIssued s k o).hbm = s.hbm := rfl
@[simp] theorem unitIssued_host (s : State) (k : Nat) (o : SlotOut) : (unitIssued s k o).host = s.host := rfl
@[simp] theorem unitIssued_cur (s : State) (k : Nat) (o : SlotOut) : (unitIssued s k o).cur = s.cur := rfl
@[simp] theorem unitIssued_traced (s : State) (k : Nat) (o : SlotOut) (g : Agent) : traced (unitIssued s k o) g = traced s g := rfl

/-- A Lantern word with no effect of its own is control going on (R184). -/
theorem lanDid_noEffect (s : State) (m : Nat) (ctl : Ctl) :
    lanDid s m { xfer := true, ctl := ctl } = lanControl (lanIssued s m) m (getCl s m).lan.core.pc ctl := rfl

/-- A one-slot bundle with no effect of its own is control going on (R145). -/
theorem unitDid_noEffect (s : State) (k : Nat) (ctl : Ctl) : let o : SlotOut := { xfer := true, ctl := ctl }
    unitDid s k 0 o = bunControl (unitIssued s k o) k (soloBundle (getUnit s k) 0 ⟨0, none, fun _ => o⟩) ctl :=
  unitDid_eq s k 0 _ rfl rfl

/-- A trap of a Lantern word that its handler takes (R201). -/
theorem lanTrap_handled {s : State} {m : Nat} (en : trapEn (getCl s m).lan.core = true) (user : hm (getCl s m).lan.core = false)
    (untraced : traced s (.lantern (BitVec.ofNat 5 m)) = false) (cause val resume : Nat) (pending : Option Nat) :
    lanTrap s m cause val resume pending = modLan s m (fun l => { l with
      core := deliver { l.core with tw := none, after := none } cause 0 (BitVec.ofNat 64 val) resume pending
      stall := 0, wait := none, ans := none, trapUnit := none }) := by
  unfold lanTrap
  simp only [en, user, Bool.not_false, Bool.and_self, if_true]
  exact traceRec_untraced untraced ..

/-- TRAP of a unit that its handler takes (R201, R202). -/
theorem bunControl_trap_handled {s : State} {k : Nat} {b : Bun} (straight : b.loopend = false) (delay : (getUnit s k).core.delay = none)
    (en : trapEn (getUnit s k).core = true) (user : hm (getUnit s k).core = false) (untraced : traced s (.unit (BitVec.ofNat 8 k)) = false) (code : Nat) :
    let next := codeAddr (b.addr + b.len)
    bunControl s k b (.trap code) = modUnit s k (fun u => { u with
      core := deliver { u.core with pc := next, after := none } cTrap 0 (BitVec.ofNat 64 code) next none }) := by
  have gone : goOn (getUnit s k).core (codeAddr (b.addr + b.len)) = { (getUnit s k).core with pc := codeAddr (b.addr + b.len), after := none } := by
    simp [goOn, delay]
  unfold bunControl
  simp only [straight, gone, Bool.false_and, Bool.false_eq_true, if_false]
  rw [if_pos (by simpa [trapEn, hm] using ⟨en, user⟩)]
  exact traceRec_untraced untraced ..

/-- ERET of an untraced agent leaves the handler, its targets pending past the next word (R202). -/
def returned (c : Core) (next : Nat) : Core :=
  { (trapReturn c).1 with pc := next, delay := some (trapReturn c).2.1, after := (trapReturn c).2.2 }

/-- A return clears the mode bit and leaves every other CSR (R202). -/
theorem rdCsr_returned (c : Core) (next n : Nat) : rdCsr (returned c next) n = if n = 0xA1 then rdCsr c 0xA1 &&& 0x7FF else rdCsr c n :=
  rdCsr_wrCsr c 0xA1 n _

theorem lanControl_eret {s : State} {m addr : Nat} (untraced : traced s (.lantern (BitVec.ofNat 5 m)) = false) :
    lanControl s m addr .eret = modLan s m (fun l => { l with core := returned (getCl s m).lan.core (codeAddr (addr + 4)) }) := by
  exact traceRec_untraced untraced ..

theorem bunControl_eret {s : State} {k : Nat} {b : Bun} (untraced : traced s (.unit (BitVec.ofNat 8 k)) = false) :
    bunControl s k b .eret = modUnit s k (fun u => { u with core := returned (getUnit s k).core (codeAddr (b.addr + b.len)) }) := by
  exact traceRec_untraced untraced ..

/-- The address of the next word (R44). -/
def nextAddr (s : State) : Nat := ((here s).pc + wordLen s) % 2 ^ 21

theorem trapEn_issuedCore (c : Core) : trapEn (issuedCore c) = trapEn c := by
  simp [trapEn, rdCsr_issuedCore]

theorem hm_issuedCore (c : Core) : hm (issuedCore c) = hm c := by
  simp [hm, rdCsr_issuedCore]

/-- A word outside a delay slot goes on to the next one (R150). -/
theorem goOn_noDelay {c : Core} (h : c.delay = none) (next : Nat) : goOn c next = { c with pc := next, after := none } := by
  simp [goOn, h]

/-- TRAP of a Lantern core with a handler (R201, R202). -/
theorem lanControl_trap_handled {s : State} {m addr : Nat} (delay : (getCl s m).lan.core.delay = none) (en : trapEn (getCl s m).lan.core = true)
    (user : hm (getCl s m).lan.core = false) (untraced : traced s (.lantern (BitVec.ofNat 5 m)) = false) (code : Nat) :
    let next := codeAddr (addr + 4)
    lanControl s m addr (.trap code) = modLan (modLan s m (fun l => { l with core := goOn l.core next })) m (fun l => { l with
      core := deliver { l.core with tw := none, after := none } cTrap 0 (BitVec.ofNat 64 code) next none
      stall := 0, wait := none, ans := none, trapUnit := none }) := by
  have en' : trapEn (goOn (getCl s m).lan.core (codeAddr (addr + 4))) = true := by simpa [trapEn] using en
  have user' : hm (goOn (getCl s m).lan.core (codeAddr (addr + 4))) = false := by simpa [hm] using user
  have handled := fun (t : State) (e : getCl t m = getCl (modLan s m (fun l => { l with core := goOn l.core (codeAddr (addr + 4)) })) m)
      (u : traced t (.lantern (BitVec.ofNat 5 m)) = false) (resume : Nat) =>
    lanTrap_handled (s := t) (m := m) (by simpa [e] using en') (by simpa [e] using user') u cTrap code resume none
  refine (handled _ rfl untraced _).trans ?_
  simp [goOn_noDelay delay]

/-- TRAP with a handler leaves the stream there, past its word (R201, R202). -/
theorem wordDid_trap {s : State} {i : Instr} {code : Nat} (free : wordFree s i 0 { xfer := true, ctl := .trap code } = true)
    (untraced : traced s s.cur = false) (en : trapEn (here s) = true) (user : hm (here s) = false) :
    let t := wordDid s 0 { xfer := true, ctl := .trap code }
    here t = deliver { issuedCore (here s) with pc := nextAddr s, after := none } cTrap 0 (BitVec.ofNat 64 code) (nextAddr s) none ∧ AllMemSame s t := by
  have delay := (wordFree_transfer free).1 rfl
  unfold wordDid nextAddr wordLen onLan
  rcases hc : s.cur with m | k <;> simp only [here, hc, getCore] at delay en user untraced ⊢
  · have core := lanIssued_core s m.toNat
    rw [lanDid_noEffect, lanControl_trap_handled (by rw [core]; exact delay) (by rw [core, trapEn_issuedCore]; exact en)
      (by rw [core, hm_issuedCore]; exact user) (by simpa using untraced)]
    refine ⟨?_, .of_eq⟩
    simp [hc, core, goOn_noDelay (show (issuedCore (getCl s m.toNat).lan.core).delay = none from delay), codeAddr_afterWord]
    rfl
  · rw [unitDid_noEffect]
    have core := unitIssued_core s k.toNat { xfer := true, ctl := .trap code }
    rw [bunControl_trap_handled rfl (by rw [core]; exact delay) (by rw [core, trapEn_issuedCore]; exact en) (by rw [core, hm_issuedCore]; exact user)
      (by simpa using untraced)]
    refine ⟨?_, .of_eq⟩
    simp [hc, core, soloBundle, codeAddr_afterBundle]

/-- ERET in handler mode leaves the handler, its targets pending past the next word (R202). -/
theorem wordDid_eret {s : State} (untraced : traced s s.cur = false) :
    let t := wordDid s 0 { xfer := true, ctl := .eret }
    here t = returned (issuedCore (here s)) (nextAddr s) ∧ AllMemSame s t := by
  unfold wordDid nextAddr wordLen onLan
  rcases hc : s.cur with m | k <;> simp only [here, hc, getCore] at untraced ⊢
  · rw [lanDid_noEffect, lanControl_eret (by simpa using untraced)]
    refine ⟨?_, .of_eq⟩
    simp [hc, lanIssued_core, codeAddr_afterWord]
  · rw [unitDid_noEffect, bunControl_eret (by simpa using untraced)]
    refine ⟨?_, .of_eq⟩
    simp [hc, unitIssued_core, soloBundle, codeAddr_afterBundle]

/-! ## ERET outside handler mode -/

/-- A Lantern word takes its trap where it stands (R176, R268). -/
theorem lanRun_traps {s : State} {m cause val : Nat} {own : Option Nat} {sem : Sem} (h : lanCause s m own (lanOut s m sem) = some (cause, val))
    (noFinds : (lanOut s m sem).finds = []) :
    lanRun s m own sem = lanTrap s m cause val (getCl s m).lan.core.pc (getCl s m).lan.core.delay := by
  unfold lanRun
  simp [h, noFinds]

/-- A trap that no handler takes ends the graph program and the job (R315, R362). -/
theorem lanTrap_unhandled {s : State} {m : Nat} (en : trapEn (getCl s m).lan.core = false)
    (untraced : traced s (.lantern (BitVec.ofNat 5 m)) = false) (cause val resume : Nat) (pending : Option Nat) :
    lanTrap s m cause val resume pending =
      endJob (modLan s m (fun l => { l with core := noteTrap l.core cause 0 val resume pending false, on := false })) (endVal cause (bits resume 0 21) m 0) := by
  unfold lanTrap
  simp only [en, Bool.false_and, Bool.false_eq_true, if_false]
  exact traceRec_untraced untraced _ _ _ (by simp [endJob, modChip])

theorem getCl_endJob (s : State) (v : W64) (m : Nat) : getCl (endJob s v) m = getCl s m := rfl

/-- A unit's trap that is not delivered in the unit, of an agent that is not traced (R159, R314). -/
theorem unitTrap_untraced {s : State} {k : Nat} (untraced : traced s (.unit (BitVec.ofNat 8 k)) = false) (cause slot val addr : Nat) (dfr : Bool) :
    unitTrap s k cause slot val addr dfr = modUnit s k (fun u => { stopMx u with
      core := noteTrap { u.core with tw := none } cause slot val u.core.pc u.core.delay dfr
      owed := none
      stop := some ⟨cause, slot, addr, dfr, false⟩ }) := by
  dsimp only [unitTrap]
  exact traceRec_untraced untraced ..

/-- The trap CSRs of a trap outside handler mode that is not delivered (R312, R314). -/
theorem rdCsr_noteTrap {c : Core} (user : hm c = false) (cause slot val resume : Nat) (pending : Option Nat) (dfr : Bool) :
    rdCsr (noteTrap c cause slot val resume pending dfr) 0xA1 = BitVec.ofNat 64 (slot * 256 + cause) ∧
    rdCsr (noteTrap c cause slot val resume pending dfr) 0xA4 = BitVec.ofNat 64 val := by
  simp [noteTrap, user, rdCsr_wrCsr]

@[simp] theorem rdS_noteTrap (c : Core) (cause slot val resume : Nat) (pending : Option Nat) (dfr : Bool) (r : Nat) :
    rdS (noteTrap c cause slot val resume pending dfr) r = rdS c r := by
  unfold noteTrap
  split <;> rfl

/-- ERET outside handler mode, in a unit with no transfer pending, breaks case 7 and no case before it (R158, R202). -/
theorem firstCase_eret {u : Unit} {b : Bun} {x : SlotIn} (user : hm u.core = false) (delay : u.core.delay = none) (lawful : b.bad = none)
    (straight : b.loopend = false) (inside : b.addr + b.len ≤ codeSize) (aligned : b.addr % 4 = 0) (own : x.own = none) (slot : x.slot = 0) :
    firstCase (bunCases u b [(x, { xfer := true, ctl := .eret })]) = some (7, 0) := by
  have cases : bunCases u b [(x, { xfer := true, ctl := .eret })] = [(7, 0)] := by
    simp [bunCases, lawful, straight, own, slot, delay, user, clash, Nat.not_lt.mpr inside, aligned]
  rw [cases]
  rfl

/-- A bundle that breaks a case of R158 stops its unit with it. -/
theorem bunRun_illegal {s : State} {k n slot link : Nat} {b : Bun} (h : firstCase (bunCases (getUnit s k) b (bunOuts s k b link)) = some (n, slot)) :
    bunRun s k b link = unitTrap s k cIllegal slot n b.addr false := by
  unfold bunRun
  simp [h]

/-- ERET outside handler mode in a unit (R158 case 7, R314). -/
theorem exec_eret_unit {s : State} {k : UnitIx} (cur : s.cur = .unit k) (user : hm (getUnit s k.toNat).core = false)
    (delay : (getUnit s k.toNat).core.delay = none) (aligned : (getUnit s k.toNat).core.pc % 4 = 0) (inside : (getUnit s k.toNat).core.pc + 8 ≤ codeSize) :
    exec .eret s = .next (unitTrap s k.toNat cIllegal 0 7 (getUnit s k.toNat).core.pc false) := by
  have run : exec .eret s = .next (bunRun s k.toNat ⟨(getUnit s k.toNat).core.pc, 8, false, 0, [], none, [⟨0, none, semEret⟩]⟩
      (unitLink s k.toNat (codeAddr ((getUnit s k.toNat).core.pc + 8)))) := by
    change runOne .eret 0 semEret s = _
    simp [runOne, cur, illegal, form, swBad]
  rw [run, bunRun_illegal]
  exact firstCase_eret user delay rfl rfl inside aligned rfl rfl

/-- ERET outside handler mode on a Lantern core (R176, R202). -/
theorem exec_eret_lantern {s : State} {m : ClusterIx} (cur : s.cur = .lantern m) (user : hm (getCl s m.toNat).lan.core = false) :
    exec .eret s = .next (lanTrap s m.toNat cIllegal 0 (getCl s m.toNat).lan.core.pc (getCl s m.toNat).lan.core.delay) := by
  change runOne .eret 0 semEret s = _
  unfold runOne
  rw [cur]
  exact congrArg _ (lanRun_traps (by simp [lanCause, lanOut, semEret, user]) rfl)

/-! ## A scalar access past the end of the scratchpad -/

/-- The checks and holders of a scalar access that RANGE_MISS stops: it reads `a`, and a store its data too (R189). -/
theorem lanCause_rangeMiss {s : State} {m off : Nat} {o : SlotOut} {holders : List Nat} (bad : o.bad = none) (seq : o.xfer = false) (ctl : o.ctl = .seq)
    (gate : o.gate = holders) (tag : o.tag = false) (fence : o.fence = none) (tw : o.tw = none)
    (chk : o.chk.cause = some (cRange, off)) (clean : ∀ h ∈ holders, hmeta (getCl s m).lan.core h = {}) (noTw : (getCl s m).lan.core.tw = none)
    (noAccs : (getCl s m).lan.accs = []) : lanCause s m none o = some (cRange, off) := by
  have ungated : o.gate.any (tainted (getCl s m).lan.core) = false := by
    simp only [gate, List.any_eq_false]
    intro h hh
    simp [tainted, clean h hh]
  have free : lanHeld s m o = false := by
    simp [lanHeld, lanWaits, noAccs, ungated, lanTw, noTw, tw, tag, fence]
  simp [lanCause, bad, seq, ctl, free, chk]

/-- Scalar loads and stores are legal words that run as a load or a store of `n` bytes (R189). -/
theorem scalarAccess_forms (s : State) (d a : Reg) (imm : BitVec 14) :
    ∀ p ∈ ([(.ldB d a imm, 1), (.ldBu d a imm, 1), (.ldH d a imm, 2), (.ldHu d a imm, 2), (.ldW d a imm, 4), (.ldWu d a imm, 4),
      (.ldD d a imm, 8), (.stB d a imm, 1), (.stH d a imm, 2), (.stW d a imm, 4), (.stD d a imm, 8)] : List (Instr × Nat)),
      illegal p.1 = none ∧ ((∃ ext, exec p.1 s = runOne p.1 0 (loadSem d a imm p.2 ext) s) ∨ exec p.1 s = runOne p.1 0 (storeSem d a imm p.2) s) := by
  simp only [List.forall_mem_cons]
  exact ⟨⟨rfl, .inl ⟨_, rfl⟩⟩, ⟨rfl, .inl ⟨_, rfl⟩⟩, ⟨rfl, .inl ⟨_, rfl⟩⟩, ⟨rfl, .inl ⟨_, rfl⟩⟩, ⟨rfl, .inl ⟨_, rfl⟩⟩, ⟨rfl, .inl ⟨_, rfl⟩⟩,
    ⟨rfl, .inl ⟨_, rfl⟩⟩, ⟨rfl, .inr rfl⟩, ⟨rfl, .inr rfl⟩, ⟨rfl, .inr rfl⟩, ⟨rfl, .inr rfl⟩, fun _ h => absurd h List.not_mem_nil⟩

/-- A scalar access past the end of the cluster scratchpad, with nothing outstanding, traps where it stands (R22, R201). -/
theorem exec_scalarAccess_pastEnd {s : State} {m : ClusterIx} {i : Instr} {d a : Reg} {imm : BitVec 14} {n : Nat} (cur : s.cur = .lantern m)
    (form : illegal i = none ∧ ((∃ ext, exec i s = runOne i 0 (loadSem d a imm n ext) s) ∨ exec i s = runOne i 0 (storeSem d a imm n) s))
    (noTw : (here s).tw = none) (noAccs : (getCl s m.toNat).lan.accs = []) (addr : hmeta (here s) a.toNat = {}) (data : hmeta (here s) d.toNat = {})
    (past : clSize < accessAt s a imm.toInt + n) :
    exec i s = .next (lanTrap s m.toNat cRange (accessAt s a imm.toInt) (here s).pc (here s).delay) := by
  have core : here s = (getCl s m.toNat).lan.core := by simp [here, cur, getCore]
  rw [core] at noTw addr data ⊢
  obtain ⟨legal, ⟨ext, run⟩ | run⟩ := form
  all_goals
    rw [run, runOne, cur]
    rw [legal]
    refine congrArg Host.Outcome.next (lanRun_traps ?_ rfl)
  · refine lanCause_rangeMiss (holders := [a.toNat]) rfl rfl rfl rfl rfl rfl rfl ?_ (by simpa using addr) noTw noAccs
    simp [lanOut, loadSem, needRange, Chk.cause, View.size, View.lan, View.sr, smemOff, wrap, accessAt, reg, core] at past ⊢
    rw [if_neg (by omega)]
  · refine lanCause_rangeMiss (holders := [a.toNat, d.toNat]) rfl rfl rfl rfl rfl rfl rfl ?_ (by simpa using ⟨addr, data⟩) noTw noAccs
    simp [lanOut, storeSem, needRange, Chk.cause, Chk.unless, Chk.and, psnOf, regPsn, hS, addr, data, View.size, View.lan, View.sr, smemOff, wrap,
      accessAt, reg, core] at past ⊢
    rw [if_neg (by omega)]

/-- Settles O7: the word runs or traps, and the trap CSRs are those of `deliver`, `returned` or `noteTrap`. -/
theorem trapEntryAndReturn : Obligations.TrapEntryAndReturn := by
  unfold Obligations.TrapEntryAndReturn
  refine ⟨?trap, ?eret, ?illegal, ?pastEnd⟩
  case trap =>
    intro s c o free untraced en user
    obtain ⟨core, mem⟩ := wordDid_trap free untraced en user
    have addr : nextAddr s / 4 % 2 ^ 19 = nextAddr s / 4 := Nat.mod_eq_of_lt (by unfold nextAddr; omega)
    refine ⟨_, runOne_free _ 0 _ s o rfl free, ?_, ?_, ?_, ?_, ?_, ?_, fun r => ?_, fun n hn hcsr => ?_, mem⟩
    · rw [core, rdCsr_deliver]; rfl
    · rw [core, rdCsr_deliver]
      exact BitVec.eq_of_toNat_eq (by simp)
    · rw [core, rdCsr_deliver]
      exact congrArg (fun x => BitVec.ofNat 64 (x * 4)) addr
    · rw [core, rdCsr_deliver]; rfl
    · rw [core, deliver_pc]
      exact congrArg (fun v : W64 => v.toNat / 4 % 2 ^ 19 * 4) (rdCsr_issuedCore _ (by norm_num))
    · rw [core, deliver_delay]
    · unfold reg; rw [core]; rfl
    · rw [core, rdCsr_deliver]
      simp only [show n ≠ 0xA1 ∧ n ≠ 0xA2 ∧ n ≠ 0xA3 ∧ n ≠ 0xA4 by omega, if_false]
      exact rdCsr_issuedCore _ hn
  case eret =>
    intro s o free untraced
    obtain ⟨core, mem⟩ := wordDid_eret untraced
    have csr := fun n (h : n ≠ 1) => rdCsr_issuedCore (here s) h
    refine ⟨_, runOne_free _ 0 _ s o rfl free, (wordFree_transfer free).2 rfl, ?_, ?_, ?_, ?_, fun r => ?_, fun n hn hcsr => ?_, mem⟩
    · rw [core, rdCsr_returned]
      simp [csr]
    · rw [core]; rfl
    · rw [core]; simp [returned, trapReturn, csr]
    · rw [core]; simp [returned, trapReturn, csr, bits]
    · unfold reg; rw [core]; rfl
    · rw [core, rdCsr_returned, if_neg hcsr, csr n hn]
  case illegal =>
    intro s untraced user en delay
    refine ⟨fun m cur live => ?_, fun k cur aligned inside => ?_⟩
    · have core : here s = (getCl s m.toNat).lan.core := by simp [here, cur, getCore]
      rw [core] at user en ⊢
      refine ⟨_, exec_eret_lantern cur user, ?_, ?_, ?_⟩
      all_goals rw [lanTrap_unhandled en (by simpa [cur] using untraced)]
      · rw [getCl_endJob]; simp
      · simp [endJob, modChip, live, endVal, bits, cIllegal]
      · exact .of_eq rfl rfl rfl
    · have core : here s = (getUnit s k.toNat).core := by simp [here, cur, getCore]
      unfold reg
      rw [core] at user en delay aligned inside ⊢
      refine ⟨_, exec_eret_unit cur user delay aligned inside, ?_, ?_, ?_, fun r => ?_, ?_⟩
      all_goals rw [unitTrap_untraced (by simpa [cur] using untraced)]
      · simp [cIllegal]
      · rw [here_modUnit cur]
        exact (rdCsr_noteTrap (c := { (getUnit s k.toNat).core with tw := none }) user ..).1
      · rw [here_modUnit cur]
        exact (rdCsr_noteTrap (c := { (getUnit s k.toNat).core with tw := none }) user ..).2
      · rw [here_modUnit cur, rdS_noteTrap]; rfl
      · exact .of_eq
  case pastEnd =>
    intro s m d a imm cur untraced en user noTw noAccs addr data p hp past
    have run := exec_scalarAccess_pastEnd cur (scalarAccess_forms s d a imm p hp) noTw noAccs addr data past
    have core : here s = (getCl s m.toNat).lan.core := by simp [here, cur, getCore]
    rw [lanTrap_handled (by rw [← core]; exact en) (by rw [← core]; exact user) (by simpa [cur] using untraced)] at run
    refine ⟨_, run, ?_⟩
    unfold reg
    rw [here_modLan cur]
    dsimp only
    rw [← core]
    refine ⟨?_, ?_, ?_, ?_, rfl, fun r => rfl, fun n hcsr => ?_, .of_eq⟩ <;> rw [rdCsr_deliver]
    · rfl
    · rfl
    · rfl
    · cases (here s).delay <;> rfl
    · simp only [show n ≠ 0xA1 ∧ n ≠ 0xA2 ∧ n ≠ 0xA3 ∧ n ≠ 0xA4 by omega, if_false]
      rfl

end Sys2Proof.Machine
end

section
/-! PROOFS. Accesses of a Lantern core by VA (spec 02 R18, 03 R43, 04 R69, R71, 15 R270 to R272). -/

namespace Sys2Proof.Machine

/-! ## Checks that pass -/

@[simp] theorem chk_empty_and (c : Chk) : Chk.and {} c = c := rfl

@[simp] theorem chk_unless_empty (p : Bool) : Chk.unless p {} = {} := by cases p <;> rfl

theorem needIll_true : needIll true = {} := rfl

theorem vaChk_some (ia va : Nat) : vaChk (some ia) va = {} := rfl

/-! ## Words of a Lantern core -/

@[simp] theorem cur_cl (s : State) : s.cur.cl = hereCl s := rfl

@[simp] theorem psnRegs_view (s : State) (slot : Nat) (l : List Reg) : psnRegs (hereView s slot) l = psnChk s l := by
  simp [psnRegs, psnChk]

@[simp] theorem dr_view (s : State) (slot : Nat) (n : BitVec 4) : (hereView s slot).dr n = dreg s n := by
  simp [View.dr, View.core0, dreg]

@[simp] theorem dPsn_view (s : State) (slot : Nat) (n : BitVec 4) : dPsn (hereView s slot) n = dBad s n := by
  simp [dPsn, dBad, hD]

@[simp] theorem descAddr_view (s : State) (slot : Nat) (a : Reg) (imm : BitVec 14) : descAddr (hereView s slot) a imm = accessAt s a (imm.toInt * 32) := by
  simp [descAddr, accessAt, wrap]

theorem lanOnly_view {s : State} (lan : onLan s = true) (f : Sem) : lanOnly f (hereView s 0) = f (hereView s 0) := by
  simp [lanOnly, lan]

/-- The IA of an access whose VA the range registers translate to a place that the core reaches (R18, R43). -/
theorem reached_some {s : State} {m ia : Nat} {r : Option Nat} (h : r = some ia) (ok : reaches s m false ia = true) : reached s m false r = some ia := by
  simp [reached, h, ok]

section
variable {s : State} {a : Reg} {ia : Nat} (lan : onLan s = true)
include lan

/-- A load by VA asks for its tag and its access (R270, R271). -/
theorem ldgSem_view (op h n : Nat) {va : View → Nat} (reach : reaches s (hereCl s) false ia = true)
    (at1 : translate s (hereCl s) (va (hereView s 0)) n .rd = some ia) :
    ldgSem op h n a va (hereView s 0) = { wr := [h], reads := [a.toNat], gate := [a.toNat], tag := true
                                          eff := fun t => accIssue t (hereCl s) op ia h 0 (if regBad s a then 1 else 0) true } := by
  simp [ldgSem, lanOnly_view lan, reached_some at1 reach, vaChk_some, hS]

/-- A store by VA asks for its access, once neither its address nor its data is poisoned (R111, R270, R271). -/
theorem stgSem_view (op n : Nat) {va x : View → Nat} (h : Nat) (px : View → Chk) (reach : reaches s (hereCl s) false ia = true)
    (at1 : translate s (hereCl s) (va (hereView s 0)) n .wr = some ia) :
    stgSem op n a va x h px (hereView s 0) = { reads := [a.toNat, h], gate := [a.toNat, h], chk := (psnChk s [a]).and (px (hereView s 0))
                                               eff := fun t => accIssue t (hereCl s) op ia 0 (x (hereView s 0)) 0 false } := by
  simp [stgSem, lanOnly_view lan, reached_some at1 reach, vaChk_some, hS]

/-- An atomic by VA asks for its access, and for a tag where it has a destination (R271). -/
theorem amogSem_view (op : Nat) (d b : Reg) (cas : Bool) (reach : reaches s (hereCl s) false ia = true)
    (at1 : translate s (hereCl s) (reg s a).toNat 8 .at = some ia) (aligned : (reg s a).toNat % 8 = 0) :
    let rs := if cas then [a, b, d] else [a, b]
    amogSem op d a b cas (hereView s 0) =
      { wr := [d.toNat], reads := rs.map (fun r => r.toNat), gate := rs.map (fun r => r.toNat), tag := d != 0, chk := psnChk s rs
        eff := fun t => accIssue t (hereCl s) op ia d.toNat (reg s b).toNat (if cas then (reg s d).toNat else 0) (d != 0) } := by
  simp [amogSem, lanOnly_view lan, reached_some at1 reach, vaChk_some, needIll_true, aligned, hS]

/-- A copy by the core asks for its start, where both its operands are in reach (R249). -/
theorem semLcp_view {d b : Reg} {dst src : Nat} (short : (reg s b).toNat < 2 ^ 32)
    (dstOk : operand s (hereCl s) 3 (reg s d).toNat 0 (reg s b).toNat .wr = .ok dst) (srcOk : operand s (hereCl s) 3 (reg s a).toNat 0 (reg s b).toNat .rd = .ok src)
    (reachTo : reaches s (hereCl s) false dst = true) (reachFrom : reaches s (hereCl s) false src = true) :
    semLcp d a b (hereView s 0) = { reads := [d.toNat, a.toNat, b.toNat], gate := [d.toNat, a.toNat, b.toNat], chk := psnChk s [d, a, b]
                                    eff := fun t => if (reg s b).toNat = 0 then t else lcpStart t (hereCl s) dst src (reg s b).toNat } := by
  simp [semLcp, lanOnly_view lan, opReached, dstOk, srcOk, reachTo, reachFrom, needIll_true, show (reg s b).toNat < 4294967296 from short, opChk, opIa, hS]

end

/-! ## What an access that is issued leaves -/

theorem mem_sput_self {α : Type} (m : SMap α) (k : Nat) (v : α) : (k, v) ∈ sput m k v := by
  induction m with
  | nil => simp [sput]
  | cons p r ih =>
    obtain ⟨j, w⟩ := p
    simp only [sput]
    split_ifs <;> simp [ih]

/-- The lowest free tag has none free below it (R69). -/
theorem freeTag_lowest {c : Core} {n t : Nat} (h : freeTag c n = some t) : ∀ j < t, tagSet c j = true ∨ bit c.freed.toNat j = true := by
  intro j hj
  obtain ⟨-, -, below⟩ := List.find?_range_eq_some.mp h
  simpa [Bool.or_eq_true, or_iff_not_imp_left] using below j hj

/-- A tagged read holds its tag (R69, R73). -/
theorem tagLive_takeTagFor (c : Core) (t h : Nat) : tagLive (takeTagFor c t h) t c.gen = true := by
  simp only [tagLive, takeTagFor, setMeta_tags, takeTag, List.any_eq_true]
  exact ⟨(t, c.gen), mem_sput_self .., by simp⟩

/-- A tagged read makes its tag the whole taint of its destination, whose poison stays (R71). -/
theorem hmeta_takeTagFor (c : Core) (t h j : Nat) :
    hmeta (takeTagFor c t h) j = if j = h ∧ holds h then { hmeta c h with taint := BitVec.ofNat 16 (2 ^ t), sat := false } else hmeta c j :=
  hmeta_setMeta ..

theorem rdS_takeTagFor (c : Core) (t h r : Nat) : rdS (takeTagFor c t h) r = rdS c r := rdS_setMeta ..

/-- Settles O12: each form by what it asks for, and an issued access by the tag that its core takes. -/
theorem lanternAccesses : Obligations.LanternAccesses := by
  unfold Obligations.LanternAccesses
  refine ⟨?forms, ?issue, ?copy⟩
  case forms =>
    intro s n d a b imm ia lan m va dva bad at1
    refine ⟨fun ⟨h, r⟩ => ?_, fun ⟨h, r⟩ => ?_, fun ⟨h, r⟩ => ?_, fun ⟨h, r⟩ => ?_, fun ⟨h, r⟩ aligned => ⟨?_, ?_⟩⟩
    · exact runOne_free _ 0 _ s _ (ldgSem_view lan 0 d.toNat 8 r (by simpa using h))
    · exact runOne_free _ 0 _ s _ (ldgSem_view lan 5 (128 + n.toNat) 32 r (by simpa using h))
    · exact runOne_free _ 0 _ s _ ((stgSem_view lan 1 8 b.toNat _ r (by simpa using h)).trans (by simp [m]))
    · exact runOne_free _ 0 _ s _ ((stgSem_view lan 6 32 (128 + n.toNat) _ r (by simpa using h)).trans (by simp [m]))
    · simp only [List.forall_mem_cons]
      exact ⟨runOne_free _ 0 _ s _ (amogSem_view lan 2 d b false r h aligned), runOne_free _ 0 _ s _ (amogSem_view lan 3 d b false r h aligned), by simp⟩
    · exact runOne_free _ 0 _ s _ (amogSem_view lan 4 d b true r h aligned)
  case issue =>
    intro s m op ia h a b tg tagged hold tag t l k
    have core : k.core = if tagged then takeTagFor l.core tg h else l.core := by simp [k, t, l, accIssue, tag]
    refine ⟨?_, ?_, freeTag_lowest tag, fun ht => ?_, fun r => ?_, ?_, fun j hj => ?_, .of_eq rfl rfl rfl⟩
    · simp [k, t, l, accIssue, tag]
    · simp [k, t, l, accIssue]
    · rw [core, if_pos ht]
      refine ⟨tagLive_takeTagFor .., ?_, ?_⟩ <;> rw [hmeta_takeTagFor, if_pos ⟨rfl, hold⟩]
    · rw [core]; split
      · exact rdS_takeTagFor ..
      · rfl
    · simp [k, t, l, accIssue]
    · rw [core]; split
      · rw [hmeta_takeTagFor, if_neg (fun c => hj c.1)]
      · rfl
  case copy =>
    intro s d a b dst src lan n short dstOk srcOk reachTo reachFrom
    exact runOne_free _ 0 _ s _ (semLcp_view lan short dstOk srcOk reachTo reachFrom)

end Sys2Proof.Machine
end

section
/-! PROOFS. Requests of remote agents (spec 02 R23, 17 R325, 18 R339, R352). -/

namespace Sys2Proof.Machine

/-! ## An access keeps the module's number -/

@[simp] theorem modCore_partMod (s : State) (g : Agent) (f : Core → Core) : (modCore s g f).partMod = s.partMod := by
  cases g <;> rfl

@[simp] theorem countErr_partMod (s : State) (a ce ue : Nat) : (countErr s a ce ue).partMod = s.partMod := by
  rcases countErr_cases s a ce ue with h | ⟨g, h⟩ <;> simp [h]

@[simp] theorem touchChip_partMod (s : State) (a n : Nat) : (touchChip s a n).partMod = s.partMod := countErr_partMod ..

@[simp] theorem frameErr_partMod (s : State) (a ce ue : Nat) : (frameErr s a ce ue).partMod = s.partMod := by
  unfold frameErr
  split <;> rfl

@[simp] theorem readLoc_partMod (s : State) (l : Loc) (n : Nat) : (readLoc s l n).2.partMod = s.partMod := by
  cases l <;> simp only [readLoc, touchChip_partMod, frameErr_partMod, cxlNote]

@[simp] theorem modLoc_partMod (s : State) (l : Loc) (f : MemSt → Nat → MemSt) : (modLoc s l f).partMod = s.partMod := by
  cases l <;> simp [modLoc]

@[simp] theorem writeLoc_partMod (s : State) (l : Loc) (img : List (Byte × Bool)) : (writeLoc s l img).partMod = s.partMod := by
  cases l <;> simp [writeLoc, cxlNote]

@[simp] theorem setGr_partMod (s : State) (j : Nat) (g : Granule) : (setGr s j g).partMod = s.partMod :=
  (apply_ite State.partMod ..).trans (ite_self _)

@[simp] theorem rpcDirty_partMod (s : State) (slot ia n : Nat) : (rpcDirty s slot ia n).partMod = s.partMod := by
  unfold rpcDirty
  dsimp only
  split
  · split
    · exact setGr_partMod ..
    · rfl
  · rfl

@[simp] theorem tailReport_partMod (s : State) (ia n : Nat) : (tailReport s ia n).partMod = s.partMod := by
  unfold tailReport
  dsimp only
  split <;> rfl

@[simp] theorem codeKeep_partMod (s : State) (ia n : Nat) : (codeKeep s ia n).partMod = s.partMod := by
  unfold codeKeep
  dsimp only
  split <;> rfl

/-- What every step of a fold keeps, the fold keeps. -/
theorem foldl_keeps {α β γ : Type} (f : α → β → α) (g : α → γ) (h : ∀ x b, g (f x b) = g x) (l : List β) (x : α) : g (l.foldl f x) = g x := by
  induction l generalizing x with
  | nil => rfl
  | cons b r ih => exact (ih (f x b)).trans (h x b)

theorem readIa_partMod (s : State) (slot pasid ia n : Nat) : (readIa s slot pasid ia n).2.partMod = s.partMod := by
  unfold readIa
  refine foldl_keeps _ (fun p : List (Byte × Bool) × State => p.2.partMod) (fun p r => ?_) _ ([], s)
  cases r.2.2 <;> simp

theorem writeIa_partMod (s : State) (slot pasid ia : Nat) (img : List (Byte × Bool)) : (writeIa s slot pasid ia img).partMod = s.partMod := by
  refine (tailReport_partMod ..).trans ((foldl_keeps _ State.partMod (fun t r => ?_) _ _).trans (codeKeep_partMod ..))
  cases r.2.2 <;> simp

theorem atomicAt_partMod (s : State) (l : Loc) (ia w : Nat) (f : Nat → Option Nat) (y : Sync) : (atomicAt s l ia w f y).2.1.partMod = s.partMod := by
  unfold atomicAt
  cases l <;> dsimp only <;> split <;> simp [cxlNote]

/-- An atomic that is performed is performed at a place of this module or its host (R96, R97). -/
theorem atomicIa_done {s u : State} {slot pasid ia old : Nat} {o : AtomOp} {y : Sync} {psn : Bool} {rel : Option (Nat × Nat × Nat)}
    (h : atomicIa s slot pasid ia o y = .done old psn u rel) : ∃ l, atomicAt s l ia o.w o.f y = ((old, psn), u, rel) := by
  unfold atomicIa at h
  split at h
  · cases h
  · cases h
  · cases h
  · split at h
    · cases h
    · cases h; exact ⟨_, rfl⟩

theorem atomicIa_partMod {s u : State} {slot pasid ia old : Nat} {o : AtomOp} {y : Sync} {psn : Bool} {rel : Option (Nat × Nat × Nat)}
    (h : atomicIa s slot pasid ia o y = .done old psn u rel) : u.partMod = s.partMod := by
  obtain ⟨l, hl⟩ := atomicIa_done h
  simpa [hl] using atomicAt_partMod s l ia o.w o.f y

/-! ## What a remote access comes to -/

section
variable {s : State} {p : Packet} {type n : Nat} {k : AKind} {f : Nat → State}

/-- A request that its job keeps from being performed is answered so (R325, R352). -/
theorem remoteDo_gated {q : Nat × Nat} (gate : jobGate s p = some q) : remoteDo s p type n k f = respondSt s p type q := by
  simp [remoteDo, gate]

/-- A request outside what peers reach (R23, R32). -/
theorem remoteDo_outside (gate : jobGate s p = none) (out : remoteAt s p.ia.toNat n k = false) :
    remoteDo s p type n k f = respondSt s p type (2, fkTable) := by
  simp [remoteDo, gate, out]

/-- A request that the memory side refuses (R339). -/
theorem remoteDo_faults (gate : jobGate s p = none) (inside : remoteAt s p.ia.toNat n k = true) {x e : Nat}
    (fault : faultOf (resolveAll s s.chip.slot s.chip.pasid (fullIa s p.ia.toNat) n k) = some (x, e)) :
    remoteDo s p type n k f = respondSt s p type (2, e) := by
  simp [remoteDo, gate, inside, fault]

/-- A request that is performed at its place (R339). -/
theorem remoteDo_performed (gate : jobGate s p = none) (inside : remoteAt s p.ia.toNat n k = true)
    (places : faultOf (resolveAll s s.chip.slot s.chip.pasid (fullIa s p.ia.toNat) n k) = none) :
    remoteDo s p type n k f = f (fullIa s p.ia.toNat) := by
  simp [remoteDo, gate, inside, places]

end

/-- An answer that changes nothing but the link's counter is an answer from the state before it. -/
theorem answered_linkIn {s t : State} {type st fk : Nat} {bytes : List Byte} (h : Answered s (linkIn s) t type st fk bytes) :
    Answered s s t type st fk bytes := by
  simpa [Answered] using h

section
variable {s : State} {type n : Nat} {k : AKind} {f : Nat → State}

/-- A request of the job that is switched in, refused by the memory side (R339). -/
theorem remoteDo_admitted_faults (admitted : Admitted s) (inside : remoteAt (linkIn s) s.arg.pkt.ia.toNat n k = true) {x e : Nat}
    (fault : faultOf (resolveAll (linkIn s) s.chip.slot s.chip.pasid (fullIa (linkIn s) s.arg.pkt.ia.toNat) n k) = some (x, e)) :
    remoteDo (linkIn s) s.arg.pkt type n k f = respondSt (linkIn s) s.arg.pkt type (2, e) := by
  rw [← linkIn_chip s] at fault
  exact remoteDo_faults (jobGate_admitted s admitted) inside fault

/-- A request of the job that is switched in, performed at its place (R339). -/
theorem remoteDo_admitted_performed (admitted : Admitted s) (inside : remoteAt (linkIn s) s.arg.pkt.ia.toNat n k = true)
    (places : faultOf (resolveAll (linkIn s) s.chip.slot s.chip.pasid (fullIa (linkIn s) s.arg.pkt.ia.toNat) n k) = none) :
    remoteDo (linkIn s) s.arg.pkt type n k f = f (fullIa (linkIn s) s.arg.pkt.ia.toNat) := by
  rw [← linkIn_chip s] at places
  exact remoteDo_performed (jobGate_admitted s admitted) inside places

end

/-- A status sent at once (R336, R337). -/
theorem respondSt_answered {s : State} (h : Arrives s) (type : Nat) (q : Nat × Nat) :
    Answered s s (respondSt (linkIn s) s.arg.pkt type q) type q.1 q.2 [] :=
  answered_linkIn (respond_answered s (linkIn s) h (linkIn_partMod s) type q.1 q.2 [])

/-- The events whose packet makes a request of this module, with the type of the answer (R336). -/
def IsRequest (s : State) (i : Instr) (type : Nat) : Prop :=
  let p := s.arg.pkt
  i = .rd ∧ pktIs p 0 0x01 0 0 = true ∧ type = 0x20 ∨ i = .wr ∧ pktIs p 0 0x02 1 8 = true ∧ type = 0x21 ∨
    i = .amo ∧ pktIs p 0 0x03 1 1 = true ∧ type = 0x20 ∨ i = .fadd ∧ pktIs p 0 0x04 1 1 = true ∧ type = 0x21 ∨
    i = .tkarm ∧ pktIs p 0 0x09 0 0 = true ∧ type = 0x21 ∨ i = .tksigPacket ∧ pktIs p 0 0x0A 0 0 = true ∧ type = 0x21 ∨
    i = .tkrdPacket ∧ pktIs p 0 0x0B 0 0 = true ∧ type = 0x20 ∨ i = .postPacket ∧ pktIs p 0 0x08 5 5 = true ∧ type = 0x21

/-- Whatever it asks for, a request that its job keeps from being performed is answered with the gate's status (R325, R352). -/
theorem request_gated {s : State} (arrives : Arrives s) {i : Instr} {type : Nat} (req : IsRequest s i type) {q : Nat × Nat}
    (gate : jobGate (linkIn s) s.arg.pkt = some q) : ∃ t, exec i s = .next t ∧ Answered s s t type q.1 q.2 [] := by
  refine ⟨_, ?_, respondSt_answered arrives type q⟩
  rcases req with ⟨rfl, form, rfl⟩ | ⟨rfl, form, rfl⟩ | ⟨rfl, form, rfl⟩ | ⟨rfl, form, rfl⟩ | ⟨rfl, form, rfl⟩ | ⟨rfl, form, rfl⟩ | ⟨rfl, form, rfl⟩ | ⟨rfl, form, rfl⟩
  · rw [show exec .rd s = execRd s from rfl, execRd, onPacket_arrives s _ _ arrives form, remoteDo_gated gate]
  · rw [show exec .wr s = execWr s from rfl, execWr, onPacket_arrives s _ _ arrives form, remoteDo_gated gate]
  · rw [show exec .amo s = execAmo s from rfl, execAmo, onPacket_arrives s _ _ arrives form]
    dsimp only
    split
    · rw [remoteDo_gated gate]
    · rw [remoteAtom, remoteDo_gated gate]; rfl
  · rw [show exec .fadd s = execFadd s from rfl, execFadd, onPacket_arrives s _ _ arrives form]
    exact congrArg _ (remoteDo_gated gate)
  · rw [show exec .tkarm s = execTkarm s from rfl, execTkarm, onToken, onPacket_arrives s _ _ arrives form, gate]
  · rw [show exec .tksigPacket s = execTksigPacket s from rfl, execTksigPacket, onToken, onPacket_arrives s _ _ arrives form, gate]
  · rw [show exec .tkrdPacket s = execTkrdPacket s from rfl, execTkrdPacket, onToken, onPacket_arrives s _ _ arrives form, gate]
  · rw [show exec .postPacket s = execPostPacket s from rfl, execPostPacket, onPacket_arrives s _ _ arrives form, gate]

/-- RD with what it asks for (R339). -/
theorem exec_rd_arrives {s : State} (arrives : Arrives s) (form : pktIs s.arg.pkt 0 0x01 0 0 = true) :
    exec .rd s = .next (remoteDo (linkIn s) s.arg.pkt 0x20 (s.arg.pkt.len.toNat + 1) .rd (fun ia =>
      let x := readIa (linkIn s) s.chip.slot s.chip.pasid ia (s.arg.pkt.len.toNat + 1)
      respond x.2 s.arg.pkt 0x20 0 0 x.1)) := by
  rw [show exec .rd s = execRd s from rfl, execRd, onPacket_arrives s _ _ arrives form, linkIn_chip]

/-- WR with the bytes that it brings (R339). -/
theorem exec_wr_arrives {s : State} (arrives : Arrives s) (form : pktIs s.arg.pkt 0 0x02 1 8 = true) :
    exec .wr s = .next (remoteDo (linkIn s) s.arg.pkt 0x21 (s.arg.pkt.len.toNat + 1) .wr (fun ia =>
      respond (writeIa (linkIn s) s.chip.slot s.chip.pasid ia (payloadImg s.arg.pkt (s.arg.pkt.len.toNat + 1))) s.arg.pkt 0x21 0 0 [])) := by
  rw [show exec .wr s = execWr s from rfl, execWr, onPacket_arrives s _ _ arrives form, linkIn_chip]

/-- The bytes of a remote atomic's value (R96). -/
def amoBytes (p : Packet) : Nat := if p.asz = 1 then 8 else 4

/-- The operation that a remote atomic's packet asks for (R96, R339). -/
def amoAsked (p : Packet) : AtomOp :=
  amoOp p.aop.toNat (amoBytes p) (ofBytes (p.payload.take 8)) (ofBytes ((p.payload.drop 8).take 8))

/-- AMO with an aop that names an operation (R96, R339). -/
theorem exec_amo_arrives {s : State} (arrives : Arrives s) (form : pktIs s.arg.pkt 0 0x03 1 1 = true) (names : s.arg.pkt.aop.toNat ≤ 9) :
    exec .amo s = .next (remoteAtom (linkIn s) s.arg.pkt (amoAsked s.arg.pkt) (remoteSync (linkIn s) s.arg.pkt) true) := by
  rw [show exec .amo s = execAmo s from rfl, execAmo, onPacket_arrives s _ _ arrives form]
  exact congrArg _ (if_neg (by omega))

/-- AMO with an aop that names none (R339). -/
theorem exec_amo_unnamed {s : State} (arrives : Arrives s) (form : pktIs s.arg.pkt 0 0x03 1 1 = true) (unnamed : 9 < s.arg.pkt.aop.toNat) :
    exec .amo s = .next (remoteDo (linkIn s) s.arg.pkt 0x20 (amoBytes s.arg.pkt) .at (fun _ => respondSt (linkIn s) s.arg.pkt 0x20 (2, fkAtomic))) := by
  rw [show exec .amo s = execAmo s from rfl, execAmo, onPacket_arrives s _ _ arrives form]
  exact congrArg _ (if_pos unnamed)

/-- The cell add that a packet asks for (R98, R339). -/
def faddAsked (p : Packet) : AtomOp :=
  faddOp (ofBytes ((p.payload.drop 4).take 1) % 3) (ofBytes (p.payload.take 4)) (sextN (ofBytes ((p.payload.drop 5).take 2)) 16)

/-- FADD with the cell add that it asks for (R98, R339). -/
theorem exec_fadd_arrives {s : State} (arrives : Arrives s) (form : pktIs s.arg.pkt 0 0x04 1 1 = true) :
    exec .fadd s = .next (remoteAtom (linkIn s) s.arg.pkt (faddAsked s.arg.pkt) (remoteSync (linkIn s) s.arg.pkt) false) := by
  rw [show exec .fadd s = execFadd s from rfl, execFadd, onPacket_arrives s _ _ arrives form]
  rfl

/-! ## Each answer -/

/-- What keeps a request of the job away: it stops, it is not switched in, or it is not here (R325, R352). -/
theorem request_kept_away {s : State} (arrives : Arrives s) {i : Instr} {type : Nat} (req : IsRequest s i type) :
    (s.arg.pkt.slot.toNat = s.chip.slot → s.arg.pkt.pasid.toNat = s.chip.pasid → frozen s = true → ∃ t, exec i s = .next t ∧ Answered s s t type 1 0 []) ∧
    (s.arg.pkt.slot.toNat ≠ s.chip.slot → (∃ j ∈ s.cp.jobs, j.1 = s.arg.pkt.slot.toNat ∧ j.2.pasid = s.arg.pkt.pasid.toNat) →
      ∃ t, exec i s = .next t ∧ Answered s s t type 1 0 []) ∧
    ((s.arg.pkt.slot.toNat ≠ s.chip.slot ∨ s.arg.pkt.pasid.toNat ≠ s.chip.pasid) →
      (∀ j ∈ s.cp.jobs, ¬(j.1 = s.arg.pkt.slot.toNat ∧ j.2.pasid = s.arg.pkt.pasid.toNat)) →
      ∃ t, exec i s = .next t ∧ Answered s s t type 2 fkNoJob []) := by
  refine ⟨fun slot pasid stops => request_gated arrives req (q := (1, 0)) ?_,
    fun away here => request_gated arrives req (q := (1, 0)) ?_,
    fun away none => request_gated arrives req (q := (2, fkNoJob)) ?_⟩
  · simp [jobGate, slot, pasid, frozen, show s.cp.switch.isSome = true from stops]
  · simpa [jobGate, away] using here
  · have other : ¬(s.arg.pkt.slot.toNat = s.chip.slot ∧ s.arg.pkt.pasid.toNat = s.chip.pasid) := by tauto
    simpa [jobGate, other] using fun b h => not_and.mp (none (s.arg.pkt.slot.toNat, b) h) rfl

/-- The requests that name an IA: what each asks for, and the access it makes there (R336, R339). -/
def AsksIa (s : State) (i : Instr) (type m : Nat) (k : AKind) : Prop :=
  let p := s.arg.pkt
  i = .rd ∧ pktIs p 0 0x01 0 0 = true ∧ type = 0x20 ∧ m = p.len.toNat + 1 ∧ k = AKind.rd ∨
    i = .wr ∧ pktIs p 0 0x02 1 8 = true ∧ type = 0x21 ∧ m = p.len.toNat + 1 ∧ k = .wr ∨
    i = .amo ∧ pktIs p 0 0x03 1 1 = true ∧ type = 0x20 ∧ m = amoBytes p ∧ k = .at

/-- Each of them is a remote access of its kind, whatever it does where it is performed (R339). -/
theorem exec_asksIa {s : State} (arrives : Arrives s) {i : Instr} {type m : Nat} {k : AKind} (asks : AsksIa s i type m k) :
    ∃ f, exec i s = .next (remoteDo (linkIn s) s.arg.pkt type m k f) := by
  rcases asks with ⟨rfl, form, rfl, rfl, rfl⟩ | ⟨rfl, form, rfl, rfl, rfl⟩ | ⟨rfl, form, rfl, rfl, rfl⟩
  · exact ⟨_, exec_rd_arrives arrives form⟩
  · exact ⟨_, exec_wr_arrives arrives form⟩
  · by_cases names : s.arg.pkt.aop.toNat ≤ 9
    · exact ⟨_, exec_amo_arrives arrives form names⟩
    · exact ⟨_, exec_amo_unnamed arrives form (by omega)⟩

/-- A remote atomic whose operation is performed at its place is answered with the old value, or with an ACK (R96, R98, R339). -/
theorem remoteAtom_performed {s u : State} (arrives : Arrives s) (admitted : Admitted s) {o : AtomOp} (ret : Bool)
    (inside : remoteAt (linkIn s) s.arg.pkt.ia.toNat o.w .at = true)
    (places : faultOf (resolveAll (linkIn s) s.chip.slot s.chip.pasid (fullIa (linkIn s) s.arg.pkt.ia.toNat) o.w .at) = none)
    {old : Nat} {psn : Bool} {rel : Option (Nat × Nat × Nat)}
    (done : atomicIa (linkIn s) s.chip.slot s.chip.pasid (fullIa (linkIn s) s.arg.pkt.ia.toNat) o
      (remoteSync (linkIn s) s.arg.pkt (fullIa (linkIn s) s.arg.pkt.ia.toNat)) = .done old psn u rel) :
    Answered s u (remoteAtom (linkIn s) s.arg.pkt o (remoteSync (linkIn s) s.arg.pkt) ret) (if ret then 0x20 else 0x21) 0 0
      (if ret then toBytes old o.w else []) := by
  have number : u.partMod = s.partMod := (atomicIa_partMod done).trans (linkIn_partMod s)
  rw [remoteAtom, remoteDo_admitted_performed admitted inside places]
  simp only [linkIn_chip, done]
  cases ret
  · exact respond_answered s u arrives number ..
  · simpa [Function.comp_def] using respond_answered s u arrives number 0x20 0 0 ((toBytes old o.w).map (fun b => (b, psn)))

/-- Settles O49: what keeps a request away first, then what its place refuses, then what each kind does where it is performed. -/
theorem remoteRequests : Obligations.RemoteRequests := by
  intro s arrives p r n ia w c
  refine ⟨?_, ?_, ?_, ?_, ?_, ?_, ?_⟩
  · exact fun i type req => request_kept_away arrives req
  · intro admitted i type m k asks
    obtain ⟨f, run⟩ := exec_asksIa arrives asks
    refine ⟨fun out => ⟨_, run, ?_⟩, fun x e inside fault => ⟨_, run, ?_⟩⟩
    · rw [remoteDo_outside (jobGate_admitted s admitted) out]
      exact respondSt_answered arrives type (2, fkTable)
    · rw [remoteDo_admitted_faults admitted inside fault]
      exact respondSt_answered arrives type (2, e)
  · intro admitted form inside places
    refine ⟨_, exec_rd_arrives arrives form, ?_⟩
    rw [remoteDo_admitted_performed admitted inside places]
    exact respond_answered s _ arrives ((readIa_partMod ..).trans (linkIn_partMod s)) ..
  · intro admitted form inside places
    refine ⟨_, exec_wr_arrives arrives form, ?_⟩
    rw [remoteDo_admitted_performed admitted inside places]
    exact respond_answered s _ arrives ((writeIa_partMod ..).trans (linkIn_partMod s)) ..
  · intro old psn u rel admitted form names inside places done
    exact ⟨_, exec_amo_arrives arrives form names, remoteAtom_performed (o := amoAsked s.arg.pkt) arrives admitted true inside places done⟩
  · intro admitted form unnamed inside places
    refine ⟨_, exec_amo_unnamed arrives form unnamed, ?_⟩
    rw [remoteDo_admitted_performed (n := amoBytes s.arg.pkt) admitted inside places]
    exact respond_answered s _ arrives (linkIn_partMod s) ..
  · intro old psn u rel o admitted form inside places done
    exact ⟨_, exec_fadd_arrives arrives form, remoteAtom_performed (o := faddAsked s.arg.pkt) arrives admitted false inside places done⟩

end Sys2Proof.Machine
end

section
/-! PROOFS. The host-only commands of the command processor (spec 19 R360, R362, 17 R323, 18 R332, R349, R350, 02 R33). -/

namespace Sys2Proof.Machine

/-! ## How a command goes on -/

/-- What the command of this event works on once it has left the head of its queue. -/
def cmdCtx (s : State) (j : Nat) (b : BoundQ) : CmdCtx := ⟨j, { b with held := none }, mkCmd s b s.arg.cp, jobOf s b.pasid⟩

/-- A state with the completion record of this event's command added (R359). -/
def withRec (s u : State) (b : BoundQ) (st val : Nat) : State := { u with cp := { u.cp with recs := u.cp.recs ++ [cpRec s b st val] } }

section
variable (s : State) (j : Nat) (b : BoundQ)

@[simp] theorem cmdCtx_q1 : (cmdCtx s j b).q 1 = s.arg.cp.q1.toNat := rfl
@[simp] theorem cmdCtx_q2 : (cmdCtx s j b).q 2 = s.arg.cp.q2.toNat := rfl
@[simp] theorem cmdCtx_q3 : (cmdCtx s j b).q 3 = s.arg.cp.q3.toNat := rfl
@[simp] theorem cmdCtx_q4 : (cmdCtx s j b).q 4 = s.arg.cp.q4.toNat := rfl
@[simp] theorem cmdCtx_q5 : (cmdCtx s j b).q 5 = s.arg.cp.q5.toNat := rfl
@[simp] theorem cmdCtx_pasid : (cmdCtx s j b).b.pasid = b.pasid := rfl

/-- The slot of the command's job. -/
theorem cmdCtx_slot {s : State} {b : BoundQ} {slot : Nat} {job : Job} (owner : jobOf s b.pasid = some (slot, job)) : (cmdCtx s j b).slot = slot := by
  simp [cmdCtx, CmdCtx.slot, owner]

end

/-- What becomes of the module once the command of this event has come to `r` (R359, R360). -/
def cmdEnd (s : State) (j : Nat) (b : BoundQ) : CmdRes → State
  | .done u st val => withRec s u b st val
  | .wait u => modCp (putSlot u j b) (fun x => { x with nextId := s.cp.nextId })
  | .later u c => modCp u (fun x => { x with cmds := x.cmds ++ [c] })
  | .parked u => u

section
variable {s : State} {op j : Nat} {b : BoundQ} {named : List Nat} {f : State → CmdCtx → CmdRes} {r : CmdRes}

/-- A host-only command that starts (R360). -/
theorem hostCmd_runs (starts : CpStarts s op named j b) (host : qdDev b.desc = false) (run : f (cpGo s j b) (cmdCtx s j b) = r) :
    runCmd s op .host named f = .next (cmdEnd s j b r) := by
  rw [runCmd_starts s op .host named f j b starts (fun _ => host) (by simp) (by simp) (by simp) (by simp)]
  unfold cmdCtx at run
  rw [run]
  cases r <;> rfl

/-- A command of a job that nothing has ended, which acts at once (R360, R404). -/
theorem nowCmd_runs {slot : Nat} {job : Job} (starts : CpStarts s op named j b) (owner : CpJob s b slot job)
    (run : f (cpGo s j b) (cmdCtx s j b) = r) : runCmd s op .now named f = .next (cmdEnd s j b r) := by
  rw [runCmd_starts s op .now named f j b starts (by simp) (by simp) (fun _ => ⟨slot, job, owner⟩) (by simp) (by simp)]
  unfold cmdCtx at run
  rw [run]
  cases r <;> rfl

end

/-- A further event of a started command (R360). -/
theorem pollCmd_runs {s : State} {op : Nat} {c : CpCmd} (f : State → CpCmd → State) (started : cmdById s s.arg.n = some c) (kind : cpOp c.p = op) :
    pollCmd s op f = .next (f s c) := by
  simp [pollCmd, started, kind]

/-- The record of a command that nothing else changes is all that it leaves but the packet's departure. -/
theorem cpDone_withRec {s u : State} {j : Nat} {b : BoundQ} {st val : Nat} (recs : u.cp.recs = s.cp.recs) (nextId : u.cp.nextId = s.cp.nextId + 1)
    (cmds : u.cp.cmds = s.cp.cmds) (slots : u.cp.slots = (cpGo s j b).cp.slots) : CpDone s (withRec s u b st val) j b st val := by
  refine ⟨by simp [withRec, recs], nextId, cmds, fun d => ?_⟩
  simp [withRec, slots, cpGo, sget_sput]

/-- A started command that completes with its record (R359). -/
theorem cpOver_cmdDone {s u : State} {c : CpCmd} {st val : Nat} (loud : c.quiet = false) (recs : u.cp.recs = s.cp.recs)
    (cmds : u.cp.cmds = s.cp.cmds) (slots : u.cp.slots = s.cp.slots) : CpOver s (cmdDone u c st val) c st val := by
  simp [CpOver, cmdDone, cpFinish, modCp, loud, recs, cmds, slots]

/-- Reading operands that an access finds (R360). -/
theorem readOperands_ok {s u : State} {j slot ia n : Nat} {b : BoundQ} {job : Job} {x : List (Byte × Bool)} (f : State → List Byte → CmdRes)
    (owner : jobOf s b.pasid = some (slot, job)) (found : cpAccess (cpGo s j b) slot b.pasid ia n none = .ok x u) :
    readOperands (cpGo s j b) (cmdCtx s j b) ia n f = f u (x.map Prod.fst) := by
  rw [readOperands, cmdCtx_slot j owner, cmdCtx_pasid, found]

/-! ## Sparse maps -/

/-- A key erased is not listed. -/
theorem ne_of_mem_serase {α : Type} {m : SMap α} {k : Nat} {p : Nat × α} (h : p ∈ serase m k) : p.1 ≠ k := by
  simpa using (List.mem_filter.mp h).2

/-- A map that lists no value other than the unlisted one at a key reads so there. -/
theorem mem_of_sget_ne {α : Type} {d : α} {m : SMap α} {k : Nat} (h : sget d m k ≠ d) : (k, sget d m k) ∈ m := by
  induction m with
  | nil => exact absurd rfl h
  | cons p r ih =>
    obtain ⟨i, v⟩ := p
    by_cases hit : i = k
    · simp [sget, hit]
    · simp only [sget, if_neg hit] at h ⊢
      exact List.mem_cons_of_mem _ (ih h)

/-- What listing a key puts at it, a search for the key finds. -/
theorem find?_sput {α : Type} (m : SMap α) (k : Nat) (v : α) : (sput m k v).find? (fun p => p.1 == k) = some (k, v) := by
  induction m with
  | nil => simp [sput]
  | cons p r ih =>
    obtain ⟨i, w⟩ := p
    by_cases below : k < i
    · simp [sput, below]
    · by_cases hit : k = i
      · simp [sput, hit]
      · simp [sput, below, hit, ih, Ne.symm hit]

/-- A search for a key that is erased finds nothing. -/
theorem find?_serase {α : Type} (m : SMap α) (k : Nat) : (serase m k).find? (fun p => p.1 == k) = none := by
  simp [serase, List.find?_eq_none]

/-! ## A job's on-chip state -/

/-- A job that nothing is saved of and that is not switched in starts with zeroed tokens and is not ended (R276, R310). -/
theorem asJob_fresh {s : State} {slot : Nat} (unsaved : s.images.find? (fun p => p.1 == slot) = none)
    (fresh : s.chip.slot = slot → ∃ pasid, s.chip = { slot := slot, pasid := pasid }) :
    (∀ i k, getTok (asJob s slot) i k = {}) ∧ jobEnded s slot = none := by
  simp only [jobEnded, asJob, unsaved]
  split
  · next here =>
    obtain ⟨pasid, chip⟩ := fresh here
    simp [getTok, getCl, chip, sget]
  · simp [getTok, getCl, freshChip, sget, BEq.beq]

/-- Where a job's on-chip state stands after it is changed. -/
theorem asJob_inJob (s : State) (slot : Nat) (f : State → State) (images : ∀ t, (f t).images = t.images) (same : ∀ t, (f t).chip.slot = t.chip.slot) :
    (asJob (inJob s slot f) slot).chip = (f (asJob s slot)).chip := by
  by_cases here : s.chip.slot = slot ∧ (s.images.find? (fun p => p.1 == slot)).isNone = true
  · have unsaved : s.images.find? (fun p => p.1 == slot) = none := by simpa using here.2
    have stands : asJob s slot = s := by simp [asJob, unsaved, here.1]
    rw [inJob, backJob, if_pos here, stands, asJob, images, unsaved]
    simp [same, here.1]
  · rw [inJob, backJob, if_neg here, asJob]
    simp [find?_sput]

/-- What a job's on-chip state is hangs on what is saved, on what is switched in, and on the jobs. -/
theorem asJob_chip_congr {s t : State} (slot : Nat) (images : t.images = s.images) (chip : t.chip = s.chip) (jobs : t.cp.jobs = s.cp.jobs) :
    (asJob t slot).chip = (asJob s slot).chip := by
  unfold asJob
  rw [images, chip]
  cases s.images.find? (fun p => p.1 == slot) with
  | some p => rfl
  | none =>
    dsimp only
    split
    · exact chip
    · simp [freshChip, jobs]

theorem jobEnded_congr {s t : State} (slot : Nat) (images : t.images = s.images) (chip : t.chip = s.chip) (jobs : t.cp.jobs = s.cp.jobs) :
    jobEnded t slot = jobEnded s slot :=
  congrArg Chip.ended (asJob_chip_congr slot images chip jobs)

/-- The end of a job changes no memory and nothing but on-chip state (R404). -/
theorem inJob_endJob (s : State) (slot : Nat) (v : W64) :
    ∃ c im, inJob s slot (fun u => endJob u v) = { s with chip := c, images := im } ∧ MemSame s.chip.mem c.mem := by
  have others : ∃ c, endJob (asJob s slot) v = { s with chip := c } := by
    unfold asJob
    cases s.images.find? (fun p => p.1 == slot) with
    | some p => exact ⟨_, rfl⟩
    | none =>
      dsimp only
      split <;> exact ⟨_, rfl⟩
  obtain ⟨c, ends⟩ := others
  by_cases here : s.chip.slot = slot ∧ (s.images.find? (fun p => p.1 == slot)).isNone = true
  · have stands : asJob s slot = s := by simp [asJob, show s.images.find? (fun p => p.1 == slot) = none by simpa using here.2, here.1]
    refine ⟨{ s.chip with ended := some (s.chip.ended.getD v) }, s.images, ?_, fun i => ⟨rfl, rfl⟩⟩
    rw [inJob, backJob, if_pos here, stands]
    rfl
  · refine ⟨s.chip, sput s.images slot c, ?_, fun i => ⟨rfl, rfl⟩⟩
    rw [inJob, backJob, if_neg here, ends]

/-- A job that is ended stays so (R404). -/
theorem jobEnded_inJob_endJob (s : State) (slot : Nat) (v : W64) : jobEnded (inJob s slot (fun u => endJob u v)) slot ≠ none := by
  rw [jobEnded, asJob_inJob s slot (fun u => endJob u v) (fun _ => rfl) (fun _ => rfl)]
  exact Option.some_ne_none _

/-! ## Granules -/

/-- A granule that changes takes its tag in HBM with it, and no other byte (R33). -/
theorem setGr_eq (s : State) (i : Nat) (g : Granule) : ∃ h, setGr s i g = { s with rpc := sset {} s.rpc i g, hbm := h } ∧
    ∀ x, (x < rpcTagAt s i ∨ rpcTagAt s i + 64 ≤ x) → rdByte h.cells x = rdByte s.hbm.cells x := by
  unfold setGr
  split
  · exact ⟨s.hbm, rfl, fun _ _ => rfl⟩
  · refine ⟨_, rfl, fun x outside => ?_⟩
    rw [writeNat, rdByte_writeImg, dif_neg]
    simp only [List.length_map, toBytes_length]
    omega

theorem getGr_setGr (s : State) (i k : Nat) (g : Granule) : getGr (setGr s i g) k = if k = i then g else getGr s k := by
  obtain ⟨h, set, -⟩ := setGr_eq s i g
  rw [set, getGr, getGr, sget_sset]

/-- A granule that is to be written back (R39). -/
def evicted (g : Granule) : Granule := { g with state := 3, next := none }

/-- The granules of a list made to write back, one after another. -/
theorem foldl_evict (l : List (Nat × Granule)) (s : State) : ∃ r h, l.foldl (fun t p => setGr t p.1 (evicted p.2)) s = { s with rpc := r, hbm := h } ∧
    (∀ k, (sget {} r k).state = 3 ∨ (sget {} r k = getGr s k ∧ ∀ p ∈ l, p.1 ≠ k)) ∧
    ∀ x, (∀ p ∈ l, x < rpcTagAt s p.1 ∨ rpcTagAt s p.1 + 64 ≤ x) → rdByte h.cells x = rdByte s.hbm.cells x := by
  induction l generalizing s with
  | nil => exact ⟨s.rpc, s.hbm, rfl, fun k => .inr ⟨rfl, by simp⟩, fun _ _ => rfl⟩
  | cons p l ih =>
    have first := fun k => getGr_setGr s p.1 k (evicted p.2)
    obtain ⟨h₁, set, frame₁⟩ := setGr_eq s p.1 (evicted p.2)
    obtain ⟨r, h, rest, states, frame⟩ := ih (setGr s p.1 (evicted p.2))
    refine ⟨r, h, ?_, fun k => ?_, fun x outside => ?_⟩
    · rw [List.foldl_cons, rest, set]
    · rcases states k with done | ⟨keeps, other⟩
      · exact .inl done
      · rw [keeps, first]
        split
        · exact .inl rfl
        · next ne => exact .inr ⟨rfl, List.forall_mem_cons.mpr ⟨fun e => ne e.symm, other⟩⟩
    · obtain ⟨here, there⟩ := List.forall_mem_cons.mp outside
      rw [frame x (by rw [set]; exact there), set, frame₁ x here]

/-- The resident granules of a slot made to write back (R39). -/
theorem rpcClean_eq (s : State) (slot : Nat) : ∃ r h, rpcClean s slot = { s with rpc := r, hbm := h } ∧
    (∀ k, (getGr s k).slot = slot → (getGr s k).state = 2 → (sget {} r k).state = 3) ∧
    ∀ x, (∀ q ∈ s.rpc, x < rpcTagAt s q.1 ∨ rpcTagAt s q.1 + 64 ≤ x) → rdByte h.cells x = rdByte s.hbm.cells x := by
  obtain ⟨r, h, cleans, states, frame⟩ := foldl_evict (s.rpc.filter (fun p => decide (p.2.slot = slot ∧ p.2.state = 2))) s
  refine ⟨r, h, cleans, fun k mine resident => ?_, fun x outside => frame x (fun p hp => outside p (List.mem_filter.mp hp).1)⟩
  refine (states k).resolve_right (fun ⟨_, other⟩ => ?_)
  have listed : (k, getGr s k) ∈ s.rpc := mem_of_sget_ne (fun unlisted => by
    rw [getGr, unlisted] at resident
    exact absurd resident (by decide))
  exact other _ (List.mem_filter.mpr ⟨listed, by simp [mine, resident]⟩) rfl

/-- A slot with no resident granule has nothing to write back. -/
theorem rpcClean_of_clean {s : State} {slot : Nat} (clean : ∀ q ∈ s.rpc, q.2.slot = slot → q.2.state = 0) : rpcClean s slot = s := by
  have none : s.rpc.filter (fun p => decide (p.2.slot = slot ∧ p.2.state = 2)) = [] := by
    refine List.filter_eq_nil_iff.mpr (fun p hp => ?_)
    have := clean p hp
    simp only [decide_eq_true_eq]
    omega
  rw [rpcClean, none, List.foldl_nil]

/-- What zeroed HBM reads (R33). -/
theorem rdByte_zeroHbm (s : State) (a n x : Nat) :
    rdByte (zeroHbm s a n).hbm.cells x = if a ≤ x ∧ x < a + n then 0 else rdByte s.hbm.cells x := by
  refine (sget_filter_key 0 s.hbm.cells (fun k => !(decide (a / 1 ≤ k) && decide (k < (a + n) / 1))) x).trans ?_
  by_cases within : a ≤ x ∧ x < a + n
  · simp [within]
  · rw [if_neg within, if_pos (by simp only [Nat.div_one, Bool.not_eq_true', Bool.and_eq_false_iff, decide_eq_false_iff_not]; omega)]
    rfl


/-! ## Each command -/

section
variable {s : State} {j : Nat} {b : BoundQ}

/-- JOB_CREATE: the job that its packet names (R360). -/
def createdJob (p : CpPacket) : Job :=
  ⟨bits p.q1.toNat 44 20, p.q2.toNat, p.q3.toNat, p.q4.toNat, bits p.q5.toNat 0 12, bits p.q5.toNat 16 12, [], []⟩

/-- JOB_CREATE: the slot that its packet names (R360). -/
def createdSlot (p : CpPacket) : Nat := bits p.q1.toNat 0 10

/-- The module with a job entered in its slot, before it has tables (R360). -/
def jobEntered (g : State) (slot : Nat) (job : Job) : State :=
  { g with cp := { g.cp with jobs := sput g.cp.jobs slot job, gone := g.cp.gone.filter (fun q => q != job.pasid) } }

/-- What stood in a slot goes for a new job (R360). -/
def slotCleared (u : State) (slot pasid : Nat) : State :=
  if u.chip.slot = slot then { u with images := serase u.images slot, chip := { slot := slot, pasid := pasid } }
  else { u with images := serase u.images slot }

theorem slotCleared_cp (u : State) (slot pasid : Nat) : (slotCleared u slot pasid).cp = u.cp := by unfold slotCleared; split <;> rfl
theorem slotCleared_hbm (u : State) (slot pasid : Nat) : (slotCleared u slot pasid).hbm = u.hbm := by unfold slotCleared; split <;> rfl
theorem slotCleared_images (u : State) (slot pasid : Nat) : (slotCleared u slot pasid).images = serase u.images slot := by
  unfold slotCleared; split <;> rfl

/-- A slot that holds its on-chip state anew holds the reset state of its job (R360). -/
theorem slotCleared_chip {u : State} {slot pasid : Nat} (here : (slotCleared u slot pasid).chip.slot = slot) :
    (slotCleared u slot pasid).chip = { slot := slot, pasid := pasid } := by
  unfold slotCleared at here ⊢
  split at here
  · next held => rw [if_pos held]
  · next other => exact absurd here other

theorem jobCreate_rejects (starts : CpStarts s 0x30 [lowBits 10 + lowBits 20 * 2 ^ 44, lowBits 36, q64, lowBits 40, lowBits 12 + lowBits 12 * 2 ^ 16] j b)
    (host : qdDev b.desc = false)
    (bad : 4096 < bits s.arg.cp.q5.toNat 0 12 + bits s.arg.cp.q5.toNat 16 12 ∨ s.arg.cp.q3.toNat % 2 ^ 30 ≠ 0 ∨
      2 ^ 36 < s.arg.cp.q2.toNat + s.arg.cp.q3.toNat ∨ s.cp.jobs.any (fun q => q.1 == createdSlot s.arg.cp) = true) :
    exec .jobCreate s = .next (cpOnly s j b 1 0) := by
  rw [show exec .jobCreate s = execJobCreate s from rfl, execJobCreate]
  refine hostCmd_runs (r := .done (cpGo s j b) 1 0) starts host (if_pos ?_)
  rcases bad with signals | size | top | held
  · exact .inr (.inr (.inl signals))
  · exact .inl size
  · exact .inr (.inl top)
  · exact .inr (.inr (.inr (.inr (.inr held))))

theorem jobCreate_creates (starts : CpStarts s 0x30 [lowBits 10 + lowBits 20 * 2 ^ 44, lowBits 36, q64, lowBits 40, lowBits 12 + lowBits 12 * 2 ^ 16] j b)
    (host : qdDev b.desc = false) (signals : bits s.arg.cp.q5.toNat 0 12 + bits s.arg.cp.q5.toNat 16 12 ≤ 4096)
    (size : s.arg.cp.q3.toNat % 2 ^ 30 = 0) (top : s.arg.cp.q2.toNat + s.arg.cp.q3.toNat ≤ 2 ^ 36) (stack : s.arg.cp.q4.toNat / 2 ^ 36 < 12)
    (save : s.arg.cp.q4.toNat % 2 ^ 36 + 0x32800000 ≤ 2 ^ 36) (free : s.cp.jobs.any (fun q => q.1 == createdSlot s.arg.cp) = false) {u : State}
    (tables : jobTables (jobEntered (cpGo s j b) (createdSlot s.arg.cp) (createdJob s.arg.cp)) (createdSlot s.arg.cp) (createdJob s.arg.cp).pasid = some u) :
    exec .jobCreate s = .next (withRec s (slotCleared u (createdSlot s.arg.cp) (createdJob s.arg.cp).pasid) b 0 0) := by
  rw [show exec .jobCreate s = execJobCreate s from rfl, execJobCreate]
  refine hostCmd_runs (r := .done _ 0 0) starts host ((if_neg ?_).trans ?_)
  · rintro (h | h | h | h | h | h)
    · exact h size
    · exact absurd top (Nat.not_le.mpr h)
    · exact absurd signals (Nat.not_le.mpr h)
    · exact absurd stack (Nat.not_lt.mpr h)
    · exact absurd save (Nat.not_le.mpr h)
    · exact Bool.false_ne_true (free.symm.trans h)
  · have tables : jobTables (modCp (cpGo s j b) (fun c => { c with
        jobs := sput c.jobs (createdSlot s.arg.cp) (createdJob s.arg.cp), gone := c.gone.filter (fun p => p != (createdJob s.arg.cp).pasid) }))
        (createdSlot s.arg.cp) (createdJob s.arg.cp).pasid = some u := tables
    simp only [createdJob, createdSlot] at tables ⊢
    simp only [cmdCtx_q1, cmdCtx_q2, cmdCtx_q3, cmdCtx_q4, cmdCtx_q5, tables]
    rfl

/-- A created job has zeroed tokens and is not ended (R360, R404). -/
theorem slotCleared_fresh (s u : State) (slot pasid : Nat) (b : BoundQ) (st val : Nat) :
    (∀ i k, getTok (asJob (withRec s (slotCleared u slot pasid) b st val) slot) i k = {}) ∧
      jobEnded (withRec s (slotCleared u slot pasid) b st val) slot = none :=
  asJob_fresh (by rw [show (withRec s (slotCleared u slot pasid) b st val).images = _ from slotCleared_images ..]; exact find?_serase ..)
    (fun here => ⟨pasid, slotCleared_chip here⟩)

/-! ### JOB_DESTROY -/

theorem jobDestroy_rejects (starts : CpStarts s 0x31 [lowBits 10] j b) (host : qdDev b.desc = false) (first : s.arg.flag = true)
    (vacant : s.cp.jobs.any (fun q => q.1 == s.arg.cp.q1.toNat) = false) : exec .jobDestroy s = .next (cpOnly s j b 1 0) := by
  rw [show exec .jobDestroy s = execJobDestroy s from rfl, execJobDestroy, if_pos first]
  exact hostCmd_runs (r := .done (cpGo s j b) 1 0) starts host (if_pos (congrArg (!·) vacant))

theorem jobDestroy_ends (starts : CpStarts s 0x31 [lowBits 10] j b) (host : qdDev b.desc = false) (first : s.arg.flag = true)
    (held : s.cp.jobs.any (fun q => q.1 == s.arg.cp.q1.toNat) = true) :
    ∃ t c, exec .jobDestroy s = .next t ∧ CpOpen s t j b c ∧ jobEnded t s.arg.cp.q1.toNat ≠ none ∧
      (∀ i, (getGr s i).slot = s.arg.cp.q1.toNat → (getGr s i).state = 2 → (getGr t i).state = 3) ∧
      MemSame s.chip.mem t.chip.mem ∧ MemSame s.host t.host ∧
      ∀ x, (∀ q ∈ s.rpc, x < rpcTagAt s q.1 ∨ rpcTagAt s q.1 + 64 ≤ x) → rdByte t.hbm.cells x = rdByte s.hbm.cells x := by
  obtain ⟨c, im, ends, mem⟩ := inJob_endJob (cpGo s j b) s.arg.cp.q1.toNat 0
  obtain ⟨r, h, cleans, states, frame⟩ := rpcClean_eq { cpGo s j b with chip := c, images := im } s.arg.cp.q1.toNat
  have ended := jobEnded_inJob_endJob (cpGo s j b) s.arg.cp.q1.toNat 0
  rw [ends] at ended
  refine ⟨modCp { cpGo s j b with chip := c, images := im, rpc := r, hbm := h } (fun x => { x with cmds := x.cmds ++ [mkCmd s b s.arg.cp] }),
    mkCmd s b s.arg.cp, ?_, ⟨rfl, rfl, rfl, fun d => ?_, rfl, rfl, rfl, rfl, rfl, rfl⟩, ?_, states, mem, fun _ => ⟨rfl, rfl⟩, frame⟩
  · rw [show exec .jobDestroy s = execJobDestroy s from rfl, execJobDestroy, if_pos first]
    refine hostCmd_runs (r := .later { cpGo s j b with chip := c, images := im, rpc := r, hbm := h } (mkCmd s b s.arg.cp)) starts host
      ((if_neg (by simpa [cpGo] using held)).trans ?_)
    rw [cmdCtx_q1, ends, cleans]
    rfl
  · simp [modCp, cpGo, sget_sput]
  · refine fun none => ended (Eq.trans (jobEnded_congr _ ?_ ?_ ?_) none) <;> rfl

/-- What JOB_DESTROY frees once the cache is clean and the work is gone (R349, R350, R360). -/
theorem jobDestroy_frees {c : CpCmd} (second : s.arg.flag = false) (started : cmdById s s.arg.n = some c) (kind : cpOp c.p = 0x31)
    (clean : ∀ q ∈ s.rpc, q.2.slot = c.p.q1.toNat → q.2.state = 0)
    (idle : ∀ d ∈ s.cp.cmds, d.job = c.p.q1.toNat → cpOp d.p ≠ 0x01 ∧ cpOp d.p ≠ 0x20 ∧ cpOp d.p ≠ 0x21)
    (stays : ∀ w, s.cp.switch = some w → w.out ≠ c.p.q1.toNat ∧ w.inn ≠ c.p.q1.toNat) :
    exec .jobDestroy s = .next (cmdDone (jobFree s c.p.q1.toNat) c 0 0) := by
  rw [show exec .jobDestroy s = execJobDestroy s from rfl, execJobDestroy, if_neg (by simp [second]), pollCmd_runs _ started kind]
  dsimp only
  rw [rpcClean_of_clean clean]
  refine congrArg _ (if_neg ?_)
  simp only [Bool.or_eq_true, List.any_eq_true, Option.any_eq_true, Bool.and_eq_true, decide_eq_true_eq, beq_iff_eq, bne_iff_ne]
  rintro ((⟨q, listed, mine, busy⟩ | ⟨d, listed, mine, unfinished⟩) | ⟨w, runs, moves⟩)
  · exact busy (clean q listed mine)
  · have := idle d listed mine
    omega
  · have := stays w runs
    omega

/-- A freed slot is no job's, has no key and nothing saved. -/
theorem jobFree_gone (s : State) (slot : Nat) : (∀ q ∈ (jobFree s slot).cp.jobs, q.1 ≠ slot) ∧ (∀ q ∈ (jobFree s slot).cp.keys, q.1 ≠ slot) ∧
    ∀ q ∈ (jobFree s slot).images, q.1 ≠ slot :=
  ⟨fun _ => ne_of_mem_serase, fun _ => ne_of_mem_serase, fun _ => ne_of_mem_serase⟩

/-- The root entries of a freed slot are in HBM alone. -/
theorem foldl_setEntry_cp (l : List Nat) (slot : Nat) (s : State) : (l.foldl (fun t r => setEntry t (r + 8 * slot) 0) s).cp = s.cp :=
  foldl_keeps (fun t r => setEntry t (r + 8 * slot) 0) State.cp (fun _ _ => rfl) l s

/-- A freed slot leaves what the queues and the other commands have. -/
theorem jobFree_queues (s : State) (slot : Nat) : (jobFree s slot).cp.recs = s.cp.recs ∧ (jobFree s slot).cp.cmds = s.cp.cmds ∧
    (jobFree s slot).cp.slots = s.cp.slots := by
  simp only [jobFree, modCp]
  rw [foldl_setEntry_cp]
  exact ⟨rfl, rfl, rfl⟩

/-! ### KEY_LOAD and GANG -/

section
variable {slot : Nat} {job : Job} {x : List (Byte × Bool)} {u : State}

theorem keyLoad_rejects (starts : CpStarts s 0x32 [lowBits 10, q64] j b) (host : qdDev b.desc = false) (owner : jobOf s b.pasid = some (slot, job))
    (read : cpAccess (cpGo s j b) slot b.pasid s.arg.cp.q2.toNat 64 none = .ok x u) (bad : Config.unwrapKey (x.map Prod.fst) = none) :
    exec .keyLoad s = .next (cpOnly s j b 1 0) := by
  rw [show exec .keyLoad s = execKeyLoad s from rfl, execKeyLoad]
  refine hostCmd_runs (r := .done (cpGo s j b) 1 0) starts host ?_
  rw [cmdCtx_q2, readOperands_ok _ owner read, bad]
  rfl

theorem keyLoad_loads (starts : CpStarts s 0x32 [lowBits 10, q64] j b) (host : qdDev b.desc = false) (owner : jobOf s b.pasid = some (slot, job))
    (read : cpAccess (cpGo s j b) slot b.pasid s.arg.cp.q2.toNat 64 none = .ok x u) {key : BitVec 256} (good : Config.unwrapKey (x.map Prod.fst) = some key)
    (room : u.cp.keys.any (fun q => q.1 == s.arg.cp.q1.toNat) = true ∨ u.cp.keys.length < 64) :
    exec .keyLoad s = .next (withRec s (modCp u (fun c => { c with keys := sput c.keys s.arg.cp.q1.toNat key })) b 0 0) := by
  rw [show exec .keyLoad s = execKeyLoad s from rfl, execKeyLoad]
  refine hostCmd_runs (r := .done (modCp u (fun c => { c with keys := sput c.keys s.arg.cp.q1.toNat key })) 0 0) starts host ?_
  rw [cmdCtx_q2, readOperands_ok _ owner read, good]
  refine if_neg ?_
  rcases room with held | room
  · simp [keyOk, held]
  · simp [room]

theorem keyLoad_denies (starts : CpStarts s 0x32 [lowBits 10, q64] j b) (host : qdDev b.desc = false) (owner : jobOf s b.pasid = some (slot, job))
    (read : cpAccess (cpGo s j b) slot b.pasid s.arg.cp.q2.toNat 64 none = .ok x u) {key : BitVec 256} (good : Config.unwrapKey (x.map Prod.fst) = some key)
    (new : u.cp.keys.any (fun q => q.1 == s.arg.cp.q1.toNat) = false) (full : 64 ≤ u.cp.keys.length) :
    exec .keyLoad s = .next (cpOnly s j b 2 0) := by
  rw [show exec .keyLoad s = execKeyLoad s from rfl, execKeyLoad]
  refine hostCmd_runs (r := .done (cpGo s j b) 2 0) starts host ?_
  rw [cmdCtx_q2, readOperands_ok _ owner read, good]
  exact if_pos (by simp [keyOk, new, full])

/-- The switch instants that 16-byte entries spell: instant and slot (R323). -/
def gangEntries (x : List (Byte × Bool)) : List (Nat × Nat) := (words128 (x.map Prod.fst)).map (fun w => (bits w 0 64, bits w 64 64))

theorem gang_clears (starts : CpStarts s 0x33 [q64, q64] j b) (host : qdDev b.desc = false) (empty : s.arg.cp.q2 = 0) :
    exec .gang s = .next (withRec s (modCp (cpGo s j b) (fun c => { c with gang := [] })) b 0 0) := by
  rw [show exec .gang s = execGang s from rfl, execGang]
  refine hostCmd_runs (r := .done (modCp (cpGo s j b) (fun c => { c with gang := [] })) 0 0) starts host (if_pos ?_)
  simp [empty]

/-- What GANG does with the schedule that it reads (R323). -/
theorem gang_reads (starts : CpStarts s 0x33 [q64, q64] j b) (host : qdDev b.desc = false) (listed : s.arg.cp.q2 ≠ 0)
    (owner : jobOf s b.pasid = some (slot, job)) (read : cpAccess (cpGo s j b) slot b.pasid s.arg.cp.q1.toNat (16 * s.arg.cp.q2.toNat) none = .ok x u) :
    exec .gang s = .next (if !gangOk (gangEntries x) || (gangEntries x).any (fun p => decide (1024 ≤ p.2)) ||
        (s.cp.gangLast ≠ 0 && (gangEntries x).any (fun p => decide (p.1 < s.cp.gangLast + 250000)))
      then cpOnly s j b 1 0 else withRec s (modCp u (fun c => { c with gang := gangEntries x })) b 0 0) := by
  rw [show exec .gang s = execGang s from rfl, execGang]
  refine (hostCmd_runs (r := if !gangOk (gangEntries x) || (gangEntries x).any (fun p => decide (1024 ≤ p.2)) ||
        (s.cp.gangLast ≠ 0 && (gangEntries x).any (fun p => decide (p.1 < s.cp.gangLast + 250000)))
      then .done (cpGo s j b) 1 0 else .done (modCp u (fun c => { c with gang := gangEntries x })) 0 0) starts host ?_).trans ?_
  · refine (if_neg ?_).trans ?_
    · simpa [← BitVec.toNat_inj] using listed
    · rw [cmdCtx_q1, cmdCtx_q2, readOperands_ok _ owner read]
      rfl
  · rw [apply_ite (cmdEnd s j b)]
    rfl

end

/-! ### PART, RPC_CFG and NVME_ATT -/

/-- The sizes of the dimensions of a partition (R332). -/
def partDims (v : Nat) : List Nat := (List.range 4).map (fun d => bits v (4 * d) 4 + 1)

theorem part_sets (starts : CpStarts s 0x34 [lowBits 16, lowBits 16] j b) (host : qdDev b.desc = false) :
    let size := (partDims s.arg.cp.q2.toNat).foldl (· * ·) 1
    (size ≤ s.arg.cp.q1.toNat → exec .part s = .next (cpOnly s j b 1 0)) ∧
    (s.arg.cp.q1.toNat < size → exec .part s = .next { cpOnly s j b 0 s.arg.cp.q2.toNat with
      partMod := s.arg.cp.q1.toNat, partSize := size, dims := partDims s.arg.cp.q2.toNat }) := by
  intro size
  rw [show exec .part s = execPart s from rfl, execPart]
  exact ⟨fun small => hostCmd_runs (r := .done (cpGo s j b) 1 0) starts host (if_pos small),
    fun large => hostCmd_runs (r := .done { cpGo s j b with partMod := s.arg.cp.q1.toNat, partSize := size, dims := partDims s.arg.cp.q2.toNat } 0
      s.arg.cp.q2.toNat) starts host (if_neg (Nat.not_le.mpr large))⟩

/-- The drive that NVME_ATT names (R360). -/
def attachedDrive (p : CpPacket) : Drive := ⟨p.q2, p.q3, p.q4, bits p.q5.toNat 0 16, bit p.q5.toNat 16⟩

theorem nvmeAtt_attaches (starts : CpStarts s 0x36 [15, q64, q64, q64, lowBits 17] j b) (host : qdDev b.desc = false) :
    exec .nvmeAtt s = .next (withRec s (modCp (cpGo s j b) (fun c => { c with drives := sput c.drives s.arg.cp.q1.toNat (attachedDrive s.arg.cp) })) b 0 0) := by
  rw [show exec .nvmeAtt s = execNvmeAtt s from rfl, execNvmeAtt]
  exact hostCmd_runs (r := .done _ 0 0) starts host rfl

/-- The GiB set aside in each stack (R33, R360). -/
def rpcGibOf (p : CpPacket) (n : Nat) : Nat := bits (p.q1.toNat + p.q2.toNat * 2 ^ 64) (6 * n) 6

/-- The module with the cache's slices set and its tags zero (R33). -/
def rpcCleared (g : State) (p : CpPacket) : State :=
  { modCp g (fun c => { c with rpcGib := ((List.range 12).map (rpcGibOf p)).mapIdx (fun i n => (i, n)) }) with rpc := [] }

/-- HBM zeroed from each of a list of addresses on, in turn. -/
theorem foldl_zeroHbm (l : List Nat) (d n : Nat) (s : State) : ∃ h, l.foldl (fun u a => zeroHbm u (a + d) n) s = { s with hbm := h } ∧
    ∀ x, rdByte h.cells x = if ∃ a ∈ l, a + d ≤ x ∧ x < a + d + n then 0 else rdByte s.hbm.cells x := by
  induction l generalizing s with
  | nil => exact ⟨s.hbm, rfl, fun x => by simp⟩
  | cons a l ih =>
    obtain ⟨h, rest, reads⟩ := ih (zeroHbm s (a + d) n)
    refine ⟨h, rest, fun x => ?_⟩
    rw [reads, rdByte_zeroHbm]
    by_cases later : ∃ a ∈ l, a + d ≤ x ∧ x < a + d + n
    · rw [if_pos later, if_pos (by obtain ⟨c, hc⟩ := later; exact ⟨c, List.mem_cons_of_mem _ hc.1, hc.2⟩)]
    · rw [if_neg later]
      simp [later]

theorem rpcCfg_rejects (starts : CpStarts s 0x35 [q64, 255] j b) (host : qdDev b.desc = false)
    (bad : s.cp.jobs ≠ [] ∨ (∃ n < 12, 32 < rpcGibOf s.arg.cp n) ∨ 256 < ((List.range 12).map (rpcGibOf s.arg.cp)).sum) :
    exec .rpcCfg s = .next (cpOnly s j b 1 0) := by
  rw [show exec .rpcCfg s = execRpcCfg s from rfl, execRpcCfg]
  refine hostCmd_runs (r := .done (cpGo s j b) 1 0) starts host (if_pos ?_)
  rcases bad with jobs | ⟨n, inside, many⟩ | total
  · exact .inl jobs
  · refine .inr (.inl (List.any_eq_true.mpr ⟨rpcGibOf s.arg.cp n, ?_, decide_eq_true many⟩))
    exact List.mem_map.mpr ⟨n, List.mem_range.mpr inside, rfl⟩
  · exact .inr (.inr (by rwa [List.sum_eq_foldl] at total))

theorem rpcCfg_sets (starts : CpStarts s 0x35 [q64, 255] j b) (host : qdDev b.desc = false) (jobs : s.cp.jobs = [])
    (each : ∀ n < 12, rpcGibOf s.arg.cp n ≤ 32) (total : ((List.range 12).map (rpcGibOf s.arg.cp)).sum ≤ 256) :
    exec .rpcCfg s = .next (withRec s ((rpcSlices (rpcCleared (cpGo s j b) s.arg.cp)).foldl (fun u a => zeroHbm u (a + 1016 * 2 ^ 20) (8 * 2 ^ 20))
      (rpcCleared (cpGo s j b) s.arg.cp)) b 0 0) := by
  rw [show exec .rpcCfg s = execRpcCfg s from rfl, execRpcCfg]
  refine hostCmd_runs (r := .done _ 0 0) starts host ((if_neg ?_).trans rfl)
  rintro (held | many | above)
  · exact held jobs
  · obtain ⟨g, listed, much⟩ := List.any_eq_true.mp many
    obtain ⟨n, inside, rfl⟩ := List.mem_map.mp listed
    exact absurd (each n (List.mem_range.mp inside)) (Nat.not_le.mpr (of_decide_eq_true much))
  · rw [List.sum_eq_foldl] at total
    exact absurd total (Nat.not_le.mpr above)

/-- The GiB that a stack has set aside after RPC_CFG (R33). -/
theorem sget_rpcGib (f : Nat → Nat) : ∀ n < 12, sget 0 (((List.range 12).map f).mapIdx (fun i k => (i, k))) n = f n := by
  intro n inside
  simp only [List.range_succ, List.range_zero, List.nil_append, List.map_append, List.map_cons, List.map_nil]
  interval_cases n <;> rfl

end

/-- Settles O46: each command runs its own function of the model, whose branches the lemmas above give one by one. -/
theorem hostCommands : Obligations.HostCommands := by
  intro s j b host p g
  refine ⟨fun starts => ⟨jobCreate_rejects starts host, ?_⟩, fun first starts => ⟨jobDestroy_rejects starts host first, jobDestroy_ends starts host first⟩,
    ?_, ?_, fun starts => ⟨fun empty => ?_, ?_⟩, fun starts => part_sets starts host, fun starts => ⟨rpcCfg_rejects starts host, ?_⟩, fun starts => ?_⟩
  · intro u signals size top stack save free y tables
    refine ⟨_, jobCreate_creates starts host signals size top stack save free tables, ?_, ?_, ?_, slotCleared_fresh ..⟩
    · simp [withRec, slotCleared_cp]
    · exact slotCleared_hbm ..
    · simp [withRec, slotCleared_cp]
  · intro c second started kind loud slot clean idle stays
    obtain ⟨recs, cmds, slots⟩ := jobFree_queues s slot
    obtain ⟨jobs, keys, images⟩ := jobFree_gone s slot
    refine ⟨_, jobDestroy_frees second started kind clean idle stays, cpOver_cmdDone loud recs cmds slots, ?_⟩
    simp only [cmdDone, cpFinish, loud, modCp]
    exact ⟨jobs, keys, images⟩
  · intro x u slot job owner starts read key
    refine ⟨keyLoad_rejects starts host owner read, fun w good room => ⟨_, keyLoad_loads starts host owner read good room, rfl, ?_⟩,
      fun w good new full => keyLoad_denies starts host owner read good new full⟩
    exact fun d k => sget_sput ..
  · exact ⟨_, gang_clears starts host empty, cpDone_withRec rfl rfl rfl rfl, rfl, .of_eq rfl rfl rfl⟩
  · intro x u slot job listed owner read l
    have run := gang_reads starts host listed owner read
    refine ⟨fun bad => ?_, fun last ⟨q, mem, early⟩ => ?_, fun good slots late => ⟨_, run.trans (congrArg _ (if_neg ?_)), rfl, rfl⟩⟩
    · exact run.trans (congrArg _ (if_pos (by simp [show gangOk (gangEntries x) = false from bad])))
    · have soon : (gangEntries x).any (fun p => decide (p.1 < s.cp.gangLast + 250000)) = true := List.any_eq_true.mpr ⟨q, mem, decide_eq_true early⟩
      exact run.trans (congrArg _ (if_pos (by simp [last, soon])))
    · replace slots : ∀ q ∈ gangEntries x, q.2 < 1024 := slots
      replace late : s.cp.gangLast = 0 ∨ ∀ q ∈ gangEntries x, s.cp.gangLast + 250000 ≤ q.1 := late
      have inside : (gangEntries x).any (fun p => decide (1024 ≤ p.2)) = false := by simpa using fun a b h => slots (a, b) h
      rw [show gangOk (gangEntries x) = true from good, inside]
      rcases late with none | late
      · simp [none]
      · simpa using fun _ a b h => late (a, b) h
  · intro jobs each total
    obtain ⟨h, zeroes, reads⟩ := foldl_zeroHbm (rpcSlices (rpcCleared g p)) (1016 * 2 ^ 20) (8 * 2 ^ 20) (rpcCleared g p)
    have run := rpcCfg_sets starts host jobs each total
    rw [zeroes] at run
    refine ⟨_, run, cpDone_withRec rfl rfl rfl rfl, rfl, sget_rpcGib (rpcGibOf p), fun _ => ⟨rfl, rfl⟩, fun _ => ⟨rfl, rfl⟩, fun x => ?_⟩
    have same := reads x
    simp only [Nat.add_assoc] at same
    exact ⟨fun tag => same.trans (if_pos tag), fun tag => same.trans (if_neg tag)⟩
  · exact ⟨_, nvmeAtt_attaches starts host, cpDone_withRec rfl rfl rfl rfl, .of_eq rfl rfl rfl, fun d k => sget_sput ..⟩

end Sys2Proof.Machine
end

section
/-! PROOFS. The mapping commands of the command processor (spec 02 R30, R31, 19 R360, R366). -/

namespace Sys2Proof.Machine

/-! ## Table entries in HBM -/

/-- The bytes of a number in memory, as a list. -/
theorem rdMem_eq_ofBytes (m : Memory) (a n : Nat) : rdMem m a n = ofBytes ((List.range n).map (fun i => rdByte m (a + i))) := by
  induction n generalizing a with
  | zero => rfl
  | succ n ih =>
    rw [List.range_succ_eq_map, List.map_cons, List.map_map, rdMem, ofBytes, ih]
    simp only [Nat.add_zero, Function.comp_def, Nat.add_succ, Nat.succ_add]

theorem rdMem_congr {m m' : Memory} {a n : Nat} (same : ∀ i < n, rdByte m' (a + i) = rdByte m (a + i)) : rdMem m' a n = rdMem m a n := by
  rw [rdMem_eq_ofBytes, rdMem_eq_ofBytes]
  exact congrArg ofBytes (List.map_congr_left (fun i hi => same i (List.mem_range.mp hi)))

/-- A number read back. -/
theorem rdMem_writeNat (m : MemSt) (a n v : Nat) : rdMem (writeNat m a n v).cells a n = v % 256 ^ n := by
  rw [rdMem_eq_ofBytes, ← ofBytes_toBytes, toBytes_eq]
  refine congrArg ofBytes (List.map_congr_left (fun i hi => ?_))
  have inside := List.mem_range.mp hi
  rw [writeNat, rdByte_writeImg, dif_pos (by simp only [List.length_map, toBytes_length]; omega)]
  simp only [Nat.add_sub_cancel_left, List.getElem_map, toBytes_getElem v n i inside]

/-- A number's bytes are all that a write of it changes. -/
theorem rdByte_writeNat_outside (m : MemSt) {a n v x : Nat} (outside : x < a ∨ a + n ≤ x) : rdByte (writeNat m a n v).cells x = rdByte m.cells x := by
  rw [writeNat, rdByte_writeImg, dif_neg (by simp only [List.length_map, toBytes_length]; omega)]

theorem hbmEntry_congr {s t : State} (hbm : t.hbm = s.hbm) (a : Nat) : hbmEntry t a = hbmEntry s a := by rw [hbmEntry, hbm, hbmEntry]

theorem hbmEntry_setEntry (s : State) (a v : Nat) (fits : v < 2 ^ 64) : hbmEntry (setEntry s a v) a = v :=
  (rdMem_writeNat s.hbm a 8 v).trans (Nat.mod_eq_of_lt fits)

theorem entrySame_setEntry (s : State) (a v : Nat) : EntrySame s (setEntry s a v) a := fun _ outside => rdByte_writeNat_outside _ outside

theorem hbmEntry_setEntry_apart (s : State) (v : Nat) {a w : Nat} (apart : w + 8 ≤ a ∨ a + 8 ≤ w) : hbmEntry (setEntry s a v) w = hbmEntry s w :=
  rdMem_congr (fun i inside => entrySame_setEntry s a v (w + i) (by omega))

/-- A state whose HBM is that of `s` with one entry written. -/
theorem entry_written {s t : State} {w v : Nat} (hbm : t.hbm = writeNat s.hbm w 8 v) (fits : v < 2 ^ 64) : hbmEntry t w = v ∧ EntrySame s t w := by
  refine ⟨(hbmEntry_congr (s := setEntry s w v) hbm w).trans (hbmEntry_setEntry s w v fits), fun x outside => ?_⟩
  rw [hbm]
  exact rdByte_writeNat_outside _ outside

/-! ## Walks -/

/-- A walk reads HBM alone. -/
theorem entryTo_congr {s t : State} (hbm : t.hbm = s.hbm) (x lob : Nat) (levels : List (Nat × Nat)) (tbl : Nat) :
    entryTo t x lob levels tbl = entryTo s x lob levels tbl := by
  induction levels generalizing tbl with
  | nil => rfl
  | cons l levels ih => simp only [entryTo, hbmEntry_congr hbm, ih]

theorem leafAt_congr {s t : State} (hbm : t.hbm = s.hbm) (x : Nat) (levels : List (Nat × Nat)) (tbl : Nat) :
    leafAt t x levels tbl = leafAt s x levels tbl := by
  induction levels generalizing tbl with
  | nil => rfl
  | cons l levels ih => simp only [leafAt, hbmEntry_congr hbm, ih]

/-- The entries that a walk of aligned tables meets are aligned. -/
theorem entryTo_aligned {s : State} {x lob e : Nat} {levels : List (Nat × Nat)} {tbl : Nat} (aligned : tbl % 8 = 0)
    (meets : entryTo s x lob levels tbl = some e) : e % 8 = 0 := by
  induction levels generalizing tbl with
  | nil => cases meets
  | cons l levels ih =>
    simp only [entryTo] at meets
    split at meets
    · cases meets
      omega
    · split at meets
      · exact ih (by omega) meets
      · cases meets

section
variable {s : State} {slot stk x lo w tgt leaf tbl : Nat} {r : List (Nat × Nat)}

/-- At its own level a leaf goes into a vacant entry (R30). -/
theorem putLeaf_vacant (vacant : bit (hbmEntry s (tbl + 8 * bits x lo w)) 0 = false) :
    putLeaf slot stk x lo leaf ((lo, w) :: r) tbl s = some (setEntry s (tbl + 8 * bits x lo w) leaf) :=
  (if_pos rfl).trans (if_pos (by simp [vacant]))

/-- Above its level a leaf goes down into the table of its entry (R30). -/
theorem putLeaf_table (above : lo ≠ tgt) (valid : bit (hbmEntry s (tbl + 8 * bits x lo w)) 0 = true)
    (table : bit (hbmEntry s (tbl + 8 * bits x lo w)) 1 = false) :
    putLeaf slot stk x tgt leaf ((lo, w) :: r) tbl s = putLeaf slot stk x tgt leaf r (bits (hbmEntry s (tbl + 8 * bits x lo w)) 13 27 * 8192) s :=
  (if_neg above).trans ((if_neg (by simp [valid])).trans (if_neg (by simp [table])))

end

/-- A leaf goes into the entry that the walk meets, where no page or table is there yet (R30, R366). -/
theorem putLeaf_entryTo {s : State} {x lob e : Nat} {levels : List (Nat × Nat)} {tbl : Nat} (slot stk leaf : Nat)
    (meets : entryTo s x lob levels tbl = some e) (vacant : bit (hbmEntry s e) 0 = false) :
    putLeaf slot stk x lob leaf levels tbl s = some (setEntry s e leaf) := by
  induction levels generalizing tbl with
  | nil => cases meets
  | cons l levels ih =>
    obtain ⟨lo, w⟩ := l
    simp only [entryTo] at meets
    split at meets
    · next target =>
      cases meets
      subst target
      exact putLeaf_vacant vacant
    · next above =>
      split at meets
      · next table =>
        simp only [Bool.and_eq_true, Bool.not_eq_true'] at table
        exact (putLeaf_table above table.1 table.2).trans (ih meets)
      · cases meets

/-- A walk that meets a vacant entry finds the leaf put there (R28, R30). -/
theorem leafAt_setEntry {s : State} {x lob e leaf : Nat} {levels : List (Nat × Nat)} {tbl : Nat} (aligned : tbl % 8 = 0)
    (meets : entryTo s x lob levels tbl = some e) (vacant : bit (hbmEntry s e) 0 = false) (fits : leaf < 2 ^ 64)
    (valid : bit leaf 0 = true) (page : bit leaf 1 = true) : leafAt (setEntry s e leaf) x levels tbl = some (e, leaf, lob) := by
  induction levels generalizing tbl with
  | nil => cases meets
  | cons l levels ih =>
    have place := entryTo_aligned aligned meets
    simp only [entryTo] at meets
    simp only [leafAt]
    split at meets
    · next target =>
      cases meets
      simp [hbmEntry_setEntry s _ leaf fits, valid, page, target]
    · split at meets
      · next table =>
        simp only [Bool.and_eq_true, Bool.not_eq_true'] at table
        have other : e ≠ tbl + 8 * bits x l.1 l.2 := fun same => by simp [same, table.1] at vacant
        rw [hbmEntry_setEntry_apart s leaf (by omega)]
        simp [table.1, table.2, ih (by omega) meets]
      · cases meets

/-- The table of a root entry is aligned (R27). -/
theorem rootTable_aligned {s : State} {root slot pasid tbl : Nat} (root : rootTable s root slot pasid = some tbl) : tbl % 8 = 0 := by
  simp only [rootTable] at root
  split at root
  · cases root
    omega
  · cases root

/-! ## Frames -/

/-- A frame that is taken is the job's, and nothing but the job's frames and the draw changes (R366). -/
theorem takeFrame_some {s u : State} {slot stk size f : Nat} {job : Job} (held : s.cp.jobs.find? (fun p => p.1 == slot) = some (slot, job))
    (taken : takeFrame s slot stk size = some (f, u)) :
    (∃ k, f = stk * 2 ^ 36 + k * size ∧ (job.poolBase + size - 1) / size ≤ k ∧ k < (job.poolBase + job.poolLen) / size) ∧ frameFree s f size = true ∧
      u = modCp (draw s).2 (fun c => { c with jobs := c.jobs.map (fun p => if p.1 = slot then (p.1, { p.2 with frames := p.2.frames ++ [(f, size)] }) else p) }) := by
  simp only [takeFrame, held, Option.map_eq_some_iff, Prod.mk.injEq] at taken
  obtain ⟨a, found, rfl, rfl⟩ := taken
  obtain ⟨i, inside, place⟩ := List.mem_map.mp (List.mem_of_find?_eq_some found)
  have room := List.mem_range.mp inside
  have below := Nat.mod_lt (Config.pick (draw s).1 + i) (Nat.zero_lt_of_lt room)
  exact ⟨⟨_, place.symm, Nat.le_add_right .., by omega⟩, (List.find?_eq_some_iff_append.mp found).1, rfl⟩

/-- Where a frame lies that is taken: in the pool of its job on its stack, apart from the frames of every job and from retired ones (R366, R374). -/
theorem takeFrame_place {s u : State} {slot stk size f : Nat} {job : Job} (positive : 0 < size)
    (held : s.cp.jobs.find? (fun p => p.1 == slot) = some (slot, job)) (taken : takeFrame s slot stk size = some (f, u)) :
    stk * 2 ^ 36 + job.poolBase ≤ f ∧ f + size ≤ stk * 2 ^ 36 + job.poolBase + job.poolLen ∧
      (∀ q ∈ s.cp.jobs, ∀ y ∈ q.2.frames, f + size ≤ y.1 ∨ y.1 + y.2 ≤ f) ∧ (∀ y ∈ s.svc.retired, f + size ≤ 8192 * y ∨ 8192 * y + 8192 ≤ f) ∧
      ∀ q ∈ u.cp.jobs, q.1 = slot → (f, size) ∈ q.2.frames := by
  obtain ⟨⟨k, place, above, below⟩, free, rfl⟩ := takeFrame_some held taken
  have first : job.poolBase ≤ k * size := by
    have := (Nat.div_lt_iff_lt_mul positive).mp (Nat.lt_succ_of_le above)
    rw [Nat.succ_mul] at this
    omega
  have last : k * size + size ≤ job.poolBase + job.poolLen := by
    rw [← Nat.succ_mul]
    exact (Nat.mul_le_mul_right size below).trans (Nat.div_mul_le_self _ _)
  simp only [frameFree, Bool.and_eq_true, List.all_eq_true, Bool.or_eq_true, decide_eq_true_eq] at free
  obtain ⟨⟨⟨frames, retired⟩, -⟩, -⟩ := free
  refine ⟨by omega, by omega, frames, retired, fun q listed mine => ?_⟩
  obtain ⟨y, -, rfl⟩ := List.mem_map.mp listed
  split at mine
  · next own => simp [own]
  · next other => exact absurd mine other

/-- Only the draw and the frames of the job change. -/
theorem takeFrame_hbm {s u : State} {slot stk size f : Nat} (taken : takeFrame s slot stk size = some (f, u)) : u.hbm = s.hbm := by
  unfold takeFrame at taken
  split at taken
  · cases taken
  · simp only [Option.map_eq_some_iff, Prod.mk.injEq] at taken
    obtain ⟨a, -, -, rfl⟩ := taken
    rfl

/-- A frame is aligned to its size (R366). -/
theorem takeFrame_aligned {s u : State} {slot stk f lob : Nat} (low : lob ≤ 36) (taken : takeFrame s slot stk (2 ^ lob) = some (f, u)) : 2 ^ lob ∣ f := by
  unfold takeFrame at taken
  split at taken
  · cases taken
  · simp only [Option.map_eq_some_iff, Prod.mk.injEq] at taken
    obtain ⟨a, found, rfl, -⟩ := taken
    obtain ⟨i, -, rfl⟩ := List.mem_map.mp (List.mem_of_find?_eq_some found)
    exact Nat.dvd_add (Dvd.dvd.mul_left (Nat.pow_dvd_pow 2 low) _) (Nat.dvd_mul_left ..)

/-! ## Pages -/

/-- A leaf that names an aligned frame is valid and maps a page (R29). -/
theorem leaf_valid {f x : Nat} (aligned : 8192 ∣ f) : bit (f + (x * 4 + 3)) 0 = true ∧ bit (f + (x * 4 + 3)) 1 = true := by
  obtain ⟨k, rfl⟩ := aligned
  simp only [bit, beq_iff_eq]
  omega

/-- A page of HBM goes into the vacant entry that a walk for it meets, and a walk then finds it (R28, R30, R366). -/
theorem mapPage_maps {s u : State} {slot pasid lob x ia tbl f e : Nat} (root : rootTable s (sget 0 s.mtsRoot (hbmSlo ia).1) slot pasid = some tbl)
    (taken : takeFrame s slot (hbmSlo ia).1 (2 ^ lob) = some (f, u)) (meets : entryTo s (hbmSlo ia).2 lob mtsLevels tbl = some e)
    (vacant : bit (hbmEntry s e) 0 = false) (fits : f + (x * 4 + 3) < 2 ^ 40) (size : lob = 13 ∨ lob = 21 ∨ lob = 30) :
    ∃ w, mapPage slot pasid lob (x * 4 + 3) s ia = some w ∧ hbmEntry w e = f + (x * 4 + 3) ∧ EntrySame s w e ∧
      leafAt w (hbmSlo ia).2 mtsLevels tbl = some (e, f + (x * 4 + 3), lob) := by
  have hbm := takeFrame_hbm taken
  have aligned : 8192 ∣ f :=
    (Nat.pow_dvd_pow 2 (show 13 ≤ lob by omega)).trans (takeFrame_aligned (by omega) taken)
  obtain ⟨valid, page⟩ := leaf_valid (x := x) aligned
  rw [← entryTo_congr hbm] at meets
  rw [← hbmEntry_congr hbm] at vacant
  refine ⟨setEntry u e (f + (x * 4 + 3)), ?_, hbmEntry_setEntry _ _ _ (by omega), ?_,
    leafAt_setEntry (rootTable_aligned root) meets vacant (by omega) valid page⟩
  · rw [← putLeaf_entryTo slot (hbmSlo ia).1 (f + (x * 4 + 3)) meets vacant]
    simp only [mapPage, root, taken]
  · simpa [EntrySame, hbm] using entrySame_setEntry u e (f + (x * 4 + 3))

/-! ## Commands -/

section
variable {s : State} {j slot : Nat} {b : BoundQ} {job : Job}

/-- The range of a mapping command that does not fit its page size. -/
def misfits (p : CpPacket) : Prop :=
  bits p.q3.toNat 0 2 = 3 ∨ p.q1.toNat % 2 ^ pageLo (bits p.q3.toNat 0 2) ≠ 0 ∨ p.q2.toNat % 2 ^ pageLo (bits p.q3.toNat 0 2) ≠ 0

theorem map_rejects (starts : CpStarts s 0x08 [lowBits 48, q64, 15] j b) (owner : CpJob s b slot job) (bad : misfits s.arg.cp) :
    exec .map s = .next (cpOnly s j b 1 0) := by
  rw [show exec .map s = execMap s from rfl, execMap]
  exact nowCmd_runs (r := .done (cpGo s j b) 1 0) starts owner (if_pos bad)

theorem map_nothing (starts : CpStarts s 0x08 [lowBits 48, q64, 15] j b) (owner : CpJob s b slot job) (fits : ¬misfits s.arg.cp)
    (empty : s.arg.cp.q2.toNat = 0) : exec .map s = .next (cpOnly s j b 0 0) := by
  rw [show exec .map s = execMap s from rfl, execMap]
  exact nowCmd_runs (r := .done (cpGo s j b) 0 0) starts owner ((if_neg fits).trans (if_pos empty))

theorem map_outside (starts : CpStarts s 0x08 [lowBits 48, q64, 15] j b) (owner : CpJob s b slot job) (fits : ¬misfits s.arg.cp)
    (pages : s.arg.cp.q2.toNat ≠ 0) (out : hbmRange s s.arg.cp.q1.toNat s.arg.cp.q2.toNat = false) : exec .map s = .next (cpOnly s j b 1 0) := by
  rw [show exec .map s = execMap s from rfl, execMap]
  exact nowCmd_runs (r := .done (cpGo s j b) 1 0) starts owner ((if_neg fits).trans ((if_neg pages).trans (if_pos (.inl out))))

/-- What MAP does with the pages of its range: all of them, or none (R30, R366). -/
def mapEnd (s : State) (j : Nat) (b : BoundQ) : Option State → State
  | none => cpOnly s j b 2 0
  | some u => withRec s u b 0 0

theorem map_maps (starts : CpStarts s 0x08 [lowBits 48, q64, 15] j b) (owner : CpJob s b slot job) (fits : ¬misfits s.arg.cp)
    (pages : s.arg.cp.q2.toNat ≠ 0) (inside : hbmRange s s.arg.cp.q1.toNat s.arg.cp.q2.toNat = true)
    (small : iaRow s.arg.cp.q1.toNat = some 1 → bits s.arg.cp.q3.toNat 0 2 = 0) {r : Option State}
    (maps : foldOpt (mapPage slot b.pasid (pageLo (bits s.arg.cp.q3.toNat 0 2)) (bits s.arg.cp.q3.toNat 2 2 * 4 + 3))
      ((List.range (s.arg.cp.q2.toNat / 2 ^ pageLo (bits s.arg.cp.q3.toNat 0 2))).map
        (fun i => s.arg.cp.q1.toNat + 2 ^ pageLo (bits s.arg.cp.q3.toNat 0 2) * i)) (cpGo s j b) = r) :
    exec .map s = .next (mapEnd s j b r) := by
  have goes : ¬(hbmRange s s.arg.cp.q1.toNat s.arg.cp.q2.toNat = false ∨ (iaRow s.arg.cp.q1.toNat = some 1 ∧ bits s.arg.cp.q3.toNat 0 2 ≠ 0)) := by
    simp only [inside, Bool.true_eq_false, false_or, not_and, not_not]
    exact small
  rw [show exec .map s = execMap s from rfl, execMap]
  cases r with
  | none =>
    refine nowCmd_runs (r := .done (cpGo s j b) 2 0) starts owner ((if_neg fits).trans ((if_neg pages).trans ((if_neg goes).trans ?_)))
    simp only [cmdCtx_q1, cmdCtx_q2, cmdCtx_q3, cmdCtx_pasid, cmdCtx_slot j owner.1, maps]
    rfl
  | some u =>
    refine nowCmd_runs (r := .done u 0 0) starts owner ((if_neg fits).trans ((if_neg pages).trans ((if_neg goes).trans ?_)))
    simp only [cmdCtx_q1, cmdCtx_q2, cmdCtx_q3, cmdCtx_pasid, cmdCtx_slot j owner.1, maps]
    rfl

/-! ### UNMAP -/

theorem unmap_rejects (starts : CpStarts s 0x09 [q64, q64] j b) (owner : CpJob s b slot job)
    (bad : s.arg.cp.q1.toNat % 2 ^ 48 % 8192 ≠ 0 ∨ s.arg.cp.q2.toNat % 8192 ≠ 0) : exec .unmap s = .next (cpOnly s j b 1 0) := by
  rw [show exec .unmap s = execUnmap s from rfl, execUnmap]
  exact nowCmd_runs (r := .done (cpGo s j b) 1 0) starts owner (if_pos bad)

theorem unmap_nothing (starts : CpStarts s 0x09 [q64, q64] j b) (owner : CpJob s b slot job)
    (aligned : s.arg.cp.q1.toNat % 2 ^ 48 % 8192 = 0) (empty : s.arg.cp.q2.toNat = 0) : exec .unmap s = .next (cpOnly s j b 0 0) := by
  rw [show exec .unmap s = execUnmap s from rfl, execUnmap]
  refine nowCmd_runs (r := .done (cpGo s j b) 0 0) starts owner ((if_neg ?_).trans (if_pos empty))
  exact not_or.mpr ⟨not_not.mpr aligned, not_not.mpr ((congrArg (· % 8192) empty).trans (Nat.zero_mod _))⟩

/-- The module without one page of a job's: its entry clear and its frame free (R366). -/
def pageCleared (g : State) (slot w f size : Nat) : State :=
  modCp (setEntry g w 0) (fun c => { c with jobs := c.jobs.map (fun p => if p.1 = slot then
    (p.1, { p.2 with frames := p.2.frames.filter (fun y => y != (f, size)) }) else p) })

theorem unmapPage_mapped {g : State} {pasid ia w e lo stk o : Nat} (leaf : mtsLeaf g slot pasid ia = some (w, e, lo, stk, o)) :
    unmapPage slot pasid g ia = pageCleared g slot w (bits e 13 27 * 8192) (2 ^ lo) := by
  simp only [unmapPage, leaf, pageCleared]

/-- The one page of a range of 8 KiB. -/
theorem pageList_one (a : Nat) : pageList a 8192 = [a] := by simp [pageList]

/-- UNMAP of a page of 8 KiB that is mapped in the range and that no transfer uses (R364, R366). -/
theorem unmap_page (starts : CpStarts s 0x09 [q64, q64] j b) (owner : CpJob s b slot job) {ia w e stk o : Nat}
    (local_form : s.arg.cp.q1.toNat % 2 ^ 48 = ia) (aligned : ia % 8192 = 0) (size : s.arg.cp.q2.toNat = 8192)
    (inside : hbmRange s s.arg.cp.q1.toNat 8192 = true) (leaf : mtsLeaf s slot b.pasid ia = some (w, e, 13, stk, o))
    (whole : pageInside ia 8192 stk o 8192 = true) (unused : nvmeUses (cpGo s j b) slot b.pasid ia 8192 = false) :
    exec .unmap s = .next (withRec s (pageCleared (cpGo s j b) slot w (bits e 13 27 * 8192) 8192) b 0 0) := by
  replace leaf : mtsLeaf (cpGo s j b) slot b.pasid ia = some (w, e, 13, stk, o) := leaf
  replace inside : hbmRange (cpGo s j b) s.arg.cp.q1.toNat 8192 = true := inside
  rw [show exec .unmap s = execUnmap s from rfl, execUnmap]
  refine nowCmd_runs (r := .done (pageCleared (cpGo s j b) slot w (bits e 13 27 * 8192) 8192) 0 0) starts owner ?_
  simp only [cmdCtx_q1, cmdCtx_q2, cmdCtx_pasid, cmdCtx_slot j owner.1, local_form, size, pageList_one]
  refine (if_neg (by omega)).trans ((if_neg (by omega)).trans ((if_neg ?_).trans ((if_neg ?_).trans ?_)))
  · simp [inside, leaf, whole]
  · simp [unused]
  · rw [List.foldl_cons, unmapPage_mapped leaf]
    rfl

/-! ### MAPX and UNMAPX -/

theorem mapx_rejects (starts : CpStarts s 0x0A [lowBits 46, q64, 63, q64 - 8191] j b) (owner : CpJob s b slot job) (bad : misfits s.arg.cp) :
    exec .mapx s = .next (cpOnly s j b 1 0) := by
  rw [show exec .mapx s = execMapx s from rfl, execMapx]
  exact nowCmd_runs (r := .done (cpGo s j b) 1 0) starts owner (if_pos bad)

theorem mapx_nothing (starts : CpStarts s 0x0A [lowBits 46, q64, 63, q64 - 8191] j b) (owner : CpJob s b slot job) (fits : ¬misfits s.arg.cp)
    (empty : s.arg.cp.q2.toNat = 0) : exec .mapx s = .next (cpOnly s j b 0 0) := by
  rw [show exec .mapx s = execMapx s from rfl, execMapx]
  exact nowCmd_runs (r := .done (cpGo s j b) 0 0) starts owner ((if_neg fits).trans (if_pos empty))

/-- The leaf that MAPX puts for its first page (R31, R360). -/
def mapxLeaf (p : CpPacket) : Nat := p.q4.toNat + bits p.q3.toNat 4 2 * 64 + (bits p.q3.toNat 2 2 * 4 + 3)

/-- MAPX of one page whose entry a walk meets, vacant (R31, R366). -/
theorem mapx_page (starts : CpStarts s 0x0A [lowBits 46, q64, 63, q64 - 8191] j b) (owner : CpJob s b slot job) (fits : ¬misfits s.arg.cp) {tbl e : Nat}
    (size : s.arg.cp.q2.toNat = 2 ^ pageLo (bits s.arg.cp.q3.toNat 0 2)) (top : s.arg.cp.q1.toNat + s.arg.cp.q2.toNat ≤ 2 ^ 46)
    (aligned : s.arg.cp.q4.toNat % 2 ^ pageLo (bits s.arg.cp.q3.toNat 0 2) = 0)
    (target : targetIs s (bits s.arg.cp.q3.toNat 4 2) s.arg.cp.q4.toNat s.arg.cp.q2.toNat = true)
    (root : rootTable s s.egrBase slot b.pasid = some tbl)
    (meets : entryTo s s.arg.cp.q1.toNat (pageLo (bits s.arg.cp.q3.toNat 0 2)) egrLevels tbl = some e) (vacant : bit (hbmEntry s e) 0 = false) :
    exec .mapx s = .next (withRec s (setEntry (cpGo s j b) e (mapxLeaf s.arg.cp)) b 0 0) := by
  replace root : rootTable (cpGo s j b) (cpGo s j b).egrBase slot b.pasid = some tbl := root
  replace target : targetIs (cpGo s j b) (bits s.arg.cp.q3.toNat 4 2) s.arg.cp.q4.toNat s.arg.cp.q2.toNat = true := target
  replace meets : entryTo (cpGo s j b) s.arg.cp.q1.toNat (pageLo (bits s.arg.cp.q3.toNat 0 2)) egrLevels tbl = some e :=
    (entryTo_congr (s := s) (t := cpGo s j b) rfl ..).trans meets
  replace vacant : bit (hbmEntry (cpGo s j b) e) 0 = false := vacant
  have positive := Nat.two_pow_pos (pageLo (bits s.arg.cp.q3.toNat 0 2))
  have put := putLeaf_entryTo (s := cpGo s j b) slot 0 (mapxLeaf s.arg.cp) meets vacant
  rw [show exec .mapx s = execMapx s from rfl, execMapx]
  refine nowCmd_runs (r := .done (setEntry (cpGo s j b) e (mapxLeaf s.arg.cp)) 0 0) starts owner
    ((if_neg fits).trans ((if_neg (show s.arg.cp.q2.toNat ≠ 0 by omega)).trans ((if_neg ?_).trans ?_)))
  · rintro (above | odd | bad)
    · exact absurd top (Nat.not_le.mpr above)
    · exact odd aligned
    · exact Bool.false_ne_true (bad.symm.trans target)
  · have one : s.arg.cp.q2.toNat / 2 ^ pageLo (bits s.arg.cp.q3.toNat 0 2) = 1 := by rw [size, Nat.div_self positive]
    simp only [cmdCtx_q1, cmdCtx_q2, cmdCtx_q3, cmdCtx_q4, cmdCtx_pasid, cmdCtx_slot j owner.1, root, one, List.range_one, foldOpt, Nat.mul_zero, Nat.add_zero]
    rw [mapxLeaf, ← Nat.add_assoc] at put
    simp only [put, mapxLeaf, ← Nat.add_assoc]
    rfl

theorem unmapx_rejects (starts : CpStarts s 0x0B [lowBits 46, q64] j b) (owner : CpJob s b slot job)
    (bad : s.arg.cp.q1.toNat % 8192 ≠ 0 ∨ s.arg.cp.q2.toNat % 8192 ≠ 0) : exec .unmapx s = .next (cpOnly s j b 1 0) := by
  rw [show exec .unmapx s = execUnmapx s from rfl, execUnmapx]
  exact nowCmd_runs (r := .done (cpGo s j b) 1 0) starts owner (if_pos bad)

theorem unmapx_nothing (starts : CpStarts s 0x0B [lowBits 46, q64] j b) (owner : CpJob s b slot job)
    (aligned : s.arg.cp.q1.toNat % 8192 = 0) (empty : s.arg.cp.q2.toNat = 0) : exec .unmapx s = .next (cpOnly s j b 0 0) := by
  rw [show exec .unmapx s = execUnmapx s from rfl, execUnmapx]
  refine nowCmd_runs (r := .done (cpGo s j b) 0 0) starts owner ((if_neg ?_).trans (if_pos empty))
  exact not_or.mpr ⟨not_not.mpr aligned, not_not.mpr ((congrArg (· % 8192) empty).trans (Nat.zero_mod _))⟩

/-- UNMAPX of a page of 8 KiB that is mapped (R366). -/
theorem unmapx_page (starts : CpStarts s 0x0B [lowBits 46, q64] j b) (owner : CpJob s b slot job) {tbl w e : Nat}
    (aligned : s.arg.cp.q1.toNat % 8192 = 0) (size : s.arg.cp.q2.toNat = 8192) (top : s.arg.cp.q1.toNat + s.arg.cp.q2.toNat ≤ 2 ^ 46)
    (root : rootTable s s.egrBase slot b.pasid = some tbl) (leaf : leafAt s s.arg.cp.q1.toNat egrLevels tbl = some (w, e, 13)) :
    exec .unmapx s = .next (withRec s (setEntry (cpGo s j b) w 0) b 0 0) := by
  replace root : rootTable (cpGo s j b) (cpGo s j b).egrBase slot b.pasid = some tbl := root
  replace leaf : leafAt (cpGo s j b) s.arg.cp.q1.toNat egrLevels tbl = some (w, e, 13) := (leafAt_congr (s := s) (t := cpGo s j b) rfl ..).trans leaf
  rw [show exec .unmapx s = execUnmapx s from rfl, execUnmapx]
  refine nowCmd_runs (r := .done (setEntry (cpGo s j b) w 0) 0 0) starts owner ?_
  simp only [cmdCtx_q1, cmdCtx_q2, cmdCtx_pasid, cmdCtx_slot j owner.1, size, pageList_one]
  rw [size] at top
  refine (if_neg (by omega)).trans ((if_neg (by omega)).trans ((if_neg ?_).trans ?_))
  · have start : s.arg.cp.q1.toNat / 8192 * 8192 = s.arg.cp.q1.toNat := Nat.div_mul_cancel (Nat.dvd_of_mod_eq_zero aligned)
    simp only [root, leaf, List.any_cons, List.any_nil, Option.bind_some]
    rintro (above | outside)
    · exact absurd top (Nat.not_le.mpr above)
    · simp [start] at outside
  · simp only [List.foldl_cons, List.foldl_nil, root, Option.bind_some, leaf]
    rfl

end

/-- Settles O44: the branches of each command, and what a page's frame and leaf do to the tables in HBM. -/
theorem mappingCommands : Obligations.MappingCommands := by
  intro s j b slot job owner p a n c lob flags g
  refine ⟨fun starts => ⟨map_rejects starts owner, fun big start length => ?_⟩, ?_, ?_, fun starts => ⟨unmap_rejects starts owner,
    unmap_nothing starts owner, ?_⟩, fun starts => ⟨mapx_rejects starts owner, fun big start empty => ?_, ?_⟩,
    fun starts => ⟨unmapx_rejects starts owner, unmapx_nothing starts owner, ?_⟩⟩
  · have fits : ¬misfits s.arg.cp := by
      rintro (large | odd | odd)
      exacts [big large, odd start, odd length]
    refine ⟨map_nothing starts owner fits, map_outside starts owner fits, fun pages inside small r maps => ?_⟩
    refine (map_maps starts owner fits pages inside small maps).trans (congrArg _ ?_)
    cases r <;> rfl
  · intro t tbl f u e root taken meets vacant fits size
    exact mapPage_maps root taken meets vacant fits size
  · intro t stk size f u positive held taken
    exact takeFrame_place positive held taken
  · intro w e stk o aligned size inside leaf whole unused
    rw [size] at inside whole unused
    obtain ⟨entry, same⟩ := entry_written (s := s) (t := withRec s (pageCleared g slot w (bits e 13 27 * 8192) 8192) b 0 0) (w := w) rfl (Nat.two_pow_pos 64)
    refine ⟨_, unmap_page starts owner rfl aligned size inside leaf whole unused, cpDone_withRec rfl rfl rfl rfl, entry, same, fun q listed mine => ?_⟩
    obtain ⟨y, -, rfl⟩ := List.mem_map.mp listed
    split at mine
    · next own => simp [own]
    · next other => exact absurd mine other
  · have length : n = 0 := empty
    refine mapx_nothing starts owner ?_ empty
    rintro (large | odd | odd)
    exacts [big large, odd start, odd ((congrArg (· % 2 ^ lob) length).trans (Nat.zero_mod _))]
  · intro tbl e leaf big start size top aligned target root meets vacant fits
    have page : ¬misfits s.arg.cp := by
      rintro (large | odd | odd)
      exacts [big large, odd start, odd ((congrArg (· % 2 ^ lob) size).trans (Nat.mod_self _))]
    obtain ⟨entry, same⟩ := entry_written (s := s) (t := withRec s (setEntry g e (mapxLeaf p)) b 0 0) (w := e) rfl fits
    exact ⟨_, mapx_page starts owner page size top aligned target root meets vacant, cpDone_withRec rfl rfl rfl rfl, entry, same⟩
  · intro tbl w e aligned size top root leaf
    obtain ⟨entry, same⟩ := entry_written (s := s) (t := withRec s (setEntry g w 0) b 0 0) (w := w) rfl (Nat.two_pow_pos 64)
    exact ⟨_, unmapx_page starts owner aligned size top root leaf, cpDone_withRec rfl rfl rfl rfl, entry, same⟩

end Sys2Proof.Machine
end

section
/-! PROOFS. The remote page cache: fills, evictions, snoops and maintenance (spec 02 R33 to R37). -/

namespace Sys2Proof.Machine

/-! ## What a write of bytes leaves -/

/-- What the steps of a fold keep that it takes, it keeps. -/
theorem foldl_keeps_of_mem {α β γ : Type} (f : α → β → α) (g : α → γ) (l : List β) (h : ∀ x, ∀ b ∈ l, g (f x b) = g x) (x : α) :
    g (l.foldl f x) = g x := by
  induction l generalizing x with
  | nil => rfl
  | cons b r ih => exact (ih (fun y c hc => h y c (List.mem_cons_of_mem _ hc)) (f x b)).trans (h x b List.mem_cons_self)

/-- Whether another key is listed does not hang on this one's value. -/
theorem any_key_sput {α : Type} (m : SMap α) {k i : Nat} (v : α) (other : k ≠ i) : (sput m k v).any (fun p => p.1 == i) = m.any (fun p => p.1 == i) := by
  induction m with
  | nil => simp [sput, other]
  | cons p r ih =>
    obtain ⟨a, w⟩ := p
    by_cases below : k < a
    · simp [sput, below, other]
    · by_cases hit : k = a
      · subst hit
        simp [sput]
      · simp [sput, below, hit, ih]

/-- A sector of which nothing is written keeps its poison (R47). -/
theorem psnSec_writeSet (m : MemSt) (ws : List (Nat × Byte × Bool)) {sec : Nat} (apart : ∀ w ∈ ws, w.1 / 32 ≠ sec) :
    psnSec (writeSet m ws) sec = psnSec m sec := by
  have other : ∀ b ∈ (ws.map (fun w => w.1 / 32)).dedup, sec ≠ b := by
    intro b hb
    obtain ⟨w, hw, rfl⟩ := List.mem_map.mp (List.mem_dedup.mp hb)
    exact fun e => apart w hw e.symm
  have poison : sget false (writeSet m ws).poison sec = sget false m.poison sec := by
    refine foldl_keeps_of_mem _ (fun x => sget false x sec) _ (fun x b hb => ?_) _
    dsimp only
    split
    · rw [sget_sset, if_neg (other b hb)]
    · split
      · rw [sget_sset, if_neg (other b hb)]
      · rfl
  have inside : ∀ b ∈ (if m.errs.isEmpty then [] else (ws.map (fun w => w.1 / 32)).dedup.filter
      (fun sec => decide (((ws.filter (fun w => w.1 / 32 == sec)).map (fun w => w.1)).dedup.length = 32))), sec ≠ b := by
    intro b hb
    split at hb
    · cases hb
    · exact other b (List.mem_filter.mp hb).1
  have errs : sget Err.none (writeSet m ws).errs sec = sget Err.none m.errs sec :=
    foldl_keeps_of_mem _ (fun x => sget Err.none x sec) _ (fun x b hb => by rw [sget_serase, if_neg (inside b hb)]) _
  have lost : (writeSet m ws).lost.any (fun p => p.1 == sec) = m.lost.any (fun p => p.1 == sec) :=
    foldl_keeps_of_mem _ (fun x : SMap Bool => x.any (fun p => p.1 == sec)) _
      (fun x b hb => any_key_sput x false (fun e => inside b (List.mem_filter.mp hb).1 e.symm)) _
  simp only [psnSec, poison, errs, lost]

/-- Bytes that fill whole sectors leave every other byte and its poison (R47). -/
theorem writeImg_outside (m : MemSt) {a x : Nat} (img : List (Byte × Bool)) (start : 32 ∣ a) (whole : 32 ∣ img.length)
    (outside : x < a ∨ a + img.length ≤ x) : rdByte (writeImg m a img).cells x = rdByte m.cells x ∧ psnAt (writeImg m a img) x = psnAt m x := by
  refine ⟨by rw [rdByte_writeImg, dif_neg (by omega)], psnSec_writeSet m _ (fun w hw => ?_)⟩
  obtain ⟨k, hk, rfl⟩ := List.mem_mapIdx.mp hw
  dsimp only
  omega

/-! ## Granules and their tags -/

/-- HBM reads the same, with its poison, but for the bytes `w` names. -/
def HbmKept (s t : State) (w : Nat → Prop) : Prop := ∀ i, ¬ w i → rdByte t.hbm.cells i = rdByte s.hbm.cells i ∧ psnAt t.hbm i = psnAt s.hbm i

/-- The bytes of a granule's tag (R33). -/
def inTag (s : State) (k i : Nat) : Prop := rpcTagAt s k ≤ i ∧ i < rpcTagAt s k + 64

theorem HbmKept.of_eq {s t : State} (w : Nat → Prop) (same : t.hbm = s.hbm) : HbmKept s t w := fun i _ => by rw [same]; exact ⟨rfl, rfl⟩

theorem HbmKept.trans {s t u : State} {w : Nat → Prop} (first : HbmKept s t w) (second : HbmKept t u w) : HbmKept s u w := fun i outside =>
  ⟨(second i outside).1.trans (first i outside).1, (second i outside).2.trans (first i outside).2⟩

theorem HbmKept.mono {s t : State} {w w' : Nat → Prop} (kept : HbmKept s t w) (sub : ∀ i, w i → w' i) : HbmKept s t w' := fun i outside =>
  kept i (fun hw => outside (sub i hw))

theorem memSame_of_eq {a b : MemSt} (same : b = a) : MemSame a b := fun i => by rw [same]; exact ⟨rfl, rfl⟩

/-- Where the slices lie hangs on what is set aside alone (R33). -/
theorem rpcTagAt_congr {s t : State} (same : t.cp = s.cp) (k : Nat) : rpcTagAt t k = rpcTagAt s k := by
  simp only [rpcTagAt, rpcSlice, rpcSlices, same]

theorem inTag_congr {s t : State} (same : t.cp = s.cp) {k i : Nat} (h : inTag t k i) : inTag s k i := by
  simpa only [inTag, rpcTagAt_congr same] using h

/-- Slices are whole GiB (R33). -/
theorem rpcSlice_aligned (s : State) (k : Nat) : 2 ^ 30 ∣ rpcSlice s k := by
  unfold rpcSlice
  by_cases inside : k / 130048 < (rpcSlices s).length
  · rw [List.getD_eq_getElem _ _ inside]
    obtain ⟨p, -, listed⟩ := List.mem_flatMap.mp (List.getElem_mem inside)
    obtain ⟨i, -, e⟩ := List.mem_map.mp listed
    rw [← e]
    exact Nat.dvd_add (Dvd.dvd.mul_left (Nat.pow_dvd_pow 2 (by norm_num)) _) (Nat.dvd_mul_left ..)
  · rw [List.getD_eq_default _ _ (by omega)]
    exact Nat.dvd_zero _

/-- A granule that changes changes its own tag alone (R33). -/
theorem setGr_tag (s : State) (k : Nat) (g : Granule) : ∃ h, setGr s k g = { s with rpc := sset {} s.rpc k g, hbm := h } ∧
    ∀ i, ¬inTag s k i → rdByte h.cells i = rdByte s.hbm.cells i ∧ psnAt h i = psnAt s.hbm i := by
  unfold setGr
  split
  · exact ⟨s.hbm, rfl, fun _ _ => ⟨rfl, rfl⟩⟩
  · refine ⟨_, rfl, fun i outside => ?_⟩
    obtain ⟨c, slice⟩ := rpcSlice_aligned s k
    have place : rpcTagAt s k = 2 ^ 30 * c + 1016 * 2 ^ 20 + k % 130048 * 64 := by rw [rpcTagAt, slice]
    refine writeImg_outside _ _ ?_ ?_ ?_
    · omega
    · simp only [List.length_map, toBytes_length]
      omega
    · simp only [List.length_map, toBytes_length]
      simp only [inTag] at outside
      omega

/-- Between two states granule `j` has become `g`, and HBM keeps all but the bytes `w` names; on-chip and host memory are as they were. -/
structure GrChange (s t : State) (j : Nat) (g : Granule) (w : Nat → Prop) : Prop where
  granule : getGr t j = g
  others : ∀ i, i ≠ j → getGr t i = getGr s i
  kept : HbmKept s t w
  chip : t.chip = s.chip
  host : t.host = s.host
  cp : t.cp = s.cp
  loss : t.wbLoss = s.wbLoss

theorem setGr_change (s : State) (j : Nat) (g : Granule) : GrChange s (setGr s j g) j g (inTag s j) := by
  obtain ⟨h, set, kept⟩ := setGr_tag s j g
  refine ⟨by rw [getGr_setGr, if_pos rfl], fun i other => by rw [getGr_setGr, if_neg other], ?_, ?_, ?_, ?_, ?_⟩
  · rw [set]
    exact kept
  all_goals rw [set]

theorem GrChange.trans {s t u : State} {j : Nat} {g g' : Granule} {w w' : Nat → Prop} (first : GrChange s t j g w) (second : GrChange t u j g' w')
    (sub : ∀ i, w' i → w i) : GrChange s u j g' w :=
  ⟨second.granule, fun i other => (second.others i other).trans (first.others i other), first.kept.trans (second.kept.mono sub),
    second.chip.trans first.chip, second.host.trans first.host, second.cp.trans first.cp, second.loss.trans first.loss⟩

/-- On-chip and host memory read as they did. -/
theorem GrChange.rest {s t : State} {j : Nat} {g : Granule} {w : Nat → Prop} (change : GrChange s t j g w) :
    MemSame s.chip.mem t.chip.mem ∧ MemSame s.host t.host :=
  ⟨memSame_of_eq (congrArg Chip.mem change.chip), memSame_of_eq change.host⟩

/-- A granule's bytes lie below the tags of its slice (R33). -/
theorem not_inTag_frame (s : State) (k : Nat) {i : Nat} (inside : i < 8192) : ¬inTag s k (rpcFrame s k + i) := by
  simp only [inTag, rpcTagAt, rpcFrame]
  omega

/-- Granules are those of the cache's map. -/
theorem getGr_congr {s t : State} (same : t.rpc = s.rpc) (k : Nat) : getGr t k = getGr s k := by rw [getGr, same, getGr]

/-! ## Fills -/

/-- The place of a page in host memory, or the host's error completion (R31, R104). -/
theorem grTarget_host {s : State} {g : Granule} {k : AKind} {a : Nat}
    (page : egress s g.slot (slotPasid s g.slot) (g.page * 8192) k = .ok (.host a)) :
    grTarget s g k = if Config.hostError s.fclk a then .fault fkHost else .ok (.host a) := by
  simp only [grTarget, egressAt, page]

theorem grTarget_fault {s : State} {g : Granule} {k : AKind} {f : Nat}
    (page : egress s g.slot (slotPasid s g.slot) (g.page * 8192) k = .fault f) : grTarget s g k = .fault f := by
  simp only [grTarget, egressAt, page]

section
variable {s : State}

/-- A fill that fails installs nothing, and each access that waits takes the fault (R34, R112). -/
theorem rpcFailFill_eq (s : State) (j f : Nat) : ∃ o h, rpcFailFill s j f = { s with
      outst := o, rpc := sset {} s.rpc j {}, hbm := h
      rpcFail := s.rpcFail ++ (getGr s j).waits.map (fun w => ((getGr s j).slot, w, (getGr s j).page, f)) } ∧
    ∀ i, ¬inTag s j i → rdByte h.cells i = rdByte s.hbm.cells i ∧ psnAt h i = psnAt s.hbm i := by
  obtain ⟨h, set, kept⟩ := setGr_tag { s with outst := s.outst.map (fun o => match o.2.who with
    | .granule i off => if i = j ∧ off < 8192 then (o.1, { o.2 with who := .gone }) else o
    | _ => o) } j {}
  exact ⟨_, h, congrArg (fun u => failTo u (getGr s j).slot (getGr s j).page f (getGr s j).waits) set, kept⟩

/-- What a failed fill leaves (R34, R112). -/
theorem rpcFailFill_fails (s : State) (j f : Nat) : getGr (rpcFailFill s j f) j = {} ∧ (∀ i, i ≠ j → getGr (rpcFailFill s j f) i = getGr s i) ∧
    (rpcFailFill s j f).rpcFail = s.rpcFail ++ (getGr s j).waits.map (fun w => ((getGr s j).slot, w, (getGr s j).page, f)) ∧
    HbmKept s (rpcFailFill s j f) (inTag s j) ∧ MemSame s.chip.mem (rpcFailFill s j f).chip.mem ∧ MemSame s.host (rpcFailFill s j f).host := by
  obtain ⟨o, h, run, same⟩ := rpcFailFill_eq s j f
  rw [run]
  refine ⟨?_, fun i other => ?_, rfl, same, fun _ => ⟨rfl, rfl⟩, fun _ => ⟨rfl, rfl⟩⟩
  · rw [getGr, sget_sset, if_pos rfl]
  · rw [getGr, sget_sset, if_neg other, getGr]

/-- A fill whose page the egress stage refuses, or whose host answers with an error, fails (R34, R104). -/
theorem fill_fails {f : Nat} (filling : (getGr s s.arg.j).state = 1) (asking : (getGr s s.arg.j).step ≠ 4)
    (target : grTarget s (getGr s s.arg.j) .rd = .fault f) : ∃ t, exec .rpcFillComplete s = .next t ∧
      getGr t s.arg.j = {} ∧ (∀ i, i ≠ s.arg.j → getGr t i = getGr s i) ∧
      t.rpcFail = s.rpcFail ++ (getGr s s.arg.j).waits.map (fun w => ((getGr s s.arg.j).slot, w, (getGr s s.arg.j).page, f)) ∧
      HbmKept s t (inTag s s.arg.j) ∧ MemSame s.chip.mem t.chip.mem ∧ MemSame s.host t.host := by
  refine ⟨rpcFailFill s s.arg.j f, (if_neg (not_not.mpr filling)).trans ((if_neg asking).trans ?_), rpcFailFill_fails s s.arg.j f⟩
  rw [target]

/-- A fill that has come whole is resident (R34). -/
theorem fill_ends (filling : (getGr s s.arg.j).state = 1) (asked : (getGr s s.arg.j).step = 4) (answered : (getGr s s.arg.j).rids = []) :
    exec .rpcFillComplete s = .next (setGr s s.arg.j { getGr s s.arg.j with state := 2, ask := 0, step := 0, waits := [] }) :=
  (if_neg (not_not.mpr filling)).trans ((if_pos asked).trans (congrArg Host.Outcome.next (if_pos (by rw [answered]; rfl))))

/-- A fill from host memory brings its next 2 KiB (R34). -/
theorem fill_reads {a : Nat} (filling : (getGr s s.arg.j).state = 1) (asking : (getGr s s.arg.j).step ≠ 4)
    (target : grTarget s (getGr s s.arg.j) .rd = .ok (.host a)) :
    exec .rpcFillComplete s = .next (setGr (rpcHostRead s s.arg.j a (2048 * fillChunk (getGr s s.arg.j) (getGr s s.arg.j).step) 2048) s.arg.j
      { getGr (rpcHostRead s s.arg.j a (2048 * fillChunk (getGr s s.arg.j) (getGr s s.arg.j).step) 2048) s.arg.j with
        step := (getGr s s.arg.j).step + 1 }) := by
  refine (if_neg (not_not.mpr filling)).trans ((if_neg asking).trans ?_)
  rw [target]

end

theorem rdImg_length (m : MemSt) (a n : Nat) : (rdImg m a n).length = n := by simp [rdImg]

theorem rdImg_getElem (m : MemSt) (a n : Nat) {i : Nat} (inside : i < (rdImg m a n).length) : ((rdImg m a n)[i]).1 = rdByte m.cells (a + i) := by
  simp [rdImg]

/-- A granule whose page is known to lie in host memory (R36). -/
def atHost (g : Granule) (a : Nat) : Granule := { g with host := true, hostAt := a }

/-- A granule to which `n` bytes at `off` have come (R34). -/
def linesCome (g : Granule) (off n : Nat) : Granule := { g with lvalid := g.lvalid ||| lineMask off n }

/-- Bytes that come to a granule go to its place, and its lines are present (R34). -/
theorem rpcInstall_eq (s : State) (j off : Nat) (img : List (Byte × Bool)) {g : Granule} (granule : getGr s j = g) :
    rpcInstall s j off img = setGr { s with hbm := writeImg s.hbm (g.frame + off) img } j (linesCome g off img.length) := by
  subst granule
  rfl

/-- Whole sectors that come from host memory go to the granule's place, and their lines are present (R32, R34). -/
theorem rpcHostRead_eq (s : State) (j a off n : Nat) (start : 32 ∣ (getGr s j).frame + off) (whole : 32 ∣ n) :
    ∃ h c, rpcHostRead s j a off n = { s with
        cxl := c
        hbm := h
        rpc := sset {} (sset {} s.rpc j (atHost (getGr s j) a)) j (linesCome (atHost (getGr s j) a) off n) } ∧
      (∀ i < n, ¬inTag s j ((getGr s j).frame + off + i) → rdByte h.cells ((getGr s j).frame + off + i) = rdByte s.host.cells (a + off + i)) ∧
      ∀ i, ¬(inTag s j i ∨ ((getGr s j).frame + off ≤ i ∧ i < (getGr s j).frame + off + n)) →
        rdByte h.cells i = rdByte s.hbm.cells i ∧ psnAt h i = psnAt s.hbm i := by
  obtain ⟨h₁, noted, kept₁⟩ := setGr_tag (cxlNote s true 0 (slotPasid s (getGr s j).slot) (a + off) n []) j (atHost (getGr s j) a)
  have granule : getGr (setGr (cxlNote s true 0 (slotPasid s (getGr s j).slot) (a + off) n []) j (atHost (getGr s j) a)) j =
      atHost (getGr s j) a := by rw [getGr_setGr, if_pos rfl]
  have length := rdImg_length s.host (a + off) n
  obtain ⟨h₂, came, kept₂⟩ := setGr_tag { s with
      cxl := (cxlNote s true 0 (slotPasid s (getGr s j).slot) (a + off) n []).cxl
      rpc := sset {} s.rpc j (atHost (getGr s j) a)
      hbm := writeImg h₁ ((getGr s j).frame + off) (rdImg s.host (a + off) n) } j
    (linesCome (atHost (getGr s j) a) off n)
  refine ⟨h₂, (cxlNote s true 0 (slotPasid s (getGr s j).slot) (a + off) n []).cxl, ?_, fun i inside apart => ?_, fun i outside => ?_⟩
  · refine (rpcInstall_eq _ j off (rdImg s.host (a + off) n) granule).trans ?_
    rw [noted, length]
    exact came
  · rw [(kept₂ _ apart).1, rdByte_writeImg, dif_pos (by omega)]
    simp only [Nat.add_sub_cancel_left, rdImg_getElem]
  · obtain ⟨tag, apart⟩ := not_or.mp outside
    obtain ⟨byte, poison⟩ := kept₂ i tag
    obtain ⟨byte', poison'⟩ := writeImg_outside h₁ (rdImg s.host (a + off) n) start (by rwa [length]) (x := i) (by omega)
    obtain ⟨byte'', poison''⟩ := kept₁ i tag
    exact ⟨byte.trans (byte'.trans byte''), poison.trans (poison'.trans poison'')⟩

/-- A read of host memory changes its granule alone, and HBM where its bytes go (R32, R34). -/
theorem rpcHostRead_change (s : State) (j a off n : Nat) (start : 32 ∣ (getGr s j).frame + off) (whole : 32 ∣ n) :
    GrChange s (rpcHostRead s j a off n) j (linesCome (atHost (getGr s j) a) off n)
      (fun i => inTag s j i ∨ ((getGr s j).frame + off ≤ i ∧ i < (getGr s j).frame + off + n)) := by
  obtain ⟨h, c, reads, -, kept⟩ := rpcHostRead_eq s j a off n start whole
  rw [reads]
  refine ⟨?_, fun i other => ?_, kept, rfl, rfl, rfl, rfl⟩
  · rw [getGr, sget_sset, if_pos rfl]
  · rw [getGr, sget_sset, if_neg other, sget_sset, if_neg other, getGr]

/-- A read of host memory brings its bytes where they are not the granule's tag (R34). -/
theorem rpcHostRead_bytes (s : State) (j a off n : Nat) (start : 32 ∣ (getGr s j).frame + off) (whole : 32 ∣ n) {i : Nat} (inside : i < n)
    (apart : ¬inTag s j ((getGr s j).frame + off + i)) :
    rdByte (rpcHostRead s j a off n).hbm.cells ((getGr s j).frame + off + i) = rdByte s.host.cells (a + off + i) := by
  obtain ⟨h, c, reads, bytes, -⟩ := rpcHostRead_eq s j a off n start whole
  rw [reads]
  exact bytes i inside apart

section
variable {s : State}

/-- A fill from host memory brings its next 2 KiB to the granule's place (R34). -/
theorem fill_host {a : Nat} (filling : (getGr s s.arg.j).state = 1) (asking : (getGr s s.arg.j).step ≠ 4)
    (frame : (getGr s s.arg.j).frame = rpcFrame s s.arg.j) (target : grTarget s (getGr s s.arg.j) .rd = .ok (.host a)) {off : Nat}
    (chunk : off = 2048 * fillChunk (getGr s s.arg.j) (getGr s s.arg.j).step) :
    ∃ t, exec .rpcFillComplete s = .next t ∧
      GrChange s t s.arg.j { linesCome (atHost (getGr s s.arg.j) a) off 2048 with step := (getGr s s.arg.j).step + 1 }
        (fun i => inTag s s.arg.j i ∨ ((getGr s s.arg.j).frame + off ≤ i ∧ i < (getGr s s.arg.j).frame + off + 2048)) ∧
      ∀ i < 2048, rdByte t.hbm.cells ((getGr s s.arg.j).frame + off + i) = rdByte s.host.cells (a + off + i) := by
  obtain ⟨c, slice⟩ := rpcSlice_aligned s s.arg.j
  have low : off + 2048 ≤ 8192 := by
    have := Nat.mod_lt ((getGr s s.arg.j).ask / 2048 + (getGr s s.arg.j).step) (show 0 < 4 by norm_num)
    rw [chunk, fillChunk]
    omega
  have start : 32 ∣ (getGr s s.arg.j).frame + off := by
    rw [frame, rpcFrame, slice, chunk]
    omega
  have came := rpcHostRead_change s s.arg.j a off 2048 start (by norm_num)
  have steps := setGr_change (rpcHostRead s s.arg.j a off 2048) s.arg.j
    { linesCome (atHost (getGr s s.arg.j) a) off 2048 with step := (getGr s s.arg.j).step + 1 }
  refine ⟨_, ?_, came.trans steps (fun i tag => .inl (inTag_congr came.cp tag)), fun i inside => ?_⟩
  · rw [fill_reads filling asking target, ← chunk, came.granule]
  · have apart : ¬inTag s s.arg.j ((getGr s s.arg.j).frame + off + i) := by
      rw [frame, Nat.add_assoc]
      exact not_inTag_frame s s.arg.j (by omega)
    rw [(steps.kept _ (fun tag => apart (inTag_congr came.cp tag))).1]
    exact rpcHostRead_bytes s s.arg.j a off 2048 start (by norm_num) inside apart

end

/-! ## Evictions -/

/-- The runs of a list of lines hold just its lines. -/
theorem cutRun'_covers (l : List Nat) (x : Nat) : (∃ r ∈ dirtyRuns.cutRun' l, r.1 ≤ x ∧ x < r.1 + r.2) ↔ x ∈ l := by
  induction l with
  | nil => simp [dirtyRuns.cutRun']
  | cons i l ih =>
    rw [List.mem_cons, ← ih, dirtyRuns.cutRun']
    cases cut : dirtyRuns.cutRun' l with
    | nil =>
      simp only [List.mem_singleton, exists_eq_left, List.not_mem_nil, false_and, exists_false, or_false]
      omega
    | cons r rs =>
      obtain ⟨b, m⟩ := r
      dsimp only
      split
      · next joins =>
        simp only [List.mem_cons, exists_eq_or_imp]
        rw [← or_assoc]
        refine or_congr_left ?_
        omega
      · simp only [List.mem_cons, exists_eq_or_imp]
        refine or_congr_left ?_
        omega

/-- The dirty runs hold just the dirty lines (R35). -/
theorem dirtyRuns_covers (d : BitVec 128) (x : Nat) : (∃ r ∈ dirtyRuns d, r.1 ≤ x ∧ x < r.1 + r.2) ↔ d.getLsbD x = true := by
  rw [dirtyRuns, show (fun p : Nat × Nat => (p.1, p.2)) = id from rfl, List.map_id, cutRun'_covers, List.mem_filter, List.mem_range]
  rw [show bit d.toNat x = d.getLsbD x by rw [bit, BitVec.getLsbD, Nat.testBit_eq_decide_div_mod_eq]; rfl]
  exact and_iff_right_of_imp (fun dirty => BitVec.lt_of_getLsbD dirty)

/-- The write-back of one run of lines to host memory (R35). -/
def runBack (src : MemSt) (pasid a frame : Nat) (t : State) (r : Nat × Nat) : State :=
  cxlNote { t with host := writeImg t.host (a + 64 * r.1) (rdImg src (frame + 64 * r.1) (64 * r.2)) } true 1 pasid (a + 64 * r.1) (64 * r.2)
    (rdImg src (frame + 64 * r.1) (64 * r.2))

/-- Runs written back change host memory where they lie, and nothing else (R35). -/
theorem foldl_runBack (src : MemSt) (pasid a frame : Nat) (l : List (Nat × Nat)) (s : State) :
    ∃ h c, l.foldl (runBack src pasid a frame) s = { s with host := h, cxl := c } ∧
      (∀ i, rdByte h.cells (a + i) = if ∃ r ∈ l, r.1 ≤ i / 64 ∧ i / 64 < r.1 + r.2 then rdByte src.cells (frame + i) else rdByte s.host.cells (a + i)) ∧
      ∀ x < a, rdByte h.cells x = rdByte s.host.cells x := by
  induction l generalizing s with
  | nil => exact ⟨s.host, s.cxl, rfl, fun i => by simp, fun _ _ => rfl⟩
  | cons r l ih =>
    obtain ⟨h, c, rest, bytes, below⟩ := ih (runBack src pasid a frame s r)
    have length := rdImg_length src (frame + 64 * r.1) (64 * r.2)
    refine ⟨h, c, rest, fun i => ?_, fun x low => ?_⟩
    · rw [bytes]
      by_cases later : ∃ r ∈ l, r.1 ≤ i / 64 ∧ i / 64 < r.1 + r.2
      · rw [if_pos later, if_pos (by obtain ⟨q, hq⟩ := later; exact ⟨q, List.mem_cons_of_mem _ hq.1, hq.2⟩)]
      · rw [if_neg later]
        refine (rdByte_writeImg s.host _ _ _).trans ?_
        by_cases now : r.1 ≤ i / 64 ∧ i / 64 < r.1 + r.2
        · rw [dif_pos (by omega), if_pos ⟨r, List.mem_cons_self, now⟩, rdImg_getElem]
          exact congrArg _ (by omega)
        · rw [dif_neg (by omega), if_neg (by simpa [now] using later)]
    · rw [below x low]
      exact (rdByte_writeImg s.host _ _ _).trans (dif_neg (by omega))

/-- A way that is free holds its next page's fill, or nothing (R34, R35). -/
theorem wayFree_some {s : State} {j slot page : Nat} (evicting : (getGr s j).state = 3) (next : (getGr s j).next = some (slot, page)) :
    wayFree s j = setGr s j (newFill s j slot page (getGr s j).ask (getGr s j).waits) := by
  simp only [wayFree, evicting, next]

theorem wayFree_none {s : State} {j : Nat} (next : (getGr s j).next = none) : wayFree s j = setGr s j {} := by
  simp only [wayFree, next]
  split
  · next none => cases none
  · rfl

/-- A freed way is clean, and nothing but it changes. -/
theorem wayFree_change {s : State} {j : Nat} (evicting : (getGr s j).state = 3) : ∃ g, GrChange s (wayFree s j) j g (inTag s j) ∧ g.dirty = 0 := by
  cases next : (getGr s j).next with
  | none =>
    rw [wayFree_none next]
    exact ⟨_, setGr_change .., rfl⟩
  | some p =>
    rw [wayFree_some (slot := p.1) (page := p.2) evicting next]
    exact ⟨_, setGr_change .., rfl⟩

/-- A granule with no dirty line writes nothing back (R35). -/
theorem rpcWriteBackOne_clean {s : State} {j : Nat} (clean : (getGr s j).dirty = 0) : rpcWriteBackOne s j = s := if_pos clean

/-- A granule of a host page writes its dirty lines back to it (R35). -/
theorem rpcWriteBackOne_host {s : State} {j a : Nat} (dirty : (getGr s j).dirty ≠ 0) (target : grTarget s (getGr s j) .wr = .ok (.host a)) :
    rpcWriteBackOne s j = (dirtyRuns (getGr s j).dirty).foldl (runBack s.hbm (slotPasid s (getGr s j).slot) a (getGr s j).frame)
      (setGr s j { getGr s j with dirty := 0 }) := by
  refine (if_neg dirty).trans ?_
  rw [target]
  rfl

/-- Lines with no target are lost (R35). -/
theorem rpcWriteBackOne_lost {s : State} {j f : Nat} (dirty : (getGr s j).dirty ≠ 0) (target : grTarget s (getGr s j) .wr = .fault f) :
    rpcWriteBackOne s j = setGr (countLost s (dirtyRuns (getGr s j).dirty).length) j { getGr s j with dirty := 0 } := by
  refine (if_neg dirty).trans ?_
  rw [target]

/-- A granule that is not clean has a run of dirty lines. -/
theorem dirtyRuns_ne_nil {d : BitVec 128} (dirty : d ≠ 0) : dirtyRuns d ≠ [] := by
  intro none
  refine dirty (BitVec.eq_of_getLsbD_eq (fun x _ => ?_))
  have := dirtyRuns_covers d x
  simp only [none, List.not_mem_nil, false_and, exists_false, false_iff, Bool.not_eq_true] at this
  rw [this]
  simp

section
variable {s : State}

/-- An eviction writes back, and frees the way where no packet of it is outstanding (R35). -/
theorem eviction_frees (evicting : (getGr s s.arg.j).state = 3) (answered : (getGr (rpcWriteBackOne s s.arg.j) s.arg.j).rids = []) :
    exec .rpcEviction s = .next (wayFree (rpcWriteBackOne s s.arg.j) s.arg.j) :=
  (if_neg (not_not.mpr evicting)).trans (congrArg Host.Outcome.next (if_pos (by rw [answered]; rfl)))

/-- An eviction of a dirty granule whose lines have no target loses them (R35). -/
theorem eviction_loses {f : Nat} (evicting : (getGr s s.arg.j).state = 3) (answered : (getGr s s.arg.j).rids = []) (dirty : (getGr s s.arg.j).dirty ≠ 0)
    (target : grTarget s (getGr s s.arg.j) .wr = .fault f) :
    ∃ t g, exec .rpcEviction s = .next t ∧ getGr t s.arg.j = g ∧ g.dirty = 0 ∧ (∀ i, i ≠ s.arg.j → getGr t i = getGr s i) ∧
      HbmKept s t (inTag s s.arg.j) ∧ t.host = s.host ∧ t.wbLoss = true := by
  have back := rpcWriteBackOne_lost dirty target
  have counted : countLost s (dirtyRuns (getGr s s.arg.j).dirty).length =
      { s with wbLoss := true, wbCount := min (2 ^ 32 - 1) (s.wbCount + (dirtyRuns (getGr s s.arg.j).dirty).length) } :=
    if_neg (fun none => dirtyRuns_ne_nil dirty (List.length_eq_zero_iff.mp none))
  rw [counted] at back
  have clean := setGr_change { s with wbLoss := true, wbCount := min (2 ^ 32 - 1) (s.wbCount + (dirtyRuns (getGr s s.arg.j).dirty).length) } s.arg.j
    { getGr s s.arg.j with dirty := 0 }
  rw [← back] at clean
  obtain ⟨g, frees, cleared⟩ := wayFree_change (s := rpcWriteBackOne s s.arg.j) (j := s.arg.j) (by rw [clean.granule]; exact evicting)
  have whole := clean.trans frees (fun i tag => inTag_congr clean.cp tag)
  exact ⟨_, g, eviction_frees evicting (by rw [clean.granule]; exact answered), whole.granule, cleared, whole.others, whole.kept, whole.host, whole.loss⟩

/-- An eviction of a dirty granule of a host page writes its lines there (R35). -/
theorem eviction_writes {a : Nat} (evicting : (getGr s s.arg.j).state = 3) (answered : (getGr s s.arg.j).rids = []) (dirty : (getGr s s.arg.j).dirty ≠ 0)
    (target : grTarget s (getGr s s.arg.j) .wr = .ok (.host a)) :
    ∃ t g, exec .rpcEviction s = .next t ∧ getGr t s.arg.j = g ∧ g.dirty = 0 ∧ (∀ i, i ≠ s.arg.j → getGr t i = getGr s i) ∧
      HbmKept s t (inTag s s.arg.j) ∧
      (∀ i, rdByte t.host.cells (a + i) = if (getGr s s.arg.j).dirty.getLsbD (i / 64) then rdByte s.hbm.cells ((getGr s s.arg.j).frame + i)
        else rdByte s.host.cells (a + i)) ∧
      ∀ x < a, rdByte t.host.cells x = rdByte s.host.cells x := by
  obtain ⟨u, set, clean⟩ : ∃ u, setGr s s.arg.j { getGr s s.arg.j with dirty := 0 } = u ∧
      GrChange s u s.arg.j { getGr s s.arg.j with dirty := 0 } (inTag s s.arg.j) := ⟨_, rfl, setGr_change ..⟩
  have runs := rpcWriteBackOne_host dirty target
  obtain ⟨h, c, rest, bytes, below⟩ := foldl_runBack s.hbm (slotPasid s (getGr s s.arg.j).slot) a (getGr s s.arg.j).frame
    (dirtyRuns (getGr s s.arg.j).dirty) u
  rw [set, rest] at runs
  have granules : ∀ i, getGr (rpcWriteBackOne s s.arg.j) i = getGr u i := fun i => by
    rw [runs]
    rfl
  have same : getGr (rpcWriteBackOne s s.arg.j) s.arg.j = { getGr s s.arg.j with dirty := 0 } := (granules s.arg.j).trans clean.granule
  have cp : (rpcWriteBackOne s s.arg.j).cp = s.cp := by
    rw [runs]
    exact clean.cp
  have kept : HbmKept s (rpcWriteBackOne s s.arg.j) (inTag s s.arg.j) := by
    rw [runs]
    exact clean.kept
  obtain ⟨g, frees, cleared⟩ := wayFree_change (s := rpcWriteBackOne s s.arg.j) (j := s.arg.j) (by rw [same]; exact evicting)
  refine ⟨_, g, eviction_frees evicting (by rw [same]; exact answered), frees.granule, cleared,
    fun i other => (frees.others i other).trans ((granules i).trans (clean.others i other)),
    kept.trans (frees.kept.mono (fun i tag => inTag_congr cp tag)), fun i => ?_, fun x low => ?_⟩
  · rw [frees.host, runs]
    rw [bytes, clean.host]
    simp only [dirtyRuns_covers]
  · rw [frees.host, runs]
    rw [below x low, clean.host]

/-- An eviction of a clean granule frees its way (R35). -/
theorem eviction_clean (evicting : (getGr s s.arg.j).state = 3) (answered : (getGr s s.arg.j).rids = []) (clean : (getGr s s.arg.j).dirty = 0) :
    exec .rpcEviction s = .next (wayFree s s.arg.j) := by
  have back := rpcWriteBackOne_clean (s := s) clean
  rw [eviction_frees evicting (by rw [back]; exact answered), back]

end

/-! ## Snoops -/

/-- The bit of one line in a mask of lines. -/
theorem lineBit_getLsbD (i : Nat) {l : Nat} (inside : l < 128) : (BitVec.ofNat 128 (2 ^ i)).getLsbD l = decide (i = l) := by
  rw [BitVec.getLsbD_ofNat, Nat.testBit_two_pow]
  simp [inside]

theorem and_lineBit_ne_zero {x : BitVec 128} {i : Nat} (set : x.getLsbD i = true) : x &&& BitVec.ofNat 128 (2 ^ i) ≠ 0 := by
  intro none
  have here := congrArg (BitVec.getLsbD · i) none
  simp only [BitVec.getLsbD_and, set, lineBit_getLsbD i (BitVec.lt_of_getLsbD set)] at here
  simp at here

/-- A line that is taken out of a mask. -/
theorem and_not_lineBit (x : BitVec 128) (i : Nat) {l : Nat} (inside : l < 128) :
    (x &&& ~~~BitVec.ofNat 128 (2 ^ i)).getLsbD l = (x.getLsbD l && decide (l ≠ i)) := by
  rw [BitVec.getLsbD_and, BitVec.getLsbD_not, lineBit_getLsbD i inside]
  simp [inside, eq_comm]

/-- The granule that a snoop leaves (R36). -/
def snooped (g : Granule) (i : Nat) (inv : Bool) : Granule :=
  { g with dirty := g.dirty &&& ~~~BitVec.ofNat 128 (2 ^ i), lvalid := if inv then g.lvalid &&& ~~~BitVec.ofNat 128 (2 ^ i) else g.lvalid }

theorem snooped_lvalid (g : Granule) (i : Nat) (inv : Bool) {l : Nat} (inside : l < 128) :
    (snooped g i inv).lvalid.getLsbD l = (g.lvalid.getLsbD l && !(inv && decide (l = i))) := by
  cases inv
  · simp [snooped]
  · simpa [snooped] using and_not_lineBit g.lvalid i inside

/-- The line that a snoop reads of a granule: none where it is not present (R36). -/
def snoopLine (s : State) (a : Nat) (g : Granule) : List (Byte × Bool) :=
  if g.lvalid &&& BitVec.ofNat 128 (2 ^ (a % 8192 / 64)) = 0 then [] else rdImg s.hbm (g.frame + 64 * (a % 8192 / 64)) 64

/-- The module as a snoop's answer leaves it, before the granule changes (R36). -/
def snoopAnswered (s : State) (a : Nat) (g : Granule) : State :=
  cxlNote (if (snoopLine s a g).isEmpty ∨ g.dirty &&& BitVec.ofNat 128 (2 ^ (a % 8192 / 64)) = 0 then s
    else { s with host := writeImg s.host (a / 64 * 64) (snoopLine s a g) }) true 3 (slotPasid s g.slot) (a / 64 * 64) 64 (snoopLine s a g)

theorem snoopGr_eq (s : State) (a : Nat) (inv : Bool) (n : Nat) :
    snoopGr s a inv n = setGr (snoopAnswered s a (getGr s n)) n (snooped (getGr s n) (a % 8192 / 64) inv) := rfl

/-- A snoop's answer changes host memory alone, and that only where a dirty line is present (R36). -/
theorem snoopAnswered_eq (s : State) (a : Nat) (g : Granule) : ∃ h c, snoopAnswered s a g = { s with host := h, cxl := c } ∧
    (g.dirty.getLsbD (a % 8192 / 64) = true → g.lvalid.getLsbD (a % 8192 / 64) = true →
      h = writeImg s.host (a / 64 * 64) (rdImg s.hbm (g.frame + 64 * (a % 8192 / 64)) 64)) := by
  by_cases silent : (snoopLine s a g).isEmpty ∨ g.dirty &&& BitVec.ofNat 128 (2 ^ (a % 8192 / 64)) = 0
  · refine ⟨s.host, _, by rw [snoopAnswered, if_pos silent]; rfl, fun dirty present => ?_⟩
    have line : (snoopLine s a g).isEmpty = false := by
      rw [snoopLine, if_neg (and_lineBit_ne_zero present)]
      simp [rdImg]
    rcases silent with none | clean
    · exact absurd (line.symm.trans none) Bool.false_ne_true
    · exact absurd clean (and_lineBit_ne_zero dirty)
  · refine ⟨_, _, by rw [snoopAnswered, if_neg silent]; rfl, fun dirty present => ?_⟩
    rw [snoopLine, if_neg (and_lineBit_ne_zero present)]

/-- A snoop that meets one granule (R36). -/
theorem snoop_one {s : State} {n : Nat} {g : Granule} (only : s.rpc = [(n, g)]) (host : g.host = true) (page : g.hostAt / 8192 = s.arg.v.toNat / 8192) :
    exec .hostSnoop s = .next (snoopGr s s.arg.v.toNat s.arg.flag n) := by
  have meets : (s.rpc.filter (fun p => p.2.host && p.2.hostAt / 8192 == s.arg.v.toNat / 8192)).map Prod.fst = [n] := by
    rw [only]
    simp [host, page]
  rw [show exec .hostSnoop s = execHostSnoop s from rfl, execHostSnoop, meets, List.foldl_cons, List.foldl_nil]

/-- What a snoop of a line leaves of the one granule that holds its page (R36). -/
theorem snoop_granule {s : State} {n : Nat} {g : Granule} (only : s.rpc = [(n, g)]) (host : g.host = true) (page : g.hostAt / 8192 = s.arg.v.toNat / 8192) :
    ∃ t, exec .hostSnoop s = .next t ∧ HbmKept s t (inTag s n) ∧ getGr t n = snooped g (s.arg.v.toNat % 8192 / 64) s.arg.flag ∧
      (g.dirty.getLsbD (s.arg.v.toNat % 8192 / 64) = true → g.lvalid.getLsbD (s.arg.v.toNat % 8192 / 64) = true →
        ∀ x < 64, rdByte t.host.cells (s.arg.v.toNat / 64 * 64 + x) = rdByte s.hbm.cells (g.frame + 64 * (s.arg.v.toNat % 8192 / 64) + x)) := by
  have here : getGr s n = g := by
    rw [getGr, only]
    exact if_pos rfl
  obtain ⟨h, c, answered, line⟩ := snoopAnswered_eq s s.arg.v.toNat g
  obtain ⟨t, left, change⟩ : ∃ t, snoopGr s s.arg.v.toNat s.arg.flag n = t ∧ GrChange { s with host := h, cxl := c } t n
      (snooped g (s.arg.v.toNat % 8192 / 64) s.arg.flag) (inTag { s with host := h, cxl := c } n) :=
    ⟨_, by rw [snoopGr_eq, here, answered], setGr_change ..⟩
  refine ⟨t, (snoop_one only host page).trans (congrArg _ left), fun i outside => change.kept i (fun tag => outside (inTag_congr rfl tag)),
    change.granule, fun dirty present x inside => ?_⟩
  have length := rdImg_length s.hbm (g.frame + 64 * (s.arg.v.toNat % 8192 / 64)) 64
  rw [change.host]
  dsimp only
  rw [line dirty present, rdByte_writeImg, dif_pos (by omega)]
  simp only [Nat.add_sub_cancel_left, rdImg_getElem]

/-! ## Maintenance -/

/-- Clean granules have nothing to write back (R37). -/
theorem foldl_writeBack_clean {s : State} (l : List Nat) (clean : ∀ i ∈ l, (getGr s i).dirty = 0) : l.foldl rpcWriteBackOne s = s := by
  induction l with
  | nil => rfl
  | cons i l ih =>
    obtain ⟨first, rest⟩ := List.forall_mem_cons.mp clean
    rw [List.foldl_cons, rpcWriteBackOne_clean first, ih rest]

/-- A granule dropped by an operation: at once, or once its packets are answered (R37). -/
def dropGr (s : State) (j : Nat) : State :=
  if (getGr s j).rids.isEmpty then setGr s j {} else setGr s j { getGr s j with state := 3, dirty := 0 }

/-- Granules with no packet outstanding are dropped one after another (R37). -/
theorem foldl_dropGr (l : List Nat) (s : State) (answered : ∀ i ∈ l, (getGr s i).rids = []) : ∃ r h, l.foldl dropGr s = { s with rpc := r, hbm := h } ∧
    (∀ i, sget {} r i = if i ∈ l then {} else getGr s i) ∧
    ∀ x, (¬∃ i ∈ l, inTag s i x) → rdByte h.cells x = rdByte s.hbm.cells x ∧ psnAt h x = psnAt s.hbm x := by
  induction l generalizing s with
  | nil => exact ⟨s.rpc, s.hbm, rfl, fun i => by simp [getGr], fun _ _ => ⟨rfl, rfl⟩⟩
  | cons j l ih =>
    obtain ⟨first, later⟩ := List.forall_mem_cons.mp answered
    have drops : dropGr s j = setGr s j {} := if_pos (by rw [first]; rfl)
    obtain ⟨h₁, set, kept₁⟩ := setGr_tag s j {}
    have granules := fun i => getGr_setGr s j i {}
    obtain ⟨r, h, rest, reads, kept⟩ := ih (setGr s j {}) (fun i hi => by
      rw [granules]
      split
      · rfl
      · exact later i hi)
    refine ⟨r, h, ?_, fun i => ?_, fun x outside => ?_⟩
    · rw [List.foldl_cons, drops, rest, set]
    · rw [reads, granules]
      by_cases here : i = j
      · simp [here]
      · simp [here]
    · obtain ⟨byte, poison⟩ := kept x (fun ⟨i, hi, tag⟩ => outside ⟨i, List.mem_cons_of_mem _ hi, by rw [set] at tag; exact inTag_congr rfl tag⟩)
      obtain ⟨byte', poison'⟩ := kept₁ x (fun tag => outside ⟨j, List.mem_cons_self, tag⟩)
      rw [set] at byte poison
      exact ⟨byte.trans byte', poison.trans poison'⟩

/-- The module with an operation of a Lantern core started over the range of its CSRs (R37). -/
def opStarted (s : State) (m op : Nat) : State := modLan s m (fun l => { l with
  rpcOp := op
  rpcLo := bits (rdCsr (getCl s m).lan.core 0x130).toNat 13 33
  rpcHi := bits (rdCsr (getCl s m).lan.core 0x131).toNat 13 33 })

/-- The granules in the range that a Lantern core's CSRs hold (R37). -/
def csrRange (s : State) (m : Nat) : List Nat :=
  (s.rpc.filter (fun p => p.2.slot == s.chip.slot && decide (bits (rdCsr (getCl s m).lan.core 0x130).toNat 13 33 ≤ p.2.page) &&
    decide (p.2.page < bits (rdCsr (getCl s m).lan.core 0x131).toNat 13 33) && p.2.state != 0)).map Prod.fst

theorem rpcRange_opStarted (s : State) (m op : Nat) : rpcRange (opStarted s m op) m = csrRange s m := by
  simp only [rpcRange, opStarted, getCl_modLan_self, modLan_rpc, modLan_chip_slot, csrRange]

theorem getGr_opStarted (s : State) (m op i : Nat) : getGr (opStarted s m op) i = getGr s i := rfl

/-- An operation starts where none runs (R37). -/
theorem rpcEvent_starts {s : State} {op : Nat} (free : (getCl s s.arg.m.toNat).lan.rpcOp = 0) (named : op ≠ 0) :
    rpcEvent s op = rpcPerform (opStarted s s.arg.m.toNat op) s.arg.m.toNat :=
  (if_pos free).trans (if_neg named)

/-- An operation acts where no fill and no eviction is in flight in its range (R37). -/
theorem rpcPerform_acts {s : State} {m op : Nat} (runs : (getCl s m).lan.rpcOp = op) (kind : op = 1 ∨ op = 2 ∨ op = 3)
    (resident : ∀ i ∈ rpcRange s m, (getGr s i).state = 2 ∧ (getGr s i).rids = [] ∧ (getGr s i).dirty = 0) :
    rpcPerform s m = modLan (if op = 1 then s else (rpcRange s m).foldl dropGr s) m (fun l => { l with rpcOp := op + 4 }) := by
  refine (if_neg ?_).trans ?_
  · rintro (none | acted | busy)
    · omega
    · omega
    · obtain ⟨i, listed, flight⟩ := List.any_eq_true.mp busy
      simp [(resident i listed).1] at flight
  · rw [foldl_writeBack_clean _ (fun i hi => (resident i hi).2.2), ite_self, runs]
    rcases kind with rfl | rfl | rfl
    · rw [if_neg (show ¬bit 1 1 = true by decide), if_pos rfl]
    · rw [if_pos (show bit 2 1 = true by decide), if_neg (show ¬2 = 1 by decide)]
      rfl
    · rw [if_pos (show bit 3 1 = true by decide), if_neg (show ¬3 = 1 by decide)]
      rfl

/-- What a maintenance operation does over a range with no fill, no eviction and nothing dirty in it (R37). -/
theorem rpcEvent_acts {s : State} {op : Nat} (free : (getCl s s.arg.m.toNat).lan.rpcOp = 0) (kind : op = 1 ∨ op = 2 ∨ op = 3)
    (resident : ∀ i ∈ csrRange s s.arg.m.toNat, (getGr s i).state = 2 ∧ (getGr s i).rids = [] ∧ (getGr s i).dirty = 0) :
    ∃ r h, (getCl (rpcEvent s op) s.arg.m.toNat).lan.rpcOp = op + 4 ∧ (rpcEvent s op).rpc = r ∧ (rpcEvent s op).hbm = h ∧
      (rpcEvent s op).chip.mem = s.chip.mem ∧ (rpcEvent s op).host = s.host ∧
      (∀ i, sget {} r i = if op ≠ 1 ∧ i ∈ csrRange s s.arg.m.toNat then {} else getGr s i) ∧
      ∀ x, (¬∃ i ∈ csrRange s s.arg.m.toNat, inTag s i x) → rdByte h.cells x = rdByte s.hbm.cells x ∧ psnAt h x = psnAt s.hbm x := by
  rw [← rpcRange_opStarted s s.arg.m.toNat op] at resident ⊢
  have acts := rpcPerform_acts (s := opStarted s s.arg.m.toNat op) (by simp [opStarted]) kind resident
  rw [← rpcEvent_starts free (by omega)] at acts
  rw [acts]
  by_cases back : op = 1
  · rw [if_pos back]
    refine ⟨s.rpc, s.hbm, by simp, by simp [opStarted], by simp [opStarted], by simp [opStarted], by simp [opStarted], fun i => ?_, fun x _ => ⟨rfl, rfl⟩⟩
    rw [if_neg (fun h => h.1 back), getGr]
  · rw [if_neg back]
    obtain ⟨r, h, drops, granules, kept⟩ := foldl_dropGr (rpcRange (opStarted s s.arg.m.toNat op) s.arg.m.toNat) (opStarted s s.arg.m.toNat op)
      (fun i hi => (resident i hi).2.1)
    rw [drops]
    refine ⟨r, h, by simp, by simp, by simp, by simp [opStarted], by simp [opStarted], fun i => ?_, fun x outside => ?_⟩
    · rw [granules, getGr_opStarted]
      simp only [back, not_false_eq_true, true_and, ne_eq]
    · exact kept x (fun ⟨i, hi, tag⟩ => outside ⟨i, hi, inTag_congr rfl tag⟩)

/-- An operation that has acted, and whose write-backs are answered, is over (R37). -/
theorem rpcOpDone_ends {s : State} (acted : 4 ≤ (getCl s s.arg.m.toNat).lan.rpcOp)
    (answered : ∀ i ∈ rpcRange s s.arg.m.toNat, (getGr s i).state ≠ 1 → (getGr s i).rids = []) :
    exec .rpcOpDone s = .next (modLan s s.arg.m.toNat (fun l => { l with rpcOp := 0 })) := by
  refine if_neg ?_
  rintro (early | waits)
  · omega
  · obtain ⟨i, listed, waiting⟩ := List.any_eq_true.mp waits
    simp only [Bool.and_eq_true, bne_iff_ne, Bool.not_eq_true'] at waiting
    simp [answered i listed waiting.1] at waiting

/-- Settles O38: what each event of the cache does to its granules, to HBM and to host memory. -/
theorem pageCacheEvents : Obligations.PageCacheEvents := by
  intro s j g m csr rng tag kept others rest page fails
  refine ⟨fun a filling asking frame place => ?_, fun filling asked answered => ?_, fun f filling asking refused => ?_, fun evicting clean answered => ?_,
    fun a evicting dirty answered place => ?_, fun n h only host page => ?_, fun p op free resident => ?_, fun acted answered => ?_⟩
  · intro o
    by_cases error : Config.hostError s.fclk a = true
    · obtain ⟨t, run, failed⟩ := fill_fails filling asking ((grTarget_host place).trans (if_pos error))
      refine ⟨t, run, ?_⟩
      rw [if_pos error]
      exact failed
    · obtain ⟨t, run, change, bytes⟩ := fill_host filling asking frame ((grTarget_host place).trans (if_neg error)) (off := o) rfl
      refine ⟨t, run, ?_⟩
      rw [if_neg error]
      exact ⟨change.granule, bytes, change.kept, change.others, change.rest⟩
  · have change := setGr_change s j { g with state := 2, ask := 0, step := 0, waits := [] }
    exact ⟨_, fill_ends filling asked answered, change.granule, change.others, change.kept, change.rest⟩
  · exact fill_fails filling asking (grTarget_fault refused)
  · have run := eviction_clean evicting answered clean
    cases next : g.next with
    | none =>
      rw [wayFree_none next] at run
      have change := setGr_change s j {}
      exact ⟨_, run, change.others, change.kept, change.rest, change.granule⟩
    | some p =>
      rw [wayFree_some (slot := p.1) (page := p.2) evicting next] at run
      have change := setGr_change s j (newFill s j p.1 p.2 g.ask g.waits)
      exact ⟨_, run, change.others, change.kept, change.rest, change.granule⟩
  · by_cases error : Config.hostError s.fclk a = true
    · obtain ⟨t, q, run, granule, cleared, same, keeps, memory, lost⟩ := eviction_loses evicting answered dirty ((grTarget_host place).trans (if_pos error))
      refine ⟨t, run, (congrArg Granule.dirty granule).trans cleared, same, keeps, ?_⟩
      rw [if_pos error]
      exact ⟨memSame_of_eq memory, lost⟩
    · obtain ⟨t, q, run, granule, cleared, same, keeps, bytes, below⟩ := eviction_writes evicting answered dirty ((grTarget_host place).trans (if_neg error))
      refine ⟨t, run, (congrArg Granule.dirty granule).trans cleared, same, keeps, ?_⟩
      rw [if_neg error]
      refine ⟨fun i _ => bytes i, fun x outside => ?_⟩
      by_cases low : x < a
      · exact below x low
      · obtain ⟨i, rfl⟩ := Nat.exists_eq_add_of_le (Nat.not_lt.mp low)
        rw [bytes, BitVec.getLsbD_of_ge _ _ (by omega)]
        rfl
  · intro i
    obtain ⟨t, run, keeps, left, back⟩ := snoop_granule only host page
    refine ⟨t, run, keeps, fun l inside => ?_, fun l inside => ?_, back⟩
    · rw [left]
      exact and_not_lineBit h.dirty _ inside
    · rw [left]
      exact snooped_lvalid h _ _ inside
  · obtain ⟨kind, run⟩ : (p.2 = 1 ∨ p.2 = 2 ∨ p.2 = 3) ∧ exec p.1 s = .next (rpcEvent s p.2) := by
      simp only [List.mem_cons, List.not_mem_nil, or_false] at op
      rcases op with rfl | rfl | rfl
      exacts [⟨.inl rfl, rfl⟩, ⟨.inr (.inl rfl), rfl⟩, ⟨.inr (.inr rfl), rfl⟩]
    obtain ⟨r, h, acted, cache, hbm, chip, host, granules, keeps⟩ := rpcEvent_acts free kind resident
    refine ⟨_, run, acted, fun i => ?_, fun x outside => ?_, memSame_of_eq chip, memSame_of_eq host⟩
    · rw [getGr, cache]
      exact granules i
    · rw [hbm]
      exact keeps x outside
  · refine ⟨_, rpcOpDone_ends acted answered, by simp [m], fun i => ?_, .of_eq⟩
    exact getGr_congr rfl i

end Sys2Proof.Machine
end

section
/-! PROOFS. Control and status registers: what a read returns and what a plain write does (spec 11 R197 to R200). -/

namespace Sys2Proof.Machine

/-- The stream of an agent, after a change of an agent's stream. -/
theorem getCore_modCore (s : State) (g h : Agent) (f : Core → Core) : getCore (modCore s g f) h = if h = g then f (getCore s g) else getCore s h := by
  rcases g with m | k <;> rcases h with n | j
  · simp only [getCore, modCore, getCl_modLan, BitVec.toNat_inj, Agent.lantern.injEq]
    split <;> rfl
  · rfl
  · rfl
  · simp only [getCore, modCore, getUnit_modUnit, BitVec.toNat_inj, Agent.unit.injEq]
    split <;> rfl

theorem modCore_allMemSame (s : State) (g : Agent) (f : Core → Core) : AllMemSame s (modCore s g f) := by
  cases g <;> exact .of_eq rfl rfl rfl

/-! ## Words of one bit for each index -/

/-- A number made of the bits that `f` sets below `n`: each of its bits, and its bound. -/
theorem foldl_bits (f : Nat → Bool) (n : Nat) :
    let x := (List.range n).foldl (fun a i => if f i then a + 2 ^ i else a) 0
    x < 2 ^ n ∧ ∀ i, x.testBit i = (decide (i < n) && f i) := by
  induction n with
  | zero => simp
  | succ n ih =>
    obtain ⟨small, low⟩ := ih
    rw [List.range_succ, List.foldl_append]
    simp only [List.foldl_cons, List.foldl_nil]
    generalize (List.range n).foldl (fun a i => if f i then a + 2 ^ i else a) 0 = x at small low
    by_cases set : f n
    · have joined : x + 2 ^ n = 2 ^ n ||| x := by
        rw [Nat.add_comm]
        simpa using Nat.two_pow_add_eq_or_of_lt small 1
      rw [if_pos set]
      refine ⟨by rw [pow_succ]; omega, fun i => ?_⟩
      rw [joined, Nat.testBit_or, Nat.testBit_two_pow, low i]
      by_cases here : n = i
      · simp [← here, set]
      · simp [here, show i < n + 1 ↔ i < n by omega]
    · rw [if_neg set]
      refine ⟨by rw [pow_succ]; omega, fun i => ?_⟩
      rw [low i]
      by_cases here : i = n
      · simp [here, set]
      · simp [show i < n + 1 ↔ i < n by omega]

/-- Bit `i` of the word that holds one bit of every semaphore is that bit of semaphore `i` (R89). -/
theorem semBits_getLsbD (u : Unit) (f : SemSt → Bool) {i : Nat} (h : i < 32) : (BitVec.ofNat 64 (semBits u f)).getLsbD i = f (sget {} u.sems i) := by
  obtain ⟨-, low⟩ := foldl_bits (fun i => f (sget {} u.sems i)) 32
  rw [BitVec.getLsbD_ofNat, semBits, low i]
  simp [h, show i < 64 by omega]

/-! ## Reads -/

/-- Four flags above a count of 16 bits, as the fields of one word. -/
theorem flagWord_fields (busy stop ovf lost : Bool) {p : Nat} (small : p < 2 ^ 16) :
    let v := (BitVec.ofNat 64 (busy.toNat * 2 ^ 31 + stop.toNat * 2 ^ 30 + ovf.toNat * 2 ^ 29 + lost.toNat * 2 ^ 28 + p)).toNat
    bit v 31 = busy ∧ bit v 30 = stop ∧ bit v 29 = ovf ∧ bit v 28 = lost ∧ bits v 0 16 = p := by
  have one := fun b : Bool => b.toNat_le
  have back : ∀ {x : Nat} {b : Bool}, x = b.toNat → (x == 1) = b := by
    rintro _ (_ | _) rfl <;> rfl
  have := one busy; have := one stop; have := one ovf; have := one lost
  intro v
  have value : v = busy.toNat * 2 ^ 31 + stop.toNat * 2 ^ 30 + ovf.toNat * 2 ^ 29 + lost.toNat * 2 ^ 28 + p := by
    simp only [v, BitVec.toNat_ofNat]
    omega
  rw [value]
  exact ⟨back (by omega), back (by omega), back (by omega), back (by omega), by unfold bits; omega⟩

/-- The fields of a tile's status (R46). -/
theorem tileStatus_fields (u : Unit) (t : Nat) : let x := sget {} u.tiles t
    let v := (BitVec.ofNat 64 (tileStatus u t)).toNat
    (bit v 31 = tileBusy u t) ∧ (bit v 30 = x.stop) ∧ (bit v 29 = x.ovf) ∧ (bit v 28 = decide (x.lost ≠ 0)) ∧ bits v 0 16 = x.prog % 2 ^ 16 := by
  intro x
  have place : ∀ (b : Bool) (n : Nat), (if b then n else 0) = b.toNat * n := by
    rintro (_ | _) n <;> simp
  have status : tileStatus u t = (tileBusy u t).toNat * 2 ^ 31 + x.stop.toNat * 2 ^ 30 + x.ovf.toNat * 2 ^ 29 + (decide (x.lost ≠ 0)).toNat * 2 ^ 28
      + x.prog % 2 ^ 16 := by
    simp only [← place, decide_eq_true_eq]
    rfl
  rw [status]
  exact flagWord_fields _ _ _ _ (Nat.mod_lt _ (by norm_num))

/-- The location of a unit is its die, cluster and own number (R199). -/
theorem idLoc_unit (k : UnitIx) : (BitVec.ofNat 64 (idLoc (.unit k))).toNat = k.toNat / 64 * 2 ^ 16 + k.toNat / 8 * 2 ^ 8 + k.toNat := by
  have := k.isLt
  simp only [idLoc, BitVec.toNat_ofNat]
  omega

theorem csrRead_tile (s : State) (g : Agent) (c : Core) (u : Unit) {n t : Nat} (ht : t < 16) (h : n = 0x30 + t) :
    csrRead s g c u n = BitVec.ofNat 64 (tileStatus u t) := by
  subst h
  simp [csrRead, show 0x30 + t ≤ 0x3F by omega]

theorem csrRead_range (s : State) (g : Agent) (c : Core) (u : Unit) {n : Nat} (lo : 0x100 ≤ n) (hi : n ≤ 0x12F) :
    csrRead s g c u n = rdCsr (getCl s g.cl).lan.core n := by
  simp [csrRead, lo, hi, show ∀ k, k < 0x100 → n ≠ k from fun k hk => by omega, show ¬ n ≤ 0x3F by omega, show ¬ n ≤ 0x7F by omega, show ¬ n ≤ 0x83 by omega]

/-- The trap, count and mode registers, which hold their bits plainly (R197). -/
theorem csrRead_plain (s : State) (g : Agent) (c : Core) (u : Unit) {n : Nat} (h : n ∈ [0, 1, 2, 0x91, 0x92, 0xA0, 0xA1, 0xA2, 0xA3, 0xA4, 0xC0, 0xC1]) :
    csrRead s g c u n = rdCsr c n := by
  simp only [List.mem_cons, List.not_mem_nil, or_false] at h
  rcases h with rfl | rfl | rfl | rfl | rfl | rfl | rfl | rfl | rfl | rfl | rfl | rfl <;> rfl

/-- CSRR asks for its register's value (R197). -/
theorem semCsrr_view {s : State} {c : BitVec 14} (may : csrMay (onLan s) c.toNat false = true) (d : Reg) :
    semCsrr d c (hereView s 0) =
      { wr := [d.toNat], eff := lands s d.toNat 1 ((csrRead s s.cur (here s) (hereUnit s) c.toNat).setWidth 4096) [] false 0 } := by
  simp [semCsrr, may, hS]
  rfl

/-! ## Writes -/

/-- CSRW asks for its write, checked and held as its register needs (R197). -/
theorem semCsrw_view {s : State} {c : BitVec 14} (may : csrMay (onLan s) c.toNat true = true) (a : Reg) :
    semCsrw a c (hereView s 0) =
      { reads := [a.toNat], gate := [a.toNat], tiles := if 0x30 ≤ c.toNat ∧ c.toNat ≤ 0x3F then [c.toNat - 0x30] else []
        chk := ((needIll (csrOk s s.cur (here s) c.toNat (reg s a))).unless (regBad s a)).and (psnOf (regBad s a) 0 a.toNat)
        hold := onLan s && decide (c.toNat = 0x132) && decide ((getCl s (hereCl s)).lan.rpcOp ≠ 0)
        eff := fun t => csrWrite t s.cur c.toNat (reg s a) } := by
  simp [semCsrw, may, hS]

/-- The trap, count and mode registers with their writable bits (R197). -/
def plainCsrs : List (Nat × W64) :=
  [(0x91, 0xFFFFFFFF), (0x92, 0xFFFF), (0xA0, 0x1FFFFD), (0xA1, 0x7FF), (0xA2, 0x1FFFFC), (0xA3, 0x80000000001FFFFC),
    (0xA4, 0xFFFFFFFFFFFFFFFF), (0xC0, 0xFFFFFFFF), (0xC1, 0xFFFFFFFF)]

theorem csrMap_plain : ∀ p ∈ plainCsrs, BitVec.ofNat 64 (((csrMap p.1).map (fun x => x.2.2)).getD 0) = p.2 := by decide

/-- A write of a register with no behaviour of its own changes its agent's stream alone. -/
theorem csrWrite_plain (s : State) (g : Agent) (v : W64) : ∀ p ∈ plainCsrs, csrWrite s g p.1 v = modCore s g (fun c => csrPlain c p.1 v) := by
  simp only [plainCsrs, List.forall_mem_cons]
  cases g <;> exact ⟨rfl, rfl, rfl, rfl, rfl, rfl, rfl, rfl, rfl, fun _ h => absurd h List.not_mem_nil⟩

/-- Settles O9: a read by the register it names, a write by what it asks for, and a plain register by its writable bits. -/
theorem csrAccess : Obligations.CsrAccess := by
  unfold Obligations.CsrAccess
  refine ⟨fun s d c may => ⟨runOne_free _ 0 _ s _ (semCsrr_view may d), fun k cur => ?_, fun h => csrRead_plain _ _ _ _ h⟩,
    fun s a c may => runOne_free _ 0 _ s _ (semCsrw_view may a), fun s g v p hp => ?_⟩
  · have unit : hereUnit s = getUnit s k.toNat := by simp [hereUnit, cur]
    rw [unit, cur]
    refine ⟨fun t ht hc => ?_, fun hc i hi => ?_, fun hc i hi => ?_, fun hc => ?_, fun lo hi => csrRead_range _ _ _ _ lo hi⟩
    · rw [csrRead_tile _ _ _ _ ht hc]
      exact tileStatus_fields _ t
    · rw [hc]
      exact semBits_getLsbD _ (fun x => x.err) hi
    · rw [hc]
      exact semBits_getLsbD _ (fun x => x.ovf) hi
    · rw [hc]
      exact idLoc_unit k
  · rw [csrWrite_plain s g v p hp]
    refine ⟨?_, fun n hn => ?_, fun r => ?_, fun h hg => ?_, modCore_allMemSame ..⟩
    · rw [getCore_modCore, if_pos rfl, rdCsr_csrPlain, if_pos rfl, csrMap_plain p hp]
    · rw [getCore_modCore, if_pos rfl, rdCsr_csrPlain, if_neg hn]
    · rw [getCore_modCore, if_pos rfl]
      rfl
    · rw [getCore_modCore, if_neg hg]

end Sys2Proof.Machine
end

section
/-! PROOFS. Issue of a bundle, the bundle with no slot, and TAIL (spec 09 R144 to R158, 11 R202). -/

namespace Sys2Proof.Machine

/-! ## What a bundle comes to -/

/-- The bundle `b` at a unit's pc has taken the tags that it waits for (R76, R144). -/
def bunNamed (s : State) (k : Nat) (b : Bun) (outs : List (SlotIn × SlotOut)) : State :=
  modUnit s k (fun u => { u with core := { u.core with tw := some (u.core.tw.getD (twNamed u.core b outs)) } })

section
variable {s : State} {k link : Nat} {b : Bun} (lawful : firstCase (bunCases (getUnit s k) b (bunOuts s k b link)) = none)
include lawful

/-- A lawful bundle that a cause of R146 holds stalls. -/
theorem bunRun_stalls (held : bunHeld (bunNamed s k b (bunOuts s k b link)) k b (bunOuts s k b link) = true) :
    bunRun s k b link = bunStall (bunNamed s k b (bunOuts s k b link)) k := by
  unfold bunNamed at held ⊢
  simp [bunRun, lawful, held]

/-- A lawful bundle that nothing holds, with no clk owed to its banks and no check failed, issues (R145). -/
theorem bunRun_issues (free : bunHeld (bunNamed s k b (bunOuts s k b link)) k b (bunOuts s k b link) = false)
    (paid : (getUnit s k).owed.getD (bankStalls ((bunOuts s k b link).flatMap (fun o => o.2.acc))) = 0) (sound : bunCheck (bunOuts s k b link) = none) :
    bunRun s k b link =
      bunIssue (touchAll (bunNamed s k b (bunOuts s k b link)) ((bunOuts s k b link).flatMap (fun o => o.2.finds))) k b (bunOuts s k b link) := by
  unfold bunNamed at free ⊢
  simp [bunRun, lawful, free, paid, sound]

end

/-! ## BUNDLE_ISSUE of a unit that issues -/

section
variable {s : State} {n : Inst} (running : (getUnit s s.arg.k.toNat).inst = some n) (ready : issues s s.arg.k.toNat = true)
include running ready

/-- A poisoned byte in the bundle traps (R47, R158). -/
theorem execBundleIssue_poisoned (bad : ∃ x ∈ fetchBundle s s.arg.k.toNat, x.2 = true) :
    execBundleIssue s = .next (unitTrap (bundleFound s s.arg.k.toNat) s.arg.k.toNat cPoison 0 0xFF (getUnit s s.arg.k.toNat).core.pc false) := by
  have poisoned : (fetchBundle s s.arg.k.toNat).any (fun p => p.2) = true := by simpa using bad
  simp [execBundleIssue, running, ready, poisoned]

/-- A clean bundle, whole before the end of the code store, runs where the kernel header of a first bundle is sound (R145, R155). -/
theorem execBundleIssue_clean (clean : ∀ x ∈ fetchBundle s s.arg.k.toNat, x.2 = false)
    (header : n.first = true → kernelBad (bundleFound s s.arg.k.toNat) s.arg.k.toNat n = false) {d : Bun}
    (spells : bundleOf (getUnit s s.arg.k.toNat).core.pc ((fetchBundle s s.arg.k.toNat).map Prod.fst) = d) (whole : d.len ≤ (fetchBundle s s.arg.k.toNat).length) :
    execBundleIssue s = .next (bunRun (bundleFound s s.arg.k.toNat) s.arg.k.toNat d
      (unitLink (bundleFound s s.arg.k.toNat) s.arg.k.toNat (codeAddr ((getUnit s s.arg.k.toNat).core.pc + d.len)))) := by
  have unpoisoned : (fetchBundle s s.arg.k.toNat).any (fun p => p.2) = false := by simpa using clean
  have kernel : (n.first && kernelBad (bundleFound s s.arg.k.toNat) s.arg.k.toNat n) = false := by
    cases first : n.first
    · rfl
    · simp [header first]
  simp [execBundleIssue, running, ready, unpoisoned, kernel, spells, Nat.not_lt.mpr whole]

end

/-! ## The bundle with no slot -/

theorem rdCode_length (s : State) (m seen off n : Nat) : (rdCode s m seen off n).length = n := by simp [rdCode, rdCodeBy]

/-- Where no sector holds a latent error, a read finds none (R47). -/
theorem touchChip_clean {s : State} (errs : s.chip.mem.errs = []) (lost : s.chip.mem.lost = []) (a n : Nat) : touchChip s a n = s := by
  have found : touch s.chip.mem a n = (s.chip.mem, 0, 0) := by
    unfold touch
    simp [errs, lost]
  simp only [touchChip, found]
  rfl

/-- The bundle of a header of zeros: no slot, no wait, four bytes (R144). -/
def emptyBundle (pc : Nat) : Bun := ⟨pc, 4, false, 0, [], none, []⟩

theorem bundleOf_zero (pc : Nat) {y : List Byte} (header : wordAt y 0 = 0) : bundleOf pc y = emptyBundle pc := by
  unfold bundleOf
  rw [header]
  rfl

/-- A header of zeros inside the code store is the whole bundle (R144). -/
theorem fetchBundle_zero {s : State} {k : Nat} {n : Inst} (running : (getUnit s k).inst = some n) (inside : (getUnit s k).core.pc + 4 ≤ codeSize)
    (header : ofBytes ((rdCode s (k / 8) n.codeAt (getUnit s k).core.pc 4).map Prod.fst) = 0) :
    fetchBundle s k = rdCode s (k / 8) n.codeAt (getUnit s k).core.pc 4 := by
  have room : min 4 (codeSize - (getUnit s k).core.pc) = 4 := by omega
  have len : bunLen (bits 0 0 6) = 4 := rfl
  simp only [fetchBundle, running, Option.map_some, Option.getD_some, room, header, len, lt_irrefl, if_false]

/-- The bundle with no slot breaks no case of R158 inside the code store. -/
theorem emptyBundle_lawful {u : Unit} {pc : Nat} (aligned : pc % 4 = 0) (inside : pc + 4 ≤ codeSize) :
    firstCase (bunCases u (emptyBundle pc) []) = none := by
  have cases : bunCases u (emptyBundle pc) [] = [] := by
    simp [bunCases, emptyBundle, clash, aligned, Nat.not_lt.mpr inside]
  rw [cases]
  rfl

/-- Nothing holds the bundle with no slot where it waits for no tags yet (R146). -/
theorem emptyBundle_free {s : State} {k pc : Nat} (noTw : (getUnit s k).core.tw = none) : bunHeld (bunNamed s k (emptyBundle pc) []) k (emptyBundle pc) [] = false := by
  simp [bunHeld, bunNamed, emptyBundle, waitsHeld, twHeld, noTw, twNamed, tagsOf, bit]

/-- Control after a bundle that transfers nowhere and ends no loop (R150). -/
theorem bunControl_seq {s : State} {k : Nat} {b : Bun} (straight : b.loopend = false) :
    bunControl s k b .seq = modUnit s k (fun u => { u with core := goOn u.core (codeAddr (b.addr + b.len)) }) := by
  unfold bunControl
  simp only [straight, Bool.false_and, Bool.false_eq_true, if_false]
  rfl

/-- The issue of the bundle with no slot: one more bundle, counted, and control goes on (R145). -/
theorem bunIssue_empty (s : State) (k pc : Nat) : bunIssue s k (emptyBundle pc) [] =
    modUnit (soloEnd (soloStart s k {}) k) k (fun u => { u with core := goOn u.core (codeAddr (pc + 4)) }) :=
  bunControl_seq (s := soloEnd (soloStart s k {}) k) (b := emptyBundle pc) rfl

/-- A unit past the bundle with no slot at `pc` (R145, R147, R150). -/
def pastEmpty (u : Unit) (pc : Nat) : Unit :=
  { u with
    core := { bump { u.core with tw := none } 1 1 with pc := (pc + 4) % 2 ^ 21, after := none }
    flight := u.flight.map (fun f => { f with r := f.r - 1 })
    owed := none
    inst := u.inst.map (fun i => { i with first := false })
    bundle := u.bundle + 1 }

/-- The issue of the bundle with no slot, outside a delay slot, changes its unit alone. -/
theorem bunIssue_empty_leaves {s : State} {k : Nat} (pc : Nat) (noDelay : (getUnit s k).core.delay = none) :
    let t := bunIssue (bunNamed s k (emptyBundle pc) []) k (emptyBundle pc) []
    getUnit t k = pastEmpty (getUnit s k) pc ∧ (∀ j, j ≠ k → getUnit t j = getUnit s j) ∧ (∀ j, getCl t j = getCl s j) ∧ AllMemSame s t := by
  have delay : (bump { (getUnit s k).core with tw := none } 1 1).delay = none := noDelay
  simp only [bunIssue_empty, soloEnd, soloStart, bunNamed]
  refine ⟨?_, fun j other => ?_, fun j => ?_, .of_eq⟩
  · simp [goOn_noDelay delay, codeAddr_afterWord, pastEmpty]
  · simp [getUnit_modUnit, other]
  · simp

/-- BUNDLE_ISSUE of a bundle with no slot, where memory holds no latent error, comes to its issue (R145). -/
theorem execBundleIssue_empty {s : State} {n : Inst} {k pc : Nat} (unit : s.arg.k.toNat = k) (at0 : (getUnit s k).core.pc = pc)
    (running : (getUnit s k).inst = some n) (ready : issues s k = true) (errs : s.chip.mem.errs = []) (lost : s.chip.mem.lost = [])
    (aligned : pc % 4 = 0) (inside : pc + 4 ≤ codeSize) (clean : ∀ x ∈ rdCode s (k / 8) n.codeAt pc 4, x.2 = false)
    (header : ofBytes ((rdCode s (k / 8) n.codeAt pc 4).map Prod.fst) = 0) (kernel : n.first = true → kernelBad s k n = false)
    (noTw : (getUnit s k).core.tw = none) (paid : (getUnit s k).owed = none ∨ (getUnit s k).owed = some 0) :
    execBundleIssue s = .next (bunIssue (bunNamed s k (emptyBundle pc) []) k (emptyBundle pc) []) := by
  subst unit at0
  have fetched := fetchBundle_zero running inside header
  have found : bundleFound s s.arg.k.toNat = s := touchChip_clean errs lost _ _
  have zero : wordAt ((fetchBundle s s.arg.k.toNat).map Prod.fst) 0 = 0 := by
    rw [fetched, wordAt, List.drop_zero, List.take_of_length_le (by simp [rdCode_length]), header]
  have run := execBundleIssue_clean running ready (by rwa [fetched]) (by rwa [found]) (bundleOf_zero _ zero) (by rw [fetched, rdCode_length]; rfl)
  rw [found] at run
  refine run.trans (congrArg _ (bunRun_issues (emptyBundle_lawful aligned inside) (emptyBundle_free noTw) ?_ rfl))
  rcases paid with owed | owed <;> rw [owed] <;> rfl

/-! ## TAIL -/

/-- A stream after TAIL: its registers are free and no handler runs (R202). -/
def tailedCore (c : Core) : Core :=
  { c with sreg := [], md := [], delay := none, after := none, tw := none, csr := sset 0 c.csr 0xA1 (rdCsr c 0xA1 &&& 0x7FF) }

theorem tailUnit_core (u : Unit) : (tailUnit u).core = tailedCore u.core := rfl
theorem tailLan_core (l : Lan) : (tailLan l).core = tailedCore l.core := rfl

/-- No register of a stream past TAIL holds a value, taint or poison, and its mode bit is clear (R202). -/
theorem tailedCore_free (c : Core) : (∀ r, rdS (tailedCore c) r = 0) ∧ (∀ h, hmeta (tailedCore c) h = {}) ∧ bit (rdCsr (tailedCore c) 0xA1).toNat 31 = false := by
  refine ⟨fun r => ?_, fun h => ?_, ?_⟩
  · simp [rdS, tailedCore, sget]
  · simp [hmeta, tailedCore, sget]
  · have mode : rdCsr (tailedCore c) 0xA1 = rdCsr c 0xA1 &&& 0x7FF := rdCsr_wrCsr c 0xA1 0xA1 _
    have low : (rdCsr c 0xA1 &&& 0x7FF).toNat ≤ 0x7FF := by
      rw [BitVec.toNat_and]
      exact Nat.and_le_right
    rw [mode, bit, Nat.div_eq_of_lt (by omega)]
    rfl

/-- TAIL of a unit moves no memory. -/
theorem tailDo_keeps (s : State) (k : Nat) :
    (tailDo s k).cur = s.cur ∧ (tailDo s k).chip.mem = s.chip.mem ∧ (tailDo s k).hbm = s.hbm ∧ (tailDo s k).host = s.host := by
  unfold tailDo drainOne
  split
  · exact ⟨rfl, rfl, rfl, rfl⟩
  · dsimp only
    split <;> exact ⟨rfl, rfl, rfl, rfl⟩

/-- TAIL of a unit frees its registers, ends what it runs, and discards its loops and results in flight (R202). -/
theorem tailDo_tails (s : State) (k : Nat) : let u := getUnit (tailDo s k) k
    u.core = tailedCore (getUnit s k).core ∧ u.inst = none ∧ u.loops = [] ∧ u.flight = [] ∧ u.v = [] ∧ u.m = [] := by
  unfold tailDo drainOne
  split
  · next idle => simp [tailUnit, tailedCore, idle]
  · dsimp only
    split <;> simp [tailUnit, tailedCore]

/-- TAIL of a Lantern core (R202). -/
theorem lanDid_tail (s : State) (m : Nat) : lanDid s m { xfer := true, ctl := .tail } = modLan (lanIssued s m) m tailLan :=
  lanDid_noEffect s m .tail

/-- TAIL of a unit (R202). -/
theorem unitDid_tail (s : State) (k : Nat) : unitDid s k 0 { xfer := true, ctl := .tail } = tailDo (unitIssued s k { xfer := true, ctl := .tail }) k :=
  unitDid_noEffect s k .tail

/-- TAIL that runs, on either kind of agent (R202). -/
theorem wordDid_tail (s : State) : let t := wordDid s 0 { xfer := true, ctl := .tail }
    (∃ c, here t = tailedCore c) ∧
    (∀ m, s.cur = .lantern m → (getCl t m.toNat).lan.on = false ∧ (getCl t m.toNat).lan.d = []) ∧
    (∀ k, s.cur = .unit k → let u := getUnit t k.toNat
      u.inst = none ∧ u.loops = [] ∧ u.flight = [] ∧ u.v = [] ∧ u.m = []) ∧ AllMemSame s t := by
  unfold wordDid
  rcases hc : s.cur with m | k
  · simp only [lanDid_tail]
    refine ⟨⟨(getCl (lanIssued s m.toNat) m.toNat).lan.core, ?_⟩, fun n hn => ?_, fun _ => nofun, .of_eq⟩
    · exact (here_modLan (s := lanIssued s m.toNat) hc tailLan).trans (tailLan_core _)
    · cases hn
      simp [tailLan]
  · simp only [unitDid_tail]
    obtain ⟨core, unit⟩ := tailDo_tails (unitIssued s k.toNat { xfer := true, ctl := .tail }) k.toNat
    obtain ⟨cur, mem, hbm, host⟩ := tailDo_keeps (unitIssued s k.toNat { xfer := true, ctl := .tail }) k.toNat
    refine ⟨⟨(getUnit (unitIssued s k.toNat { xfer := true, ctl := .tail }) k.toNat).core, ?_⟩, fun _ => nofun, fun j hj => ?_,
      .of_eq (mem.trans (unitIssued_mem ..)) (hbm.trans (unitIssued_hbm ..)) (host.trans (unitIssued_host ..))⟩
    · rw [here, cur, unitIssued_cur, hc]
      exact core
    · cases hj
      exact unit

/-- Settles O8: the branches of BUNDLE_ISSUE, and TAIL by what it leaves of its agent. -/
theorem bundleIssueAndTail : Obligations.BundleIssueAndTail := by
  unfold Obligations.BundleIssueAndTail
  refine ⟨fun s n running ready => ⟨fun bad => ?_, fun clean header whole lawful => ⟨fun held => ?_, fun free paid sound => ?_⟩, ?_⟩, ?_⟩
  · exact execBundleIssue_poisoned running ready bad
  · exact (execBundleIssue_clean running ready clean header rfl whole).trans (congrArg _ (bunRun_stalls lawful held))
  · exact (execBundleIssue_clean running ready clean header rfl whole).trans (congrArg _ (bunRun_issues lawful free paid sound))
  · intro hd errs lost aligned inside clean header kernel noDelay noTw paid
    refine ⟨_, execBundleIssue_empty rfl rfl running ready errs lost aligned inside clean header (fun first => by simp [kernelBad, kernel first]) noTw paid, ?_⟩
    obtain ⟨unit, units, clusters, mem⟩ := bunIssue_empty_leaves (s := s) (getUnit s s.arg.k.toNat).core.pc noDelay
    rw [unit]
    refine ⟨rfl, fun _ => rfl, rfl, rfl, rfl, rfl, rfl, rfl, rfl, rfl, ?_, fun c other => ?_, units, clusters, mem⟩
    · exact (rdCsr_bump ..).trans (if_pos rfl)
    · exact (rdCsr_bump ..).trans (if_neg other)
  · intro s o free
    obtain ⟨⟨c, core⟩, lan, unit, mem⟩ := wordDid_tail s
    obtain ⟨regs, metas, mode⟩ := tailedCore_free c
    rw [← core] at regs metas mode
    exact ⟨runOne_free _ 0 _ s _ rfl free, fun r => regs _, metas, mode, lan, unit, mem⟩

end Sys2Proof.Machine
end

section
/-! PROOFS. Tile slices: reading a row or column of a tile, and writing one (spec 03 R45, 09 R147, R154, 12 R226). -/

namespace Sys2Proof.Machine

/-! ## Errors of the rows read -/

/-- A set of rows, each marked by its bit. -/
theorem foldl_rowBits_getLsbD {α : Type} (l : List α) (f : α → Nat) (x : BitVec 64) {r : Nat} (inside : r < 64) :
    (l.foldl (fun x p => x ||| BitVec.ofNat 64 (2 ^ f p)) x).getLsbD r = (x.getLsbD r || l.any (fun p => f p == r)) := by
  induction l generalizing x with
  | nil => simp
  | cons p l ih =>
    rw [List.foldl_cons, ih, BitVec.getLsbD_or, BitVec.getLsbD_ofNat, Nat.testBit_two_pow, List.any_cons, Bool.or_assoc]
    simp [inside, beq_eq_decide]

/-- The rows read whose error cannot be corrected become poisoned (R45). -/
theorem touchRows_poison (t : Tile) (rows : List Nat) {r : Nat} (inside : r < 64) :
    (touchRows t rows).poison.getLsbD r = (t.poison.getLsbD r || (rows.contains r && t.errs.any (fun p => p.1 == r && p.2 == .unc))) := by
  unfold touchRows
  split
  · next none => simp [List.isEmpty_iff.mp none]
  · rw [foldl_rowBits_getLsbD _ _ _ inside]
    congr 1
    rw [Bool.eq_iff_iff]
    simp only [List.any_eq_true, List.mem_filter, Bool.and_eq_true, beq_iff_eq]
    constructor
    · rintro ⟨p, ⟨⟨mem, read⟩, unc⟩, rfl⟩
      exact ⟨read, p, mem, rfl, unc⟩
    · rintro ⟨read, p, mem, rfl, unc⟩
      exact ⟨p, ⟨⟨mem, read⟩, unc⟩, rfl⟩

/-- Reading rows changes no element. -/
theorem touchRows_el (t : Tile) (rows : List Nat) : (touchRows t rows).el = t.el := by
  unfold touchRows
  split <;> rfl

/-! ## The slice that an instruction names -/

theorem bit_eq_getLsbD {w : Nat} (x : BitVec w) (i : Nat) : bit x.toNat i = x.getLsbD i := by
  rw [← BitVec.testBit_toNat, Nat.testBit_eq_decide_div_mod_eq, bit, beq_eq_decide]

theorem sliceOf_view (s : State) (f : VF) : sliceOf (hereView s 1) f =
    (f.imm.toNat / 2 ^ 11 % 16, f.imm.getLsbD 15, ((reg s f.sreg).toNat + f.imm.toNat / 2 ^ 5 % 64) % 64) := by
  rw [sliceOf, bit_eq_getLsbD, hereView_sr]
  rfl

theorem laneOn_view (s : State) (f : VF) (w : Nat) {j : Nat} (inside : j < 4096 / w) : (laneOn (hereView s 1) f w).getD j false = laneEn s f w j := by
  simp [laneOn, maskBits, laneEn, inside]

/-! ## VTRD -/

/-- The vector that a slice read gives its destination (R204, R226). -/
def sliceRead (s : State) (f : VF) (el : Nat → Nat) : Vec :=
  ofLanes 32 (mergeLanes (fun r => (arg r 0, 0)) (f.mz == 1) (laneOn (hereView s 1) f 32) (lanes 32 (rdV (hereUnit s) f.d.toNat))
    (((List.range 64).map el ++ List.replicate 64 0).map (fun x => [x]))).1

theorem lane_sliceRead (s : State) (f : VF) (el : Nat → Nat) (small : ∀ j < 64, el j < 2 ^ 32) {j : Nat} (inside : j < 128) :
    lane 32 (sliceRead s f el) j = if laneEn s f 32 j then (if j < 64 then el j else 0)
      else if f.mz = 1 then 0 else lane 32 (rdV (hereUnit s) f.d.toNat) j := by
  have row : ∀ i < 128, ((((List.range 64).map el ++ List.replicate 64 0).map (fun x => [x])).getD i []) = [if i < 64 then el i else 0] := by
    intro i hi
    by_cases low : i < 64
    · simp [List.getD_eq_getElem?_getD, List.getElem?_append, low]
    · simp [-List.reduceReplicate, List.getD_eq_getElem?_getD, List.getElem?_append, low, show i - 64 < 64 by omega]
  rw [sliceRead, lane_ofLanes _ _ _ ((mergeLanes_length ..).trans (by simp [laneOn])),
    mergeLanes_fst _ _ _ _ _ _ (by simpa [laneOn] using inside) (by simpa using inside) (by simpa using inside),
    laneOn_view s f 32 inside, row j inside, lanes_getD 32 j _ inside]
  by_cases on : laneEn s f 32 j
  · by_cases low : j < 64
    · simpa [on, low, arg] using small j low
    · simp [on, low, arg]
  · by_cases zero : f.mz = 1
    · simp [on, zero]
    · have bound : lane 32 (rdV (hereUnit s) f.d.toNat) j < 2 ^ 32 := Nat.mod_lt _ (by norm_num)
      have keep : ¬(f.mz == 1) = true := by simpa using zero
      rw [if_neg on, if_neg on, if_neg zero, if_neg keep, Nat.mod_eq_of_lt bound]

/-- VTRD asks for the slice's elements as one result, and leaves the errors of its rows found (R226). -/
theorem semVtrd_view {s : State} {k : UnitIx} (cur : s.cur = .unit k) (f : VF) :
    let n := f.imm.toNat / 2 ^ 11 % 16
    let rc := f.imm.getLsbD 15
    let ix := ((reg s f.sreg).toNat + f.imm.toNat / 2 ^ 5 % 64) % 64
    let rows := if rc then List.range 64 else [ix]
    let tl := sget {} (hereUnit s).tiles n
    semVtrd f (hereView s 1) =
      { wr := [64 + f.d.toNat], tiles := [n]
        eff := fun t => lands s (64 + f.d.toNat) 4 (sliceRead s f (fun e => (sget 0 tl.el (sliceAt rc ix e)).toNat))
          (f.sreg.toNat :: maskHs f (64 + f.d.toNat)) (rows.any (fun i => (touchRows tl rows).poison.getLsbD i)) 0
          (modUnit t k.toNat (fun u => { u with tiles := smod {} u.tiles n (fun tl => touchRows tl rows) })) } := by
  have unit : onLan s = false := by simp [onLan, cur]
  simp only [semVtrd, unitOnly_view _ _ _ unit, sliceOf_view, hereView_u, hereView_g, hereView_core, cur, touchRows_el]
  simp only [lands, cur, hV, hS]
  rfl

/-! ## A one-slot bundle that pops queues -/

/-- What the issue of a one-slot bundle with pops changes in its unit before the instruction's effect (R147, R153). -/
def popStart (s : State) (k slot : Nat) (o : SlotOut) : State :=
  modUnit (soloNamed s k slot o) k (fun u =>
    let u := ageFlights (takePops u o.pops)
    { u with
      core := { u.core with tw := none }
      owed := none
      divFree := if o.div then s.clk + 20 else u.divFree
      inst := u.inst.map (fun i => { i with first := false }) })

/-- Pops of distinct queues take the head of each, and change nothing else (R153). -/
theorem takePops_distinct (qs : List Nat) (distinct : qs.Nodup) (u : Unit) : ∃ x, takePops u qs = { u with queues := x } ∧
    ∀ q, sget [] x q = if qs.contains q then (sget [] u.queues q).drop 1 else sget [] u.queues q := by
  induction qs generalizing u with
  | nil => exact ⟨u.queues, rfl, fun q => by simp⟩
  | cons p qs ih =>
    obtain ⟨fresh, rest⟩ := List.nodup_cons.mp distinct
    obtain ⟨x, pops, heads⟩ := ih rest { u with queues := sset [] u.queues p ((sget [] u.queues p).drop 1) }
    refine ⟨x, pops, fun q => ?_⟩
    rw [heads]
    by_cases here : q = p
    · subst here
      simp [fresh]
    · simp [here]

/-- A one-slot bundle that issues with pops and goes on to the next bundle, step by step. -/
theorem unitDid_pops {s : State} {k slot : Nat} {o : SlotOut} (finds : o.finds = []) (seq : o.ctl = .seq) :
    unitDid s k slot o = modUnit (soloEnd (o.eff (popStart s k slot o)) k) k (fun u => { u with
      core := goOn u.core (codeAddr ((getUnit s k).core.pc + (if slot = 0 then 8 else 12 : Nat))) }) := by
  refine Eq.trans ?_ (bunControl_seq (b := soloBundle (getUnit s k) slot ⟨slot, none, fun _ => o⟩) rfl)
  have control : ([((⟨slot, none, fun _ => o⟩ : SlotIn), o)].find? (fun o => o.2.ctl != .seq)).elim .seq (fun o => o.2.ctl) = Ctl.seq := by simp [seq]
  simp only [unitDid, finds, touchAll_nil]
  unfold bunIssue
  simp only [control, List.flatMap_cons, List.flatMap_nil, List.append_nil, List.any_cons, List.any_nil, Bool.or_false]
  rfl

/-- A one-slot bundle whose only effect is a result in flight. -/
theorem unitDid_issued {s : State} {k slot : Nat} {o : SlotOut} {fl : Nat → Flight} (finds : o.finds = []) (seq : o.ctl = .seq) (distinct : o.pops.Nodup)
    (eff : o.eff = fun t => modUnit t k (fun u => { u with flight := u.flight ++ [fl u.bundle] })) :
    Issued s (unitDid s k slot o) k o.pops [fl (getUnit s k).bundle] := by
  obtain ⟨x, pops, heads⟩ := takePops_distinct o.pops distinct (getUnit (soloNamed s k slot o) k)
  have others : ∀ j, j ≠ k → getUnit (unitDid s k slot o) j = getUnit s j := fun j other => by
    simp [unitDid_pops finds seq, eff, soloEnd, popStart, soloNamed, getUnit_modUnit, other]
  have unit : getUnit (unitDid s k slot o) k = { getUnit s k with
      core := goOn (issuedCore (getUnit s k).core) (codeAddr ((getUnit s k).core.pc + (if slot = 0 then 8 else 12 : Nat)))
      flight := (getUnit s k).flight.map (fun f => { f with r := f.r - 1 }) ++ [fl (getUnit s k).bundle]
      queues := x
      owed := none
      divFree := if o.div then s.clk + 20 else (getUnit s k).divFree
      inst := (getUnit s k).inst.map (fun i => { i with first := false })
      bundle := (getUnit s k).bundle + 1 } := by
    simp only [unitDid_pops finds seq, eff, soloEnd, popStart, getUnit_modUnit_self, pops]
    simp [soloNamed, ageFlights, issuedCore]
  rw [Issued, unit]
  refine ⟨rfl, fun q => ?_, fun r => rdS_goOn .., fun h => hmeta_goOn .., rfl, rfl, rfl, rfl, rfl, fun n => ?_, others, fun j => ?_, ?_⟩
  · simp [heads, soloNamed]
  · simp only [rdCsr_goOn]
    exact rdCsr_bump ..
  · simp [unitDid_pops finds seq, eff, soloEnd, popStart, soloNamed]
  · simp only [unitDid_pops finds seq, eff, soloEnd, popStart, soloNamed]
    exact .of_eq

/-! ## VTWR -/

/-- The lanes below 64 that a list of switches turns on, as a mask. -/
theorem laneMask_getLsbD (l : List Bool) {j : Nat} (inside : j < 64) :
    (BitVec.ofNat 64 ((l.mapIdx (fun i e => (i, e))).foldl (fun a p => if p.2 then a + 2 ^ p.1 else a) 0)).getLsbD j = l.getD j false := by
  have switches : l.mapIdx (fun i e => (i, e)) = (List.range l.length).map (fun i => (i, l.getD i false)) :=
    List.ext_getElem (by simp) (fun i below _ => by simp [show i < l.length by simpa using below])
  obtain ⟨-, low⟩ := foldl_bits (fun i => l.getD i false) l.length
  rw [switches, List.foldl_map, BitVec.getLsbD_ofNat, low j]
  by_cases short : j < l.length
  · simp [inside, short]
  · simp [short]

/-- The write of a tile slice that VTWR sends on its way as bundle `n` (R226). -/
def sliceFlight (s : State) (f : VF) (n : Nat) : Flight where
  cls := 3
  reg := f.imm.toNat / 2 ^ 11 % 16 + (if f.imm.getLsbD 15 then 16 else 0)
  val := src s f f.a
  r := 4
  tags := []
  sat := false
  poison := (metaOf (here s) (laneHs f [f.a])).poison || srcPsn (hereView s 1) [f.a.toNat]
  order := n
  emask := BitVec.ofNat 64 ((((laneOn (hereView s 1) f 32).take 64).mapIdx (fun i e => (i, e))).foldl (fun a p => if p.2 then a + 2 ^ p.1 else a) 0)
  mz := f.mz == 1
  idx := ((reg s f.sreg).toNat + f.imm.toNat / 2 ^ 5 % 64) % 64
  rc := f.imm.getLsbD 15
  flags := 0

theorem sliceFlight_emask (s : State) (f : VF) (n : Nat) {j : Nat} (inside : j < 64) : (sliceFlight s f n).emask.getLsbD j = laneEn s f 32 j := by
  rw [sliceFlight, laneMask_getLsbD _ inside, ← laneOn_view s f 32 (show j < 4096 / 32 by omega)]
  simp [List.getD_eq_getElem?_getD, inside]

/-- VTWR pops the queue it names and sends its slice on its way (R226). -/
theorem semVtwr_view {s : State} {k : UnitIx} (cur : s.cur = .unit k) (f : VF) :
    semVtwr f (hereView s 1) =
      { tiles := [f.imm.toNat / 2 ^ 11 % 16], pops := srcPops [f.a.toNat]
        eff := fun t => modUnit t k.toNat (fun u => { u with flight := u.flight ++ [sliceFlight s f u.bundle] }) } := by
  have unit : onLan s = false := by simp [onLan, cur]
  simp only [semVtwr, unitOnly_view _ _ _ unit, sliceOf_view, hereView_g, hereView_core, cur]
  rfl

theorem vtwr_leaves {s : State} {k : UnitIx} (cur : s.cur = .unit k) (f : VF) :
    Leaves s (.vtwr f) 1 (fun t => Issued s t k.toNat (srcPops [f.a.toNat]) [sliceFlight s f (getUnit s k.toNat).bundle]) := by
  intro free
  have asked : asks s (.vtwr f) 1 = semVtwr f (hereView s 1) := rfl
  rw [asked] at free
  refine ⟨_, runOne_free _ _ (semVtwr f) s _ rfl free, ?_⟩
  rw [semVtwr_view cur, wordDid, cur]
  exact unitDid_issued rfl rfl (List.nodup_dedup _) rfl

/-! ## A slice write lands -/

/-- The place of element `j` of the slice that a result in flight writes (R45, R154). -/
def slicePlace (fl : Flight) (j : Nat) : Nat := if fl.rc then 64 * j + fl.idx else 64 * fl.idx + j

theorem slicePlace_inj (fl : Flight) (i j : Nat) (h : slicePlace fl i = slicePlace fl j) : i = j := by
  unfold slicePlace at h
  split at h <;> omega

/-- Writes at distinct places, each to the value its index has: a place written holds its value, any other what it held. -/
theorem foldl_writes (place : Nat → Nat) (on : Nat → Bool) (val : Nat → BitVec 32) (distinct : ∀ i j, place i = place j → i = j) (n : Nat) (x : SMap (BitVec 32)) :
    let y := (List.range n).foldl (fun x e => if on e then sset 0 x (place e) (val e) else x) x
    (∀ j < n, sget 0 y (place j) = if on j then val j else sget 0 x (place j)) ∧ ∀ i, (∀ j < n, i ≠ place j) → sget 0 y i = sget 0 x i := by
  induction n with
  | zero => exact ⟨fun _ none => absurd none (Nat.not_lt_zero _), fun _ _ => rfl⟩
  | succ n ih =>
    obtain ⟨written, kept⟩ := ih
    rw [List.range_succ, List.foldl_append]
    simp only [List.foldl_cons, List.foldl_nil]
    generalize (List.range n).foldl (fun x e => if on e then sset 0 x (place e) (val e) else x) x = y at written kept
    have step : ∀ i, sget 0 (if on n then sset 0 y (place n) (val n) else y) i = if on n = true ∧ i = place n then val n else sget 0 y i := by
      intro i
      by_cases set : on n <;> simp [set]
    refine ⟨fun j below => ?_, fun i outside => ?_⟩
    · rw [step]
      by_cases last : j = n
      · subst last
        rw [kept _ (fun i lower same => lower.ne' (distinct _ _ same))]
        simp
      · rw [written j (by omega), if_neg (fun both => last (distinct _ _ both.2))]
    · rw [step, kept i (fun j lower => outside j (by omega)), if_neg (fun both => outside n (by omega) both.2)]

/-- Whether the landing of a slice writes its element `j`. -/
def sliceWrites (fl : Flight) (j : Nat) : Bool := fl.emask.getLsbD j || fl.mz
/-- What the landing of a slice writes to its element `j` where it writes one (R226). -/
def sliceElem (fl : Flight) (j : Nat) : BitVec 32 := if fl.emask.getLsbD j then fl.val.extractLsb' (32 * j) 32 else 0

/-- The elements of a tile once a slice has landed there. -/
def sliceLandedEl (fl : Flight) (x : SMap (BitVec 32)) : SMap (BitVec 32) :=
  (List.range 64).foldl (fun x e => if sliceWrites fl e then sset 0 x (slicePlace fl e) (sliceElem fl e) else x) x
/-- The rows that a slice writes. -/
def sliceRows (fl : Flight) : BitVec 64 :=
  (List.range 64).foldl (fun x e => if sliceWrites fl e then x ||| BitVec.ofNat 64 (2 ^ (slicePlace fl e / 64)) else x) 0

theorem landSlice_eq (u : Unit) (fl : Flight) : landSlice u fl = { u with tiles := sset {} u.tiles (fl.reg % 16) { sget {} u.tiles (fl.reg % 16) with
    el := sliceLandedEl fl (sget {} u.tiles (fl.reg % 16)).el
    poison := if fl.poison then (sget {} u.tiles (fl.reg % 16)).poison ||| sliceRows fl else (sget {} u.tiles (fl.reg % 16)).poison } } := by
  have writes : ∀ (x : SMap (BitVec 32)) (e : Nat), (if fl.emask.getLsbD e then sset 0 x (slicePlace fl e) (fl.val.extractLsb' (32 * e) 32)
      else if fl.mz then sset 0 x (slicePlace fl e) 0 else x) = if sliceWrites fl e then sset 0 x (slicePlace fl e) (sliceElem fl e) else x := by
    intro x e
    cases on : fl.emask.getLsbD e <;> simp [sliceWrites, sliceElem, on]
  rw [sliceLandedEl]
  simp only [← writes]
  rfl

theorem sliceLandedEl_at (fl : Flight) (x : SMap (BitVec 32)) {j : Nat} (inside : j < 64) : sget 0 (sliceLandedEl fl x) (slicePlace fl j) =
    if fl.emask.getLsbD j then fl.val.extractLsb' (32 * j) 32 else if fl.mz then 0 else sget 0 x (slicePlace fl j) := by
  obtain ⟨written, -⟩ := foldl_writes (slicePlace fl) (sliceWrites fl) (sliceElem fl) (slicePlace_inj fl) 64 x
  rw [sliceLandedEl, written j inside]
  cases on : fl.emask.getLsbD j <;> simp [sliceWrites, sliceElem, on]

theorem sliceLandedEl_outside (fl : Flight) (x : SMap (BitVec 32)) {i : Nat} (outside : ∀ j < 64, i ≠ slicePlace fl j) :
    sget 0 (sliceLandedEl fl x) i = sget 0 x i := by
  obtain ⟨-, kept⟩ := foldl_writes (slicePlace fl) (sliceWrites fl) (sliceElem fl) (slicePlace_inj fl) 64 x
  exact kept i outside

theorem sliceRows_getLsbD (fl : Flight) {r : Nat} (inside : r < 64) :
    (sliceRows fl).getLsbD r = (List.range 64).any (fun j => decide (slicePlace fl j / 64 = r) && sliceWrites fl j) := by
  rw [sliceRows, ← List.foldl_filter, foldl_rowBits_getLsbD _ (fun e => slicePlace fl e / 64) _ inside, List.any_filter]
  simp [beq_eq_decide, Bool.and_comm]

/-- A slice that lands changes its unit only in the tile it names, the counter of lost tags and the flags raised (R73, R226). -/
theorem landOne_slice (u : Unit) (fl : Flight) (slice : fl.cls = 3) :
    ∃ w, landOne u fl = landSlice w fl ∧ w.tiles = u.tiles ∧ w.v = u.v ∧ ∀ r, rdS w.core r = rdS u.core r := by
  refine ⟨{ u with core := if (landTags u.core fl.tags).2 then bumpSat u.core 0x91 1 else u.core, fpNew := u.fpNew ||| fl.flags }, ?_, rfl, rfl, fun r => ?_⟩
  · simp only [landOne, slice]
  · cases (landTags u.core fl.tags).2 <;> rfl

/-- The landing of one slice in a unit that issues (R149, R226). -/
theorem execResultLanding_slice {s : State} {fl : Flight} (runs : issues s s.arg.k.toNat = true) (slice : fl.cls = 3)
    (due : (getUnit s s.arg.k.toNat).flight.filter (fun f => decide (f.r ≤ 1)) = [fl]) :
    ∃ t u, exec .resultLanding s = .next t ∧ getUnit t s.arg.k.toNat = landSlice u fl ∧ u.tiles = (getUnit s s.arg.k.toNat).tiles ∧
      u.v = (getUnit s s.arg.k.toNat).v ∧ (∀ r, rdS u.core r = rdS (getUnit s s.arg.k.toNat).core r) ∧ AllMemSame s t := by
  obtain ⟨w, landed, same⟩ := landOne_slice { getUnit s s.arg.k.toNat with
    flight := (getUnit s s.arg.k.toNat).flight.filter (fun f => !decide (f.r ≤ 1)) } fl slice
  obtain ⟨tiles, v, regs⟩ := same
  have step : exec .resultLanding s = .next (modUnit s s.arg.k.toNat landDue) := by
    show execResultLanding s = _
    rw [execResultLanding, if_pos runs]
  have unit : getUnit (modUnit s s.arg.k.toNat landDue) s.arg.k.toNat = landSlice w fl := by
    rw [getUnit_modUnit_self, landDue, due, List.foldl_cons, List.foldl_nil, landed]
  exact ⟨_, w, step, unit, tiles, v, regs, .of_eq⟩

/-- Settles O27: the slice that VTRD reads, the flight that VTWR sends, and what its landing writes. -/
theorem tileSlices : Obligations.TileSlices := by
  intro s f unit
  refine ⟨fun r inside => touchRows_poison _ _ inside, fun k cur => ?_, fun k cur => ?_, fun fl runs due slice _ => ?_⟩
  · refine ⟨_, fun j inside => lane_sliceRead s f (fun e => (sget 0 (sget {} (hereUnit s).tiles (f.imm.toNat / 2 ^ 11 % 16)).el
      (sliceAt (f.imm.getLsbD 15) (((reg s f.sreg).toNat + f.imm.toNat / 2 ^ 5 % 64) % 64) e)).toNat) (fun e _ => BitVec.isLt _) inside, fun free => ?_⟩
    exact runOne_free _ _ (semVtrd f) s _ (semVtrd_view cur f) free
  · intro free
    obtain ⟨t, runs, issued⟩ := vtwr_leaves cur f free
    refine ⟨t, runs, _, issued, rfl, ?_, rfl, rfl, rfl, rfl, ?_, fun j inside => sliceFlight_emask s f _ inside, rfl⟩
    · simp only [sliceFlight]
      split <;> omega
    · simp [sliceFlight, beq_eq_decide]
  · obtain ⟨t, u, lands, unit, tiles, v, regs, mem⟩ := execResultLanding_slice runs slice due
    rw [landSlice_eq, tiles] at unit
    refine ⟨t, lands, ?_⟩
    rw [unit]
    refine ⟨fun j inside => ?_, fun i outside => ?_, ?_, fun r inside => ?_, fun j other => sget_sset_ne _ _ _ _ _ _ other, v, regs, mem⟩
    · rw [sget_sset, if_pos rfl]
      exact sliceLandedEl_at fl _ inside
    · rw [sget_sset, if_pos rfl]
      exact sliceLandedEl_outside fl _ outside
    · rw [sget_sset, if_pos rfl]
    · rw [sget_sset, if_pos rfl]
      cases bad : fl.poison
      · simp
      · simp only [if_true, BitVec.getLsbD_or, sliceRows_getLsbD fl inside, Bool.true_and]
        rfl

end Sys2Proof.Machine
end

section
/-! PROOFS. Copy command events: completion, barriers, signals, arrivals, chunks and their faults (spec 03 R57, 05 R83, R93, R94, 06 R104, R107). -/

namespace Sys2Proof.Machine

/-! ## What the books of an engine leave alone -/

/-- Every unit's stream is as before but for its CSRs. -/
def CoresKept (s t : State) : Prop := ∀ j, ∃ x, (getUnit t j).core = { (getUnit s j).core with csr := x }

/-- Only the books of the engines and the CSRs of the streams differ. -/
structure BooksOnly (s t : State) : Prop where
  mem : t.chip.mem = s.chip.mem
  hbm : t.hbm = s.hbm
  host : t.host = s.host
  cores : CoresKept s t

theorem CoresKept.of_eq {s t : State} (same : ∀ j, (getUnit t j).core = (getUnit s j).core) : CoresKept s t := fun j => ⟨_, same j⟩

theorem CoresKept.trans {s t u : State} (first : CoresKept s t) (second : CoresKept t u) : CoresKept s u := fun j => by
  obtain ⟨x, hx⟩ := first j
  obtain ⟨y, hy⟩ := second j
  exact ⟨y, by rw [hy, hx]⟩

theorem CoresKept.rdS {s t : State} (kept : CoresKept s t) (j r : Nat) : rdS (getUnit t j).core r = rdS (getUnit s j).core r := by
  obtain ⟨x, hx⟩ := kept j
  rw [hx]
  rfl

theorem CoresKept.hmeta {s t : State} (kept : CoresKept s t) (j h : Nat) : hmeta (getUnit t j).core h = hmeta (getUnit s j).core h := by
  obtain ⟨x, hx⟩ := kept j
  rw [hx]
  rfl

theorem CoresKept.tagLive {s t : State} (kept : CoresKept s t) (j n g : Nat) : tagLive (getUnit t j).core n g = tagLive (getUnit s j).core n g := by
  obtain ⟨x, hx⟩ := kept j
  rw [hx]
  rfl

theorem CoresKept.modUnit (s : State) (k : Nat) {f : Unit → Unit} (kept : ∀ u, ∃ x, (f u).core = { u.core with csr := x }) :
    CoresKept s (modUnit s k f) := fun j => by
  rw [getUnit_modUnit]
  split
  · next here =>
    subst here
    exact kept _
  · exact ⟨_, rfl⟩

/-- Errors that a read finds are counted in CSRs (R199). -/
theorem CoresKept.touchChip (s : State) (a n : Nat) : CoresKept s (touchChip s a n) := by
  unfold Machine.touchChip
  rcases touch s.chip.mem a n with ⟨m, ce, ue⟩
  rcases countErr_cases (modChip s fun c => { c with mem := m }) a ce ue with same | ⟨g, bumped⟩
  · simp only [same]
    exact .of_eq (fun _ => rfl)
  · simp only [bumped]
    cases g with
    | lantern m => exact .of_eq (fun _ => rfl)
    | unit j => exact .modUnit (modChip s fun c => { c with mem := m }) _ (fun u => ⟨_, rfl⟩)

theorem BooksOnly.refl (s : State) : BooksOnly s s := ⟨rfl, rfl, rfl, .of_eq (fun _ => rfl)⟩

theorem BooksOnly.trans {s t u : State} (first : BooksOnly s t) (second : BooksOnly t u) : BooksOnly s u :=
  ⟨second.mem.trans first.mem, second.hbm.trans first.hbm, second.host.trans first.host, first.cores.trans second.cores⟩

theorem BooksOnly.allMemSame {s t : State} (books : BooksOnly s t) : AllMemSame s t := .of_eq books.mem books.hbm books.host

theorem BooksOnly.modUnit (s : State) (k : Nat) {f : Unit → Unit} (kept : ∀ u, ∃ x, (f u).core = { u.core with csr := x }) :
    BooksOnly s (modUnit s k f) := ⟨rfl, rfl, rfl, .modUnit s k kept⟩

theorem BooksOnly.modCl (s : State) (m : Nat) (f : Cluster → Cluster) : BooksOnly s (modCl s m f) := ⟨rfl, rfl, rfl, .of_eq (fun _ => rfl)⟩

theorem BooksOnly.foldl {α : Type} {f : State → α → State} (step : ∀ s x, BooksOnly s (f s x)) (l : List α) (s : State) : BooksOnly s (l.foldl f s) := by
  induction l generalizing s with
  | nil => exact .refl s
  | cons x l ih => exact (step s x).trans (ih _)

/-! ## The started commands of a copy engine -/

section Engine
variable (s : State) (k : UnitIx) (q : BitVec 1)

theorem getX_modX (f : XEng → XEng) : getX (modX s (.uce k q) f) (.uce k q) = f (getX s (.uce k q)) := by
  simp only [modX, setX, getX, getUnit_modUnit_self]
  cases q == 0 <;> rfl

theorem modX_books (f : XEng → XEng) : BooksOnly s (modX s (.uce k q) f) := by
  unfold modX setX
  exact .modUnit s _ (fun u => ⟨u.core.csr, by cases q == 0 <;> rfl⟩)

theorem modRun_runs (id : Nat) (f : Run → Run) :
    (getX (modRun s (.uce k q) id f) (.uce k q)).runs = (getX s (.uce k q)).runs.map (fun r => if r.id = id then f r else r) := by
  rw [modRun, getX_modX]

theorem modRun_books (id : Nat) (f : Run → Run) : BooksOnly s (modRun s (.uce k q) id f) := modX_books ..

/-- The started command named `id`, after a change of it. -/
theorem mem_modRun {id : Nat} {f : Run → Run} {z : Run}
    (mem : z ∈ (getX (modRun s (.uce k q) id f) (.uce k q)).runs) (named : z.id = id) : ∃ r, z = f r := by
  rw [modRun_runs] at mem
  obtain ⟨r, -, rfl⟩ := List.mem_map.mp mem
  split at named
  · next here => exact ⟨r, if_pos here⟩
  · next other => exact absurd named other

theorem runDone_books (id : Nat) : BooksOnly s (runDone s (.uce k q) id) := modRun_books ..

theorem acqNote_books (sc id : Nat) : BooksOnly s (acqNote s (.uce k q) sc id) := by
  unfold acqNote
  exact modX_books ..

theorem acqDone_books (id : Nat) : BooksOnly s (acqDone s (.uce k q) id) := by
  unfold acqDone
  split
  · split
    · exact acqNote_books ..
    · exact .refl s
  · exact .refl s

theorem noteMiss_books (m : Option (Nat × Nat × Nat)) : BooksOnly s (noteMiss s (.uce k q) m) := by
  match m with
  | none => exact .refl s
  | some (a, b, c) => exact .modUnit s k.toNat (f := fun u => { u with core := scopeMiss u.core a b c }) (fun u => ⟨_, rfl⟩)

theorem noteMiss_cl (m : Option (Nat × Nat × Nat)) (j : Nat) : getCl (noteMiss s (.uce k q) m) j = getCl s j := by cases m <;> rfl

theorem codeShow_books (m : Nat) (w : CodeBy) (tok : Option Nat) : BooksOnly s (codeShow s m w tok) := by
  unfold codeShow
  split
  · exact .modCl ..
  · exact .refl s

theorem getX_codeShow (m : Nat) (w : CodeBy) (tok : Option Nat) : getX (codeShow s m w tok) (.uce k q) = getX s (.uce k q) := by
  unfold codeShow
  split <;> rfl

theorem cleanRuns_books : BooksOnly s (cleanRuns s (.uce k q)) := by
  unfold cleanRuns
  exact .trans (.foldl (fun t r => codeShow_books t ..) _ s) (modX_books ..)

/-- Commands that leave the engine leave the others as they are (R83). -/
theorem mem_cleanRuns {z : Run} (mem : z ∈ (getX (cleanRuns s (.uce k q)) (.uce k q)).runs) : z ∈ (getX s (.uce k q)).runs := by
  rw [cleanRuns, getX_modX] at mem
  have kept := List.mem_of_mem_filter mem
  rwa [foldl_keeps_of_mem _ (fun t => getX t (.uce k q)) _ (fun t r _ => getX_codeShow t ..)] at kept

/-- The end of a command: complete, and gone where no token is left (R83). -/
def finishRun (s : State) (e : Eng) (id : Nat) : State := cleanRuns (runDone s e id) e

theorem finishRun_books (id : Nat) : BooksOnly s (finishRun s (.uce k q) id) := (runDone_books s k q id).trans (cleanRuns_books ..)

theorem finishRun_done {id : Nat} {z : Run} (mem : z ∈ (getX (finishRun s (.uce k q) id) (.uce k q)).runs) (named : z.id = id) : z.done = true := by
  obtain ⟨r, rfl⟩ := mem_modRun s k q (f := fun r => { r with done := true, chunks := [] }) (mem_cleanRuns _ k q mem) named
  rfl

end Engine

/-! ## Barriers -/

/-- The counts of a barrier object's fields fit in them (R56). -/
def Barrier.Fits (b : Barrier) : Prop := b.excess < 2 ^ 40 ∧ b.expect < 2 ^ 40

theorem Barrier.ofNat_fits (x : Nat) : (Barrier.ofNat x).Fits := ⟨Nat.mod_lt _ (by norm_num), Nat.mod_lt _ (by norm_num)⟩

theorem Barrier.settle_fits {b : Barrier} (fits : b.Fits) : b.settle.Fits := by
  unfold Barrier.settle
  split
  · refine ⟨?_, by norm_num⟩
    dsimp only
    split
    · simp only [clampI]
      omega
    · norm_num
  · exact fits

theorem Barrier.post_fits {b : Barrier} (fits : b.Fits) (e : Nat) : (b.post e).Fits := by
  unfold Barrier.post
  split
  · exact fits
  · exact settle_fits ⟨fits.1, by dsimp only; omega⟩

theorem Barrier.arrive_fits {b : Barrier} (fits : b.Fits) (n : Nat) : (b.arrive n).Fits := by
  unfold Barrier.arrive
  split
  · exact fits
  · exact settle_fits fits

theorem Barrier.toNat_lt {b : Barrier} (fits : b.Fits) : b.toNat < 2 ^ 128 := by
  obtain ⟨excess, expect⟩ := fits
  have count : wrap b.cnt 40 < 2 ^ 40 := by
    unfold wrap
    omega
  unfold Barrier.toNat
  split_ifs <;> omega

/-- A byte after a number is written: its own byte, or what stood there. -/
theorem rdByte_wrMem (m : Memory) (a n v i : Nat) :
    rdByte (wrMem m a n v) i = if a ≤ i ∧ i < a + n then BitVec.ofNat 8 (v / 256 ^ (i - a)) else rdByte m i := by
  induction n generalizing a v with
  | zero => rw [wrMem, if_neg (by omega)]
  | succ n ih =>
    rw [wrMem, rdByte_wrByte, ih]
    by_cases first : i = a
    · simp [first]
    · by_cases inside : a + 1 ≤ i ∧ i < a + 1 + n
      · rw [if_neg first, if_pos inside, if_pos (by omega), Nat.div_div_eq_div_mul, ← Nat.pow_succ', show (i - (a + 1)).succ = i - a by omega]
      · rw [if_neg first, if_neg inside, if_neg (by omega)]

theorem rdMem_wrMem (m : Memory) (a n v : Nat) : rdMem (wrMem m a n v) a n = v % 256 ^ n := by
  rw [rdMem_eq_ofBytes, ← ofBytes_toBytes, toBytes_eq]
  refine congrArg ofBytes (List.map_congr_left (fun i below => ?_))
  have inside := List.mem_range.mp below
  rw [rdByte_wrMem, if_pos (by omega), Nat.add_sub_cancel_left]

theorem setRec_cells (m : MemSt) (a : Nat) (r : Option RelRec) : (setRec m a r).cells = m.cells := by cases r <;> rfl

theorem barUpdate_cells (s : State) (ia : Nat) (f : Barrier → Barrier) (rel : Option RelRec → Option RelRec) :
    (barUpdate s ia f rel).chip.mem.cells =
      wrMem s.chip.mem.cells (ia % 2 ^ 48) 16 (f (Barrier.ofNat (rdMem s.chip.mem.cells (ia % 2 ^ 48) 16))).toNat := by
  simp only [barUpdate, modMem_mem, setRec_cells, touchChip_cells]

/-- A barrier holds what its update makes of it, and no other byte changes (R57). -/
theorem barUpdate_barrier (s : State) (ia : Nat) (f : Barrier → Barrier) (rel : Option RelRec → Option RelRec) (fits : ∀ b : Barrier, b.Fits → (f b).Fits) :
    let m := s.chip.mem.cells
    let m' := (barUpdate s ia f rel).chip.mem.cells
    let a := ia % 2 ^ 48
    rdMem m' a 16 = (f (Barrier.ofNat (rdMem m a 16))).toNat ∧ ∀ i, ¬(a ≤ i ∧ i < a + 16) → rdByte m' i = rdByte m i := by
  intro m m' a
  have small := Barrier.toNat_lt (fits _ (Barrier.ofNat_fits (rdMem m a 16)))
  refine ⟨?_, fun i outside => ?_⟩
  · rw [show m' = _ from barUpdate_cells .., rdMem_wrMem]
    exact Nat.mod_eq_of_lt small
  · rw [show m' = _ from barUpdate_cells .., rdByte_wrMem, if_neg outside]

/-! ## Commands that complete -/

theorem argRun_eq {s : State} {r : Run} (found : findRun s s.arg.eng s.arg.j = some r) (runs : r.done = false) (alive : s.chip.ended = none) :
    argRun s = some r := by simp [argRun, found, runs, ended, alive]

theorem execCommandComplete_eq {s : State} {r : Run} (arg : argRun s = some r) : exec .commandComplete s = .next (completeRun s s.arg.eng r) := by
  show execCommandComplete s = _
  rw [execCommandComplete, arg]

section Completion
variable {s : State} {e : Eng} {r : Run}

/-- A command split into chunks is complete once its walk is over and no chunk is left (R83). -/
theorem completeRun_chunked (ready : runReady s e r = true) (split : chunked r.x.op = true) (walked : walkLen r.x ≤ r.next) (noChunk : r.chunks = []) :
    completeRun s e r = finishRun (acqDone s e r.id) e r.id := by
  simp [completeRun, finishRun, ready, split, walked, noChunk]

/-- BPOST posts to its barrier and is complete (R93). -/
theorem completeRun_bpost (op : r.x.op = 0x22) (ready : runReady s e r = true) (released : relOk s e r = true) (nonzero : r.x.a ≠ 0) :
    ∃ m rel, completeRun s e r = finishRun (acqDone (barUpdate (noteMiss s e m) r.x.dst (fun b => b.post r.x.a.toNat) rel) e r.id) e r.id := by
  have bytes : ¬r.x.a = 0#64 := nonzero
  exact ⟨_, _, by simp [completeRun, finishRun, ready, op, released, bytes, chunked]; rfl⟩

/-- BARRIVE arrives at its barrier and is complete (R93). -/
theorem completeRun_barrive (op : r.x.op = 0x24) (ready : runReady s e r = true) (released : relOk s e r = true) (nonzero : r.x.a ≠ 0) :
    completeRun s e r = finishRun (acqDone (barUpdate s r.x.dst (fun b => b.arrive r.x.a.toNat) id) e r.id) e r.id := by
  have bytes : r.x.a.toNat ≠ 0 := fun zero => nonzero (BitVec.eq_of_toNat_eq zero)
  simp [completeRun, finishRun, ready, op, released, bytes, barArrive, chunked]

end Completion

section Events
variable {s : State} {k : UnitIx} {q : BitVec 1} {r : Run}

/-- A command that ends after a change of on-chip memory: what it leaves. -/
theorem finish_after (t : State) (id : Nat) : let u := finishRun (acqDone t (.uce k q) id) (.uce k q) id
    (∀ z ∈ (getX u (.uce k q)).runs, z.id = id → z.done = true) ∧ BooksOnly t u :=
  ⟨fun _ mem named => finishRun_done _ k q mem named, (acqDone_books t k q id).trans (finishRun_books ..)⟩

/-- SIG sends its signal from the cluster of its unit (R89, R261). -/
theorem completeRun_sig (op : r.x.op = 0x20) (fresh : r.next = 0) (ready : runReady s (.uce k q) r = true) (released : relOk s (.uce k q) r = true) :
    ∃ m f rel, completeRun s (.uce k q) r = modCl (modRun (noteMiss s (.uce k q) m) (.uce k q) r.id f) (k.toNat / 8) (fun c => { c with
      signals := c.signals ++ [⟨r.x.dst, r.x.a.toNat, r.x.b.toNat, s.chip.slot, rel, some (.uce k q, r.id)⟩] }) := by
  simp only [completeRun, ready, Bool.not_true, Bool.false_eq_true, ↓reduceIte, chunked, op, Nat.reduceLeDiff,
    decide_false, Nat.reduceEqDiff, or_self, Bool.or_self, fresh, ne_eq, not_true_eq_false, released, Bool.and_eq_true,
    decide_eq_true_eq, engUnit, Option.getD_some]
  split
  · exact ⟨some _, _, _, rfl⟩
  · exact ⟨none, _, _, rfl⟩

/-- A BWAIT's read of its barrier: it acquires where asked, a mismatch is recorded, and so is poison (R94, R261). -/
def barrierRead (s : State) (e : Eng) (r : Run) : State :=
  let a := r.x.dst % 2 ^ 48
  let s1 := touchChip s a 16
  let y := fnSync s1 e r.x.fn r.x.dst
  let miss := (acqMiss (recAt s1 (.chip a)) y.sc (proximity y.ag y.at0)).map (fun p => (y.sc, p.1, p.2))
  modRun (if bit r.x.fn 4 then (if miss.isNone then acqNote s1 e y.sc r.id else noteMiss s1 e miss) else s1) e r.id
    (fun r => { r with stP := psnRange s1.chip.mem a 16 })

theorem barrierRead_books (s : State) (k : UnitIx) (q : BitVec 1) (r : Run) :
    BooksOnly (touchChip s (r.x.dst % 2 ^ 48) 16) (barrierRead s (.uce k q) r) := by
  unfold barrierRead
  refine BooksOnly.trans ?_ (modRun_books ..)
  split
  · split
    · exact acqNote_books ..
    · exact noteMiss_books ..
  · exact .refl _

/-- BWAIT ends where its barrier stands in the phase it names (R94). -/
theorem execBarrierWaitComplete_ends (arg : argRun s = some r) (op : r.x.op = 0x23) (ready : runReady s s.arg.eng r = true)
    (flipped : (Barrier.ofNat (rdMem s.chip.mem.cells (r.x.dst % 2 ^ 48) 16)).phase = bit r.x.a.toNat 0) :
    exec .barrierWaitComplete s = .next (finishRun (barrierRead s s.arg.eng r) s.arg.eng r.id) := by
  show execBarrierWaitComplete s = _
  simp only [execBarrierWaitComplete, arg, touchChip_cells, op, ready, flipped, ne_eq, not_true_eq_false, Bool.not_true, Bool.false_eq_true, or_self, if_false]
  rfl

/-! ## A value that arrives -/

/-- A value that reaches a scalar register whose program still runs: it is there, with its poison, and its tag is free (R68, R72). -/
theorem arriveReg_scalar (u : Unit) {n h tg g : Nat} (val : Vec) (psn : Bool) (runs : u.inst.map (fun i => i.serial) = some n) (low : 0 < h) (high : h < 64) :
    let c := (arriveReg u (some n) h val psn (some (tg, g))).core
    (∀ r, rdS c r = if r = h then val.setWidth 64 else rdS u.core r) ∧ (hmeta c h).poison = psn ∧ tagLive c tg g = false := by
  have live : (u.inst.map (fun i => i.serial) == some n) = true := by simp [runs]
  have held : holds h = true := by simp [holds]; omega
  simp only [arriveReg, arriveMeta, live, high, decide_true, Bool.and_true, if_true]
  refine ⟨fun r => ?_, ?_, ?_⟩
  · rw [rdS_wrS, rdS_setMeta, if_neg (show h ≠ 0 by omega)]
    split
    · rfl
    · split <;> rfl
  · rw [hmeta_wrS, hmeta_setMeta, if_pos ⟨rfl, held⟩]
  · by_cases alive : tagLive u.core tg g = true
    · rw [if_pos alive]
      simp only [tagLive, wrS_tags, setMeta_tags, clearTag, serase, List.any_eq_false, List.mem_filter]
      rintro p ⟨-, other⟩
      have apart : p.1 ≠ tg := by simpa using other
      simp [apart]
    · rw [if_neg alive]
      simpa only [tagLive, wrS_tags, setMeta_tags, Bool.not_eq_true] using alive

/-- The read of a register by LDR arrives (R68, R262). -/
theorem execTaggedReadArrival_ldr {img : List (Byte × Bool)} (eng : s.arg.eng = .uce k q) (arg : argRun s = some r) (op : r.x.op = 0x30)
    (chunks : r.chunks = [⟨0, 0, 1, .bound, img, none, []⟩]) :
    exec .taggedReadArrival s = .next (finishRun (acqDone (modUnit s k.toNat (fun u => arriveReg u (some r.inst) r.x.rd
      (BitVec.ofNat 4096 (ofBytes (img.map Prod.fst))) (img.any (fun b => b.2)) r.tag)) (.uce k q) r.id) (.uce k q) r.id) := by
  have come : accessImg r = some img := by simp [accessImg, chunks]
  have cls : xferCls 0x30 = 6 := rfl
  show execTaggedReadArrival s = _
  simp only [execTaggedReadArrival, uceReadArrival, runArrive, eng, arg, come, op, cls, engUnit]
  rfl

/-! ## Chunks -/

/-- A chunk that is done leaves its command (R107). -/
theorem chunkDone_leaves {c : Chunk} {psn : Bool} {z : Run} (mem : z ∈ (getX (chunkDone s (.uce k q) r c psn) (.uce k q)).runs) (named : z.id = r.id) :
    ∀ d ∈ z.chunks, d.idx ≠ c.idx := by
  obtain ⟨y, rfl⟩ := mem_modRun _ k q mem named
  intro d left
  simpa using (List.mem_filter.mp left).2

theorem chunkDone_mem {c : Chunk} {psn : Bool} (noBar : r.x.bar = none) : (chunkDone s (.uce k q) r c psn).chip.mem = s.chip.mem := by
  simp only [chunkDone, noBar]
  exact (modRun_books ..).mem

/-- A chunk whose attempt goes through is done (R107). -/
theorem execChunkComplete_done {s1 s2 : State} {c : Chunk} {psn : Bool} (eng : s.arg.eng = .uce k q) (alive : s.chip.ended = none)
    (found : getChunk { s with asker := some (.chunk (.uce k q) s.arg.j s.arg.n 0) } (.uce k q) s.arg.j s.arg.n = some (s1, r, c))
    (went : chunkTry s1 (.uce k q) r c = .ok s2 true psn) (arrives : arriveOk s2 (.uce k q) r = true) :
    exec .chunkComplete s = .next { chunkDone s2 (.uce k q) r c psn with asker := none } := by
  show execChunkComplete s = _
  simp only [execChunkComplete, copyChunkComplete, chunkEvent, asking, ended, alive, eng, found, went, chunkRun, arrives, Option.isSome_none, Bool.false_eq_true,
    if_false, if_true]

/-! ## Faults on the retry ring -/

/-- A faulted chunk in its command (R104). -/
def chunkFaulted (s : State) (e : Eng) (r : Run) (c : Chunk) : State :=
  putChunk (failTaken s (.chunk e r.id c.idx 0)) e r.id { c with phase := .faulted, img := [], hslot := none }

theorem chunkFaulted_phase {c d : Chunk} {z : Run} (mem : z ∈ (getX (chunkFaulted s (.uce k q) r c) (.uce k q)).runs) (named : z.id = r.id)
    (held : d ∈ z.chunks) (inChunk : d.idx = c.idx) : d.phase = .faulted := by
  obtain ⟨y, rfl⟩ := mem_modRun _ k q mem named
  obtain ⟨x, -, rfl⟩ := List.mem_map.mp held
  split at inChunk
  · next here => rw [if_pos here]
  · next other => exact absurd inChunk other

theorem chunkFaulted_cl (c : Chunk) (m : Nat) : getCl (chunkFaulted s (.uce k q) r c) m = getCl s m := rfl

/-- A fault of a chunk's source is recorded with the chunk's number and the fault's kind (R104). -/
theorem chunkFault_source (c : Chunk) (fia kind : Nat) (img : Option (List (Byte × Bool))) :
    ∃ n f, chunkFault s (.uce k q) r c 0 fia kind img = ringRecord (chunkFaulted s (.uce k q) r c) (k.toNat / 8)
      ⟨.uce k q, xferCls r.x.op, r.id, c.idx, false, 0, n, kind⟩ (ringBits (chunkFaulted s (.uce k q) r c) f) := by
  refine ⟨imgLen r.x (chunkItems s r.x c.lo c.hi), {
    fia := fia
    dia := ((dstRanges (chunkItems s r.x c.lo c.hi)).find? (fun d => d.2 != 0)).elim 0 Prod.fst
    sia := ((srcRanges (chunkItems s r.x c.lo c.hi)).head?).elim 0 Prod.fst
    bar := r.x.bar.getD 0
    cseq := r.cseq
    eng := .uce k q
    cls := xferCls r.x.op
    kind := kind
    side := 0
    hslot := none
    len := imgLen r.x (chunkItems s r.x c.lo c.hi)
    off := c.idx }, ?_⟩
  unfold chunkFault
  simp only [Nat.zero_ne_one, if_false, false_and]
  rfl

theorem findRun_id {e : Eng} {id : Nat} (found : findRun s e id = some r) : r.id = id := by
  simpa using List.find?_some found

/-- Only a command split into chunks has a chunk (R102). -/
theorem getChunk_chunked {e : Eng} {id idx : Nat} {x : State × Run × Chunk} (named : findRun s e id = some r) (found : getChunk s e id idx = some x) :
    chunked r.x.op = true := by
  by_contra whole
  rw [Bool.not_eq_true] at whole
  simp [getChunk, named, whole] at found

/-- A chunk whose attempt faults is recorded on the ring (R104). -/
theorem execMemorySideFault_chunk {r0 : Run} {s1 s2 : State} {c : Chunk} {side fia kind : Nat} {img : Option (List (Byte × Bool))} (eng : s.arg.eng = .uce k q)
    (alive : s.chip.ended = none) (arg : argRun s = some r0) (named : findRun s (.uce k q) s.arg.j = some r0)
    (found : getChunk { s with asker := some (.chunk (.uce k q) s.arg.j s.arg.n 0) } (.uce k q) s.arg.j s.arg.n = some (s1, r, c))
    (faults : chunkTry s1 (.uce k q) r c = .fault s2 side fia kind img) (inTime : kind ≠ fkTimeout) :
    exec .memorySideFault s = .next { chunkFault s2 (.uce k q) r c side fia kind img with asker := none } := by
  have named' : findRun { s with asker := some (.chunk (.uce k q) s.arg.j s.arg.n 0) } (.uce k q) s.arg.j = some r0 := by
    rw [← named]
    rfl
  have split := getChunk_chunked named' found
  show execMemorySideFault s = _
  simp only [execMemorySideFault, copyFault, chunkFaultEvent, asking, ended, alive, eng, arg, findRun_id named, split, found, faults, inTime, chunkRun,
    Option.isSome_none, Bool.false_eq_true, if_false, if_true]

end Events

section Ring
variable {s : State} {m : Nat}

/-- A fault is recorded where the ring has room and none waits (R104). -/
theorem ringRecord_room (room : ringUsed s m < 2 ^ ringL s m) (noneWaits : (getCl s m).ringWait = []) (f : FaultRec) (e : BitVec 512) :
    ringRecord s m f e = ringPut s m f e := by
  rw [ringRecord, if_pos ⟨room, by rw [noneWaits]; rfl⟩]

theorem ringL_lt : ringL s m < 16 := Nat.mod_lt _ (by norm_num)

/-- The offset of the entry at tail in the cluster scratchpad (R103). -/
def ringOff (s : State) (m : Nat) : Nat := bits (rdCsr (getCl s m).lan.core 0x140).toNat 6 18 * 64 + 64 * (ringTail s m % 2 ^ ringL s m)

/-- An entry stored at tail, with the phase of its pass; beyond the scratchpad's end it is not (R104). -/
def ringStored (s : State) (m : Nat) (e : BitVec 512) : State :=
  if ringOff s m + 64 ≤ clSize then modMem s (fun x => writeNat x (clBase m + ringOff s m) 64 (e.toNat + (if bit (ringTail s m) (ringL s m) then 1 else 0)))
  else s

/-- The record of an entry at tail in the books of its ring (R104). -/
def ringBooked (s : State) (m : Nat) (f : FaultRec) (c : Cluster) : Cluster :=
  { c with
    pend := sput c.pend (ringTail s m % 2 ^ ringL s m) f
    lan := { c.lan with
      core := wrCsr c.lan.core 0x142 (BitVec.ofNat 64 ((ringTail s m + 1) % 2 ^ (ringL s m + 1)))
      ring := c.lan.ring || (decide (ringUsed s m = 0) && bit (rdCsr (getCl s m).lan.core 0x141).toNat 8) } }

theorem ringPut_eq (s : State) (m : Nat) (f : FaultRec) (e : BitVec 512) : ringPut s m f e = modCl (ringStored s m e) m (ringBooked s m f) := rfl

theorem ringStored_unit (e : BitVec 512) (k : Nat) : getUnit (ringStored s m e) k = getUnit s k := by
  unfold ringStored
  split
  · rw [getUnit_modMem]
  · rfl

theorem ringPut_unit (f : FaultRec) (e : BitVec 512) (k : Nat) : getUnit (ringPut s m f e) k = getUnit s k := by
  rw [ringPut_eq, getUnit_modCl, ringStored_unit]

theorem ringPut_pend (f : FaultRec) (e : BitVec 512) : (ringTail s m % 2 ^ ringL s m, f) ∈ (getCl (ringPut s m f e) m).pend := by
  rw [ringPut_eq, getCl_modCl_self, ringBooked]
  exact mem_sput_self ..

/-- The producer count goes on by one entry (R103, R104). -/
theorem ringPut_tail (f : FaultRec) (e : BitVec 512) : ringTail (ringPut s m f e) m = (ringTail s m + 1) % 2 ^ (ringL s m + 1) := by
  have small : 2 ^ (ringL s m + 1) ≤ 2 ^ 64 := Nat.pow_le_pow_right (by norm_num) (by have := ringL_lt (s := s) (m := m); omega)
  have below : (ringTail s m + 1) % 2 ^ (ringL s m + 1) < 2 ^ (ringL s m + 1) := Nat.mod_lt _ (by positivity)
  have count : (rdCsr (getCl (ringPut s m f e) m).lan.core 0x142).toNat = (ringTail s m + 1) % 2 ^ (ringL s m + 1) % 2 ^ 64 := by
    rw [ringPut_eq, getCl_modCl_self, ringBooked, rdCsr_wrCsr, if_pos rfl, BitVec.toNat_ofNat]
  exact count.trans (Nat.mod_eq_of_lt (below.trans_le small))

/-- Every field of an entry but ph stands above its lowest bit (R104). -/
theorem ringBits_even (s : State) (f : RingF) : (ringBits s f).toNat % 2 = 0 := by
  rw [ringBits, BitVec.toNat_ofNat, Nat.mod_mod_of_dvd _ (dvd_pow_self 2 (by norm_num))]
  cases f.hslot <;> simp [Nat.add_mod, Nat.mul_mod, Nat.pow_mod]

/-- An entry within the scratchpad carries in its lowest bit the phase of the pass of its producer count (R103, R104). -/
theorem ringPut_phase (f : FaultRec) (e : BitVec 512) (even : e.toNat % 2 = 0) (inside : ringOff s m + 64 ≤ clSize) :
    (rdByte (ringPut s m f e).chip.mem.cells (clBase m + ringOff s m)).getLsbD 0 = bit (ringTail s m) (ringL s m) := by
  rw [ringPut_eq, (BooksOnly.modCl ..).mem, ringStored, if_pos inside, modMem_mem, writeNat, rdByte_writeImg, dif_pos (by simp [toBytes_length])]
  simp only [Nat.sub_self, List.getElem_map, toBytes_getElem _ 64 0 (by norm_num), Nat.pow_zero, Nat.div_one, BitVec.getLsbD_ofNat, Nat.testBit_zero]
  cases bit (ringTail s m) (ringL s m)
  · rw [if_neg Bool.false_ne_true, Nat.add_zero, even]
    rfl
  · rw [if_pos rfl, Nat.add_mod, even]
    rfl

end Ring

theorem ring_congr {s t : State} {m : Nat} (same : getCl t m = getCl s m) :
    ringTail t m = ringTail s m ∧ ringL t m = ringL s m ∧ ringUsed t m = ringUsed s m ∧ ringOff t m = ringOff s m := by
  simp only [ringTail, ringL, ringUsed, ringHead, ringOff, same, and_self]

theorem getX_congr {s t : State} {k : UnitIx} (q : BitVec 1) (same : getUnit t k.toNat = getUnit s k.toNat) : getX t (.uce k q) = getX s (.uce k q) := by
  simp only [getX, same]

/-- A source fault of a chunk where the ring has room: the entry and its record, and the chunk faulted (R104). -/
theorem chunkFault_recorded {s : State} {k : UnitIx} {q : BitVec 1} {r : Run} (c : Chunk) (fia kind : Nat) (img : Option (List (Byte × Bool)))
    (room : ringUsed s (k.toNat / 8) < 2 ^ ringL s (k.toNat / 8)) (noneWaits : (getCl s (k.toNat / 8)).ringWait = []) :
    let m := k.toNat / 8
    let t := chunkFault s (.uce k q) r c 0 fia kind img
    ringTail t m = (ringTail s m + 1) % 2 ^ (ringL s m + 1) ∧
      (∃ n, (ringTail s m % 2 ^ ringL s m, ⟨.uce k q, xferCls r.x.op, r.id, c.idx, false, 0, n, kind⟩) ∈ (getCl t m).pend) ∧
      (ringOff s m + 64 ≤ clSize → (rdByte t.chip.mem.cells (clBase m + ringOff s m)).getLsbD 0 = bit (ringTail s m) (ringL s m)) ∧
      ∀ z ∈ (getX t (.uce k q)).runs, z.id = r.id → ∀ d ∈ z.chunks, d.idx = c.idx → d.phase = .faulted := by
  intro m t
  obtain ⟨n, f, recorded⟩ := chunkFault_source (s := s) (k := k) (q := q) (r := r) c fia kind img
  have ring : getCl (chunkFaulted s (.uce k q) r c) m = getCl s m := chunkFaulted_cl c m
  obtain ⟨tail, wide, used, off⟩ := ring_congr ring
  rw [ringRecord_room (by rwa [used, wide]) (by rwa [ring])] at recorded
  rw [show t = _ from recorded, ← tail, ← wide, ← off, getX_congr q (ringPut_unit ..)]
  exact ⟨ringPut_tail .., ⟨n, ringPut_pend ..⟩, ringPut_phase _ _ (ringBits_even ..), fun z mem named d held => chunkFaulted_phase mem named held⟩

/-- Settles O31: how the commands of a copy engine complete, and what becomes of their chunks. -/
theorem copyCommandEvents : Obligations.CopyCommandEvents := by
  intro s k q r eng alive
  dsimp only
  intro named runs
  rw [← eng] at named
  have arg := argRun_eq named runs alive
  rw [eng] at named
  have complete := execCommandComplete_eq arg
  rw [eng] at complete
  refine ⟨?_, ?_, ?_, ?_, ?_, ?_, ?_, ?_⟩
  · intro ready split walked noChunk
    obtain ⟨done, books⟩ := finish_after (k := k) (q := q) s r.id
    exact ⟨_, complete.trans (congrArg _ (completeRun_chunked ready split walked noChunk)), done, books.allMemSame⟩
  · intro op ready released bytes
    obtain ⟨m, rel, post⟩ := completeRun_bpost op ready released bytes
    obtain ⟨done, books⟩ := finish_after (k := k) (q := q) (barUpdate (noteMiss s (.uce k q) m) r.x.dst (fun b => b.post r.x.a.toNat) rel) r.id
    have barrier := barUpdate_barrier (noteMiss s (.uce k q) m) r.x.dst (fun b => b.post r.x.a.toNat) rel (fun b fits => Barrier.post_fits fits _)
    rw [← books.mem, (noteMiss_books s k q m).mem] at barrier
    exact ⟨_, complete.trans (congrArg _ post), done, barrier⟩
  · intro op ready released bytes
    obtain ⟨done, books⟩ := finish_after (k := k) (q := q) (barUpdate s r.x.dst (fun b => b.arrive r.x.a.toNat) id) r.id
    have barrier := barUpdate_barrier s r.x.dst (fun b => b.arrive r.x.a.toNat) id (fun b fits => Barrier.arrive_fits fits _)
    rw [← books.mem] at barrier
    exact ⟨_, complete.trans (congrArg _ (completeRun_barrive op ready released bytes)), done, barrier⟩
  · intro op fresh ready released
    obtain ⟨m, f, rel, sent⟩ := completeRun_sig op fresh ready released
    have books := (noteMiss_books s k q m).trans (modRun_books (noteMiss s (.uce k q) m) k q r.id f)
    refine ⟨_, ⟨r.x.dst, r.x.a.toNat, r.x.b.toNat, s.chip.slot, rel, some (.uce k q, r.id)⟩, complete.trans (congrArg _ sent), ?_,
      rfl, rfl, rfl, rfl, rfl, (books.trans (.modCl ..)).allMemSame⟩
    rw [getCl_modCl_self, ← noteMiss_cl s k q m]
    rfl
  · intro op ready flipped
    have ends := execBarrierWaitComplete_ends arg op (eng ▸ ready) flipped
    rw [eng] at ends
    have books := (barrierRead_books s k q r).trans (finishRun_books (barrierRead s (.uce k q) r) k q r.id)
    refine ⟨_, ends, fun _ mem => finishRun_done _ k q mem, fun i => ?_, fun n => ?_⟩
    · rw [books.mem, touchChip_cells]
    · exact ((CoresKept.touchChip s _ _).trans books.cores).rdS _ n
  · intro img tg g op chunks tag low high same
    obtain ⟨done, books⟩ := finish_after (k := k) (q := q) (modUnit s k.toNat (fun u => arriveReg u (some r.inst) r.x.rd
      (BitVec.ofNat 4096 (ofBytes (img.map Prod.fst))) (img.any (fun b => b.2)) r.tag)) r.id
    obtain ⟨regs, poison, freed⟩ := arriveReg_scalar (getUnit s k.toNat) (tg := tg) (g := g) (BitVec.ofNat 4096 (ofBytes (img.map Prod.fst)))
      (img.any (fun b => b.2)) same low high
    refine ⟨_, execTaggedReadArrival_ldr eng arg op chunks, done, fun n => ?_, ?_, ?_, .of_eq books.mem books.hbm books.host⟩
    · rw [books.cores.rdS, getUnit_modUnit_self, tag, regs]
      simp
    · rw [books.cores.hmeta, getUnit_modUnit_self, tag, poison]
    · rw [books.cores.tagLive, getUnit_modUnit_self, tag, freed]
  · intro s1 r1 c s2 psn found went arrives
    exact ⟨_, execChunkComplete_done eng alive found went arrives, fun _ mem named => chunkDone_leaves mem named,
      fun noBar => memSame_of_eq (chunkDone_mem noBar)⟩
  · intro s1 r1 c s2 fia kind img found faults inTime room noneWaits
    obtain ⟨tail, ⟨n, pend⟩, phase, faulted⟩ := chunkFault_recorded (k := k) (q := q) (r := r1) c fia kind img room noneWaits
    exact ⟨_, execMemorySideFault_chunk eng alive arg named found faults inTime, tail, ⟨_, pend, rfl, rfl, rfl, rfl⟩, phase, faulted⟩

end Sys2Proof.Machine
end

section
/-! PROOFS. Scalar and vector results: on their way, at once on a Lantern core, and their landing (spec 04 R68 to R73, 07 R128, 09 R147, R149, R153, 11 R184, R198). -/

namespace Sys2Proof.Machine

/-! ## A one-slot bundle whose effect acts on its unit and on-chip memory -/

/-- The effect `e` changes unit `k` by `F` and on-chip memory by `G`, and nothing else of the agents and memories. -/
structure ActsOn (k : Nat) (F : Unit → Unit) (G : MemSt → MemSt) (e : State → State) : Prop where
  unit : ∀ t, getUnit (e t) k = F (getUnit t k)
  units : ∀ t j, j ≠ k → getUnit (e t) j = getUnit t j
  clusters : ∀ t j, getCl (e t) j = getCl t j
  mem : ∀ t, (e t).chip.mem = G t.chip.mem
  hbm : ∀ t, (e t).hbm = t.hbm
  host : ∀ t, (e t).host = t.host
  cur : ∀ t, (e t).cur = t.cur

theorem ActsOn.modUnit (k : Nat) (F : Unit → Unit) : ActsOn k F id (fun t => modUnit t k F) where
  unit t := getUnit_modUnit_self t k F
  units t j other := by rw [getUnit_modUnit, if_neg other]
  clusters _ _ := rfl
  mem _ := rfl
  hbm _ := rfl
  host _ := rfl
  cur _ := rfl

theorem ActsOn.id (k : Nat) : ActsOn k id id id := ⟨fun _ => rfl, fun _ _ _ => rfl, fun _ _ => rfl, fun _ => rfl, fun _ => rfl, fun _ => rfl, fun _ => rfl⟩

theorem ActsOn.modMem (k : Nat) (G : MemSt → MemSt) : ActsOn k (fun u => u) G (fun t => modMem t G) :=
  ⟨fun _ => rfl, fun _ _ _ => rfl, fun _ _ => rfl, fun _ => rfl, fun _ => rfl, fun _ => rfl, fun _ => rfl⟩

/-- A unit as its one-slot bundle begins to issue at clk `now` (R145, R147, R153). -/
def issueStart (now : Nat) (o : SlotOut) (u : Unit) : Unit :=
  let u := ageFlights (takePops u o.pops)
  { u with
    core := { u.core with tw := none }
    owed := none
    divFree := if o.div then now + 20 else u.divFree
    inst := u.inst.map (fun i => { i with first := false }) }

/-- A unit once its bundle has had its effect: counted, and control gone on to `next` (R145, R150). -/
def issueEnd (next : Nat) (u : Unit) : Unit := { u with core := goOn (bump u.core 1 1) next, bundle := u.bundle + 1 }

/-- Pops change the queues alone (R153). -/
theorem takePops_eq (u : Unit) (qs : List Nat) :
    takePops u qs = { u with queues := qs.foldl (fun x q => sset [] x q ((sget [] x q).drop 1)) u.queues } := by
  induction qs generalizing u with
  | nil => rfl
  | cons q qs ih =>
    rw [takePops, List.foldl_cons]
    exact ih _

/-- The stream of the unit that runs. -/
theorem here_unit {s : State} {k : UnitIx} (cur : s.cur = .unit k) : here s = (getUnit s k.toNat).core := by
  rw [here, cur]
  rfl

theorem wordDid_unit {s : State} {k : UnitIx} (cur : s.cur = .unit k) (slot : Nat) (o : SlotOut) : wordDid s slot o = unitDid s k.toNat slot o := by
  rw [wordDid, cur]

theorem wordDid_lantern {s : State} {m : ClusterIx} (cur : s.cur = .lantern m) (slot : Nat) (o : SlotOut) : wordDid s slot o = lanDid s m.toNat o := by
  rw [wordDid, cur]

/-- What a one-slot bundle that goes on to the next one leaves, where its effect acts on its unit and on-chip memory. -/
theorem unitDid_acts {s : State} {k slot : Nat} {o : SlotOut} {F : Unit → Unit} {G : MemSt → MemSt} (finds : o.finds = []) (seq : o.ctl = .seq)
    (acts : ActsOn k F G o.eff) : let t := unitDid s k slot o
    getUnit t k = issueEnd (codeAddr ((getUnit s k).core.pc + (if slot = 0 then 8 else 12 : Nat))) (F (issueStart s.clk o (getUnit s k))) ∧
    (∀ j, j ≠ k → getUnit t j = getUnit s j) ∧ (∀ j, getCl t j = getCl s j) ∧
    t.chip.mem = G s.chip.mem ∧ t.hbm = s.hbm ∧ t.host = s.host ∧ t.cur = s.cur := by
  intro t
  have start : getUnit (popStart s k slot o) k = issueStart s.clk o (getUnit s k) := by
    simp [popStart, soloNamed, issueStart, takePops_eq, ageFlights]
  rw [show t = _ from unitDid_pops finds seq]
  refine ⟨?_, fun j other => ?_, fun j => ?_, acts.mem _, acts.hbm _, acts.host _, acts.cur _⟩
  · rw [getUnit_modUnit_self, soloEnd, getUnit_modUnit_self, acts.unit, start]
    rfl
  · simp [soloEnd, getUnit_modUnit, other, acts.units _ j other, popStart, soloNamed]
  · exact acts.clusters _ j

/-! ## Results on their way -/

/-- The results `new`, by the number of their bundle, join those in flight (R147). -/
def send (new : Nat → List Flight) (u : Unit) : Unit := { u with flight := u.flight ++ new u.bundle }

/-- The result for holder `h` that bundle `order` sends, with what the holders `srcs` carry (R71, R110, R147). -/
def resultFlight (c : Core) (h lat : Nat) (val : Vec) (srcs : List Nat) (psn : Bool) (fl : Flags) (order : Nat) : Flight where
  cls := if h < 64 then 0 else if h < 96 then 1 else 2
  reg := if h < 64 then h else if h < 96 then h - 64 else h - 96
  val := val
  r := lat
  tags := tagsOf c (metaOf c srcs).taint
  sat := (metaOf c srcs).sat
  poison := (metaOf c srcs).poison || psn
  order := order
  emask := 0
  mz := false
  idx := 0
  rc := false
  flags := fl

section
variable {s : State} {k : UnitIx} (cur : s.cur = .unit k) (lat : Nat) (val : Vec) (srcs : List Nat) (psn : Bool) (fl : Flags)
include cur

/-- A result for a holder that keeps one goes into flight (R147). -/
theorem lands_sends {h : Nat} (keeps : holds h = true) :
    ActsOn k.toNat (send fun n => [resultFlight (here s) h lat val srcs psn fl n]) id (lands s h lat val srcs psn fl) := by
  have eff : lands s h lat val srcs psn fl = fun t => modUnit t k.toNat (send fun n => [resultFlight (here s) h lat val srcs psn fl n]) := by
    funext t
    simp only [lands, cur, putResult, keeps, Bool.not_true, Bool.false_and, Bool.false_eq_true, if_false]
    rfl
  rw [eff]
  exact .modUnit ..

/-- A result with no flags for s0 or m0 is discarded (R151). -/
theorem lands_discarded {h : Nat} (drops : holds h = false) : ActsOn k.toNat (send fun _ => []) id (lands s h lat val srcs psn 0) := by
  have eff : lands s h lat val srcs psn 0 = fun t => t := by
    funext t
    simp [lands, cur, putResult, drops]
  have none : send (fun _ => []) = id := by
    funext u
    simp [send]
  rw [eff, none]
  exact .id _

end

/-- A one-slot bundle whose effect is to send results (R147, R153). -/
theorem unitDid_sends {s : State} {k slot : Nat} {o : SlotOut} {new : Nat → List Flight} (finds : o.finds = []) (seq : o.ctl = .seq) (distinct : o.pops.Nodup)
    (sends : ActsOn k (send new) id o.eff) : Issued s (unitDid s k slot o) k o.pops (new (getUnit s k).bundle) := by
  obtain ⟨unit, units, clusters, mem, hbm, host, -⟩ := unitDid_acts (s := s) (slot := slot) finds seq sends
  obtain ⟨x, pops, heads⟩ := takePops_distinct o.pops distinct (getUnit s k)
  rw [Issued, unit]
  have start : issueStart s.clk o (getUnit s k) = { issueStart s.clk { o with pops := [] } (getUnit s k) with queues := x } := by
    rw [issueStart, pops]
    rfl
  rw [start]
  exact ⟨rfl, heads, fun r => rdS_goOn .., fun h => hmeta_goOn .., rfl, rfl, rfl, rfl, rfl, fun n => (rdCsr_goOn ..).trans (rdCsr_bump ..), units, clusters,
    .of_eq mem hbm host⟩

/-! ## Results that land -/

/-- The landing of the one result that is due in a unit that issues (R149). -/
theorem execResultLanding_one {s : State} {f : Flight} (runs : issues s s.arg.k.toNat = true)
    (due : (getUnit s s.arg.k.toNat).flight.filter (fun f => decide (f.r ≤ 1)) = [f]) :
    let k := s.arg.k.toNat
    ∃ t, exec .resultLanding s = .next t ∧
      getUnit t k = landOne { getUnit s k with flight := (getUnit s k).flight.filter (fun f => decide (1 < f.r)) } f ∧
      (∀ j, j ≠ k → getUnit t j = getUnit s j) ∧ (∀ j, getCl t j = getCl s j) ∧ AllMemSame s t := by
  intro k
  have step : exec .resultLanding s = .next (modUnit s k landDue) := by
    show execResultLanding s = _
    rw [execResultLanding, if_pos runs]
  have later : (fun f : Flight => !decide (f.r ≤ 1)) = fun f => decide (1 < f.r) := by
    funext f
    rw [← decide_not, decide_eq_decide, not_le]
  refine ⟨_, step, ?_, fun j other => ?_, fun j => rfl, .of_eq⟩
  · rw [getUnit_modUnit_self, landDue, due, List.foldl_cons, List.foldl_nil, later]
  · rw [getUnit_modUnit, if_neg other]

/-- A stream that counts the tags a result lost, where it lost one (R73). -/
def lostCounted (c : Core) (f : Flight) : Core := if (landTags c f.tags).2 then bumpSat c 0x91 1 else c

/-- What holder `h` of a stream carries once the result `f` has landed there (R73, R110). -/
def landedCore (c : Core) (h : Nat) (f : Flight) : Core :=
  setMeta (lostCounted c f) h ⟨(landTags c f.tags).1, (landTags c f.tags).2 || (f.sat && (landTags c f.tags).1 != 0), f.poison⟩

theorem rdS_landedCore (c : Core) (h : Nat) (f : Flight) (r : Nat) : rdS (landedCore c h f) r = rdS c r := by
  rw [landedCore, rdS_setMeta, lostCounted]
  split <;> rfl

theorem hmeta_landedCore (c : Core) {h : Nat} (f : Flight) (keeps : holds h = true) : hmeta (landedCore c h f) h =
    ⟨(landTags c f.tags).1, (landTags c f.tags).2 || (f.sat && (landTags c f.tags).1 != 0), f.poison⟩ := by
  rw [landedCore, hmeta_setMeta, if_pos ⟨rfl, keeps⟩]

theorem landOne_scalar (u : Unit) {f : Flight} (cls : f.cls = 0) : landOne u f =
    { u with core := wrS (landedCore u.core f.reg f) f.reg (f.val.setWidth 64), fpNew := u.fpNew ||| f.flags } := by
  simp only [landOne, cls]
  rfl

theorem landOne_vector (u : Unit) {f : Flight} (cls : f.cls = 1) : landOne u f =
    { u with core := landedCore u.core (64 + f.reg) f, v := sset 0 u.v f.reg f.val, fpNew := u.fpNew ||| f.flags } := by
  simp only [landOne, cls]
  rfl

theorem landOne_mask (u : Unit) {f : Flight} (cls : f.cls = 2) : landOne u f =
    { u with core := landedCore u.core (96 + f.reg) f, m := if f.reg = 0 then u.m else sset 0 u.m f.reg (f.val.setWidth 128)
             fpNew := u.fpNew ||| f.flags } := by
  simp only [landOne, cls]
  rfl

/-- A set of numbers, each marked by its bit. -/
theorem foldl_marks_getLsbD {α : Type} {w : Nat} (l : List α) (f : α → Nat) (x : BitVec w) {n : Nat} (inside : n < w) :
    (l.foldl (fun x p => x ||| BitVec.ofNat w (2 ^ f p)) x).getLsbD n = (x.getLsbD n || l.any (fun p => f p == n)) := by
  induction l generalizing x with
  | nil => simp
  | cons p l ih =>
    rw [List.foldl_cons, ih, BitVec.getLsbD_or, BitVec.getLsbD_ofNat, Nat.testBit_two_pow, List.any_cons, Bool.or_assoc]
    simp [inside, beq_eq_decide]

/-- A result that lost no tag lands with those that still name its reads (R73). -/
theorem landTags_kept {c : Core} {ts : List (Nat × Nat)} (kept : ts.any (fun p => tagSet c p.1 && !tagLive c p.1 p.2) = false) {n : Nat} (inside : n < 16) :
    (landTags c ts).1.getLsbD n = ts.any (fun p => p.1 == n && tagLive c p.1 p.2) := by
  simp only [landTags, kept, Bool.false_eq_true, if_false]
  rw [← List.foldl_filter, foldl_marks_getLsbD _ Prod.fst _ inside, List.any_filter]
  simp [Bool.and_comm]

/-! ## Scalar results -/

/-- A Lantern word that gives a scalar result and nothing else (R68, R184). -/
theorem lanDid_scalar {s : State} {m : ClusterIx} (cur : s.cur = .lantern m) (d : Reg) (srcs : List Reg) (lat : Nat) (v : W64) :
    lanDid s m.toNat (scalarOut s d srcs lat v) = modLan (modLan (modLan (modLan s m.toNat
        (fun l => { l with core := { l.core with tw := none }, stall := 0, wait := none, ans := none })) m.toNat
        (fun l => { l with core := wrS (setMeta l.core d.toNat (metaOf (here s) (srcs.map fun r => r.toNat))) d.toNat v })) m.toNat
        (fun l => { l with core := bump l.core 1 1 })) m.toNat (fun l => { l with core := goOn l.core (codeAddr ((here s).pc + 4)) }) := by
  have low : d.toNat < 64 := d.isLt
  have core : here s = (getCl s m.toNat).lan.core := by simp [here, cur, getCore]
  simp only [lanDid, lanControl, scalarOut, lands, putResult, cur, low, touchAll_nil, core, if_true, Bool.or_false,
    BitVec.setWidth_setWidth_of_le v (show 64 ≤ 4096 by norm_num), BitVec.setWidth_eq]

theorem reg_toNat_zero (r : Reg) : r.toNat = 0 ↔ r = 0 := by
  rw [← BitVec.toNat_inj]
  rfl

/-- Only s0 keeps nothing among the scalar registers (R70). -/
theorem holds_reg (d : Reg) : holds d.toNat = true ↔ d ≠ 0 := by
  have low := d.isLt
  rw [ne_eq, ← reg_toNat_zero, holds, Bool.and_eq_true, decide_eq_true_eq, decide_eq_true_eq]
  omega

/-- A scalar result goes into flight, but one for s0, which is discarded (R147, R151). -/
theorem scalarOut_sends {s : State} {k : UnitIx} (cur : s.cur = .unit k) (d : Reg) (srcs : List Reg) (lat : Nat) (v : W64) :
    ActsOn k.toNat (send fun n => if d = 0 then [] else [resultFlight (here s) d.toNat lat (v.setWidth 4096) (srcs.map fun r => r.toNat) false 0 n]) id
      (scalarOut s d srcs lat v).eff := by
  by_cases zero : d = 0
  · simp only [zero, if_true]
    exact lands_discarded cur lat _ _ _ rfl
  · simp only [zero, if_false]
    exact lands_sends cur lat _ _ _ 0 ((holds_reg d).mpr zero)

/-- Control after a word or bundle that transfers nowhere stands at a pending target, or at the next one (R150). -/
theorem goOn_pc (c : Core) (next : Nat) : (goOn c next).pc = c.delay.getD next := by
  unfold goOn
  split
  · next target pending => rw [pending]; rfl
  · next free => rw [free]; rfl

/-- A Lantern core whose word has given the scalar result `v`, with metadata `x`, to register `d` (R68, R184). -/
def gaveScalar (c : Core) (d : Reg) (x : Meta) (v : W64) : Core :=
  goOn (bump (wrS (setMeta { c with tw := none } d.toNat x) d.toNat v) 1 1) (codeAddr (c.pc + 4))

theorem here_lanDid_scalar {s : State} {m : ClusterIx} (cur : s.cur = .lantern m) (d : Reg) (srcs : List Reg) (lat : Nat) (v : W64) :
    here (lanDid s m.toNat (scalarOut s d srcs lat v)) = gaveScalar (here s) d (metaOf (here s) (srcs.map fun r => r.toNat)) v := by
  simp [here, cur, getCore, lanDid_scalar cur, gaveScalar]

/-- A scalar register after a write (R151). -/
theorem rdS_wrS_reg (c : Core) (r d : Reg) (v : W64) : rdS (wrS c d.toNat v) r.toNat = if r = 0 then 0 else if r = d then v else rdS c r.toNat := by
  by_cases zero : r = 0
  · subst zero
    rfl
  · by_cases same : r = d
    · subst same
      rw [rdS_wrS, if_pos rfl, if_neg (mt (reg_toNat_zero r).mp zero), if_neg zero, if_pos rfl]
    · rw [rdS_wrS, if_neg (mt BitVec.eq_of_toNat_eq same), if_neg zero, if_neg same]

theorem rdS_gaveScalar (c : Core) (d r : Reg) (x : Meta) (v : W64) :
    rdS (gaveScalar c d x v) r.toNat = if r = 0 then 0 else if r = d then v else rdS c r.toNat := by
  rw [gaveScalar, rdS_goOn, rdS_bump, rdS_wrS_reg, rdS_setMeta]
  rfl

theorem hmeta_gaveScalar (c : Core) (d : Reg) (h : Nat) (x : Meta) (v : W64) :
    hmeta (gaveScalar c d x v) h = if h = d.toNat ∧ d ≠ 0 then x else hmeta c h := by
  rw [gaveScalar, hmeta_goOn, hmeta_bump, hmeta_wrS, hmeta_setMeta]
  simp only [holds_reg]
  rfl

theorem rdCsr_gaveScalar (c : Core) (d : Reg) (x : Meta) (v : W64) (n : Nat) :
    rdCsr (gaveScalar c d x v) n = if n = 1 then rdCsr c 1 + 1 else rdCsr c n := by
  rw [gaveScalar, rdCsr_goOn, rdCsr_bump, rdCsr_wrS, rdCsr_wrS, rdCsr_setMeta, rdCsr_setMeta]
  rfl

theorem gaveScalar_pc (c : Core) (d : Reg) (x : Meta) (v : W64) : (gaveScalar c d x v).pc = c.delay.getD (codeAddr (c.pc + 4)) := by
  rw [gaveScalar, goOn_pc, bump_delay, wrS_delay, setMeta_delay]

/-- Settles O2: a Lantern word's result by the one update it makes, a unit's by what it sends and by how it lands. -/
theorem scalarResults : Obligations.ScalarResults := by
  unfold Obligations.ScalarResults
  refine ⟨?lantern, ?unit, ?landing⟩
  case lantern =>
    intro s m d srcs lat v cur
    rw [wordDid_lantern cur]
    simp only [reg, here_lanDid_scalar cur]
    refine ⟨fun r => rdS_gaveScalar .., fun h => hmeta_gaveScalar .., gaveScalar_pc .., fun n => rdCsr_gaveScalar .., ?_, fun k => ?_, fun j other => ?_, ?_⟩
    all_goals rw [lanDid_scalar cur]
    · simp
    · simp only [getUnit_modLan]
    · simp [getCl_modLan, other]
    · exact .of_eq
  case unit =>
    intro s k d srcs lat v cur
    have sends := scalarOut_sends cur d srcs lat v
    obtain ⟨unit, -, -, -, -, -, still⟩ := unitDid_acts (s := s) (slot := 0) rfl rfl sends
    obtain ⟨flight, -, regs, metas, v', m', tiles, sems, loops, csrs, units, clusters, mem⟩ := unitDid_sends (s := s) (slot := 0) rfl rfl List.nodup_nil sends
    rw [wordDid_unit cur]
    simp only [reg, here_unit (still.trans cur), here_unit cur] at *
    refine ⟨?_, fun r => regs _, metas, v', m', ?_, tiles, sems, loops, ?_, csrs, units, clusters, mem⟩
    · rw [flight]
      by_cases zero : d = 0
      · simp only [zero, if_true]
      · have low : d.toNat < 64 := d.isLt
        simp only [zero, if_false, resultFlight, low, if_true, Bool.or_false]
    · rw [unit]
      rfl
    · rw [unit]
      exact goOn_pc ..
  case landing =>
    intro s f k runs due cls
    obtain ⟨t, step, unit, units, clusters, mem⟩ := execResultLanding_one runs due
    rw [landOne_scalar _ cls] at unit
    refine ⟨t, step, fun r => ?_, fun kept holds0 holds96 => ⟨?_, fun n inside => ?_⟩, ?_, ?_, ?_, units, clusters, mem⟩
    all_goals rw [unit]
    · rw [rdS_wrS, rdS_landedCore]
      by_cases zero : r = 0
      · subst zero
        by_cases same : 0 = f.reg
        · rw [if_pos same, if_pos same.symm, if_pos rfl]
        · rw [if_neg same, if_pos rfl, rdS, if_pos rfl]
      · by_cases same : r = f.reg
        · rw [if_pos same, if_neg (same ▸ zero), if_neg zero, if_pos same]
        · rw [if_neg same, if_neg zero, if_neg same]
    · rw [hmeta_wrS, hmeta_landedCore _ _ (by simp [holds, holds0, holds96])]
    · rw [hmeta_wrS, hmeta_landedCore _ _ (by simp [holds, holds0, holds96])]
      exact landTags_kept kept inside

/-! ## Vector results -/

/-- A vector word for a holder that keeps a result sends it and pops each queue it names (R147, R153). -/
theorem vecOut_issued {s : State} {k : UnitIx} (cur : s.cur = .unit k) (f : VF) {h : Nat} (keeps : holds h = true) (srcs : List (BitVec 6)) (lat : Nat) (y : Vec)
    (more : List Nat) (fl : Flags) : Issued s (wordDid s 1 (vecOut s f h srcs lat y more fl)) k.toNat (srcPops (srcs.map fun x => x.toNat))
      [resultFlight (here s) h lat y (srcHs f (srcs.map fun x => x.toNat) ++ more) (srcPsn (hereView s 1) (srcs.map fun x => x.toNat)) fl
        (getUnit s k.toNat).bundle] := by
  rw [wordDid_unit cur]
  exact unitDid_sends (o := vecOut s f h srcs lat y more fl) rfl rfl (List.nodup_dedup _) (lands_sends cur lat y _ _ fl keeps)

/-- Settles O24: what a vector word sends by the holder it names, and the landing by the class of the result. -/
theorem vectorResults : Obligations.VectorResults := by
  unfold Obligations.VectorResults
  refine ⟨?issue, ?landing⟩
  case issue =>
    intro s k f srcs lat y more fl cur
    simp only [← here_unit cur]
    refine ⟨fun d low => ?_, fun n pos low => ?_, ?_⟩
    · have issued := vecOut_issued cur f (h := 64 + d) (by simp [holds]; omega) srcs lat y more fl
      simpa [resultFlight, show 64 + d < 96 by omega] using issued
    · have issued := vecOut_issued cur f (h := 96 + n) (by simp [holds]; omega) srcs lat y more fl
      simpa [resultFlight, show ¬96 + n < 64 by omega] using issued
    · rw [wordDid_unit cur]
      exact unitDid_sends (o := vecOut s f 96 srcs lat y more 0) rfl rfl (List.nodup_dedup _) (lands_discarded cur lat y _ _ rfl)
  case landing =>
    intro s f
    dsimp only
    intro runs due cls
    obtain ⟨t, step, unit, units, clusters, mem⟩ := execResultLanding_one runs due
    refine ⟨t, step, ?_⟩
    rcases cls with vec | mask
    · rw [landOne_vector _ vec] at unit
      rw [unit]
      refine ⟨fun r => ?_, fun r => ?_, fun r => rdS_landedCore .., fun _ low => ?_, rfl, rfl, units, clusters, mem⟩
      · simp [rdV, vec]
      · simp [rdM, vec]
      · rw [hmeta_landedCore _ _ (by simp [holds]; omega)]
    · rw [landOne_mask _ mask] at unit
      rw [unit]
      refine ⟨fun r => ?_, fun r => ?_, fun r => rdS_landedCore .., fun vec => ?_, rfl, rfl, units, clusters, mem⟩
      · simp [rdV, mask]
      · by_cases zero : r = 0
        · simp [rdM, zero]
        · by_cases same : r = f.reg
          · simp [rdM, mask, ← same, zero]
          · by_cases m0 : f.reg = 0 <;> simp [rdM, zero, same, m0]
      · rw [mask] at vec
        cases vec

end Sys2Proof.Machine
end

section
/-! PROOFS. Scalar loads and stores (spec 04 R65, 11 R189, R190). -/

namespace Sys2Proof.Machine

/-! ## What a load finds -/

/-- Sign extension of the low `n` bits of a number (R189). -/
theorem sextW_eq (x : Nat) {n : Nat} (pos : 0 < n) : sextW n x = (BitVec.ofNat n x).signExtend 64 := by
  have sign : bits x (n - 1) 1 = 1 ↔ (BitVec.ofNat n x).msb = true := by
    rw [BitVec.msb_eq_getLsbD_last, BitVec.getLsbD_ofNat, Nat.testBit_eq_decide_div_mod_eq, Bool.and_eq_true, decide_eq_true_eq, decide_eq_true_eq]
    exact ⟨fun one => ⟨by omega, one⟩, fun both => both.2⟩
  have low : bits x 0 n = (BitVec.ofNat n x).toNat := by simp [bits]
  rw [sextW, sextN, BitVec.signExtend, BitVec.toInt_eq_msb_cond, low]
  simp only [sign]
  norm_cast

theorem loadVal_view (s : State) (slot o n : Nat) : loadVal (hereView s slot) o n = padRead s o n := by
  simp [loadVal, padRead, readLoc_chip]

theorem smemOff_view (s : State) (slot : Nat) (a : Reg) (i : Int) : smemOff (hereView s slot) a i = accessAt s a i := by
  simp [smemOff, accessAt, wrap]

/-- A scalar load asks for its bytes, extended, at latency 5 (R189). -/
theorem loadSem_view (s : State) (d a : Reg) (imm : BitVec 14) (n : Nat) {ext : Nat → W64} {v : W64} (value : ext (padRead s (accessAt s a imm.toInt) n).1 = v) :
    loadSem d a imm n ext (hereView s 0) = loadOut s d a (accessAt s a imm.toInt) n v := by
  subst value
  simp only [loadSem, loadVal_view, smemOff_view, hereView_size, hereView_base, hereView_g, hereView_core]
  rfl

/-- A scalar store asks for its bytes to be written (R189). -/
theorem storeSem_view (s : State) (d a : Reg) (imm : BitVec 14) (n : Nat) :
    storeSem d a imm n (hereView s 0) = storeOut s d a (accessAt s a imm.toInt) n := by
  simp only [storeSem, smemOff_view, hereView_size, hereView_base, hereView_regPsn, hereView_sr]
  rfl

/-- Consecutive registers, each with its place. -/
theorem mapIdx_consecutive (d n : Nat) : ((List.range n).map (fun j => d + j)).mapIdx (fun j r => (j, r)) = (List.range n).map (fun j => (j, d + j)) :=
  List.ext_getElem (by simp) (fun i _ _ => by simp)

/-- LDM asks for its registers in order (R190). -/
theorem semLdm_view (s : State) (d a n : Reg) (off : BitVec 8) :
    let o := accessAt s a (8 * off.toNat : Nat)
    let rs := (List.range (n.toNat + 1)).map (fun j => d.toNat + j)
    semLdm d a n off (hereView s 0) =
      { wr := rs, reads := [a.toNat], gate := [a.toNat], acc := [(false, o, 8 * rs.length)]
        chk := needRange (decide (o + 8 * rs.length ≤ padSize s)) o
        eff := fun t => (List.range (n.toNat + 1)).foldl (fun t j =>
          lands s (d.toNat + j) 5 (BitVec.ofNat 4096 (padRead s (o + 8 * j) 8).1) [a.toNat] (padRead s (o + 8 * j) 8).2 0 t)
          (touchChip t (padBase s + o) (8 * rs.length)) } := by
  intro o rs
  simp only [semLdm, runRegs, loadVal_view, smemOff_view, hereView_size, hereView_base, hereView_g, hereView_core, mapIdx_consecutive, List.foldl_map]
  simp [rs, o, hS, lands]

theorem semStm_view (s : State) (d a n : Reg) (off : BitVec 8) :
    let o := accessAt s a (8 * off.toNat : Nat)
    let rs := (List.range (n.toNat + 1)).map (fun j => d.toNat + j)
    semStm d a n off (hereView s 0) =
      { reads := a.toNat :: rs, gate := a.toNat :: rs, acc := [(true, o, 8 * rs.length)]
        chk := ((needRange (decide (o + 8 * rs.length ≤ padSize s)) o).unless (regBad s a)).and
          ((rs.foldl (fun (c : Chk) r => c.and (psnOf (hmeta (here s) r).poison 0 r)) {}).and (psnOf (regBad s a) 0 a.toNat))
        eff := fun t => modMem t (fun m => writeImg m (padBase s + o)
          (rs.flatMap (fun r => (toBytes (rdS (here s) r).toNat 8).map (fun b => (b, false))))) } := by
  intro o rs
  simp only [semStm, runRegs, smemOff_view, hereView_size, hereView_base, hereView_core, hereView_regPsn]
  simp [rs, o, hS]

/-! ## What a store leaves -/

/-- A word whose effect writes on-chip memory leaves the registers, their metadata and, but for the count of words, the CSRs of its agent (R65, R189). -/
theorem wordDid_stores {s : State} {slot : Nat} {o : SlotOut} {G : MemSt → MemSt} (finds : o.finds = []) (seq : o.ctl = .seq) (eff : o.eff = fun t => modMem t G) :
    let t := wordDid s slot o
    (∀ r, rdS (here t) r = rdS (here s) r) ∧ (∀ h, hmeta (here t) h = hmeta (here s) h) ∧ (∀ n, n ≠ 1 → rdCsr (here t) n = rdCsr (here s) n) ∧
    t.chip.mem = G s.chip.mem ∧ t.hbm = s.hbm ∧ t.host = s.host := by
  rcases cur : s.cur with m | k
  · have did : lanDid s m.toNat o = lanControl (modLan (modMem (modLan s m.toNat
        (fun l => { l with core := { l.core with tw := none }, stall := 0, wait := none, ans := none })) G) m.toNat
        (fun l => { l with core := bump l.core 1 1 })) m.toNat (getCl s m.toNat).lan.core.pc .seq := by
      simp only [lanDid, finds, touchAll_nil, eff, seq]
    have core : here (lanDid s m.toNat o) = goOn (issuedCore (here s)) (codeAddr ((getCl s m.toNat).lan.core.pc + 4)) := by
      simp [did, lanControl, here, cur, getCore, issuedCore]
    rw [wordDid_lantern cur]
    dsimp only
    rw [core, did]
    refine ⟨fun r => rdS_goOn .., fun h => hmeta_goOn .., fun n other => (rdCsr_goOn ..).trans (rdCsr_issuedCore _ other), ?_, ?_, ?_⟩
    all_goals simp [lanControl]
  · have acts : ActsOn k.toNat (fun u => u) G o.eff := eff ▸ .modMem ..
    obtain ⟨unit, -, -, mem, hbm, host, still⟩ := unitDid_acts (s := s) (slot := slot) finds seq acts
    rw [wordDid_unit cur]
    dsimp only
    rw [here_unit (still.trans cur), here_unit cur, unit, issueStart, takePops_eq]
    exact ⟨fun r => rdS_goOn .., fun h => hmeta_goOn .., fun n other => (rdCsr_goOn ..).trans ((rdCsr_bump ..).trans (if_neg other)), mem, hbm, host⟩

/-- Each store runs as a store of its bytes (R189). -/
theorem store_forms (s : State) (d a : Reg) (imm : BitVec 14) :
    ∀ p ∈ ([(.stB d a imm, 1), (.stH d a imm, 2), (.stW d a imm, 4), (.stD d a imm, 8)] : List (Instr × Nat)),
      exec p.1 s = runOne p.1 0 (storeSem d a imm p.2) s := by
  simp only [List.forall_mem_cons]
  exact ⟨rfl, rfl, rfl, rfl, fun _ none => absurd none List.not_mem_nil⟩

theorem store_runs (s : State) (d a : Reg) (imm : BitVec 14) :
    ∀ p ∈ ([(.stB d a imm, 1), (.stH d a imm, 2), (.stW d a imm, 4), (.stD d a imm, 8)] : List (Instr × Nat)),
      Runs s p.1 0 (storeOut s d a (accessAt s a imm.toInt) p.2) := fun p form free =>
  (store_forms s d a imm p form).trans (runOne_free _ 0 _ s _ (storeSem_view s d a imm p.2) free)

/-- Settles O3: each form by what it asks for, and a store by the bytes that its write leaves. -/
theorem scalarMemory : Obligations.ScalarMemory := by
  unfold Obligations.ScalarMemory
  refine ⟨?loads, ?stores, ?stored, ?runs⟩
  case loads =>
    intro s d a imm
    simp only [List.forall_mem_cons]
    exact ⟨runOne_free _ 0 _ s _ (loadSem_view s d a imm 1 (sextW_eq _ (by norm_num))), runOne_free _ 0 _ s _ (loadSem_view s d a imm 1 rfl),
      runOne_free _ 0 _ s _ (loadSem_view s d a imm 2 (sextW_eq _ (by norm_num))), runOne_free _ 0 _ s _ (loadSem_view s d a imm 2 rfl),
      runOne_free _ 0 _ s _ (loadSem_view s d a imm 4 (sextW_eq _ (by norm_num))), runOne_free _ 0 _ s _ (loadSem_view s d a imm 4 rfl),
      runOne_free _ 0 _ s _ (loadSem_view s d a imm 8 rfl), fun _ h => absurd h List.not_mem_nil⟩
  case stores => exact store_runs
  case stored =>
    intro s d a imm p form o free
    obtain ⟨regs, metas, csrs, mem, hbm, host⟩ := wordDid_stores (s := s) (slot := 0) (o := storeOut s d a o p.2)
      (G := fun m => writeImg m (padBase s + o) ((toBytes (reg s d).toNat p.2).map fun b => (b, false))) rfl rfl rfl
    refine ⟨_, store_runs s d a imm p form free, fun i => ?_, fun r => regs _, metas, csrs, memSame_of_eq hbm, memSame_of_eq host⟩
    rw [mem]
    exact rdByte_writeReg ..
  case runs =>
    intro s d a n off
    exact ⟨runOne_free _ 0 _ s _ (semLdm_view s d a n off), runOne_free _ 0 _ s _ (semStm_view s d a n off)⟩

end Sys2Proof.Machine
end

section
/-! PROOFS. Vector loads and stores (spec 04 R65, 12 R221 to R223). -/

namespace Sys2Proof.Machine

/-! ## Lanes and their places -/

/-- The lanes that are on, each with its place. -/
theorem filterMap_marked {α : Type} (l : List Nat) (on : Nat → Bool) (f : Nat → α) :
    (l.map (fun i => (i, on i))).filterMap (fun p => if p.2 then some (p.1, f p.1) else none) = (l.filter on).map (fun i => (i, f i)) := by
  induction l with
  | nil => rfl
  | cons i l ih => cases h : on i <;> simp [h, ih]

theorem vOff_view (s : State) (f : VF) : vOff (hereView s 1) f = accessAt s f.sreg f.imm.toInt := by
  simp [vOff, accessAt, wrap]

/-- The enabled lanes of an access, each with its address (R204). -/
theorem laneAts_view (s : State) (f : VF) (w : Nat) {at0 at1 : Nat → Nat} (same : ∀ i < 4096 / w, at0 i = at1 i) :
    laneAts (hereView s 1) f w at0 = (laneHits s f w).map (fun i => (i, at1 i)) := by
  have switches : (laneOn (hereView s 1) f w).mapIdx (fun i e => (i, e)) = (List.range (4096 / w)).map (fun i => (i, laneEn s f w i)) :=
    List.ext_getElem (by simp [laneOn]) (fun i _ _ => by simp [laneOn, maskBits, laneEn])
  rw [laneAts, switches, filterMap_marked, laneHits]
  exact List.map_congr_left (fun i hit => by rw [same i (List.mem_range.mp (List.mem_of_mem_filter hit))])

/-- The values put over a list of lanes, each at its own place. -/
theorem foldl_set_getD (is : List Nat) (g : Nat → Nat) (a : List Nat) {j : Nat} (inside : j < a.length) :
    ((is.map (fun i => (i, g i))).foldl (fun a p => a.set p.1 p.2) a).getD j 0 = if j ∈ is then g j else a.getD j 0 := by
  induction is generalizing a with
  | nil => rfl
  | cons i is ih =>
    rw [List.map_cons, List.foldl_cons, ih _ (by simpa using inside)]
    by_cases rest : j ∈ is
    · simp [rest]
    · by_cases first : j = i
      · subst first
        simp [rest, List.getD_eq_getElem?_getD, inside]
      · simp [rest, first, List.getD_eq_getElem?_getD, Ne.symm first]

theorem foldl_set_length (l : List (Nat × Nat)) (a : List Nat) : (l.foldl (fun a p => a.set p.1 p.2) a).length = a.length := by
  induction l generalizing a with
  | nil => rfl
  | cons p l ih => rw [List.foldl_cons, ih, List.length_set]

/-- What the lanes of a load find (R221, R223). -/
theorem loadLanes_view (s : State) (n : Nat) (is : List Nat) (at0 : Nat → Nat) : loadLanes (hereView s 1) n (is.map (fun i => (i, at0 i))) =
    (is.map (fun i => (i, (padRead s (at0 i) n).1)), is.any (fun i => (padRead s (at0 i) n).2)) := by
  simp only [loadLanes, loadVal_view, List.foldr_map]
  induction is with
  | nil => rfl
  | cons i is ih => rw [List.foldr_cons, ih]; rfl

/-! ## Loads by lanes -/

theorem ofBytes_lt (l : List Byte) : ofBytes l < 256 ^ l.length := by
  induction l with
  | nil => simp [ofBytes]
  | cons b l ih =>
    have low : b.toNat < 256 := b.isLt
    rw [ofBytes, List.length_cons, Nat.pow_succ]
    omega

theorem padRead_lt (s : State) (o n : Nat) : (padRead s o n).1 < 256 ^ n := by
  have small := ofBytes_lt ((List.range n).map fun j => rdByte s.chip.mem.cells (padBase s + o + j))
  rwa [List.length_map, List.length_range] at small

/-- The vector that a load by lanes gives its destination (R204, R221, R223). -/
def lanesLoaded (s : State) (f : VF) (w : Nat) (at0 : Nat → Nat) : Vec :=
  ofLanes w (overLanes (lanes w (rdV (hereUnit s) f.d.toNat)) (f.mz == 1) ((laneHits s f w).map (fun i => (i, (padRead s (at0 i) (w / 8)).1))))

theorem lane_lanesLoaded (s : State) (f : VF) {w : Nat} (bytes : 8 * (w / 8) = w) (at0 : Nat → Nat) {j : Nat} (inside : j < 4096 / w) :
    lane w (lanesLoaded s f w at0) j =
      if laneEn s f w j then (padRead s (at0 j) (w / 8)).1 else if f.mz = 1 then 0 else lane w (rdV (hereUnit s) f.d.toNat) j := by
  have hit : j ∈ laneHits s f w ↔ laneEn s f w j = true := by simp [laneHits, inside]
  have len : (if f.mz == 1 then (lanes w (rdV (hereUnit s) f.d.toNat)).map (fun _ => 0) else lanes w (rdV (hereUnit s) f.d.toNat)).length = 4096 / w := by
    split <;> simp
  rw [lanesLoaded, lane_ofLanes _ _ _ (by rw [overLanes, foldl_set_length, len]), overLanes, foldl_set_getD _ _ _ (by rw [len]; exact inside)]
  by_cases on : laneEn s f w j
  · rw [if_pos (hit.mpr on), if_pos on, Nat.mod_eq_of_lt]
    have small := padRead_lt s (at0 j) (w / 8)
    rwa [show 256 = 2 ^ 8 from rfl, ← Nat.pow_mul, bytes] at small
  · rw [if_neg (mt hit.mp on), if_neg on]
    by_cases zero : f.mz = 1
    · simp [zero, List.getD_eq_getElem?_getD, inside]
    · have keep : ¬(f.mz == 1) = true := by simpa using zero
      rw [if_neg keep, if_neg zero, lanes_getD w j _ inside]
      exact Nat.mod_eq_of_lt (Nat.mod_lt _ (Nat.two_pow_pos w))

/-- A load by lanes asks for the enabled lanes' bytes (R221, R223). -/
theorem laneLoad_view {s : State} (unit : onLan s = false) (f : VF) (w : Nat) (srcs : List (BitVec 6)) {at0 : View → Nat → Nat} {at1 : Nat → Nat}
    (same : ∀ i < 4096 / w, at0 (hereView s 1) i = at1 i) :
    laneLoad f w (srcs.map fun x => x.toNat) at0 (hereView s 1) = laneLoadOut s f w srcs at1 (lanesLoaded s f w at1) := by
  simp only [laneLoad, unitOnly_view _ _ _ unit, laneAts_view s f w same, loadLanes_view, laneRange, vOff_view, hereView_base, hereView_g, hereView_core,
    hereView_u, List.map_map, List.all_map, List.foldl_map]
  rfl

/-! ## Stores by lanes -/

/-- A store by lanes asks for the enabled lanes' bytes to be written, ascending (R221, R223). -/
theorem laneStore_view {s : State} (unit : onLan s = false) (f : VF) (w : Nat) (srcs : List (BitVec 6)) {at0 : View → Nat → Nat} {at1 : Nat → Nat}
    (same : ∀ i < 4096 / w, at0 (hereView s 1) i = at1 i) :
    laneStore f w (srcs.map fun x => x.toNat) at0 (hereView s 1) = laneStoreOut s f w srcs at1 := by
  have bytes : (laneHits s f w).flatMap (fun i => (toBytes ((lanes w (rdV (hereUnit s) f.d.toNat)).getD i 0) (w / 8)).mapIdx fun j b => (padBase s + at1 i + j, b, false)) =
      (laneHits s f w).flatMap (fun i => (toBytes (lane w (rdV (hereUnit s) f.d.toNat) i) (w / 8)).mapIdx fun j b => (padBase s + at1 i + j, b, false)) :=
    List.flatMap_congr (fun i hit => by rw [lanes_getD w i _ (List.mem_range.mp (List.mem_of_mem_filter hit))])
  have array : ∀ i, (lanes w (rdV (hereUnit s) f.d.toNat)).toArray.getD i 0 = (lanes w (rdV (hereUnit s) f.d.toNat)).getD i 0 := fun i => by simp
  simp only [laneStore, unitOnly_view _ _ _ unit, laneAts_view s f w same, laneRange, vOff_view, hereView_base, hereView_core, hereView_u, hereView_regPsn,
    vecPsn, maskPsn, List.map_map, List.all_map, List.flatMap_map, array, bytes]
  rfl

/-- The bytes of a number at an address, one after the other. -/
def putBytes (m : Memory) (a v n : Nat) : Memory := ((toBytes v n).mapIdx fun j b => (a + j, b, false)).foldl (fun x w => wrByte x w.1 w.2.1) m

theorem rdByte_putBytes (m : Memory) (a v n i : Nat) :
    rdByte (putBytes m a v n) i = if a ≤ i ∧ i < a + n then BitVec.ofNat 8 (v / 256 ^ (i - a)) else rdByte m i := by
  have img : (toBytes v n).mapIdx (fun j b => (a + j, b, false)) = ((toBytes v n).map fun b => (b, false)).mapIdx fun j b => (a + j, b.1, b.2) :=
    List.ext_getElem (by simp) (fun j _ _ => by simp)
  rw [putBytes, img, rdByte_foldl_mapIdx]
  simp only [List.length_map, toBytes_length]
  by_cases inside : a ≤ i ∧ i < a + n
  · rw [dif_pos inside, if_pos inside]
    simp only [List.getElem_map]
    exact toBytes_getElem _ _ _ (by omega)
  · rw [dif_neg inside, if_neg inside]

/-- Numbers written at ascending indices: a byte holds what the last index that names it wrote, or what stood there (R223). -/
theorem foldl_putBytes (is : List Nat) (ascending : is.Pairwise (· < ·)) (at0 val : Nat → Nat) (n : Nat) (m : Memory) :
    let m' := is.foldl (fun x i => putBytes x (at0 i) (val i) n) m
    (∀ j ∈ is, ∀ b < n, (∀ i ∈ is, j < i → ¬(at0 i ≤ at0 j + b ∧ at0 j + b < at0 i + n)) → rdByte m' (at0 j + b) = BitVec.ofNat 8 (val j / 256 ^ b)) ∧
    ∀ a, (∀ j ∈ is, ¬(at0 j ≤ a ∧ a < at0 j + n)) → rdByte m' a = rdByte m a := by
  induction is generalizing m with
  | nil => exact ⟨fun _ none => absurd none List.not_mem_nil, fun _ _ => rfl⟩
  | cons i is ih =>
    obtain ⟨first, rest⟩ := List.pairwise_cons.mp ascending
    obtain ⟨written, kept⟩ := ih rest (putBytes m (at0 i) (val i) n)
    refine ⟨fun j named b inside last => ?_, fun a outside => ?_⟩
    · rw [List.foldl_cons]
      rcases List.mem_cons.mp named with here | later
      · subst here
        rw [kept _ (fun i above => last i (List.mem_cons_of_mem _ above) (first i above)), rdByte_putBytes, if_pos (by omega), Nat.add_sub_cancel_left]
      · exact written j later b inside (fun i above => last i (List.mem_cons_of_mem _ above))
    · rw [List.foldl_cons, kept a (fun j later => outside j (List.mem_cons_of_mem _ later)), rdByte_putBytes, if_neg (outside i List.mem_cons_self)]

theorem laneHits_ascending (s : State) (f : VF) (w : Nat) : (laneHits s f w).Pairwise (· < ·) := List.pairwise_lt_range.filter _

/-- What on-chip memory becomes by a store by lanes (R221, R223). -/
def lanesStored (s : State) (f : VF) (w : Nat) (at0 : Nat → Nat) (m : MemSt) : MemSt :=
  writeSet m ((laneHits s f w).flatMap fun i => (toBytes (lane w (rdV (hereUnit s) f.d.toNat) i) (w / 8)).mapIdx fun j b => (padBase s + at0 i + j, b, false))

theorem lanesStored_cells (s : State) (f : VF) (w : Nat) (at0 : Nat → Nat) (m : MemSt) : (lanesStored s f w at0 m).cells =
    (laneHits s f w).foldl (fun x i => putBytes x (padBase s + at0 i) (lane w (rdV (hereUnit s) f.d.toNat) i) (w / 8)) m.cells := by
  show List.foldl _ _ _ = _
  rw [List.foldl_flatMap]
  rfl

/-! ## Whole registers -/

theorem semVldm_view {s : State} (unit : onLan s = false) (f : VF) :
    let o := accessAt s f.sreg f.imm.toInt
    let ds := (List.range (f.c.toNat % 32 + 1)).map (fun j => f.d.toNat + j)
    semVldm f (hereView s 1) =
      { wr := ds.map (fun d => 64 + d), gate := [f.sreg.toNat], acc := [(false, o, 512 * ds.length)]
        chk := needRange (decide (o + 512 * ds.length ≤ unitSize)) o
        eff := fun t => (List.range (f.c.toNat % 32 + 1)).foldl (fun t j =>
          lands s (64 + (f.d.toNat + j)) 6 (BitVec.ofNat 4096 (padRead s (o + 512 * j) 512).1) [f.sreg.toNat] (padRead s (o + 512 * j) 512).2 0 t)
          (touchChip t (padBase s + o) (512 * ds.length)) } := by
  have count : bits f.c.toNat 0 5 = f.c.toNat % 32 := by simp [bits]
  simp only [semVldm, unitOnly_view _ _ _ unit, loadVal_view, vOff_view, hereView_base, hereView_g, hereView_core, count, mapIdx_consecutive, List.foldl_map]
  rfl

theorem semVstm_view {s : State} (unit : onLan s = false) (f : VF) :
    let o := accessAt s f.sreg f.imm.toInt
    let ds := (List.range (f.c.toNat % 32 + 1)).map (fun j => f.d.toNat + j)
    semVstm f (hereView s 1) =
      { gate := f.sreg.toNat :: ds.map (fun d => 64 + d), acc := [(true, o, 512 * ds.length)]
        chk := ((needRange (decide (o + 512 * ds.length ≤ unitSize)) o).unless (regBad s f.sreg)).and
          ((ds.foldl (fun (c : Chk) d => c.and (psnOf (hmeta (here s) (64 + d)).poison 1 d)) {}).and (psnOf (regBad s f.sreg) 0 f.sreg.toNat))
        eff := fun t => modMem t (fun m => writeImg m (padBase s + o)
          (ds.flatMap (fun d => (List.range 512).map (fun j => ((rdV (hereUnit s) d).extractLsb' (8 * j) 8, false))))) } := by
  have count : bits f.c.toNat 0 5 = f.c.toNat % 32 := by simp [bits]
  simp only [semVstm, unitOnly_view _ _ _ unit, vOff_view, hereView_base, hereView_core, hereView_u, hereView_regPsn, count, vecPsn, vecBytes, List.map_map]
  rfl

/-! ## Each form -/

theorem tyWidth_bytes (ty : Nat) : 8 * (tyWidth ty / 8) = tyWidth ty := by
  unfold tyWidth
  split <;> rfl

/-- The lane that an index gives VGTH and VSCT (R223). -/
theorem index_view (s : State) (f : VF) {i : Nat} (inside : i < 4096 / tyWidth f.ty.toNat) :
    vOff (hereView s 1) f + (lanes (tyWidth f.ty.toNat) (vsrc (hereView s 1) f f.a.toNat)).getD i 0 * (tyWidth f.ty.toNat / 8) =
      accessAt s f.sreg f.imm.toInt + lane (tyWidth f.ty.toNat) (src s f f.a) i * (tyWidth f.ty.toNat / 8) := by
  rw [vOff_view, lanes_getD _ _ _ inside, src]

section
variable {s : State} (unit : onLan s = false) (f : VF)
include unit

theorem vst_runs : Runs s (.vst f) 1 (laneStoreOut s f 32 [] fun j => accessAt s f.sreg f.imm.toInt + 4 * j) := fun free =>
  runOne_free _ 1 _ s _ (laneStore_view unit f 32 [] (fun _ _ => by rw [vOff_view])) free

theorem vsct_runs : let w := tyWidth f.ty.toNat
    Runs s (.vsct f) 1 (laneStoreOut s f w [f.a] fun j => accessAt s f.sreg f.imm.toInt + lane w (src s f f.a) j * (w / 8)) := fun free =>
  runOne_free _ 1 _ s _ (laneStore_view unit f _ [f.a] (fun _ inside => index_view s f inside)) free

end

/-- What a store by lanes leaves (R65, R221, R223). -/
theorem laneStore_leaves {s : State} {k : UnitIx} (cur : s.cur = .unit k) (f : VF) (w : Nat) (srcs : List (BitVec 6)) (at1 : Nat → Nat) :
    let t := wordDid s 1 (laneStoreOut s f w srcs at1)
    let at0 := fun j => padBase s + at1 j
    (∀ j ∈ laneHits s f w, ∀ b < w / 8, (∀ i ∈ laneHits s f w, j < i → ¬(at0 i ≤ at0 j + b ∧ at0 j + b < at0 i + w / 8)) →
      rdByte t.chip.mem.cells (at0 j + b) = BitVec.ofNat 8 (lane w (rdV (getUnit s k.toNat) f.d.toNat) j / 2 ^ (8 * b))) ∧
    (∀ i, (∀ j ∈ laneHits s f w, ¬(at0 j ≤ i ∧ i < at0 j + w / 8)) → rdByte t.chip.mem.cells i = rdByte s.chip.mem.cells i) ∧
    (∀ r, reg t r = reg s r) ∧ (∀ r, rdV (getUnit t k.toNat) r = rdV (getUnit s k.toNat) r) ∧ (∀ h, hmeta (here t) h = hmeta (here s) h) ∧
    (∀ n, n ≠ 1 → rdCsr (here t) n = rdCsr (here s) n) ∧ MemSame s.hbm t.hbm ∧ MemSame s.host t.host := by
  intro t at0
  have same : hereUnit s = getUnit s k.toNat := by rw [hereUnit, cur]
  obtain ⟨regs, metas, csrs, mem, hbm, host⟩ := wordDid_stores (s := s) (slot := 1) (o := laneStoreOut s f w srcs at1) (G := lanesStored s f w at1) rfl rfl rfl
  obtain ⟨unit, -⟩ := unitDid_acts (s := s) (slot := 1) (o := laneStoreOut s f w srcs at1) rfl rfl (ActsOn.modMem k.toNat (lanesStored s f w at1))
  obtain ⟨written, kept⟩ := foldl_putBytes (laneHits s f w) (laneHits_ascending s f w) at0 (lane w (rdV (hereUnit s) f.d.toNat)) (w / 8) s.chip.mem.cells
  rw [← lanesStored_cells, ← mem] at written kept
  rw [same] at written
  refine ⟨fun j hit b inside last => ?_, kept, fun r => regs _, fun r => ?_, metas, csrs, memSame_of_eq hbm, memSame_of_eq host⟩
  · rw [written j hit b inside last, Nat.pow_mul]
  · rw [show t = _ from wordDid_unit cur .., unit, issueStart, takePops_eq]
    rfl

/-- Settles O25: each form by what it asks for, and a store by lanes by the last lane that names a byte. -/
theorem vectorMemory : Obligations.VectorMemory := by
  unfold Obligations.VectorMemory
  refine ⟨?forms, ?stored⟩
  case forms =>
    intro s f unit
    refine ⟨⟨_, fun j inside => lane_lanesLoaded s f rfl _ inside, fun free => ?_⟩, vst_runs unit f,
      ⟨_, fun j inside => lane_lanesLoaded s f (tyWidth_bytes _) _ inside, fun free => ?_⟩, vsct_runs unit f, ?_, ?_⟩
    · exact runOne_free _ 1 _ s _ (laneLoad_view unit f 32 [] (fun _ _ => by rw [vOff_view])) free
    · exact runOne_free _ 1 _ s _ (laneLoad_view unit f _ [f.a] (fun _ inside => index_view s f inside)) free
    · exact runOne_free _ 1 _ s _ (semVldm_view unit f)
    · exact runOne_free _ 1 _ s _ (semVstm_view unit f)
  case stored =>
    intro s k f cur
    have unit : onLan s = false := by simp [onLan, cur]
    simp only [List.forall_mem_cons]
    refine ⟨fun free => ⟨_, vst_runs unit f free, laneStore_leaves cur f ..⟩, fun free => ⟨_, vsct_runs unit f free, laneStore_leaves cur f ..⟩,
      fun _ none => absurd none List.not_mem_nil⟩

end Sys2Proof.Machine
end

section
/-! PROOFS. Loops and taint control (spec 04 R76, 09 R156, 11 R194, R195). -/

namespace Sys2Proof.Machine

/-! ## Loop set-up -/

/-- In a unit, loop set-up asks for the new level, its count checked (R194). -/
theorem loopSem_view {s : State} {k : UnitIx} (cur : s.cur = .unit k) {n : View → Nat} {c : Nat} (count : n (hereView s 0) = c) (rs : List Reg) :
    loopSem n rs (hereView s 0) =
      { reads := rs.map (fun r => r.toNat), xfer := true, setup := true, ctl := .loop c,
        chk := transferChk s rs (decide (0 < c) && decide (c < 2 ^ 32)) } := by
  have inUnit : onLan s = false := by rw [onLan, cur]
  subst count
  rw [loopSem, unitOnly_view _ _ _ inUnit]
  have poison : regPsn (hereView s 0) = regBad s := funext (hereView_regPsn s 0)
  simp only [poison, transferChk, hS]

/-- Loop set-up in a unit adds the level, which starts at the bundle after this one, and moves no register and no memory (R156, R194). -/
theorem unitDid_loop (s : State) (k : Nat) {o : SlotOut} {c : Nat} (noFinds : o.finds = []) (noPops : o.pops = []) (eff : o.eff = fun t => t)
    (loop : o.ctl = .loop c) : let t := unitDid s k 0 o
    (getUnit t k).loops = (getUnit s k).loops ++ [⟨c, ((getUnit s k).core.pc + 8) % 2 ^ 21⟩] ∧
      (∀ r, rdS (getUnit t k).core r = rdS (getUnit s k).core r) ∧ t.cur = s.cur ∧ AllMemSame s t := by
  intro t
  rw [show t = _ from unitDid_eq s k 0 o noFinds noPops, loop, eff]
  have next : codeAddr ((getUnit s k).core.pc + 8) = ((getUnit s k).core.pc + 8) % 2 ^ 21 := codeAddr_afterBundle _
  simp only [bunControl, soloEnd, soloStart, soloNamed, soloBundle]
  refine ⟨?_, fun r => ?_, ?_, .of_eq⟩
  · simp [next]
  · simp [rdS]
  · simp

/-! ## Taint control -/

/-- A holder of TJOIN's y operand gives its own taint and saturation (R76): no class with a holder is that of queues in a unit. -/
theorem joinSource_holder {v : View} {cls y j : Nat} (holder : classHolder v.lan cls y = some j) :
    joinSource v cls y = some ((hmeta v.core j).taint, (hmeta v.core j).sat) := by
  have notQueue : ¬(cls = 3 ∧ (!v.lan) = true) := by
    rintro ⟨rfl, inUnit⟩
    rw [show v.lan = false by simpa using inUnit] at holder
    cases holder
  rw [joinSource, if_neg notQueue, holder]
  rfl

/-- TJOIN joins what its y operand carries into its x operand (R76). -/
theorem tjoin_runs {s : State} {x y : Reg} {p q : BitVec 2} {h : Nat} {t : BitVec 16} {sat : Bool} (holder : classHolder (onLan s) p.toNat x.toNat = some h)
    (source : joinSource (hereView s 0) q.toNat y.toNat = some (t, sat)) : Runs s (.tjoin x y p q) 0
      { wr := [h], eff := fun u => putTaint u s.cur (here s) h ((hmeta (here s) h).taint ||| t) ((hmeta (here s) h).sat || sat) } :=
  runOne_free _ 0 _ s _ (by simp only [semTjoin, hereView_lan, holder, source, hereView_core, hereView_g])

/-- Settles O5: set-up of a loop by the control it asks for, taint control by the holders its classes name. -/
theorem loopsAndTaint : Obligations.LoopsAndTaint := by
  unfold Obligations.LoopsAndTaint
  refine ⟨?loops, ?taint⟩
  case loops =>
    intro s k a imm cur
    refine ⟨runOne_free _ 0 _ s _ (loopSem_view cur (by rw [hereView_sr]) [a]), runOne_free _ 0 _ s _ (loopSem_view cur rfl []), fun rs c => ?_⟩
    rw [wordDid_unit cur]
    obtain ⟨loops, regs, still, mem⟩ := unitDid_loop s k.toNat (c := c)
      (o := { reads := rs.map (fun r => r.toNat), xfer := true, setup := true, ctl := .loop c,
              chk := transferChk s rs (decide (0 < c) && decide (c < 2 ^ 32)) }) rfl rfl rfl rfl
    simp only [reg, here_unit cur, here_unit (still.trans cur)]
    exact ⟨loops, fun r => regs _, mem⟩
  case taint =>
    intro s x y p q c k h j
    refine ⟨fun holder source => ?_, fun holder inUnit queue low => ?_, fun holder => ?_, fun holder low => ?_⟩
    · exact tjoin_runs holder (by rw [joinSource_holder (by rwa [hereView_lan]), hereView_core])
    · exact tjoin_runs holder (by simp [joinSource, queue, inUnit, low])
    · exact runOne_free _ 0 _ s _ (by simp only [semTclr, hereView_lan, holder, hereView_core, hereView_g])
    · have mask : (onLan s && decide (256 ≤ k.toNat)) = false := by
        cases lan : onLan s
        · rfl
        · simpa using low lan
      exact runOne_free _ 0 _ s _ (by simp [semTwait, holder, mask])

end Sys2Proof.Machine
end

section
/-! PROOFS. Token words, USIG, WINQ and RETRY (spec 04 R80, 05 R86, 15 R276, R281 to R283). -/

namespace Sys2Proof.Machine

section
variable {s : State} {m : ClusterIx} (cur : s.cur = .lantern m)
include cur

theorem onLan_lantern : onLan s = true := by rw [onLan, cur]

theorem hereCl_lantern : hereCl s = m.toNat := by rw [hereCl, cur, Agent.cl]

end

/-- A register with no poison passes its check (R111). -/
theorem psnChk_clean {s : State} {a : Reg} (clean : regBad s a = false) : psnChk s [a] = {} := by
  rw [psnChk, List.foldl_cons, List.foldl_nil, clean]
  rfl

/-! ## Tokens -/

/-- The operands of a token word that gates on its handle (R276, R281). -/
def tokOperand (a : Reg) : SlotOut := { reads := [a.toNat], gate := [a.toNat] }

/-- A token word whose handle is a valid one of a token comes to its form (R281). -/
theorem tokSem_view {s : State} {a : Reg} (lan : onLan s = true) (valid : handleOk s (reg s a).toNat = true) (token : bit (reg s a).toNat 47 = false)
    (clean : regBad s a = false) (f : View → Nat → SlotOut → SlotOut) :
    tokSem a f (hereView s 0) = f (hereView s 0) (reg s a).toNat (tokOperand a) := by
  rw [tokSem, lanOnly_view lan]
  simp only [hereView_sr, hereView_s, hereView_regPsn, psnRegs_view, psnChk_clean clean, tokOk, valid, token, Bool.not_false, Bool.and_self, needIll_true,
    chk_unless_empty, chk_empty_and]
  rfl

/-- A signalled token is fired and counts one more (R276). -/
theorem getTok_tokFire_self (s : State) (m i : Nat) : getTok (tokFire s m i) m i = ⟨true, min 65535 ((getTok s m i).cnt + 1)⟩ := by
  simp [getTok, tokFire, satPosts]

/-- A signal of a token reaches its own cluster alone (R276). -/
theorem getCl_tokFire {s : State} {m i j : Nat} (other : j ≠ m) : getCl (tokFire s m i) j = getCl s j := by
  rw [tokFire, getCl_modCl, if_neg other]

/-! ## USIG -/

/-- A unit's scratchpad lies at its unit (R21). -/
theorem whereLia_unit (s : State) {k : Nat} (unit : k < 256) : whereLia s (unitBase k) = ⟨some k, some (k / 8), some (k / 64), some s.partMod⟩ := by
  have place : unitBase k - unitBase 0 = k * 0x80000 := by
    simp only [unitBase]
    omega
  rw [whereLia, if_neg (by simp only [unitBase, clBase, codeBase]; omega), if_neg (by simp only [unitBase, dieBase]; omega),
    if_neg (by simp only [unitBase]; omega), if_pos (by simp only [unitBase, codeBase]; omega), place, Nat.mul_div_cancel _ (by norm_num)]

/-- A unit of its cluster is at unit scope from a Lantern core (R78). -/
theorem proximity_ownUnit (s : State) (m : ClusterIx) {i : Nat} (inside : i < 8) :
    proximity (whereAgent s (.lantern m)) (whereLia s (unitBase (8 * m.toNat + i))) = 0 := by
  have cluster := m.isLt
  rw [whereLia_unit s (by omega), show (8 * m.toNat + i) / 8 = m.toNat by omega]
  simp [proximity, whereAgent]

theorem bits_three_lt (x lo : Nat) : bits x lo 3 < 8 := Nat.mod_lt _ (by norm_num)

/-- USIG of a valid operand asks for a release at cluster scope whose write is its signal (R281). -/
theorem semUsig_view {s : State} {m : ClusterIx} (cur : s.cur = .lantern m) {a : Reg} (high : bits (reg s a).toNat 14 50 = 0) (mid : bits (reg s a).toNat 9 3 = 0)
    (low : bits (reg s a).toNat 3 1 = 0) : let x := (reg s a).toNat
    semUsig a (hereView s 0) =
      { reads := [a.toNat], gate := [a.toNat], fence := some (1, 31), chk := psnChk s [a]
        eff := fun t => modCl t m.toNat (fun c => { c with signals := c.signals ++ [
          ⟨8 * m.toNat + bits x 0 3, bits x 4 5, bits x 12 2 + 1, t.chip.slot, some ⟨1, 0⟩, none⟩] }) } := by
  intro x
  have near : proximity (whereAgent s (.lantern m)) (whereLia s (unitBase (8 * m.toNat + bits (reg s a).toNat 0 3))) = 0 := proximity_ownUnit s m (bits_three_lt x 0)
  rw [semUsig, usigSem, lanOnly_view (onLan_lantern cur)]
  simp only [hereView_sr, hereView_g, hereView_s, hereView_regPsn, psnRegs_view, cur, Agent.cl, near, high, mid, low, and_self,
    decide_true, needIll_true, chk_unless_empty, chk_empty_and]
  rfl

/-! ## Queries and RETRY -/

theorem winQuery_ready (s : State) (m : Nat) : winQuery s m 2 = (getCl s m).tasks.countP (fun t => decide (t.st = .ready)) := rfl

theorem winQuery_room (s : State) (m : Nat) : winQuery s m 5 = (getCl s m).ovfCap - (sget [] (getCl s m).ovf 0).length := rfl

theorem semWinq_view {s : State} {m : ClusterIx} (cur : s.cur = .lantern m) (d k : Reg) : semWinq d k (hereView s 0) =
    { wr := [d.toNat], eff := lands s d.toNat 1 (BitVec.ofNat 4096 (winQuery s m.toNat k.toNat)) [] false 0 } := by
  rw [semWinq, lanOnly_view (onLan_lantern cur)]
  simp only [hereView_s, hereView_g, hereView_core, cur_cl, hereCl_lantern cur]
  rfl

/-- RETRY of a position in the ring asks to settle its entry (R283). -/
theorem semRetry_view {s : State} {m : ClusterIx} (cur : s.cur = .lantern m) {a : Reg} (inside : (reg s a).toNat < 2 ^ ringL s m.toNat) :
    semRetry a (hereView s 0) =
      { reads := [a.toNat], gate := [a.toNat], chk := psnChk s [a], eff := fun t => ringRetry t m.toNat (reg s a).toNat } := by
  rw [semRetry, lanOnly_view (onLan_lantern cur)]
  simp only [hereView_sr, hereView_g, hereView_s, hereView_regPsn, psnRegs_view, cur_cl, hereCl_lantern cur, inside, decide_true, needIll_true,
    chk_unless_empty, chk_empty_and]
  rfl

/-- Settles O15: each token form on a token of this module by what it asks for, what a signal leaves, and the other words by theirs. -/
theorem tokensAndQueries : Obligations.TokensAndQueries := by
  unfold Obligations.TokensAndQueries
  refine ⟨?tokens, ?queries⟩
  case tokens =>
    intro s m d a cur h at0 valid token own clean
    have lan := onLan_lantern cur
    have here : tokHere s h = true := decide_eq_true own
    have cl := hereCl_lantern cur
    have form := tokSem_view lan valid token clean
    refine ⟨fun fired => runOne_free _ 0 _ s _ ?_, runOne_free _ 0 _ s _ ?_, fun t => ⟨getTok_tokFire_self .., fun j => getCl_tokFire⟩, runOne_free _ 0 _ s _ ?_⟩
    · rw [semTkwait, form, tkwaitOut]
      simp only [hereView_s, hereView_g, cur_cl, cl, here, if_true, fired, tokOperand, h, at0]
    · rw [semTksig, form, tksigOut]
      simp only [hereView_s, here, if_true, tokOperand, h, at0]
    · rw [semTkrd, form, tkrdOut]
      simp only [hereView_s, hereView_g, cur_cl, cl, here, if_true, tokOperand, h, hS]
  case queries =>
    intro s m d a k cur x
    exact ⟨fun high mid low => runOne_free _ 0 _ s _ (semUsig_view cur high mid low), runOne_free _ 0 _ s _ (semWinq_view cur d k), winQuery_ready s _,
      winQuery_room s _, fun inside => runOne_free _ 0 _ s _ (semRetry_view cur inside)⟩

end Sys2Proof.Machine
end

section
/-! PROOFS. Commands enter their queues (spec 04 R67, R69, R74, 09 R143, 14 R245). -/

namespace Sys2Proof.Machine

/-! ## A bundle that finds errors -/

/-- The units differ in their CSRs alone. -/
def Recounted (u w : Unit) : Prop := ∃ x, w = { u with core := { u.core with csr := x } }

theorem Recounted.refl (u : Unit) : Recounted u u := ⟨_, rfl⟩

theorem Recounted.trans {u v w : Unit} (first : Recounted u v) (second : Recounted v w) : Recounted u w := by
  obtain ⟨x, rfl⟩ := first
  obtain ⟨y, rfl⟩ := second
  exact ⟨y, rfl⟩

/-- Errors that a read finds are counted in CSRs (R199). -/
theorem touchChip_recounts (s : State) (a n j : Nat) : Recounted (getUnit s j) (getUnit (touchChip s a n) j) := by
  unfold touchChip
  rcases touch s.chip.mem a n with ⟨m, ce, ue⟩
  rcases countErr_cases (modChip s fun c => { c with mem := m }) a ce ue with same | ⟨g, bumped⟩
  · simp only [same]
    exact .refl _
  · simp only [bumped]
    cases g with
    | lantern m => exact .refl _
    | unit i =>
      rw [modCore, getUnit_modUnit]
      split
      · next here =>
        rw [← here]
        exact ⟨_, rfl⟩
      · exact .refl _

theorem touchAll_recounts (l : List (Nat × Nat)) (s : State) (j : Nat) : Recounted (getUnit s j) (getUnit (touchAll s l) j) := by
  induction l generalizing s with
  | nil => exact .refl _
  | cons p l ih => exact (touchChip_recounts s p.1 p.2 j).trans (ih _)

/-- A unit after a one-slot bundle that goes on to the next one: its start, after what it finds, its effect and its end (R145). -/
theorem unitDid_found (s : State) (k slot : Nat) {o : SlotOut} (seq : o.ctl = .seq) : ∃ now u t, Recounted (getUnit s k) u ∧
    getUnit t k = issueStart now o u ∧ getUnit (unitDid s k slot o) k =
      issueEnd (codeAddr ((getUnit s k).core.pc + (if slot = 0 then 8 else 12 : Nat))) (getUnit (o.eff t) k) := by
  have control : ([((⟨slot, none, fun _ => o⟩ : SlotIn), o)].find? (fun o => o.2.ctl != .seq)).elim .seq (fun o => o.2.ctl) = Ctl.seq := by simp [seq]
  obtain ⟨x, found⟩ := touchAll_recounts o.finds (soloNamed s k slot o) k
  refine ⟨(touchAll (soloNamed s k slot o) o.finds).clk, { getUnit s k with core := { (getUnit s k).core with csr := x } },
    modUnit (touchAll (soloNamed s k slot o) o.finds) k (fun u =>
      let u := ageFlights (takePops u o.pops)
      { u with core := { u.core with tw := none }, owed := none
               divFree := if o.div then (touchAll (soloNamed s k slot o) o.finds).clk + 20 else u.divFree
               inst := u.inst.map (fun i => { i with first := false }) }), ⟨x, rfl⟩, ?_, ?_⟩
  · rw [getUnit_modUnit_self, found]
    simp [soloNamed, issueStart, takePops_eq, ageFlights]
  · rw [unitDid]
    unfold bunIssue
    simp only [control]
    rw [bunControl_seq rfl, getUnit_modUnit_self, getUnit_modUnit_self]
    simp only [List.flatMap_cons, List.flatMap_nil, List.append_nil, List.any_cons, List.any_nil, Bool.or_false]
    rfl

/-! ## The queues of the engines -/

section
variable (u : Unit) (slot : Nat) (q : List QCmd)

@[simp] theorem slotQ_setSlotQ_self : slotQ (setSlotQ u slot q) slot = q := by
  match slot with
  | 3 | 4 => rfl
  | 0 | 1 | 2 | _ + 5 => rfl

@[simp] theorem setSlotQ_core : (setSlotQ u slot q).core = u.core := by unfold setSlotQ; split <;> rfl
@[simp] theorem setSlotQ_v : (setSlotQ u slot q).v = u.v := by unfold setSlotQ; split <;> rfl
@[simp] theorem setSlotQ_m : (setSlotQ u slot q).m = u.m := by unfold setSlotQ; split <;> rfl
@[simp] theorem setSlotQ_queues : (setSlotQ u slot q).queues = u.queues := by unfold setSlotQ; split <;> rfl
@[simp] theorem setSlotQ_tiles : (setSlotQ u slot q).tiles = u.tiles := by unfold setSlotQ; split <;> rfl
@[simp] theorem setSlotQ_sems : (setSlotQ u slot q).sems = u.sems := by unfold setSlotQ; split <;> rfl

variable {u slot q}

/-- A slot's queue is its own (R143). -/
theorem slotQ_setSlotQ_other (engine : slot ∈ [3, 4, 5]) {j : Nat} (named : j ∈ [3, 4, 5]) (other : j ≠ slot) : slotQ (setSlotQ u slot q) j = slotQ u j := by
  simp only [List.mem_cons, List.not_mem_nil, or_false] at engine named
  rcases engine with rfl | rfl | rfl <;> rcases named with rfl | rfl | rfl
  all_goals simp [slotQ, setSlotQ] at other ⊢

end

/-! ## A command issues -/

/-- A unit that queues `c` at the end of the queue of `slot`, once a command that returns a value has taken the lowest free tag for its destination (R67, R69). -/
def enqueue (slot : Nat) (dst : Option Nat) (c : QCmd) (u : Unit) : Unit :=
  setSlotQ { u with core := dst.elim u.core (takeTagFor u.core ((freeTag u.core 16).getD 0)) } slot (slotQ u slot ++ [c])

/-- What a command holds that issues to the queue of `slot` in unit `k` (R67, R74, R245). -/
structure Entered (s : State) (k slot : Nat) (i : Instr) (c : QCmd) : Prop where
  ins : c.ins = i
  place : c.slot = slot
  addr : c.addr = (getUnit s k).core.pc
  issued : c.issued = s.clk
  inst : c.inst = ((getUnit s k).inst.map (fun n => n.serial)).getD 0
  par : c.par = parOf (getUnit s k) i
  handed : c.handed = handedAtOnce s k slot i
  tailed : c.tailed = false

/-- A hand-off moves no unit and marks the command, with its operands (R245, R264). -/
theorem handOff_marks (s : State) (k : Nat) (c : QCmd) (x : Xfer) :
    (∀ j, getUnit (handOff s k c x).1 j = getUnit s j) ∧ ∃ y, (handOff s k c x).2 = { c with handed := true, x := y } := by
  unfold handOff
  split
  · exact ⟨fun _ => rfl, _, rfl⟩
  · exact ⟨fun _ => rfl, _, rfl⟩

/-- The end of a queue, where a command joins it that is handed off where it is `free` (R67, R74). -/
theorem queued_last (t : State) (k slot : Nat) {c : QCmd} (waits : c.handed = false) (x : Xfer) (free : Bool) :
    let y := if free = true then handOff t k c x else (t, c)
    ∃ z, getUnit (modUnit y.1 k (fun u => setSlotQ u slot (slotQ u slot ++ [y.2]))) k =
      setSlotQ (getUnit t k) slot (slotQ (getUnit t k) slot ++ [{ c with handed := free, x := z }]) := by
  cases free with
  | true =>
    obtain ⟨units, z, marked⟩ := handOff_marks t k c x
    refine ⟨z, ?_⟩
    rw [getUnit_modUnit_self, if_pos rfl, units, marked]
  | false =>
    refine ⟨c.x, ?_⟩
    rw [getUnit_modUnit_self, if_neg Bool.false_ne_true, ← waits]

theorem hereUnit_unit {s : State} {k : UnitIx} (cur : s.cur = .unit k) : hereUnit s = getUnit s k.toNat := by rw [hereUnit, cur]

theorem hereView_slot {s : State} {k : UnitIx} (cur : s.cur = .unit k) (slot : Nat) : (hereView s slot).slot = slot := by
  rw [hereView, cur]
  rfl

/-- A command that issues to the queue of `slot` in unit `k`, not yet handed off (R67, R74). -/
def newCmd (s : State) (k slot : Nat) (i : Instr) (gate : List (Nat × Nat)) (tag : Option (Nat × Nat)) : QCmd where
  ins := i
  slot := slot
  addr := (getUnit s k).core.pc
  inst := ((getUnit s k).inst.map (fun n => n.serial)).getD 0
  issued := s.clk
  handed := false
  tailed := false
  opened := false
  gate := gate
  ops := []
  par := parOf (getUnit s k) i
  tag := tag
  x := none

/-- A new command joins the end of its queue, handed off where nothing holds it (R67, R74). -/
theorem newCmd_joins (s : State) {t : State} {u : Unit} {k : Nat} (unit : getUnit t k = u) (slot : Nat) (i : Instr) (gate : List (Nat × Nat))
    (tag : Option (Nat × Nat)) (x : Xfer) :
    let y := if handedAtOnce s k slot i = true then handOff t k (newCmd s k slot i gate tag) x else (t, newCmd s k slot i gate tag)
    ∃ c, getUnit (modUnit y.1 k (fun u => setSlotQ u slot (slotQ u slot ++ [y.2]))) k = setSlotQ u slot (slotQ u slot ++ [c]) ∧ Entered s k slot i c ∧
      c.tag = tag := by
  subst unit
  obtain ⟨z, joined⟩ := queued_last t k slot (c := newCmd s k slot i gate tag) rfl x (handedAtOnce s k slot i)
  exact ⟨_, joined, ⟨rfl, rfl, rfl, rfl, rfl, rfl, rfl, rfl⟩, rfl⟩

/-- The effect of a command word on its unit: the command enters its queue (R67, R74). -/
theorem cmdSem_enqueues {s : State} {k : UnitIx} (cur : s.cur = .unit k) (i : Instr) (slot : Nat) (t : State) : ∃ c,
    getUnit ((cmdSem i (hereView s slot)).eff t) k.toNat = enqueue slot (cmdDst i) c (getUnit t k.toNat) ∧ Entered s k.toNat slot i c ∧
      c.tag = (cmdDst i).map (fun _ => ((freeTag (getUnit t k.toNat).core 16).getD 0, (getUnit t k.toNat).core.gen)) := by
  have unit : onLan s = false := by rw [onLan, cur]
  rw [cmdSem, unitOnly_view _ _ _ unit]
  simp only [hereView_g, cur, hereView_st, hereView_s, hereView_core, hereView_u, hereView_addr, hereView_slot cur, hereUnit_unit cur, here_unit cur]
  have free : ((slotQ (getUnit s k.toNat) slot).all (fun q => q.handed || q.opened) && !((cmdOps i (parOf (getUnit s k.toNat) i)).any
      (tainted (getUnit s k.toNat).core) || tileFlight (getUnit s k.toNat) i)) = handedAtOnce s k.toNat slot i := rfl
  cases dst : cmdDst i with
  | none =>
    simp only [free, enqueue, Option.elim_none, Option.map_none]
    exact newCmd_joins s (t := setUnit t k.toNat (getUnit t k.toNat)) (u := getUnit t k.toNat) (getUnit_setUnit_self ..) slot i [] none
      (resolverOf i (parOf (getUnit s k.toNat) i) ⟨s, k.toNat, holderVal (getUnit s k.toNat)⟩).2
  | some h =>
    simp only [free, enqueue, Option.elim_some, Option.map_some]
    have taken := getUnit_setUnit_self t k.toNat { getUnit t k.toNat with
      core := takeTagFor (getUnit t k.toNat).core ((freeTag (getUnit t k.toNat).core 16).getD 0) h }
    by_cases own : (cmdOps i (parOf (getUnit s k.toNat) i)).contains h = true
    · simp only [own, if_true]
      exact newCmd_joins s taken slot i (tagsOf (getUnit s k.toNat).core (hmeta (getUnit s k.toNat).core h).taint)
        (some ((freeTag (getUnit t k.toNat).core 16).getD 0, (getUnit t k.toNat).core.gen))
        (resolverOf i (parOf (getUnit s k.toNat) i) ⟨s, k.toNat, holderVal (getUnit s k.toNat)⟩).2
    · simp only [own]
      exact newCmd_joins s taken slot i []
        (some ((freeTag (getUnit t k.toNat).core 16).getD 0, (getUnit t k.toNat).core.gen))
        (resolverOf i (parOf (getUnit s k.toNat) i) ⟨s, k.toNat, holderVal (getUnit s k.toNat)⟩).2

/-- A command word pops nothing and transfers nowhere (R143). -/
theorem cmdSem_straight {s : State} {k : UnitIx} (cur : s.cur = .unit k) (i : Instr) (slot : Nat) :
    (cmdSem i (hereView s slot)).pops = [] ∧ (cmdSem i (hereView s slot)).ctl = .seq := by
  have unit : onLan s = false := by rw [onLan, cur]
  rw [cmdSem, unitOnly_view _ _ _ unit]
  simp [cur]

/-- The instruction is a command of `slot`, which returns its value to the holder `dst`, if any (R67, R69). -/
structure IsCommand (s : State) (slot : Nat) (dst : Option Nat) (i : Instr) : Prop where
  runs : exec i s = runOne i slot (cmdSem i) s
  asked : asks s i slot = cmdSem i (hereView s slot)
  dst : cmdDst i = dst

/-- Between `s` and `t` a command `i` has entered the queue of `slot` in unit `k`, tagged `tag`; no register or other queue has changed (R67, R74). -/
structure Queued (s t : State) (k slot : Nat) (i : Instr) (tag : Option (Nat × Nat)) : Prop where
  entered : ∃ c, slotQ (getUnit t k) slot = slotQ (getUnit s k) slot ++ [c] ∧ Entered s k slot i c ∧ c.tag = tag
  queues : ∀ j ∈ [3, 4, 5], j ≠ slot → slotQ (getUnit t k) j = slotQ (getUnit s k) j
  regs : ∀ r, rdS (getUnit t k).core r = rdS (getUnit s k).core r
  v : (getUnit t k).v = (getUnit s k).v
  m : (getUnit t k).m = (getUnit s k).m
  operands : (getUnit t k).queues = (getUnit s k).queues
  tiles : (getUnit t k).tiles = (getUnit s k).tiles
  sems : (getUnit t k).sems = (getUnit s k).sems

/-- The tag that a read of unit `k` takes: the lowest free one, with the number of the read (R69). -/
def nextTag (c : Core) : Nat × Nat := ((freeTag c 16).getD 0, c.gen)

theorem rdS_taken (c : Core) (dst : Option Nat) (r : Nat) : rdS (dst.elim c (takeTagFor c (nextTag c).1)) r = rdS c r := by
  cases dst with
  | none => rfl
  | some h => exact rdS_takeTagFor ..

theorem tags_taken (c : Core) (dst : Option Nat) :
    (dst.elim c (takeTagFor c (nextTag c).1)).tags = dst.elim c.tags (fun _ => sput c.tags (nextTag c).1 (nextTag c).2) := by
  cases dst with
  | none => rfl
  | some h => exact setMeta_tags ..

/-- The tag that a read takes becomes the taint of its destination, whose poison stays (R71). -/
theorem hmeta_taken (c : Core) (dst : Option Nat) (h : Nat) : hmeta (dst.elim c (takeTagFor c (nextTag c).1)) h =
    if dst = some h ∧ holds h then ⟨BitVec.ofNat 16 (2 ^ (nextTag c).1), false, (hmeta c h).poison⟩ else hmeta c h := by
  cases dst with
  | none => rfl
  | some d =>
    rw [Option.elim_some, hmeta_takeTagFor]
    by_cases here : h = d
    · subst here
      simp only [true_and]
    · rw [if_neg fun both => here both.1, if_neg fun both => here (Option.some.inj both.1).symm]

/-- A command that issues enters its queue; one that returns a value takes the next tag (R67, R69, R71). -/
theorem command_leaves {s : State} {k : UnitIx} (cur : s.cur = .unit k) {slot : Nat} (engine : slot ∈ [3, 4, 5]) {dst : Option Nat} {i : Instr}
    (command : IsCommand s slot dst i) : let core := (getUnit s k.toNat).core
    Leaves s i slot (fun t => Queued s t k.toNat slot i (dst.map fun _ => nextTag core) ∧
      (getUnit t k.toNat).core.tags = dst.elim core.tags (fun _ => sput core.tags (nextTag core).1 (nextTag core).2) ∧
      ∀ h, hmeta (getUnit t k.toNat).core h =
        if dst = some h ∧ holds h then ⟨BitVec.ofNat 16 (2 ^ (nextTag core).1), false, (hmeta core h).poison⟩ else hmeta core h) := by
  obtain ⟨runs, asked, named⟩ := command
  intro core free
  rw [asked] at free
  refine ⟨_, runs.trans (runOne_free _ slot _ s _ rfl free), ?_⟩
  obtain ⟨pops, straight⟩ := cmdSem_straight cur i slot
  obtain ⟨now, u, t, ⟨csr, rfl⟩, start, stop⟩ := unitDid_found s k.toNat slot straight
  obtain ⟨c, joined, entered, tag⟩ := cmdSem_enqueues cur i slot t
  rw [wordDid_unit cur]
  rw [joined, start, named] at stop
  rw [start, named] at tag
  rw [issueStart, pops] at stop tag
  refine ⟨⟨⟨c, ?_, entered, tag⟩, fun j known other => ?_, fun r => ?_, ?_, ?_, ?_, ?_, ?_⟩, ?_, fun h => ?_⟩
  all_goals rw [stop]
  · exact slotQ_setSlotQ_self ..
  · exact slotQ_setSlotQ_other engine known other
  · refine (rdS_goOn ..).trans ((rdS_bump ..).trans ?_)
    rw [enqueue, setSlotQ_core]
    exact rdS_taken ..
  · exact setSlotQ_v ..
  · exact setSlotQ_m ..
  · exact setSlotQ_queues ..
  · exact setSlotQ_tiles ..
  · exact setSlotQ_sems ..
  · refine (goOn_tags ..).trans ?_
    rw [bump_tags, enqueue, setSlotQ_core]
    exact tags_taken ..
  · refine (hmeta_goOn ..).trans ((hmeta_bump ..).trans ?_)
    rw [enqueue, setSlotQ_core]
    exact hmeta_taken ..

/-! ## The commands -/

theorem matrix_commands (s : State) (f : MF) :
    ∀ i ∈ [Instr.mmaQ f, .mmaV f, .mmaR f, .wld f, .swap f, .zero f, .drain f, .drainZ1 f, .drainZ2 f], IsCommand s 3 none i := by
  simp only [List.forall_mem_cons]
  refine ⟨?_, ?_, ?_, ?_, ?_, ?_, ?_, ?_, ?_, fun _ none => absurd none List.not_mem_nil⟩
  all_goals exact ⟨rfl, rfl, rfl⟩

theorem copy_commands (s : State) (f : CF) :
    ∀ i ∈ [Instr.cp f, .cpP f, .cpBox f, .cpGth f, .cpSct f, .cpCvt f, .cpZip f, .cpUnz f, .cpXp f, .mcred f, .amoFaddF32 f,
      .amoFaddBf16 f, .amoFaddF16 f, .sig f, .swait f, .bpost f, .bwait f, .barrive f, .cpost f, .str f, .strV f], IsCommand s 4 none i := by
  simp only [List.forall_mem_cons]
  refine ⟨?_, ?_, ?_, ?_, ?_, ?_, ?_, ?_, ?_, ?_, ?_, ?_, ?_, ?_, ?_, ?_, ?_, ?_, ?_, ?_, ?_, fun _ none => absurd none List.not_mem_nil⟩
  all_goals exact ⟨rfl, rfl, rfl⟩

/-- An atomic returns what it finds to rd, where that is not s0 (R258). -/
theorem atomic_commands (s : State) (f : CF) :
    ∀ i ∈ [Instr.amoAdd f, .amoAnd f, .amoOr f, .amoXor f, .amoMin f, .amoMax f, .amoMinu f, .amoMaxu f, .amoSwp f, .amoCas f],
      IsCommand s 4 (if f.rd = 0 then none else some f.rd.toNat) i := by
  simp only [List.forall_mem_cons]
  refine ⟨?_, ?_, ?_, ?_, ?_, ?_, ?_, ?_, ?_, ?_, fun _ none => absurd none List.not_mem_nil⟩
  all_goals exact ⟨rfl, rfl, rfl⟩

/-- Settles O28: each command is one of its slot, and a command of a slot enters its queue and takes the tag of what it returns. -/
theorem commandsEnterQueues : Obligations.CommandsEnterQueues := by
  unfold Obligations.CommandsEnterQueues
  intro s k mf cf cur u issued plain reads
  have queued : ∀ {t slot i tag}, Queued s t k.toNat slot i tag → issued i slot t tag := fun {t slot i tag} q => by
    obtain ⟨⟨c, last, entered, tagged⟩, queues, regs, v, m, operands, tiles, sems⟩ := q
    exact ⟨⟨c, last, entered.ins, entered.place, entered.addr, entered.issued, entered.inst, entered.par, entered.handed, entered.tailed, tagged⟩,
      queues, regs, v, m, fun q => by rw [operands], tiles, sems⟩
  have noValue : ∀ {slot i}, slot ∈ [3, 4, 5] → IsCommand s slot none i → plain i slot := fun engine command free => by
    obtain ⟨t, step, entered, tags, metas⟩ := command_leaves cur engine command free
    exact ⟨t, step, queued entered, tags, fun h => (metas h).trans (if_neg fun both => nomatch both.1)⟩
  have value : ∀ {i h}, IsCommand s 4 (some h) i → reads i h := fun {i h} command tg lowest free => by
    have next : nextTag u.core = (tg, u.core.gen) := by rw [nextTag, lowest, Option.getD_some]
    obtain ⟨t, step, entered, tags, metas⟩ := command_leaves cur (by decide) command free
    simp only [Option.map_some, Option.elim_some, Option.some.injEq] at entered tags metas
    rw [show nextTag (getUnit s k.toNat).core = _ from next] at entered tags
    refine ⟨t, step, queued entered, ?_, freeTag_lowest lowest, fun keeps => ?_, fun j other => ?_⟩
    · rw [tagLive, tags, List.any_eq_true]
      exact ⟨_, mem_sput_self .., by simp⟩
    · rw [metas, if_pos ⟨rfl, keeps⟩, next]
      exact ⟨rfl, rfl⟩
    · rw [metas, if_neg fun both => other both.1.symm]
  refine ⟨fun i command => noValue (by decide) (matrix_commands s mf i command), fun i command => noValue (by decide) (copy_commands s cf i command),
    fun i command => ?_, value ⟨rfl, rfl, rfl⟩, value ⟨rfl, rfl, rfl⟩, value ⟨rfl, rfl, rfl⟩⟩
  have atomic := atomic_commands s cf i command
  split
  · next zero => exact noValue (by decide) (by rwa [if_pos zero] at atomic)
  · next keeps => exact value (by rwa [if_neg keeps] at atomic)

end Sys2Proof.Machine
end

section
/-! PROOFS. Copy queue events: a hand-off counts the errors that its checks find (spec 03 R47, 04 R74, 09 R199, 14 R245, R249). -/

namespace Sys2Proof.Machine

/-- A CP.BOX of s0 alone whose gate has opened in the first copy queue: its descriptor lies at the start of the unit's scratchpad. -/
def openedBox : QCmd where
  ins := .cpBox ⟨0, 0, 0, 0, 0, 0, ⟨0, 0, 0, 0⟩⟩
  slot := 4
  addr := 0
  inst := 0
  issued := 0
  handed := false
  tailed := false
  opened := true
  gate := []
  ops := []
  par := par0
  tag := none
  x := none

/-- Unit 0 about to hand off that CP.BOX, its scratchpad's first sector with a correctable error that no read has met. -/
def boxAtError : State :=
  { State.reset with
    arg := { eng := .uce 0 0, flag := true }
    chip := { State.reset.chip with
      units := [(0, { uce0 := { q := [openedBox] } })]
      mem := { errs := [(unitBase 0 / 32, .corr)] } } }

/-- The checks of that CP.BOX pass. -/
theorem boxAtError_checks : (resolverOf openedBox.ins openedBox.par (cmdIn boxAtError 0 openedBox)).1 = {} := by decide +kernel

/-- Its hand-off reads the descriptor, and the unit counts the corrected error (R47, R199). -/
theorem boxAtError_counted : rdCsr (getUnit (handOffNext boxAtError 0 4) 0).core 0xC0 = 1 ∧ rdCsr (getUnit boxAtError 0).core 0xC0 = 0 := by decide +kernel

/-- COMMAND_HAND_OFF of a unit's first copy queue, after the clk's bundle (R74, R245). -/
theorem execCommandHandOff_handsOff {s : State} {k : UnitIx} (queue : s.arg.eng = .uce k 0) (running : s.chip.ended = none) (late : s.arg.flag = true) :
    exec .commandHandOff s = .next (handOffNext s k.toNat 4) := by
  show execCommandHandOff s = _
  simp [execCommandHandOff, queue, engUnit, engSlot, ended, running, late]

/-- Refutes O30: a hand-off whose checks read a descriptor in a sector with a correctable error counts it in ecc.ce, so the unit's stream, with its CSRs,
is not as before. -/
theorem not_copyQueueEvents : ¬ Obligations.CopyQueueEvents := by
  unfold Obligations.CopyQueueEvents
  intro holds
  obtain ⟨-, handedOff, -⟩ := holds boxAtError 0 0 openedBox [] rfl rfl
  obtain ⟨t, -, step, -, -, -, -, same⟩ := handedOff (resolverOf openedBox.ins openedBox.par (cmdIn boxAtError 0 openedBox)).2 rfl rfl rfl rfl
    (Prod.ext boxAtError_checks rfl)
  obtain rfl := Host.Outcome.next.inj ((execCommandHandOff_handsOff (s := boxAtError) (k := 0) rfl rfl rfl).symm.trans step)
  obtain ⟨counted, fresh⟩ := boxAtError_counted
  have kept : rdCsr (getUnit (handOffNext boxAtError 0 4) 0).core 0xC0 = rdCsr (getUnit boxAtError 0).core 0xC0 :=
    congrArg (rdCsr · 0xC0) same
  rw [counted, fresh] at kept
  exact absurd kept (by decide)

end Sys2Proof.Machine
end

section
/-! PROOFS. The matrix engine (spec 05 R84, 13 R228, R229, R236, R238, R240 to R242). -/

namespace Sys2Proof.Machine

/-! ## Numbers spelled by bytes -/

/-- The high bytes of a number (R12). -/
theorem ofBytes_drop (l : List Byte) (n : Nat) : ofBytes (l.drop n) = ofBytes l / 2 ^ (8 * n) := by
  induction n generalizing l with
  | zero => simp
  | succ n ih =>
    cases l with
    | nil => simp [ofBytes]
    | cons b l =>
      have low : b.toNat < 2 ^ 8 := b.isLt
      rw [List.drop_succ_cons, ih, ofBytes, Nat.mul_succ, Nat.add_comm (8 * n), Nat.pow_add, ← Nat.div_div_eq_div_mul,
        show 256 = 2 ^ 8 from rfl, Nat.add_mul_div_left _ _ (by norm_num), Nat.div_eq_of_lt low, Nat.zero_add]

/-- The low bytes of a number (R12). -/
theorem ofBytes_take (l : List Byte) (n : Nat) : ofBytes (l.take n) = ofBytes l % 2 ^ (8 * n) := by
  induction n generalizing l with
  | zero => simp [ofBytes, Nat.mod_one]
  | succ n ih =>
    cases l with
    | nil => simp [ofBytes]
    | cons b l =>
      have low : b.toNat < 2 ^ 8 := b.isLt
      rw [List.take_succ_cons, ofBytes, ih, ofBytes, Nat.mul_succ, Nat.add_comm (8 * n), Nat.pow_add, show 256 = 2 ^ 8 from rfl, Nat.mod_mul,
        Nat.add_mul_mod_self_left, Nat.mod_eq_of_lt low, Nat.add_mul_div_left _ _ (by norm_num), Nat.div_eq_of_lt low, Nat.zero_add]

/-- One byte of a number (R9). -/
theorem ofBytes_byte (l : List Byte) (n : Nat) : bits (ofBytes l) (8 * n) 8 = ((l[n]?).getD 0).toNat := by
  rw [bits, ← ofBytes_drop]
  cases tail : l.drop n with
  | nil => simp [ofBytes, List.getElem?_eq_none (List.drop_eq_nil_iff.mp tail)]
  | cons b r =>
    have low : b.toNat < 256 := b.isLt
    have here : l[n]? = some b := by rw [← List.head?_drop, tail]; rfl
    rw [here, ofBytes]
    simp
    omega

theorem mod_two_pow_field (x : Nat) {m k n : Nat} (inside : k + n ≤ m) : x % 2 ^ m / 2 ^ k % 2 ^ n = x / 2 ^ k % 2 ^ n := by
  apply Nat.eq_of_testBit_eq
  intro i
  simp only [Nat.testBit_mod_two_pow, Nat.testBit_div_two_pow]
  by_cases low : i < n
  · simp [low, show i + k < m by omega]
  · simp [low]

/-- A group of a row is its 24 bytes (R234). -/
theorem group24_ofBytes (l : List Byte) {i : Nat} (inside : i < 64) :
    group24 (BitVec.ofNat 12288 (ofBytes (l.take 1536))) i = ofBytes ((l.drop (24 * i)).take 24) := by
  have whole : (ofBytes l % 2 ^ (8 * 1536)) % 2 ^ 12288 = ofBytes l % 2 ^ (8 * 1536) := Nat.mod_mod_of_dvd _ (dvd_refl _)
  have place : 8 * (24 * i) = 192 * i := by omega
  rw [group24, BitVec.extractLsb'_toNat, BitVec.toNat_ofNat, ofBytes_take, ofBytes_take, ofBytes_drop, whole, Nat.shiftRight_eq_div_pow,
    mod_two_pow_field _ (by omega), place]

/-- A number read back from the bytes of an image (R12). -/
theorem rdMem_writeImg (m : MemSt) (a : Nat) (img : List (Byte × Bool)) : rdMem (writeImg m a img).cells a img.length = ofBytes (img.map Prod.fst) := by
  rw [rdMem_eq_ofBytes]
  congr 1
  refine List.ext_getElem (by simp) (fun i inside _ => ?_)
  have low : i < img.length := by simpa using inside
  simp [rdByte_writeImg, low]

/-! ## Lists of rows -/

/-- Rows of `n` entries laid one after the other. -/
theorem flatMap_rows_getElem? {α β : Type} {n : Nat} (f : α → List β) (l : List α) (even : ∀ x ∈ l, (f x).length = n) {i j : Nat} (inside : j < n) :
    (l.flatMap f)[n * i + j]? = (l[i]?).bind (fun x => (f x)[j]?) := by
  induction l generalizing i with
  | nil => simp
  | cons x l ih =>
    have len : (f x).length = n := even x List.mem_cons_self
    rw [List.flatMap_cons]
    cases i with
    | zero => rw [List.getElem?_append_left (by omega)]; simp
    | succ i =>
      rw [List.getElem?_append_right (by rw [len, Nat.mul_succ]; omega), len, show n * (i + 1) + j - n = n * i + j by rw [Nat.mul_succ]; omega,
        ih (fun y mem => even y (List.mem_cons_of_mem _ mem))]
      simp

/-- A key that is not listed reads as the default. -/
theorem sget_unlisted {α : Type} {d : α} {m : SMap α} {k : Nat} (absent : ∀ p ∈ m, p.1 ≠ k) : sget d m k = d :=
  Classical.byContradiction fun set => absent _ (mem_of_sget_ne set) rfl

/-- The numbers of a list that are not 0, each at its place. -/
def listed {α : Type} (v : α → Nat) (o : Nat) (l : List α) : SMap (BitVec 32) :=
  (l.mapIdx (fun j q => (o + j, q))).filterMap (fun q => if v q.2 = 0 then none else some (q.1, BitVec.ofNat 32 (v q.2)))

theorem listed_cons {α : Type} (v : α → Nat) (o : Nat) (x : α) (l : List α) :
    listed v o (x :: l) = if v x = 0 then listed v (o + 1) l else (o, BitVec.ofNat 32 (v x)) :: listed v (o + 1) l := by
  have shift : l.mapIdx (fun j q => (o + (j + 1), q)) = l.mapIdx (fun j q => (o + 1 + j, q)) := by
    congr 1
    funext j q
    rw [Nat.add_assoc, Nat.add_comm 1 j]
  rw [listed, List.mapIdx_cons, shift, List.filterMap_cons]
  split <;> simp_all [listed]

theorem listed_key {α : Type} (v : α → Nat) (o : Nat) (l : List α) : ∀ p ∈ listed v o l, o ≤ p.1 := by
  induction l generalizing o with
  | nil => simp [listed]
  | cons x l ih =>
    intro p mem
    rw [listed_cons] at mem
    split at mem
    · exact le_trans (Nat.le_succ o) (ih _ p mem)
    · rcases List.mem_cons.mp mem with rfl | mem
      · exact le_refl o
      · exact le_trans (Nat.le_succ o) (ih _ p mem)

/-- Numbers listed by place read as they stand. -/
theorem sget_listed {α : Type} (v : α → Nat) (o : Nat) (l : List α) (e : Nat) : sget 0 (listed v o l) (o + e) = (l[e]?).elim 0 (fun q => BitVec.ofNat 32 (v q)) := by
  induction l generalizing o e with
  | nil => simp [listed, sget]
  | cons x l ih =>
    rw [listed_cons]
    cases e with
    | zero =>
      have rest : sget 0 (listed v (o + 1) l) o = 0 := sget_unlisted (fun p mem => by have := listed_key v (o + 1) l p mem; omega)
      split
      · next zero =>
        exact rest.trans (by simp [zero])
      · simp [sget]
    | succ e =>
      rw [show o + (e + 1) = o + 1 + e by omega, List.getElem?_cons_succ, ← ih]
      split
      · rfl
      · rw [sget, if_neg (by omega)]

/-! ## One step on a tile -/

/-- Element `64 i + j` after a step of a float class: row `i` of A against column `j` of B (R133, R236). -/
theorem stepTile_el (t : Tile) (p : MPar) (a : AIn) (b : Bank) (r : Nat) (float : (mxClass p.fa).getD 1 < 3) {i j : Nat} (row : i < 64) (col : j < 64) :
    sget 0 (stepTile t p a b r).el (64 * i + j) = BitVec.ofNat 32 (fstep (sget 0 t.el (64 * i + j)).toNat
      ((scaledElems p.fa (group24 a.data i) (a.scale i)).zip
        (scaledElems p.fb (group24 (bankRow b r) j) (bScale ((mxClass p.fa).getD 1) (bankScale b r) j))) ((windowWidth p.w).getD 40)).1 := by
  have el : (stepTile t p a b r).el = listed Prod.fst 0 ((List.range 64).flatMap (fun i =>
      ((List.range 64).map (fun j => scaledElems p.fb (group24 (bankRow b r) j) (bScale ((mxClass p.fa).getD 1) (bankScale b r) j))).mapIdx (fun j bv =>
        fstep (sget 0 t.el (64 * i + j)).toNat ((scaledElems p.fa (group24 a.data i) (a.scale i)).zip bv) ((windowWidth p.w).getD 40)))) := by
    simp only [stepTile, listed, float, if_true, Nat.zero_add]
  rw [el, ← Nat.zero_add (64 * i + j), sget_listed, flatMap_rows_getElem? _ _ (by simp) col]
  simp [row, col]

theorem mmaVIn_data (c : CompRun) {i : Nat} (row : i < 64) :
    group24 (mmaVIn c).data i = ofBytes ((((c.cmd.x.getD (xfer0 0)).data).drop (24 * i)).take 24) := group24_ofBytes _ row

theorem mmaVIn_scale (c : CompRun) (i t : Nat) : (mmaVIn c).scale i t =
    ((((c.cmd.x.getD (xfer0 0)).data)[1536 + (if (mxClass c.cmd.par.fa).getD 1 = 2 then 2 * i + t / 24 else i)]?).getD 0).toNat := by
  rw [← List.getElem?_drop]
  exact ofBytes_byte ..

/-! ## The head of the queue leaves -/

/-- Consumed tokens leave the engine alone (R85). -/
theorem takeTokens_mx (u : Unit) (ts : List (Nat × Nat)) : (takeTokens u ts).mx = u.mx := by
  unfold takeTokens
  refine foldl_keeps _ Unit.mx (fun v p => ?_) ts u
  rfl

/-- Consumed tokens leave the tiles alone (R85). -/
theorem takeTokens_tiles (u : Unit) (ts : List (Nat × Nat)) : (takeTokens u ts).tiles = u.tiles := by
  unfold takeTokens
  refine foldl_keeps _ Unit.tiles (fun v p => ?_) ts u
  rfl

/-- The head of a matrix queue may leave (R229): it was handed off in an earlier clk, and its condition and its counts are there. -/
structure HeadLeaves (s : State) (k : UnitIx) (c : QCmd) (rest : List QCmd) : Prop where
  unit : s.arg.k = k
  running : s.chip.ended = none
  goes : engStopped s (.mat k) = false
  queue : (getUnit s k.toNat).mx.q = c :: rest
  handed : c.x.isSome = true
  earlier : c.issued < s.clk
  first : (getUnit s k.toNat).mx.leftAt ≠ some s.clk
  same : c.inst = (getUnit s k.toNat).mx.inst
  may : leaveOk (getUnit s k.toNat).mx c.ins = true
  counts : takeOk (getUnit s k.toNat) (tokTake (tokOf c.ins)) = true

/-- The token that a command leaves behind, not complete yet (R84). -/
def leftTok (mx : Mx) (c : QCmd) : MTok := ⟨mx.seq, tokGive (tokOf c.ins), c.inst, false, false, c.x⟩

/-- The engine once its head has left the queue (R229). -/
def leftMx (mx : Mx) (clk : Nat) (c : QCmd) (rest : List QCmd) : Mx :=
  { mx with q := rest, seq := mx.seq + 1, leftAt := some clk, toks := mx.toks ++ [leftTok mx c] }

/-- A unit whose matrix queue's head has left and taken its counts (R85, R229). -/
def leftUnit (u : Unit) (clk : Nat) (c : QCmd) (rest : List QCmd) : Unit :=
  let u := takeTokens u (tokTake (tokOf c.ins))
  { u with mx := leftMx u.mx clk c rest }

theorem leftUnit_mx (u : Unit) (clk : Nat) (c : QCmd) (rest : List QCmd) : (leftUnit u clk c rest).mx = leftMx u.mx clk c rest := by
  rw [leftUnit, takeTokens_mx]

theorem leftUnit_tiles (u : Unit) (clk : Nat) (c : QCmd) (rest : List QCmd) : (leftUnit u clk c rest).tiles = u.tiles := takeTokens_tiles ..

/-- An MMA that has left and starts at its first step. -/
def newMma (mx : Mx) (c : QCmd) : CompRun := ⟨c, mx.seq, 1, none, false, false, false, false, [], [], false⟩

section
variable {s : State} {k : UnitIx} {c : QCmd} {rest : List QCmd} (leaves : HeadLeaves s k c rest)
include leaves

/-- Nothing holds the head back. -/
theorem leave_free : (c.x.isNone || decide (s.clk ≤ c.issued) || (getUnit s k.toNat).mx.leftAt == some s.clk || ended s || engStopped s (.mat k)
    || ((c.inst != (getUnit s k.toNat).mx.inst) && !((getUnit s k.toNat).mx.comp.isEmpty && (getUnit s k.toNat).mx.wld.isNone))
    || !leaveOk (getUnit s k.toNat).mx c.ins || !takeOk (getUnit s k.toNat) (tokTake (tokOf c.ins))) = false := by
  simp [leaves.handed, leaves.earlier, leaves.first, ended, leaves.running, leaves.goes, leaves.same, leaves.may, leaves.counts]

/-- A WLD that leaves takes the load side and fetches its first row (R229). -/
theorem leave_wld {f : MF} (ins : c.ins = .wld f) : exec .matrixCommandLeave s = .next (wldFetch (modMx (modUnit s k.toNat fun u => leftUnit u s.clk c rest) k.toNat
    fun mx => { mx with wld := some ⟨c, 0, (getUnit s k.toNat).mx.seq, none⟩ }) k.toNat) := by
  have free := leave_free leaves
  obtain ⟨rfl, -, -, queue, -, -, -, same, -, -⟩ := leaves
  show execMatrixCommandLeave s = _
  simp only [execMatrixCommandLeave, queue, free, Bool.false_eq_true, if_false]
  simp only [same, bne_self_eq_false, Bool.false_eq_true, if_false, ins, leftUnit, leftMx, leftTok, takeTokens_mx]

/-- An MMA that leaves joins the compute side (R229). -/
theorem leave_mma {f : MF} (ins : c.ins = .mmaQ f ∨ c.ins = .mmaV f ∨ c.ins = .mmaR f) : exec .matrixCommandLeave s =
    .next (modMx (modUnit s k.toNat fun u => leftUnit u s.clk c rest) k.toNat fun mx => { mx with comp := mx.comp ++ [newMma (getUnit s k.toNat).mx c] }) := by
  have free := leave_free leaves
  obtain ⟨rfl, -, -, queue, -, -, -, same, -, -⟩ := leaves
  show execMatrixCommandLeave s = _
  simp only [execMatrixCommandLeave, queue, free, Bool.false_eq_true, if_false]
  rcases ins with ins | ins | ins <;>
    simp only [same, bne_self_eq_false, Bool.false_eq_true, if_false, ins, leftUnit, leftMx, leftTok, newMma, takeTokens_mx]

end

theorem getUnit_modMx_self (s : State) (k : Nat) (f : Mx → Mx) : getUnit (modMx s k f) k = { getUnit s k with mx := f (getUnit s k).mx } := getUnit_modUnit_self ..

theorem modMx_allMemSame (s : State) (k : Nat) (f : Mx → Mx) : AllMemSame s (modMx s k f) := .of_eq rfl rfl rfl

theorem modMx_left (s : State) (k : Nat) (c : QCmd) (rest : List QCmd) (f : Mx → Mx) :
    getUnit (modMx (modUnit s k fun u => leftUnit u s.clk c rest) k f) k =
      { leftUnit (getUnit s k) s.clk c rest with mx := f (leftMx (getUnit s k).mx s.clk c rest) } := by
  rw [getUnit_modMx_self, getUnit_modUnit_self, leftUnit_mx]

/-! ## The load side -/

/-- Pieces of a row that are read, one after the other, change the CSRs of units alone (R61, R199). -/
theorem foldl_pieces_recounts (base : Nat) (l : List (Nat × Nat)) (img : List (Byte × Bool)) (s : State) (j : Nat) : Recounted (getUnit s j)
    (getUnit (l.foldl (fun p q => (p.1 ++ (readLoc p.2 (.chip (base + q.1)) q.2).1, (readLoc p.2 (.chip (base + q.1)) q.2).2)) (img, s)).2 j) := by
  induction l generalizing img s with
  | nil => exact .refl _
  | cons q l ih => exact (touchChip_recounts s _ _ j).trans (ih _ _)

theorem fetchRow_recounts (s : State) (cl : Nat) (d : W64) (fb : Nat) (b : Bank) (r j : Nat) :
    Recounted (getUnit s j) (getUnit (fetchRow s cl d fb b r).2 j) := by
  simp only [fetchRow]
  split
  · exact .refl _
  · dsimp only
    exact (foldl_pieces_recounts ..).trans (foldl_pieces_recounts ..)

/-- The load side fetches the next row of its WLD into the shadow bank (R229). -/
theorem wldFetch_fetches {s : State} {k : Nat} {w : WldRun} (runs : (getUnit s k).mx.wld = some w) (loading : w.doneAt = none) :
    (∃ b done, (getUnit (wldFetch s k) k).mx = { (getUnit s k).mx with shadow := b, wld := some ⟨w.cmd, w.row + 1, w.seq, done⟩ }) ∧
      (getUnit (wldFetch s k) k).tiles = (getUnit s k).tiles := by
  simp only [wldFetch, runs, loading, Option.isSome_none, Bool.false_eq_true, if_false, getUnit_modMx_self]
  obtain ⟨x, counted⟩ := fetchRow_recounts s (k / 8) ((w.cmd.x.map fun x => x.a).getD 0) w.cmd.par.fb (getUnit s k).mx.shadow w.row k
  rw [counted]
  exact ⟨⟨_, _, rfl⟩, rfl⟩

/-- A WLD is complete when its time has come (R229, R240). -/
theorem wldComplete_ends {s : State} {k : UnitIx} {w : WldRun} {n : Nat} (unit : s.arg.k = k) (running : s.chip.ended = none)
    (runs : (getUnit s k.toNat).mx.wld = some w) (due : w.doneAt = some n) (come : n ≤ s.clk) :
    exec .wldComplete s = .next (modMx s k.toNat fun mx => mxDone { mx with
      shadow := wldBank mx.shadow ((w.cmd.x.map fun x => x.a).getD 0) w.cmd.par.fb, loaded := true, loadedAt := s.clk, wld := none } w.seq false) := by
  subst unit
  show execWldComplete s = _
  simp only [execWldComplete, runs, due, ended, running, Option.isSome_none, Bool.false_eq_true, if_false, Nat.not_lt.mpr come]

theorem mxDone_toks (mx : Mx) (seq : Nat) (err : Bool) : ∀ z ∈ (mxDone mx seq err).toks, z.seq = seq → z.done = true ∧ z.err = err := by
  intro z mem named
  obtain ⟨t, -, rfl⟩ := List.mem_map.mp mem
  split at named
  · next here => simp [here]
  · next other => exact absurd named other

theorem mxDone_comp (mx : Mx) (seq : Nat) (err : Bool) : ∀ d ∈ (mxDone mx seq err).comp, d.seq ≠ seq := by
  intro d mem
  simpa using (List.mem_filter.mp mem).2

/-- Rows of a bank up to the last of its descriptor are those fetched, rows above are zero weights (R240). -/
theorem wldBank_rows (b : Bank) (d : W64) (fb : Nat) : (∀ r, r ≤ d.toNat % 64 → sget 0 (wldBank b d fb).w r = sget 0 b.w r) ∧
    ∀ r, d.toNat % 64 < r → sget 0 (wldBank b d fb).w r = 0 ∧ (r < 64 → (wldBank b d fb).poison.getLsbD r = false) := by
  have rows : bits d.toNat 0 6 = d.toNat % 64 := by simp [bits]
  have kept : ∀ r, sget 0 (wldBank b d fb).w r = if r ≤ d.toNat % 64 then sget 0 b.w r else 0 := fun r => by
    have := sget_filter_key (0 : BitVec 12288) b.w (fun r => decide (r ≤ d.toNat % 64)) r
    simpa [wldBank, rows] using this
  refine ⟨fun r low => by rw [kept, if_pos low], fun r high => ⟨by rw [kept, if_neg (by omega)], fun inside => ?_⟩⟩
  simp only [wldBank, rows, BitVec.getLsbD_and, BitVec.getLsbD_ofNat, Nat.testBit_two_pow_sub_one]
  simp
  omega

/-! ## The compute side completes -/

theorem mmaComplete_ends {s : State} {k : UnitIx} {c : CompRun} (unit : s.arg.k = k) (running : s.chip.ended = none)
    (due : (getUnit s k.toNat).mx.comp.find? (fun c => isMma c.cmd.ins && c.doneAt.any (fun n => decide (n ≤ s.clk))) = some c) :
    exec .mmaComplete s = .next (modMx s k.toNat fun mx => mxDone mx c.seq c.psnRows) := by
  subst unit
  show execMmaComplete s = _
  simp only [execMmaComplete, due, ended, running, Option.isSome_none, Bool.false_eq_true, if_false]

theorem drainComplete_ends {s : State} {k : UnitIx} {c : CompRun} {n : Nat} (unit : s.arg.k = k) (running : s.chip.ended = none)
    (drain : (getUnit s k.toNat).mx.comp.find? (fun c => !isMma c.cmd.ins) = some c) (due : c.doneAt = some n) (come : n ≤ s.clk) :
    exec .drainComplete s = .next (modMx s k.toNat fun mx => mxDone mx c.seq c.psnRows) := by
  subst unit
  show execDrainComplete s = _
  simp only [execDrainComplete, drain, due, ended, running, Option.isSome_none, Bool.false_eq_true, if_false, Nat.not_lt.mpr come]

theorem drainComplete_rows {s : State} {k : UnitIx} {c : CompRun} (unit : s.arg.k = k) (running : s.chip.ended = none)
    (drain : (getUnit s k.toNat).mx.comp.find? (fun c => !isMma c.cmd.ins) = some c) (rows : c.doneAt = none)
    (earlier : ¬((getUnit s k.toNat).mx.leftAt = some s.clk ∧ (getUnit s k.toNat).mx.seq = c.seq + 1)) :
    exec .drainComplete s = .next (drainStep s k.toNat c) := by
  subst unit
  show execDrainComplete s = _
  have before : leftNow s s.arg.k.toNat c.seq = false := by simpa [leftNow] using earlier
  simp only [execDrainComplete, drain, rows, ended, running, Option.isSome_none, Bool.false_eq_true, if_false, before]

/-! ## A row of a DRAIN -/

/-- The integer formats (R117). -/
theorem fmtKind_int (fa : Nat) : (7 ≤ fa ∧ fa ≤ 0x0B) ↔ ∃ w signed, fmtKind fa = some (.int w signed) := by
  constructor
  · rintro ⟨low, high⟩
    interval_cases fa <;> exact ⟨_, _, rfl⟩
  · rintro ⟨w, signed, kind⟩
    unfold fmtKind at kind
    split at kind <;> simp at kind ⊢

/-- The codes of a row that a DRAIN reads (R242). -/
def rowCodes (t : Tile) (p : MPar) (i : Nat) : List Nat :=
  (List.range 64).map (fun j => (roundTo p.fa (valOf (if decide (7 ≤ p.fa ∧ p.fa ≤ 0x0B) then 0x0B else 0) (sget 0 t.el (64 * i + j)).toNat) p.rm).1)

/-- A row as DRAIN writes it is its codes, packed (R242). -/
theorem drainRow_packs (t : Tile) (p : MPar) (i : Nat) : drainRow t p i =
    (toBytes ((rowCodes t p i).foldr (fun c a => c % 2 ^ fmtW p.fa + a * 2 ^ fmtW p.fa) 0) (8 * fmtW p.fa)).map (fun b => (b, t.poison.getLsbD i)) := by
  by_cases int : 7 ≤ p.fa ∧ p.fa ≤ 0x0B
  · obtain ⟨w, signed, kind⟩ := (fmtKind_int p.fa).mp int
    simp only [drainRow, rowCodes, kind, int, and_self, decide_true, if_true]
  · have other := mt (fmtKind_int p.fa).mpr int
    simp only [drainRow, rowCodes, int, decide_false, Bool.false_eq_true, if_false]
    match kind : fmtKind p.fa with
    | none => rfl
    | some (.bin f) => rfl
    | some .spire => rfl
    | some (.int w signed) => exact absurd ⟨w, signed, kind⟩ other

theorem drainRow_length (t : Tile) (p : MPar) (i : Nat) : (drainRow t p i).length = 8 * fmtW p.fa := by
  rw [drainRow_packs, List.length_map, toBytes_length]

/-- Code `j` of a row that a DRAIN has stored (R242). -/
theorem rdMem_drainRow (m : MemSt) (a : Nat) (t : Tile) (p : MPar) (i : Nat) {j : Nat} (inside : j < 64) :
    rdMem (writeImg m a (drainRow t p i)).cells a (8 * fmtW p.fa) / 2 ^ (fmtW p.fa * j) % 2 ^ fmtW p.fa =
      (roundTo p.fa (valOf (if decide (7 ≤ p.fa ∧ p.fa ≤ 0x0B) then 0x0B else 0) (sget 0 t.el (64 * i + j)).toNat) p.rm).1 % 2 ^ fmtW p.fa := by
  have fits := foldr_lt (fmtW p.fa) (rowCodes t p i)
  have whole : fmtW p.fa * (rowCodes t p i).length = 8 * (8 * fmtW p.fa) := by
    simp only [rowCodes, List.length_map, List.length_range]
    omega
  rw [whole, Nat.pow_mul] at fits
  have stored := rdMem_writeImg m a (drainRow t p i)
  rw [drainRow_length] at stored
  rw [stored, drainRow_packs, List.map_map]
  simp only [Function.comp_def, List.map_id']
  rw [ofBytes_toBytes, Nat.mod_eq_of_lt fits, digit_foldr]
  simp [rowCodes, inside]

/-- The rows of a DRAIN after its next one (R229): its step, and the time of its completion after the last. -/
def rowDrained (s : State) (c : CompRun) (x : Xfer) (bad : Bool) (d : CompRun) : CompRun :=
  if d.seq = c.seq then { d with step := c.step + 1, abuf := [], psnRows := d.psnRows || bad, doneAt := if c.step + 1 = x.a.toNat then some (s.clk + 10) else none } else d

/-- The next row of a DRAIN with no codec goes to the unit's scratchpad (R229, R242). -/
theorem drainStep_row (s : State) (k : Nat) {c : CompRun} {f : MF} {x : Xfer} (ins : c.cmd.ins = .drain f) (named : c.cmd.x = some x) (more : c.step < x.a.toNat) :
    let p := c.cmd.par
    let t := touchRows (sget {} (getUnit s k).tiles f.tile.toNat) [c.step]
    let row := drainRow t p c.step
    drainStep s k c = modUnit (modMem s fun m => writeImg m (unitBase k + x.dst + 8 * fmtW p.fa * c.step) row) k (fun u => { u with
      tiles := sset {} u.tiles f.tile.toNat t
      hist := histRow u.hist t p c.step
      mx := { u.mx with comp := u.mx.comp.map (rowDrained s c x (row.any fun b => b.2)) } }) := by
  have plain : drainCodec (.drain f) = 0 := rfl
  unfold drainStep
  rw [ins, named, plain]
  simp only [if_true]
  rw [Option.getD_some, if_neg (Nat.not_le.mpr more)]
  have empty : decide (2048 ≤ ([] : List (Byte × Bool)).length) = false := rfl
  simp only [empty, Bool.false_and, Bool.or_false, Bool.false_eq_true, if_false]
  rfl

/-! ## A step of the compute side -/

/-- The tile of an MMA after its next step, its rows as they are read (R45, R236). -/
def steppedTile (t : Tile) (c : CompRun) (a : AIn) (mx : Mx) : Tile :=
  { stepTile (touchRows t (List.range 64)) c.cmd.par a mx.act mx.wrow with prog := c.step, stop := false }

/-- An MMA.V after its one step: 130 clk from its completion (R229, R237). -/
def steppedRun (clk : Nat) (c d : CompRun) : CompRun :=
  if d.seq = c.seq then
    { d with step := c.step + 1, stopped := false, retried := false, abuf := [], rids := [], asked := false, doneAt := some (clk + 130) }
  else d

/-- Only what a change makes of the unit as it stands counts. -/
theorem modUnit_congr {s : State} {k : Nat} {f g : Unit → Unit} (same : f (getUnit s k) = g (getUnit s k)) : modUnit s k f = modUnit s k g := by
  rw [modUnit, same, modUnit]

/-- The one step of an MMA.V on its captured operands, while the active bank has a row left (R236, R237). -/
theorem mmaStep_steps {s : State} {k : UnitIx} {c : CompRun} {f : MF} (unit : s.arg.k = k) (running : s.chip.ended = none) (goes : engStopped s (.mat k) = false)
    (next : (getUnit s k.toNat).mx.comp.find? stepsLeft = some c) (ins : c.cmd.ins = .mmaV f) (first : (getUnit s k.toNat).mx.stepAt ≠ some s.clk)
    (bound : c.fault = false) (clean : c.psnRows = false) (counted : 1 ≤ c.step) (rows : (getUnit s k.toNat).mx.wrow < 64) :
    exec .mmaStep s = .next (modUnit s k.toNat fun u => { u with
      tiles := sset {} u.tiles f.tile.toNat (steppedTile (sget {} u.tiles f.tile.toNat) c (mmaVIn c) u.mx)
      core := if u.inst.all (fun i => i.serial == c.cmd.inst) then bump u.core 3 1 else u.core
      mx := { u.mx with wrow := u.mx.wrow + 1, stepAt := some s.clk, comp := u.mx.comp.map (steppedRun s.clk c) } }) := by
  subst unit
  show execMmaStep s = _
  have free : ((getUnit s s.arg.k.toNat).mx.stepAt == some s.clk || c.fault || ended s || engStopped s (.mat s.arg.k)
      || (decide ((getUnit s s.arg.k.toNat).mx.wrow = 64) && !((getUnit s s.arg.k.toNat).mx.loaded && decide ((getUnit s s.arg.k.toNat).mx.loadedAt < s.clk)))) = false := by
    simp [first, bound, ended, running, goes, rows.ne]
  have one : mmaSteps c = 1 := by rw [mmaSteps, ins]
  simp only [execMmaStep, next, free, clean, ins, Bool.false_eq_true, if_false]
  refine congrArg Host.Outcome.next (modUnit_congr ?_)
  simp only [rows.ne, clean, ins, tileIx, one, counted, decide_true, if_true, if_false, Bool.false_eq_true]
  rfl

/-! ## Tokens -/

/-- The increment that the token of a complete command gives (R84, R86). -/
def tokInc (z : MTok) : SemInc := ⟨z.gv.getD 0, 1, z.err, some ⟨0, 0⟩⟩

/-- Tokens of the running instance give their increments in queue order (R84, R89). -/
theorem foldl_tokens {give : Unit → MTok → Unit} (one : ∀ u z, give u z = z.gv.elim u (fun g => giveToken u z.inst g z.err)) (l : List MTok) (u : Unit)
    (mine : ∀ z ∈ l.filter (fun z => z.gv.isSome), u.inst.map (fun i => i.serial) = some z.inst) :
    l.foldl give u = { u with incs := u.incs ++ (l.filter (fun z => z.gv.isSome)).map tokInc } := by
  induction l generalizing u with
  | nil => simp
  | cons z l ih =>
    rw [List.foldl_cons, one]
    cases gv : z.gv with
    | none =>
      have skip : (z :: l).filter (fun z => z.gv.isSome) = l.filter (fun z => z.gv.isSome) := by simp [gv]
      rw [skip] at mine ⊢
      exact ih u mine
    | some g =>
      have take : (z :: l).filter (fun z => z.gv.isSome) = z :: l.filter (fun z => z.gv.isSome) := by simp [gv]
      rw [take] at mine ⊢
      have own : u.inst.any (fun i => i.serial == z.inst) = true := by
        have := mine z List.mem_cons_self
        cases inst : u.inst <;> simp_all
      have given : giveToken u z.inst g z.err = { u with incs := u.incs ++ [tokInc z] } := by simp [gv, giveToken, own, tokInc]
      rw [Option.elim_some, given]
      exact (ih { u with incs := u.incs ++ [tokInc z] } (fun y mem => mine y (List.mem_cons_of_mem _ mem))).trans (by simp)

theorem drop_takeWhile_length {α : Type} (p : α → Bool) (l : List α) : l.drop (l.takeWhile p).length = l.dropWhile p := by
  calc l.drop (l.takeWhile p).length = (l.takeWhile p ++ l.dropWhile p).drop (l.takeWhile p).length := by rw [List.takeWhile_append_dropWhile]
    _ = l.dropWhile p := List.drop_left

/-- Whether a token does not hold back those behind it: its command is complete, or it gives none (R84). -/
def passes (z : MTok) : Bool := z.done || z.gv.isNone

/-- The engine once its tokens have fired: those that no incomplete command's token precedes are gone (R84). -/
def firedMx (mx : Mx) : Mx :=
  { mx with toks := (mx.toks.takeWhile passes).filter (fun z => !z.done) ++ (mx.toks.dropWhile passes).filter (fun z => !(z.done && z.gv.isNone)) }

/-- The tokens that no incomplete command's token precedes fire (R84). -/
theorem engineTokenFire_fires {s : State} {k : UnitIx} (running : s.chip.ended = none) (eng : s.arg.eng = .mat k)
    (mine : ∀ z ∈ ((getUnit s k.toNat).mx.toks.takeWhile passes).filter (fun z => z.gv.isSome), (getUnit s k.toNat).inst.map (fun i => i.serial) = some z.inst) :
    exec .engineTokenFire s = .next (modUnit s k.toNat fun u => { u with
      incs := u.incs ++ ((u.mx.toks.takeWhile passes).filter (fun z => z.gv.isSome)).map tokInc, mx := firedMx u.mx }) := by
  show execEngineTokenFire s = _
  simp only [execEngineTokenFire, eng, mxTokenFire, ended, running, Option.isSome_none, Bool.false_eq_true, if_false]
  refine congrArg Host.Outcome.next (modUnit_congr ?_)
  rw [show (fun z : MTok => z.done || z.gv.isNone) = passes from rfl, foldl_tokens (fun u z => by cases z.gv <;> rfl) _ _ mine, firedMx, ← drop_takeWhile_length]

/-- A token that is left was not among those that fired (R84). -/
theorem firedMx_left (mx : Mx) : ∀ y ∈ (firedMx mx).toks, y.gv.isSome = true → y ∈ mx.toks.dropWhile passes := by
  intro y mem gives
  rcases List.mem_append.mp mem with early | late
  · obtain ⟨front, open'⟩ := List.mem_filter.mp early
    have pass := List.mem_takeWhile_imp front
    simp_all [passes]
  · exact (List.mem_filter.mp late).1

theorem getLast?_leftMx (mx : Mx) (clk : Nat) (c : QCmd) (rest : List QCmd) : (leftMx mx clk c rest).toks.getLast? = some (leftTok mx c) := by simp [leftMx]

/-- A WLD that has left has its first row in the shadow bank (R229). -/
theorem leave_wld_loads {s : State} {k : UnitIx} {c : QCmd} {rest : List QCmd} {f : MF} (leaves : HeadLeaves s k c rest) (ins : c.ins = .wld f) :
    ∃ t, exec .matrixCommandLeave s = .next t ∧
      (∃ b done, (getUnit t k.toNat).mx =
        { leftMx (getUnit s k.toNat).mx s.clk c rest with shadow := b, wld := some ⟨c, 1, (getUnit s k.toNat).mx.seq, done⟩ }) ∧
      (getUnit t k.toNat).tiles = (getUnit s k.toNat).tiles := by
  refine ⟨_, leave_wld leaves ins, ?_⟩
  have started := modMx_left s k.toNat c rest (fun mx => { mx with wld := some ⟨c, 0, (getUnit s k.toNat).mx.seq, none⟩ })
  obtain ⟨⟨b, done, engine⟩, tiles⟩ := wldFetch_fetches (congrArg (fun u => u.mx.wld) started) rfl
  exact ⟨⟨b, done, by rw [engine, started]⟩, by rw [tiles, started]; exact leftUnit_tiles _ s.clk c rest⟩

/-- What a step of an MMA.V leaves of its tile (R133, R236). -/
theorem steppedTile_el (t : Tile) (c : CompRun) (a : AIn) (mx : Mx) (float : (mxClass c.cmd.par.fa).getD 1 < 3) {i j : Nat} (row : i < 64) (col : j < 64) :
    sget 0 (steppedTile t c a mx).el (64 * i + j) = BitVec.ofNat 32 (fstep (sget 0 t.el (64 * i + j)).toNat
      ((scaledElems c.cmd.par.fa (group24 a.data i) (a.scale i)).zip
        (scaledElems c.cmd.par.fb (group24 (bankRow mx.act mx.wrow) j) (bScale ((mxClass c.cmd.par.fa).getD 1) (bankScale mx.act mx.wrow) j)))
      ((windowWidth c.cmd.par.w).getD 40)).1 := by
  rw [steppedTile, stepTile_el _ _ _ _ _ float row col, touchRows_el]

theorem mem_steppedRun {clk : Nat} {c d : CompRun} {l : List CompRun} (mem : d ∈ l.map (steppedRun clk c)) (named : d.seq = c.seq) :
    d.step = c.step + 1 ∧ d.doneAt = some (clk + 130) := by
  obtain ⟨r, -, rfl⟩ := List.mem_map.mp mem
  unfold steppedRun at named ⊢
  split at named
  · next here => simp [here]
  · next other => exact absurd named other

theorem mem_rowDrained {s : State} {c d : CompRun} {x : Xfer} {bad : Bool} {l : List CompRun} (mem : d ∈ l.map (rowDrained s c x bad)) (named : d.seq = c.seq) :
    d.step = c.step + 1 ∧ d.doneAt = if c.step + 1 = x.a.toNat then some (s.clk + 10) else none := by
  obtain ⟨r, -, rfl⟩ := List.mem_map.mp mem
  unfold rowDrained at named ⊢
  split at named
  · next here => simp [here]
  · next other => exact absurd named other

/-- Settles O33: the parts of the engine, each by what its event makes of the unit. -/
theorem matrixEngine : Obligations.MatrixEngine := by
  unfold Obligations.MatrixEngine
  intro s k unit running goes u mx at1
  refine ⟨?leave, ?step, ?load, ?mma, ?drain, ?tokens⟩
  case leave =>
    intro c rest queue handed earlier first same may counts tok left
    have leaves : HeadLeaves s k c rest := ⟨unit, running, goes, queue, handed, earlier, first, same, may, counts⟩
    refine ⟨fun f ins => ?_, fun f ins => ?_⟩
    · obtain ⟨t, leaving, ⟨b, done, engine⟩, tiles⟩ := leave_wld_loads leaves ins
      refine ⟨t, ⟨c, 1, mx.seq, done⟩, leaving, ?_⟩
      simp only [at1, left, engine, tiles]
      exact ⟨⟨rfl, getLast?_leftMx .., rfl⟩, rfl, trivial, trivial, rfl, rfl⟩
    · refine ⟨_, leave_mma leaves ins, ?_⟩
      simp only [at1, left, modMx_left]
      exact ⟨⟨rfl, getLast?_leftMx .., rfl⟩, rfl, leftUnit_tiles .., .of_eq rfl rfl rfl⟩
  case step =>
    intro c f next ins first bound clean counted rows classes cls x sc av bv old
    have float : (mxClass c.cmd.par.fa).getD 1 < 3 := by rcases classes with h | h | h <;> simp [h]
    refine ⟨_, mmaStep_steps unit running goes next ins first bound clean counted rows, ?_⟩
    simp only [at1, getUnit_modUnit_self, sget_sset, if_true]
    refine ⟨rfl, rfl, trivial, ?_, rfl, rfl, fun j other => if_neg other, fun own => ?_, fun d mem named => mem_steppedRun mem named, .of_eq rfl rfl rfl⟩
    · intro i row j col
      rw [steppedTile_el _ _ _ _ float row col, mmaVIn_data c row, funext (mmaVIn_scale c i)]
    · have mine : (getUnit s k.toNat).inst.all (fun i => i.serial == c.cmd.inst) = true := by
        obtain ⟨i, inst, serial⟩ := Option.map_eq_some_iff.mp own
        have inst' : (getUnit s k.toNat).inst = some i := inst
        simp [inst', serial]
      rw [if_pos mine, rdCsr_bump, if_pos rfl]
      rfl
  case load =>
    intro w n runs due come d
    refine ⟨_, wldComplete_ends unit running runs due come, ?_⟩
    simp only [at1, getUnit_modMx_self]
    obtain ⟨below, above⟩ := wldBank_rows mx.shadow d w.cmd.par.fb
    exact ⟨rfl, rfl, rfl, rfl, below, above, fun z mem named => (mxDone_toks _ _ _ z mem named).1, rfl, modMx_allMemSame ..⟩
  case mma =>
    intro c due
    refine ⟨_, mmaComplete_ends unit running due, ?_⟩
    simp only [at1, getUnit_modMx_self]
    exact ⟨mxDone_comp _ _ _, mxDone_toks _ _ _, rfl, modMx_allMemSame ..⟩
  case drain =>
    intro c drain
    refine ⟨fun n due come => ?_, fun f x ins named open' more earlier => ?_⟩
    · refine ⟨_, drainComplete_ends unit running drain due come, ?_⟩
      simp only [at1, getUnit_modMx_self]
      exact ⟨mxDone_comp _ _ _, mxDone_toks _ _ _, modMx_allMemSame ..⟩
    · intro p bd at0 int
      refine ⟨_, (drainComplete_rows unit running drain open' earlier).trans (congrArg _ (drainStep_row s k.toNat ins named more)), ?_⟩
      simp only [at1, getUnit_modUnit_self, getUnit_modMem, modUnit_chip_mem, modMem_mem]
      refine ⟨fun j col => ?_, fun i outside => ?_, fun n => ?_, fun off => ?_, fun d mem seq => mem_rowDrained mem seq⟩
      · have stored := rdMem_drainRow s.chip.mem at0 (touchRows (sget {} (getUnit s k.toNat).tiles f.tile.toNat) [c.step]) p c.step col
        rwa [touchRows_el] at stored
      · rw [rdByte_writeImg, dif_neg (by rw [drainRow_length]; exact outside)]
      · rw [sget_sset]
        split
        · next here => rw [touchRows_el, here]
        · rfl
      · simp [histRow, show c.cmd.par.hen = false from off, u]
  case tokens =>
    intro ready eng mine
    refine ⟨_, engineTokenFire_fires running eng mine, ?_⟩
    simp only [at1, getUnit_modUnit_self]
    exact ⟨rfl, firedMx_left _, rfl, .of_eq rfl rfl rfl⟩

end Sys2Proof.Machine
end

section
/-! PROOFS. The scoreboard (spec 05 R90, 15 R276, 16 R293, R295, R299, R302 to R307). -/

namespace Sys2Proof.Machine

/-! ## What the window's own transitions leave alone -/

/-- A task in another state of the window, with another age (R299, R303). -/
def Restated (t q : Task) : Prop := ∃ st age, q = { t with st := st, age := age }

/-- The transitions that need no event change the states of tasks and the rename pool alone (R297, R299). -/
theorem refreshCl_eq (c : Cluster) : ∃ f pool, refreshCl c = { c with tasks := c.tasks.map f, pool := pool } ∧ ∀ t, Restated t (f t) := by
  refine ⟨_, _, rfl, fun t => ?_⟩
  split
  · split
    · exact ⟨_, _, rfl⟩
    · exact ⟨_, _, rfl⟩
  · split
    · exact ⟨_, _, rfl⟩
    · exact ⟨_, _, rfl⟩
  · exact ⟨_, _, rfl⟩

/-- What a task's state and age do not decide, the transitions keep. -/
theorem map_refreshCl {β : Type} (c : Cluster) (g : Task → β) (keeps : ∀ t st age, g { t with st := st, age := age } = g t) :
    (refreshCl c).tasks.map g = c.tasks.map g := by
  obtain ⟨f, pool, eq, restated⟩ := refreshCl_eq c
  rw [eq, List.map_map]
  refine List.map_congr_left (fun t _ => ?_)
  obtain ⟨st, age, same⟩ := restated t
  rw [Function.comp_apply, same, keeps]

theorem mem_refreshCl {c : Cluster} {q : Task} (mem : q ∈ (refreshCl c).tasks) : ∃ t ∈ c.tasks, q.serial = t.serial ∧ q.post = t.post ∧ q.regs = t.regs := by
  obtain ⟨f, pool, eq, restated⟩ := refreshCl_eq c
  rw [eq] at mem
  obtain ⟨t, here, rfl⟩ := List.mem_map.mp mem
  obtain ⟨st, age, same⟩ := restated t
  exact ⟨t, here, by rw [same]; exact ⟨rfl, rfl, rfl⟩⟩

theorem refreshCl_keeps (c : Cluster) : (refreshCl c).ovf = c.ovf ∧ (refreshCl c).child = c.child ∧ (refreshCl c).tokens = c.tokens := by
  obtain ⟨f, pool, eq, -⟩ := refreshCl_eq c
  rw [eq]
  exact ⟨rfl, rfl, rfl⟩

theorem getCl_refresh_self (s : State) (m : Nat) : getCl (refresh s m) m = refreshCl (getCl s m) := getCl_modCl_self ..

/-! ## Dispatch -/

/-- What is picked one by one, each time the better of two, is the best. -/
theorem foldl_best {α : Type} (rank : α → Nat) {pick : Option α → α → Option α}
    (better : ∀ a p, ∃ r, pick a p = some r ∧ (r = p ∨ a = some r) ∧ rank p ≤ rank r ∧ ∀ q, a = some q → rank q ≤ rank r)
    (l : List α) (a : Option α) {x : α} (best : l.foldl pick a = some x) : (x ∈ l ∨ a = some x) ∧ ∀ y, y ∈ l ∨ a = some y → rank y ≤ rank x := by
  induction l generalizing a with
  | nil =>
    refine ⟨.inr best, fun y held => ?_⟩
    rcases held with mem | held
    · cases mem
    · exact (Option.some.inj (held.symm.trans best)) ▸ le_refl _
  | cons p l ih =>
    obtain ⟨r, picked, source, reach, above⟩ := better a p
    rw [List.foldl_cons, picked] at best
    obtain ⟨found, most⟩ := ih (some r) best
    have top := most r (.inr rfl)
    refine ⟨?_, fun y held => ?_⟩
    · rcases found with mem | here
      · exact .inl (List.mem_cons_of_mem _ mem)
      · rw [← Option.some.inj here]
        exact source.imp_left (fun same => List.mem_cons.mpr (.inl same))
    · rcases held with mem | held
      · rcases List.mem_cons.mp mem with rfl | mem
        · exact reach.trans top
        · exact most y (.inl mem)
      · exact (above y held).trans top

/-- Of two tasks that may be dispatched the later is taken only for a higher priority (R303). -/
theorem dispatch_better (c : Cluster) (a : Option (Task × Slot)) (p : Task × Slot) : ∃ r,
    a.elim (some p) (fun q => if effPrio c q.1 < effPrio c p.1 then some p else some q) = some r ∧ (r = p ∨ a = some r) ∧ effPrio c p.1 ≤ effPrio c r.1 ∧
      ∀ q, a = some q → effPrio c q.1 ≤ effPrio c r.1 := by
  cases a with
  | none => exact ⟨p, rfl, .inl rfl, le_refl _, fun q held => nomatch held⟩
  | some q =>
    rw [Option.elim_some]
    split
    · next higher => exact ⟨p, rfl, .inl rfl, le_refl _, fun y same => Option.some.inj same ▸ higher.le⟩
    · next other => exact ⟨q, rfl, .inr rfl, not_lt.mp other, fun y same => Option.some.inj same ▸ le_refl _⟩

/-- The task dispatched next is one that is ready or issues, has its resource free, and none such has a higher priority (R303, R304). -/
theorem nextDispatch_first {s : State} {m : Nat} {t : Task} {x : Slot} (next : nextDispatch s m = some (t, x)) :
    (∀ q ∈ (getCl s m).tasks, (q.st = .ready ∨ q.st = .issuing) → slotFor s m q ≠ none → effPrio (getCl s m) q ≤ effPrio (getCl s m) t) ∧
      t ∈ (getCl s m).tasks ∧ slotFor s m t = some x := by
  obtain ⟨found, above⟩ := foldl_best (fun p : Task × Slot => effPrio (getCl s m) p.1)
    (fun a p => by
      obtain ⟨r, picked, rest⟩ := dispatch_better (getCl s m) a p
      refine ⟨r, ?_, rest⟩
      rw [← picked]
      cases a <;> rfl)
    _ none next
  refine ⟨fun q mem st free => ?_, ?_⟩
  · obtain ⟨y, slot⟩ := Option.ne_none_iff_exists'.mp free
    refine above (q, y) (.inl (List.mem_filterMap.mpr ⟨q, List.mem_filter.mpr ⟨mem, ?_⟩, by rw [slot]; rfl⟩))
    simpa using st
  · rcases found with mem | none
    · obtain ⟨q, mem, slot⟩ := List.mem_filterMap.mp mem
      obtain ⟨y, slot, eq⟩ := Option.map_eq_some_iff.mp slot
      cases eq
      exact ⟨(List.mem_filter.mp mem).1, slot⟩
    · cases none

/-- The instance of a kernel task that a dispatch starts (R304, R305). -/
def sentInst (c : Cluster) (t : Task) : Inst :=
  ⟨c.runId, t.serial, BitVec.ofNat 64 (imWid t.post.img.toNat t.next), imEntry t.post.img.toNat * 4, true, c.codeSeq⟩

/-- A task once its next instance is sent (R299, R303). -/
def sentTask (t q : Task) : Task :=
  if q.serial = t.serial then { q with next := q.next + 1, st := if imCount t.post.img.toNat ≤ q.next + 1 then .draining else .issuing } else q

/-- Bytes written one range after the other leave units and clusters alone. -/
theorem foldl_modMem_keeps {α : Type} (f : State → α → MemSt → MemSt) (l : List α) (s : State) :
    (∀ k, getUnit (l.foldl (fun s p => modMem s (f s p)) s) k = getUnit s k) ∧ ∀ m, getCl (l.foldl (fun s p => modMem s (f s p)) s) m = getCl s m := by
  induction l generalizing s with
  | nil => exact ⟨fun k => rfl, fun m => rfl⟩
  | cons p l ih => exact ih _

/-- A kernel instance goes to its unit, its address words to the unit's scratchpad, and its task to the next instance (R290, R303, R305). -/
theorem taskDispatch_unit {s : State} {m j : Nat} {t : Task} (cluster : s.arg.m.toNat = m) (running : s.chip.ended = none)
    (next : nextDispatch s m = some (t, .unit j)) : ∃ n vol, exec .taskDispatch s = .next n ∧
      getUnit n (8 * m + j) = freshUnit (getUnit s (8 * m + j)) (sentInst (getCl s m) t) vol ∧
      (getCl n m).tasks = (getCl s m).tasks.map (sentTask t) ∧ ∀ k, k ≠ 8 * m + j → getUnit n k = getUnit s k := by
  have run : exec .taskDispatch s = .next (modCl (dispatchKernel s m (8 * m + j) t t.next) m fun c => { c with tasks := c.tasks.map (sentTask t) }) := by
    show execTaskDispatch s = _
    simp only [execTaskDispatch, cluster, next, ended, running, Option.isSome_none, Bool.false_eq_true, if_false]
    rfl
  obtain ⟨units, clusters⟩ := foldl_modMem_keeps (fun s (p : Nat × Nat) mm => writeNat mm (unitBase (8 * m + j) + rgAof p.2) 8 (addrWord s m t p.1 p.2 t.next))
    ((t.post.regs.mapIdx (fun j r => (j, r.toNat))).filter (fun p => rgAv p.2)) s
  have unit : ∃ vol, getUnit (dispatchKernel s m (8 * m + j) t t.next) (8 * m + j) = freshUnit (getUnit s (8 * m + j)) (sentInst (getCl s m) t) vol := by
    rw [dispatchKernel, getUnit_modCl, getUnit_modUnit_self, units]
    exact ⟨_, rfl⟩
  obtain ⟨vol, unit⟩ := unit
  refine ⟨_, vol, run, unit, ?_, fun k other => ?_⟩
  · rw [getCl_modCl_self, dispatchKernel, getCl_modCl_self, getCl_modUnit, clusters]
  · rw [getUnit_modCl, dispatchKernel, getUnit_modCl, getUnit_modUnit, if_neg other, units]

/-- A task whose instance is sent drains or issues on (R299). -/
theorem sentTask_state (t q : Task) (named : (sentTask t q).serial = t.serial) : (sentTask t q).st = .draining ∨ (sentTask t q).st = .issuing := by
  unfold sentTask at named ⊢
  split at named
  · next here =>
    rw [if_pos here]
    by_cases last : imCount t.post.img.toNat ≤ q.next + 1
    · exact .inl (if_pos last)
    · exact .inr (if_neg last)
  · next other => exact absurd named other

theorem sentTask_next (t q : Task) : ((sentTask t q).serial, (sentTask t q).next) = (q.serial, if q.serial = t.serial then q.next + 1 else q.next) := by
  unfold sentTask
  split <;> rfl

/-! ## An instance in its unit -/

theorem rdS_freshUnit (u : Unit) (i : Inst) (vol : Nat × Nat × Nat × Nat) (r : Nat) : rdS (freshUnit u i vol).core r = if r = 1 then i.wid else 0 := by
  have file : (freshUnit u i vol).core.sreg = sset 0 [] 1 i.wid := rfl
  rw [rdS, file, sget_sset]
  by_cases first : r = 1 <;> simp [first, sget]

theorem codeAddr_ofNat (a : Nat) : codeAddr a = a % 2 ^ 21 := by simp [codeAddr, wrap]; omega

/-! ## The window -/

/-- A region that enters takes at most a buffer of the pool (R296). -/
theorem enterRegion_pool (s : State) (m serial : Nat) (c : Cluster) (x : RegEnt) : ∃ b, (enterRegion s m serial c x).1 = { c with pool := b } := by
  simp only [enterRegion]
  split
  · exact ⟨_, rfl⟩
  · split <;> exact ⟨_, rfl⟩

theorem foldl_pool {α β : Type} {f : Cluster × β → α → Cluster × β} (one : ∀ q y, ∃ b, (f q y).1 = { q.1 with pool := b }) (l : List α) (q : Cluster × β) :
    ∃ b, (l.foldl f q).1 = { q.1 with pool := b } := by
  induction l generalizing q with
  | nil => exact ⟨_, rfl⟩
  | cons y l ih =>
    obtain ⟨b, first⟩ := one q y
    obtain ⟨b', rest⟩ := ih (f q y)
    exact ⟨b', by rw [List.foldl_cons, rest, first]⟩

/-- A post that has entered the window, before its edges hold it (R293). -/
def newTask (serial : Nat) (p : Post) (regs : List RegEnt) : Task := ⟨serial, p, .waiting, regs, 0, 0, 0, none, []⟩

/-- A post takes the next serial number and the last place of the window (R293). -/
theorem enterWindow_enters (s : State) (m : Nat) (p : Post) : ∃ b regs, enterWindow s m p = setCl s m { getCl s m with
    pool := b, serial := (getCl s m).serial + 1, tasks := (getCl s m).tasks ++ [newTask (getCl s m).serial p regs] } := by
  simp only [enterWindow]
  obtain ⟨b, pool⟩ := foldl_pool (f := fun q y =>
      ((enterRegion s m (getCl s m).serial q.1 (regEnt s m p y.1 y.2)).1, q.2 ++ [(enterRegion s m (getCl s m).serial q.1 (regEnt s m p y.1 y.2)).2]))
    (fun q y => enterRegion_pool s m (getCl s m).serial q.1 (regEnt s m p y.1 y.2)) (postRegs p) (getCl s m, ([] : List RegEnt))
  rw [pool]
  exact ⟨_, _, rfl⟩

/-- The window after a post has entered it and the transitions that follow (R293, R299). -/
theorem entered (s : State) (m : Nat) (p : Post) {β : Type} (g : Task → β) (keeps : ∀ t st age, g { t with st := st, age := age } = g t) :
    ∃ regs, (getCl (refresh (enterWindow s m p) m) m).tasks.map g = (getCl s m).tasks.map g ++ [g (newTask (getCl s m).serial p regs)] := by
  obtain ⟨b, regs, enters⟩ := enterWindow_enters s m p
  refine ⟨regs, ?_⟩
  rw [getCl_refresh_self, map_refreshCl _ g keeps, enters, getCl_setCl_self]
  simp

/-- Entry of a post changes no memory, and in its cluster neither a queue nor a child (R293). -/
theorem entered_keeps (s : State) (m : Nat) (p : Post) : let t := refresh (enterWindow s m p) m
    (getCl t m).ovf = (getCl s m).ovf ∧ (getCl t m).child = (getCl s m).child ∧ BooksOnly s t := by
  obtain ⟨b, regs, enters⟩ := enterWindow_enters s m p
  intro t
  obtain ⟨ovf, child, -⟩ := refreshCl_keeps (getCl (enterWindow s m p) m)
  have cluster : getCl t m = refreshCl (getCl (enterWindow s m p) m) := getCl_refresh_self ..
  have set : enterWindow s m p = modCl s m fun _ => getCl (enterWindow s m p) m := by rw [enters, getCl_setCl_self]; rfl
  refine ⟨?_, ?_, ?_⟩
  · rw [cluster, ovf, enters, getCl_setCl_self]
  · rw [cluster, child, enters, getCl_setCl_self]
  · refine .trans ?_ (.modCl ..)
    rw [set]
    exact .modCl ..

section
variable {s : State} {m : Nat} {p : Post} (cluster : s.arg.m.toNat = m) (running : s.chip.ended = none)
include cluster running

/-- A queued post enters the window (R302). -/
theorem overflowQueueEntry_enters {o : Nat} (head : ovfNext (getCl s m) = some (o, p)) : exec .overflowQueueEntry s =
    .next (refresh (enterWindow (modCl s m fun c => { c with ovf := smod [] c.ovf o (fun q => q.drop 1), rot := if o = 0 then c.rot else o % 8 }) m p) m) := by
  show execOverflowQueueEntry s = _
  simp only [execOverflowQueueEntry, cluster, head, ended, running, Option.isSome_none, Bool.false_eq_true, if_false]

/-- A child whose CPOST has started, with room in the window and no token to arm, enters it (R264, R293). -/
theorem postEntry_enters {key k : Nat} (poster : 8 * m + (p.origin - 1) = k)
    (named : (getCl s m).child.find? (fun p => p.1 == s.arg.j) = some (key, p)) (fresh : p.id = 0)
    (started : ∃ r ∈ (getUnit s k).uce0.runs ++ (getUnit s k).uce1.runs, r.x.op = 0x28 ∧ r.x.post = key)
    (room : placeOf (getCl s m) p.origin (postRegs p).length = 0) (free : bit (imTok p.img.toNat 3) 47 = false) :
    exec .postEntry s = .next (modCl (refresh (enterWindow (acceptedRun s k key) m (acceptSat (acceptedRun s k key) m p)) m) m fun c =>
      { c with child := serase c.child key }) := by
  have going : ((getUnit s k).uce0.runs ++ (getUnit s k).uce1.runs).any (fun r => decide (r.x.op = 0x28) && r.x.post == key) = true := by
    obtain ⟨r, mem, op, post⟩ := started
    exact List.any_eq_true.mpr ⟨r, mem, by simp [op, post]⟩
  have unarmed : ∀ t who, armProduced t (acceptSat t m p) who = (t, none) := fun t who => by
    have img : (acceptSat t m p).img = p.img := rfl
    simp [armProduced, img, free]
  show execPostEntry s = _
  simp only [execPostEntry, cluster, poster, named, going, fresh, room, ended, running, acceptPost, unarmed]
  rfl

end

/-! ## Watched tokens -/

/-- A slot that a watch finds fired is satisfied, wherever its post stands (R295). -/
theorem satPost_slot (f : Nat → Bool) (p : Post) {n : Nat} (named : f n = true) : (satPost f p).sat.getD n true = true := by
  simp only [satPost, List.getD_eq_getElem?_getD, List.getElem?_mapIdx]
  cases p.sat[n]? <;> simp [named]

/-- A watched token that has fired satisfies its slot (R295). -/
theorem tokenWatch_satisfies {s : State} {m key n : Nat} {p : Post} (cluster : s.arg.m.toNat = m) (running : s.chip.ended = none) (slot : s.arg.n % 3 = n)
    (named : (watched (getCl s m)).find? (fun x => x.1 == s.arg.j) = some (key, p)) (token : bit (imTok p.img.toNat n) 47 = true)
    (waits : p.sat.getD n true = false) (own : (handleAt s.partMod (imTok p.img.toNat n)).1 = s.partMod)
    (fired : (getTok s (handleAt s.partMod (imTok p.img.toNat n)).2.1 (handleAt s.partMod (imTok p.img.toNat n)).2.2).fired = true) :
    exec .tokenWatch s = .next (satSlot s m key n) := by
  show execTokenWatch s = _
  simp only [execTokenWatch, cluster, slot, named, token, waits, own, fired, ended, running, Option.isSome_none, Bool.not_true, Bool.or_self,
    Bool.false_eq_true, if_false, if_true]

theorem satSlot_satisfies (s : State) (m key n : Nat) :
    (∀ q ∈ (getCl (satSlot s m key n) m).tasks, q.serial = key → q.post.sat.getD n true = true) ∧
      ∀ x ∈ (getCl (satSlot s m key n) m).ovf, ∀ y ∈ x.2, y.id = key → y.sat.getD n true = true := by
  rw [satSlot, getCl_refresh_self, getCl_modCl_self]
  refine ⟨fun q mem serial => ?_, fun x mem y queued number => ?_⟩
  · obtain ⟨t, watched, number, post, -⟩ := mem_refreshCl mem
    obtain ⟨z, -, rfl⟩ := List.mem_map.mp watched
    rw [post]
    by_cases here : z.serial = key
    · rw [if_pos here]
      exact satPost_slot _ _ (beq_self_eq_true n)
    · rw [number, if_neg here] at serial
      exact absurd serial here
  · rw [(refreshCl_keeps _).1] at mem
    obtain ⟨z, -, rfl⟩ := List.mem_map.mp mem
    obtain ⟨w, -, rfl⟩ := List.mem_map.mp queued
    exact satPost_slot _ _ (by simp [show w.id = key from number])

/-! ## Engines of every kind -/

theorem setX_books (s : State) (e : Eng) (x : XEng) : BooksOnly s (setX s e x) := by
  unfold setX
  split
  · exact .modUnit s _ (fun u => ⟨u.core.csr, by split <;> rfl⟩)
  · exact .modCl ..
  · exact .modCl ..
  · exact .modCl ..
  · exact .refl s
  · exact .refl s

/-- Runs that leave an engine change its books alone (R83). -/
theorem cleanRuns_anyBooks (s : State) (e : Eng) : BooksOnly s (cleanRuns s e) := by
  unfold cleanRuns
  exact .trans (.foldl (fun t r => codeShow_books t ..) _ s) (setX_books ..)

theorem codePass_books (s : State) (m : Nat) (w v : CodeBy) : BooksOnly s (codePass s m w v) := by
  unfold codePass
  split
  · exact .refl s
  · exact .modCl ..

theorem refresh_books (s : State) (m : Nat) : BooksOnly s (refresh s m) := .modCl ..

/-! ## Commit copies -/

/-- The commit copy of a renamed region: from its buffer to the region's home (R297). -/
def commitXfer (s : State) (m : Nat) (y : RegEnt) : Xfer :=
  { xfer0 0x40 with
    dst := tBaseIa s m (tensorOf s m y.tid), src := fullIa s (clBase m + y.buf.getD 0)
    desc := ccDesc (tensorOf s m y.tid) y.lo ((List.range 4).map fun k => y.hi.getD k 0 - y.lo.getD k 0), a := BitVec.ofNat 64 y.idx }

/-- A command of a task as its engine takes it. -/
def startedRun (id cseq : Nat) (x : Xfer) (task : Nat) : Run where
  id := id
  x := x
  cseq := cseq
  inst := 0
  slot := 0
  gv := none
  tag := none
  next := 0
  nchunk := 0
  chunks := []
  done := false
  stP := false
  stT := false
  stA := false
  task := some task
  after := []

/-- A commit copy starts on a free CCE of its cluster (R297, R304). -/
theorem commitCopyStart_starts {s : State} {m : Nat} {t : Task} {y : RegEnt} {e : Eng} (cluster : s.arg.m.toNat = m) (running : s.chip.ended = none)
    (ready : (commitsReady s m).find? (fun p => p.1.serial == s.arg.j && p.2.idx == s.arg.n) = some (t, y))
    (engine : [Eng.cce s.arg.m 0, Eng.cce s.arg.m 1].find? (engFree s) = some e) :
    ∃ f : Cluster → Cluster, (∀ c, (f c).cce0 = c.cce0 ∧ (f c).cce1 = c.cce1) ∧ exec .commitCopyStart s = .next (modCl (modX s e fun q => { q with
      runs := q.runs ++ [startedRun (getCl s m).runId (getX s e).cseq (commitXfer s m y) t.serial], cseq := (q.cseq + 1) % 2 ^ 32 }) m f) := by
  refine ⟨fun c =>
    if t.regs.any (fun z => isRecord z && !z.committed && z.idx != y.idx) then { c with runId := c.runId + 1 }
    else tokenBehind { c with runId := c.runId + 1 } t.serial e, fun c => ?_, ?_⟩
  · split <;> exact ⟨rfl, rfl⟩
  · show execCommitCopyStart s = _
    simp only [execCommitCopyStart, cluster, ready, engine, ended, running, Option.isSome_none, Bool.false_eq_true, if_false]
    rfl

/-- A CCE of a cluster after a change of its own and one that leaves the cluster's CCEs alone. -/
theorem getX_cce (s : State) (m : ClusterIx) (n : BitVec 1) (g : XEng → XEng) {f : Cluster → Cluster} (keeps : ∀ c, (f c).cce0 = c.cce0 ∧ (f c).cce1 = c.cce1) :
    getX (modCl (modX s (.cce m n) g) m.toNat f) (.cce m n) = g (getX s (.cce m n)) := by
  simp only [getX, modX, setX, getCl_modCl_self, (keeps _).1, (keeps _).2]
  cases n == 0 <;> rfl

/-- The home claim of a region is released (R297). -/
def commitTask (k a : Nat) (t : Task) : Task :=
  if t.serial = k then { t with regs := t.regs.map (fun y => if y.idx = a then { y with committed := true } else y) } else t

/-- A commit copy that is complete releases its region's home claim (R297). -/
theorem commitCopyComplete_releases {s : State} {r : Run} {k : Nat} (running : s.chip.ended = none) (found : findRun s s.arg.eng s.arg.j = some r)
    (task : r.task = some k) (commit : r.x.op = 0x40) (complete : r.done = true) : ∃ t, BooksOnly s t ∧
      exec .commitCopyComplete s = .next (refresh (modCl t (Eng.cl s.arg.eng) fun c => { c with tasks := c.tasks.map (commitTask k r.x.a.toNat) }) (Eng.cl s.arg.eng)) := by
  refine ⟨cleanRuns (codePass (modRun s s.arg.eng r.id fun r => { r with task := none }) (Eng.cl s.arg.eng) (.run s.arg.eng r.id) (.task k)) s.arg.eng,
    ((setX_books ..).trans (codePass_books ..)).trans (cleanRuns_anyBooks ..), ?_⟩
  show execCommitCopyComplete s = _
  simp only [execCommitCopyComplete, found, task, commit, complete, ended, running, Option.isSome_none, Bool.false_eq_true, Bool.true_eq_false, ne_eq,
    not_true, or_self, if_false]
  rfl

theorem commitTask_commits (k a : Nat) (t : Task) (named : (commitTask k a t).serial = k) : ∀ y ∈ (commitTask k a t).regs, y.idx = a → y.committed = true := by
  intro y mem idx
  unfold commitTask at named mem
  split at mem
  · obtain ⟨z, -, rfl⟩ := List.mem_map.mp mem
    split at idx
    · next here => rw [if_pos here]
    · next other => exact absurd idx other
  · next other =>
    rw [if_neg other] at named
    exact absurd named other

/-! ## Instances that drain and tasks that are freed -/

/-- A task once an instance of it has drained (R306). -/
def drainedTask (task : Nat) (t : Task) : Task := if t.serial = task then { t with drained := t.drained + 1 } else t

/-- The number of the drained instances of the tasks of a cluster (R306). -/
theorem map_drained (l : List Task) (task : Nat) : (l.map (drainedTask task)).map (fun q => (q.serial, q.drained)) =
    l.map (fun q => (q.serial, if q.serial = task then q.drained + 1 else q.drained)) := by
  rw [List.map_map]
  refine List.map_congr_left (fun q _ => ?_)
  simp only [Function.comp_apply, drainedTask]
  split <;> rfl

/-- A drained instance leaves the tracker of its unit and counts for its task (R306). -/
theorem instanceDrain_counts {s : State} {k : UnitIx} {p : Nat × Nat} (running : s.chip.ended = none) (stream : s.arg.eng = .stream k)
    (tracked : (getUnit s k.toNat).tracker.find? (fun p => p.1 == s.arg.j) = some p) (quiet : outstanding s k.toNat p.1 = false) :
    exec .instanceDrain s = .next (refresh (modCl (modUnit s k.toNat fun u => { u with tracker := u.tracker.filter (fun q => q.1 != p.1) }) (k.toNat / 8) fun c =>
      { c with tasks := c.tasks.map (drainedTask p.2) }) (k.toNat / 8)) := by
  show execInstanceDrain s = _
  simp only [execInstanceDrain, stream, tracked, quiet, ended, running, Option.isSome_none, Bool.false_eq_true, if_false]
  rfl

/-- A token of a cluster is left by all that keeps the cluster's tokens. -/
theorem getTok_congr {s t : State} {m : Nat} (same : (getCl t m).tokens = (getCl s m).tokens) (i : Nat) : getTok t m i = getTok s m i := by
  rw [getTok, same, getTok]

/-- The window without a task (R299). -/
def dropTask (serial : Nat) (c : Cluster) : Cluster := { c with tasks := c.tasks.filter (fun q => q.serial != serial) }

theorem dropTask_tokens (serial : Nat) (c : Cluster) : (dropTask serial c).tokens = c.tokens := rfl

/-- A task that can be freed leaves its window, and its token fires (R299, R307). -/
theorem taskFree_frees {s : State} {m : Nat} {t : Task} (cluster : s.arg.m.toNat = m) (running : s.chip.ended = none)
    (named : (getCl s m).tasks.find? (fun t => t.serial == s.arg.j) = some t) (freeable : taskFreeable (getCl s m) t = true) : exec .taskFree s =
    .next (refresh (fireProduced (modCl (codeShow s m (.task t.serial) (codeTok s m t.serial)) m (dropTask t.serial)) m t.post) m) := by
  show execTaskFree s = _
  simp only [execTaskFree, cluster, named, freeable, ended, running, Option.isSome_none, Bool.not_true, Bool.or_self, Bool.false_eq_true, if_false]
  rfl

theorem codeShow_keeps (s : State) (m : Nat) (w : CodeBy) (tok : Option Nat) (j : Nat) : (getCl (codeShow s m w tok) j).tokens = (getCl s j).tokens := by
  unfold codeShow
  split
  · rw [getCl_modCl]
    split
    · next here => rw [here]
    · rfl
  · rfl

theorem getTok_modCl {s : State} {m : Nat} {f : Cluster → Cluster} (keeps : ∀ c, (f c).tokens = c.tokens) (j i : Nat) : getTok (modCl s m f) j i = getTok s j i := by
  refine getTok_congr ?_ i
  rw [getCl_modCl]
  split
  · next here => rw [keeps, here]
  · rfl

/-- A token that is signalled changes the posts that wait for it alone in its cluster's window (R276, R295). -/
theorem tokFire_serial {s : State} {m i j n : Nat} (absent : ∀ q ∈ (getCl s m).tasks, q.serial ≠ n) : ∀ q ∈ (getCl (tokFire s j i) m).tasks, q.serial ≠ n := by
  intro q mem
  rw [tokFire, getCl_modCl] at mem
  split at mem
  · next here =>
    obtain ⟨t, held, rfl⟩ := List.mem_map.mp mem
    exact absent t (here ▸ held)
  · exact absent q mem

/-- The token that a freed task produces on this module is signalled (R90, R299). -/
theorem fireProduced_own {s : State} {m : Nat} {p : Post}
    (own : bit (imTok p.img.toNat 3) 47 = true → (handleAt s.partMod (imTok p.img.toNat 3)).1 = s.partMod) :
    fireProduced s m p = if bit (imTok p.img.toNat 3) 47 = true then
      tokFire s (handleAt s.partMod (imTok p.img.toNat 3)).2.1 (handleAt s.partMod (imTok p.img.toNat 3)).2.2 else s := by
  unfold fireProduced
  by_cases token : bit (imTok p.img.toNat 3) 47 = true
  · simp [token, own token]
  · simp [token]

theorem tokFire_books (s : State) (j i : Nat) : BooksOnly s (tokFire s j i) := .modCl ..

theorem codeShow_partMod (s : State) (m : Nat) (w : CodeBy) (tok : Option Nat) : (codeShow s m w tok).partMod = s.partMod := by
  unfold codeShow
  split <;> rfl

/-- What the token of a freed task leaves behind (R276, R299). -/
theorem produced_leaves {s : State} {m n : Nat} {p : Post} (gone : ∀ q ∈ (getCl s m).tasks, q.serial ≠ n)
    (own : bit (imTok p.img.toNat 3) 47 = true → (handleAt s.partMod (imTok p.img.toNat 3)).1 = s.partMod) :
    (∀ q ∈ (getCl (refresh (fireProduced s m p) m) m).tasks, q.serial ≠ n) ∧
      (bit (imTok p.img.toNat 3) 47 = true → ∀ a, (handleAt s.partMod (imTok p.img.toNat 3)).2 = a →
        getTok (refresh (fireProduced s m p) m) a.1 a.2 = ⟨true, min 65535 ((getTok s a.1 a.2).cnt + 1)⟩) ∧
      BooksOnly s (refresh (fireProduced s m p) m) := by
  rw [fireProduced_own own]
  refine ⟨fun q mem => ?_, fun token a home => ?_, .trans ?_ (refresh_books ..)⟩
  · rw [getCl_refresh_self] at mem
    obtain ⟨t, held, number, -⟩ := mem_refreshCl mem
    rw [number]
    split at held
    · exact tokFire_serial gone t held
    · exact gone t held
  · subst home
    rw [if_pos token, refresh, getTok_modCl (fun c => (refreshCl_keeps c).2.2), getTok_tokFire_self]
  · split
    · exact tokFire_books ..
    · exact .refl s

/-- What is left once a freed task has gone from the window, before its token fires (R299, R307). -/
theorem dropped_leaves (s : State) (m serial : Nat) (tok : Option Nat) :
    (∀ q ∈ (getCl (modCl (codeShow s m (.task serial) tok) m (dropTask serial)) m).tasks, q.serial ≠ serial) ∧
      (∀ j i, getTok (modCl (codeShow s m (.task serial) tok) m (dropTask serial)) j i = getTok s j i) ∧
      BooksOnly s (modCl (codeShow s m (.task serial) tok) m (dropTask serial)) := by
  refine ⟨fun q mem => ?_, fun j i => ?_, (codeShow_books ..).trans (.modCl ..)⟩
  · rw [getCl_modCl_self] at mem
    simpa using (List.mem_filter.mp mem).2
  · rw [getTok_modCl (dropTask_tokens serial)]
    exact getTok_congr (codeShow_keeps s m (.task serial) tok j) i

/-- The window, the queues and the memories after the head of an overflow queue has entered (R302). -/
theorem overflow_entered (s : State) (m o : Nat) (p : Post) :
    let t := refresh (enterWindow (modCl s m fun c => { c with ovf := smod [] c.ovf o (fun q => q.drop 1), rot := if o = 0 then c.rot else o % 8 }) m p) m
    (getCl t m).tasks.map (fun q => (q.serial, q.post)) = (getCl s m).tasks.map (fun q => (q.serial, q.post)) ++ [((getCl s m).serial, p)] ∧
      ovfQ (getCl t m) o = (ovfQ (getCl s m) o).drop 1 ∧ (∀ k, k ≠ o → ovfQ (getCl t m) k = ovfQ (getCl s m) k) ∧ AllMemSame s t := by
  intro t
  obtain ⟨regs, tasks⟩ := entered (modCl s m fun c => { c with ovf := smod [] c.ovf o (fun q => q.drop 1), rot := if o = 0 then c.rot else o % 8 }) m p
    (fun q => (q.serial, q.post)) (fun _ _ _ => rfl)
  obtain ⟨queues, -, books⟩ := entered_keeps (modCl s m fun c => { c with
    ovf := smod [] c.ovf o (fun q => q.drop 1), rot := if o = 0 then c.rot else o % 8 }) m p
  rw [getCl_modCl_self] at tasks queues
  have queue : ∀ k, ovfQ (getCl t m) k = if k = o then (ovfQ (getCl s m) o).drop 1 else ovfQ (getCl s m) k := fun k => by
    rw [ovfQ, queues, sget_smod]
    rfl
  exact ⟨tasks, by rw [queue, if_pos rfl], fun k other => by rw [queue, if_neg other], ((BooksOnly.modCl ..).trans books).allMemSame⟩

/-- The window, the children and the memories after a child has entered (R264, R293). -/
theorem child_entered (s : State) (m k key : Nat) (p : Post) :
    let t := modCl (refresh (enterWindow (acceptedRun s k key) m (acceptSat (acceptedRun s k key) m p)) m) m fun c => { c with child := serase c.child key }
    (∀ y ∈ (getCl t m).child, y.1 ≠ key) ∧
      (getCl t m).tasks.map (fun q => q.serial) = (getCl s m).tasks.map (fun q => q.serial) ++ [(getCl s m).serial] ∧
      ∃ q, (getCl t m).tasks.getLast? = some q ∧ q.post.img = p.img ∧ BooksOnly s t := by
  intro t
  have accepted : BooksOnly s (acceptedRun s k key) := by
    unfold acceptedRun
    exact .modUnit s k (fun u => ⟨u.core.csr, rfl⟩)
  obtain ⟨-, -, books⟩ := entered_keeps (acceptedRun s k key) m (acceptSat (acceptedRun s k key) m p)
  obtain ⟨regs, tasks⟩ := entered (acceptedRun s k key) m (acceptSat (acceptedRun s k key) m p) (fun q => (q.serial, q.post.img)) (fun _ _ _ => rfl)
  have cluster : getCl (acceptedRun s k key) m = getCl s m := rfl
  have window : (getCl t m).tasks = (getCl (refresh (enterWindow (acceptedRun s k key) m (acceptSat (acceptedRun s k key) m p)) m) m).tasks := by
    rw [getCl_modCl_self]
  rw [cluster, ← window] at tasks
  refine ⟨fun y mem => ?_, ?_, ?_⟩
  · rw [getCl_modCl_self] at mem
    exact ne_of_mem_serase mem
  · have serials := congrArg (List.map Prod.fst) tasks
    simpa [Function.comp_def, newTask] using serials
  · have last := congrArg List.getLast? tasks
    rw [List.getLast?_map, List.getLast?_concat] at last
    obtain ⟨q, here, same⟩ := Option.map_eq_some_iff.mp last
    exact ⟨q, here, (Prod.mk.inj same).2, (accepted.trans books).trans (.modCl ..)⟩

/-- Settles O35: each event of the scoreboard by what it makes of the window, and who is dispatched by the best of those that may be. -/
theorem scoreboardEvents : Obligations.ScoreboardEvents := by
  unfold Obligations.ScoreboardEvents
  intro s running m c
  have cluster : s.arg.m.toNat = m := rfl
  refine ⟨fun t x => nextDispatch_first, ?dispatch, ?queued, ?child, ?watch, ?start, ?commit, ?drain, ?free⟩
  case dispatch =>
    intro t j next u
    obtain ⟨n, vol, run, unit, tasks, others⟩ := taskDispatch_unit cluster running next
    refine ⟨n, sentInst c t, run, ?_⟩
    simp only [unit, tasks]
    refine ⟨rfl, rfl, rfl, rfl, rfl, codeAddr_ofNat _, rdS_freshUnit _ _ _, rfl, rfl, rfl, rfl, rfl, rfl, rfl, rfl, ?_, ?_, others⟩
    · intro q mem serial
      obtain ⟨z, -, rfl⟩ := List.mem_map.mp mem
      exact sentTask_state t z serial
    · rw [List.map_map]
      exact List.map_congr_left (fun q _ => sentTask_next t q)
  case queued =>
    intro o p head
    exact ⟨_, overflowQueueEntry_enters cluster running head, overflow_entered s m o p⟩
  case child =>
    intro key p named fresh low high started room free
    obtain ⟨gone, serials, q, last, img, books⟩ := child_entered s m (8 * m + (p.origin - 1)) key p
    exact ⟨_, q, postEntry_enters cluster running rfl named fresh started room free, gone, serials, last, img, books.allMemSame⟩
  case watch =>
    intro key p named n h a token waits own fired
    obtain ⟨tasks, queues⟩ := satSlot_satisfies s m key n
    exact ⟨_, tokenWatch_satisfies cluster running rfl named token waits own fired, tasks, queues, ((BooksOnly.modCl ..).trans (refresh_books ..)).allMemSame⟩
  case start =>
    intro t y e ready engine
    obtain ⟨f, keeps, run⟩ := commitCopyStart_starts cluster running ready engine
    have books : ∀ g, AllMemSame s (modCl (modX s e g) m f) := fun g => ((setX_books ..).trans (.modCl ..)).allMemSame
    have mine : e = .cce s.arg.m 0 ∨ e = .cce s.arg.m 1 := by simpa using List.mem_of_find?_eq_some engine
    refine ⟨_, startedRun c.runId (getX s e).cseq (commitXfer s m y) t.serial, run, ?_, rfl, rfl, rfl, rfl, rfl, books _⟩
    rcases mine with rfl | rfl <;> rw [getX_cce _ _ _ _ keeps]
  case commit =>
    intro r k found task commit complete
    obtain ⟨t, books, run⟩ := commitCopyComplete_releases running found task commit complete
    refine ⟨_, run, fun q mem serial y region => ?_, ((books.trans (.modCl ..)).trans (refresh_books ..)).allMemSame⟩
    rw [getCl_refresh_self, getCl_modCl_self] at mem
    obtain ⟨z, held, number, -, regs⟩ := mem_refreshCl mem
    obtain ⟨w, -, rfl⟩ := List.mem_map.mp held
    rw [regs] at region
    exact commitTask_commits k _ w (number ▸ serial) y region
  case drain =>
    intro k p stream tracked quiet
    refine ⟨_, instanceDrain_counts running stream tracked quiet, fun q mem => ?_, ?_, .of_eq rfl rfl rfl⟩
    · rw [refresh, getUnit_modCl, getUnit_modCl, getUnit_modUnit_self] at mem
      simpa using (List.mem_filter.mp mem).2
    · rw [getCl_refresh_self, map_refreshCl _ _ (fun _ _ _ => rfl), getCl_modCl_self]
      exact map_drained ..
  case free =>
    intro t named freeable h a own
    obtain ⟨gone, tokens, books⟩ := dropped_leaves s m t.serial (codeTok s m t.serial)
    have home : (modCl (codeShow s m (.task t.serial) (codeTok s m t.serial)) m (dropTask t.serial)).partMod = s.partMod := codeShow_partMod ..
    obtain ⟨left, token, fired⟩ := produced_leaves (p := t.post) gone (by rw [home]; exact own)
    refine ⟨_, taskFree_frees cluster running named freeable, left, fun produces => ?_, (books.trans fired).allMemSame⟩
    rw [token produces a (by rw [home]), tokens]

end Sys2Proof.Machine
end

section
/-! PROOFS. Settling retry ring entries: the completion port and the consumer count (spec 06 R105, R106, R108, R113). -/

namespace Sys2Proof.Machine

/-! ## Ring positions -/

/-- What is pending at a ring position rests on the cluster's list of pending entries alone (R104). -/
theorem pendAt_congr {s t : State} {m : Nat} (same : (getCl t m).pend = (getCl s m).pend) (pos : Nat) : pendAt t m pos = pendAt s m pos := by
  rw [pendAt, pendAt, same]

/-- A settled entry is pending no more (R104). -/
@[simp] theorem pendAt_unpend (s : State) (m pos : Nat) : pendAt (unpend s m pos) m pos = none := by
  simp [pendAt, unpend, find?_serase]

theorem unpend_books (s : State) (m pos : Nat) : BooksOnly s (unpend s m pos) := .modCl ..

/-- Errors that a read finds leave the ring (R199). -/
theorem touchChip_pend (s : State) (a n m : Nat) : (getCl (touchChip s a n) m).pend = (getCl s m).pend := by
  unfold touchChip
  rcases touch s.chip.mem a n with ⟨x, ce, ue⟩
  rcases countErr_cases (modChip s fun c => { c with mem := x }) a ce ue with same | ⟨g, bumped⟩
  · simp only [same]
    rfl
  · simp only [bumped]
    cases g with
    | lantern j =>
      rw [modCore, getCl_modLan]
      split
      · next here => rw [here]; rfl
      · rfl
    | unit j => rfl

/-! ## The completion port -/

/-- The ring position that an event of the completion port names (R106). -/
def cmpPos (s : State) : Nat := s.arg.v.toNat / 4 % 1024

/-- The offset of the buffer that a SUPPLY names (R106). -/
def cmpBuf (s : State) : Nat := s.arg.v.toNat / 2 ^ 40

section Port
variable {s : State} {op : Nat} {f : FaultRec}

/-- The fields of a write to ring.cmp whose operation is the event's (R106). -/
theorem cmp_fields (small : op < 4) (s : State) : let w := s.arg.v.toNat / 4 * 4 + op
    bits w 0 2 = op ∧ bits w 2 10 = cmpPos s ∧ bits w 40 24 = cmpBuf s := by
  have range := s.arg.v.isLt
  simp only [bits, cmpPos, cmpBuf]
  omega

/-- The port rejects an entry that is not pending (R106). -/
theorem cmpEvent_rejects (named : 0 < op) (small : op < 4) (absent : pendAt s s.arg.m.toNat (cmpPos s) = none) :
    cmpEvent s op = .next (ringReject s s.arg.m.toNat 1) := by
  obtain ⟨hop, hpos, -⟩ := cmp_fields small s
  simp only [cmpEvent, ringCmp, hop, hpos, show op ≠ 0 by omega, if_false, absent]

/-- WRITE settles a pending entry whose bytes are held (R106). -/
theorem cmpEvent_write (pending : pendAt s s.arg.m.toNat (cmpPos s) = some f) (held : f.held = true) :
    cmpEvent s 1 = .next (portWrite (unpend s s.arg.m.toNat (cmpPos s)) f) := by
  obtain ⟨hop, hpos, -⟩ := cmp_fields (op := 1) (by norm_num) s
  simp [cmpEvent, ringCmp, hop, hpos, pending, held]

/-- SUPPLY settles a pending entry of a class it serves from an aligned buffer within the scratchpad (R106). -/
theorem cmpEvent_supply (pending : pendAt s s.arg.m.toNat (cmpPos s) = some f) (cls : f.cls = 0 ∨ f.cls = 1 ∨ f.cls = 4 ∨ f.cls = 6)
    (aligned : cmpBuf s % 64 = 0) (inside : cmpBuf s + f.img ≤ clSize) :
    cmpEvent s 2 = .next (portSupply (unpend s s.arg.m.toNat (cmpPos s)) s.arg.m.toNat f (cmpBuf s)) := by
  obtain ⟨hop, hpos, hbuf⟩ := cmp_fields (op := 2) (by norm_num) s
  simp [cmpEvent, ringCmp, hop, hpos, hbuf, pending, cls, aligned, Nat.not_lt.mpr inside]

/-- POISON settles a pending entry of every class (R106). -/
theorem cmpEvent_poison (pending : pendAt s s.arg.m.toNat (cmpPos s) = some f) :
    cmpEvent s 3 = .next (portPoison (unpend s s.arg.m.toNat (cmpPos s)) f) := by
  obtain ⟨hop, hpos, -⟩ := cmp_fields (op := 3) (by norm_num) s
  simp [cmpEvent, ringCmp, hop, hpos, pending]

end Port

/-- A rejection with no earlier one sets cerr and the cause, and leaves the other bits of the CSR and all memory (R103, R106). -/
theorem ringReject_first {s : State} {m : Nat} (code : Nat) (clear : bit (rdCsr (getCl s m).lan.core 0x141).toNat 31 = false) :
    rdCsr (getCl (ringReject s m code) m).lan.core 0x141 =
      BitVec.ofNat 64 ((rdCsr (getCl s m).lan.core 0x141).toNat % 2 ^ 28 + code * 2 ^ 28 + 2 ^ 31) ∧
    AllMemSame s (ringReject s m code) := by
  refine ⟨?_, .of_eq rfl rfl rfl⟩
  rw [ringReject, getCl_modLan_self]
  simp [clear, rdCsr_wrCsr, bits]

/-! ## The chunk that an entry names -/

/-- The chunk that the entry `f` names is bound, and `img` is its destination image (R106). -/
def ChunkBound (t : State) (f : FaultRec) (img : List (Byte × Bool)) : Prop :=
  ∀ r ∈ (getX t f.eng).runs, r.id = f.run → ∀ c ∈ r.chunks, c.idx = f.chunk → c.phase = .bound ∧ c.img = img

section Uce
variable {f : FaultRec} {k : UnitIx} {q : BitVec 1} (eng : f.eng = .uce k q) (s : State)
include eng

theorem isAcc_uce : isAcc s f = false := by rw [isAcc, eng]

/-- A change that binds the named chunk to the image `img` binds it in every command of that number. -/
theorem modFaultChunk_bound {g : Chunk → Chunk} {img : List (Byte × Bool)} (put : ∀ c, (g c).phase = .bound ∧ (g c).img = img) :
    ChunkBound (modFaultChunk s f g) f img := by
  intro r mem named c held inChunk
  rw [modFaultChunk, eng] at mem
  obtain ⟨y, rfl⟩ := mem_modRun s k q mem named
  obtain ⟨x, -, rfl⟩ := List.mem_map.mp held
  split at inChunk
  · next here => rw [if_pos here]; exact put x
  · next other => exact absurd inChunk other

theorem modFaultChunk_books (g : Chunk → Chunk) : BooksOnly s (modFaultChunk s f g) := by
  rw [modFaultChunk, eng]
  exact modRun_books ..

theorem modFaultChunk_cl (g : Chunk → Chunk) (m : Nat) : getCl (modFaultChunk s f g) m = getCl s m := by
  rw [modFaultChunk, eng]
  rfl

/-- A hold slot freed leaves the started commands of its engine (R108). -/
theorem holdFree_runs : (getX (holdFree s f) f.eng).runs = (getX s f.eng).runs := by
  unfold holdFree
  split
  · rw [eng, getX_modX]
  · rfl

theorem holdFree_books : BooksOnly s (holdFree s f) := by
  unfold holdFree
  split
  · rw [eng]
    exact modX_books ..
  · exact .refl s

theorem holdFree_cl (m : Nat) : getCl (holdFree s f) m = getCl s m := by
  unfold holdFree
  split
  · rw [eng]
    rfl
  · rfl

/-- What a hold slot of a copy engine keeps, where only the ring's books differ (R108). -/
theorem holdImg_unpend (m pos : Nat) : holdImg (unpend s m pos) f = holdImg s f := by
  simp only [holdImg, findRun, eng, getX_congr q (show getUnit (unpend s m pos) k.toNat = getUnit s k.toNat from rfl)]

/-- A settled chunk whose hold slot is freed: the chunk, the ring and the memories (R106, R108). -/
theorem settledChunk {g : Chunk → Chunk} {img : List (Byte × Bool)} (put : ∀ c, (g c).phase = .bound ∧ (g c).img = img) :
    let t := holdFree (modFaultChunk s f g) f
    ChunkBound t f img ∧ (∀ m, getCl t m = getCl s m) ∧ BooksOnly s t := by
  refine ⟨?_, fun m => by rw [holdFree_cl eng, modFaultChunk_cl eng], (modFaultChunk_books eng s g).trans (holdFree_books eng _)⟩
  rw [ChunkBound, holdFree_runs eng]
  exact modFaultChunk_bound eng s put

/-- WRITE of a chunk whose bytes are held: it is bound with them (R106, R108). -/
theorem portWrite_bound (held : f.held = true) (cls : f.cls ≠ 7) : let t := portWrite s f
    ChunkBound t f (holdImg s f) ∧ (∀ m, getCl t m = getCl s m) ∧ BooksOnly s t := by
  simp only [portWrite, retryOne, cls, isAcc_uce eng, held, if_true, if_false, Bool.false_eq_true]
  exact settledChunk eng s (fun _ => ⟨rfl, rfl⟩)

/-- SUPPLY of a chunk: it is bound with the bytes of the buffer (R106). -/
theorem portSupply_bound (m buf : Nat) : let t := portSupply s m f buf
    ChunkBound t f (readLoc s (.chip (clBase m + buf)) f.img).1 ∧ ∀ j, (getCl t j).pend = (getCl s j).pend := by
  simp only [portSupply, isAcc_uce eng, if_false, Bool.false_eq_true]
  obtain ⟨named, clusters, -⟩ := settledChunk eng (readLoc s (.chip (clBase m + buf)) f.img).2 (g := fun c =>
    { c with phase := .bound, img := (readLoc s (.chip (clBase m + buf)) f.img).1, hslot := some portMark }) (fun _ => ⟨rfl, rfl⟩)
  exact ⟨named, fun j => by rw [clusters, readLoc, touchChip_pend]⟩

/-- POISON of a chunk of an atomic or a read: it is bound with undefined, poisoned bytes (R106). -/
theorem portPoison_bound (cls : f.cls = 5 ∨ f.cls = 6) : let t := portPoison s f
    ChunkBound t f ((freeBytes s f.img).1.map (fun b => (b, true))) ∧ (∀ m, getCl t m = getCl s m) ∧ AllMemSame s t := by
  simp only [portPoison, isAcc_uce eng, show f.cls ≠ 7 by omega, show 5 ≤ f.cls by omega, if_true, if_false, Bool.false_eq_true]
  have books := modFaultChunk_books eng (freeBytes s f.img).2 (fun c =>
    { c with phase := .bound, img := (freeBytes s f.img).1.map (fun b => (b, true)), hslot := some portMark })
  exact ⟨modFaultChunk_bound eng _ (fun _ => ⟨rfl, rfl⟩), modFaultChunk_cl eng _ _, .of_eq books.mem books.hbm books.host⟩

end Uce

/-! ## A faulted MMA -/

/-- An MMA that resumes is no longer stopped by its fault, and is changed by `g` (R113). -/
theorem resumeMma_comp {s : State} {f : FaultRec} {k : UnitIx} (eng : f.eng = .mat k) (g : CompRun → CompRun) :
    ∀ c ∈ (getUnit (resumeMma s f g) k.toNat).mx.comp, c.seq = f.run → ∃ x : CompRun, c = g { x with fault := false } := by
  intro c mem named
  simp only [resumeMma, eng, getUnit_modUnit_self] at mem
  split at mem
  · next absent => exact absurd named (by simpa using List.find?_eq_none.mp absent c mem)
  · obtain ⟨x, -, rfl⟩ := List.mem_map.mp mem
    split at named
    · next here => exact ⟨x, if_pos here⟩
    · next other => exact absurd named other

theorem resumeMma_cl {s : State} {f : FaultRec} {k : UnitIx} (eng : f.eng = .mat k) (g : CompRun → CompRun) (m : Nat) :
    getCl (resumeMma s f g) m = getCl s m := by
  simp only [resumeMma, eng, getCl_modUnit]

theorem resumeMma_allMemSame {s : State} {f : FaultRec} {k : UnitIx} (eng : f.eng = .mat k) (g : CompRun → CompRun) : AllMemSame s (resumeMma s f g) := by
  simp only [resumeMma, eng]
  exact .of_eq rfl rfl rfl

/-! ## The consumer count -/

/-- A write to ring.head that passes no pending entry stands as it is written (R105). -/
theorem headStop_free {s : State} {m h n : Nat} (free : ∀ i < (n + 2 ^ (ringL s m + 1) - h) % 2 ^ (ringL s m + 1), pendAt s m ((h + i) % 2 ^ ringL s m) = none) :
    headStop s m h n = n := by
  have passed : (List.range (min ((n + 2 ^ (ringL s m + 1) - h) % 2 ^ (ringL s m + 1)) (ringUsed s m))).find?
      (fun j => (pendAt s m ((h + j) % 2 ^ ringL s m)).isSome) = none :=
    List.find?_eq_none.mpr fun i mem => by simp [free i (lt_of_lt_of_le (List.mem_range.mp mem) (min_le_left ..))]
  simp only [headStop, passed]

/-- Where no agent waits at the ring, a write to ring.head that passes no pending entry sets the consumer count alone (R104, R105). -/
theorem ringHeadSet_free {s : State} {m v : Nat} (noneWaits : (getCl s m).ringWait = [])
    (free : headStop s m (ringHead s m) (v % 2 ^ (ringL s m + 1)) = v % 2 ^ (ringL s m + 1)) :
    ringHeadSet s m v = modLan s m (fun l => { l with core := wrCsr l.core 0x143 (BitVec.ofNat 64 (v % 2 ^ (ringL s m + 1))) }) := by
  simp only [ringHeadSet, free, getCl_modLan_self, noneWaits, List.length_nil, ringDrain]

/-- Settles O39: each settlement by what becomes of the entry, its chunk or MMA and the memories, and a write of the consumer count. -/
theorem ringSettlement : Obligations.RingSettlement := by
  unfold Obligations.RingSettlement
  intro s f m v pos buf phase settled
  refine ⟨?reject, ?chunk, ?mma, ?head⟩
  case reject =>
    intro absent p port clear
    have first := ringReject_first 1 clear
    rw [Nat.one_mul] at first
    simp only [List.mem_cons, List.not_mem_nil, or_false] at port
    rcases port with rfl | rfl | rfl <;> exact ⟨_, cmpEvent_rejects (by norm_num) (by norm_num) absent, first⟩
  case chunk =>
    rintro pending - notMma ⟨k, q, eng⟩
    have gone : ∀ t, (getCl t m).pend = (getCl (unpend s m pos) m).pend → settled t := fun t same =>
      (pendAt_congr same pos).trans (pendAt_unpend s m pos)
    refine ⟨fun held => ?write, fun cls aligned inside => ?supply, fun cls => ?poison⟩
    case write =>
      obtain ⟨named, clusters, books⟩ := portWrite_bound eng (unpend s m pos) held notMma
      rw [holdImg_unpend eng] at named
      exact ⟨_, cmpEvent_write pending held, gone _ (congrArg Cluster.pend (clusters m)), named, ((unpend_books ..).trans books).allMemSame⟩
    case supply =>
      obtain ⟨named, kept⟩ := portSupply_bound eng (unpend s m pos) m buf
      exact ⟨_, _, cmpEvent_supply pending (by omega) aligned inside, gone _ (kept m), named, readLoc_chip ..⟩
    case poison =>
      obtain ⟨named, clusters, same⟩ := portPoison_bound eng (unpend s m pos) cls
      exact ⟨_, _, cmpEvent_poison pending, gone _ (congrArg Cluster.pend (clusters m)), named, by simp [freeBytes], by simp, same⟩
  case mma =>
    intro k pending eng cls _
    have run : portPoison (unpend s m pos) f = resumeMma (unpend s m pos) f (fun c => { c with psnRows := true }) := by rw [portPoison, if_pos cls]
    refine ⟨_, (cmpEvent_poison pending).trans (congrArg _ run), ?_, fun c mem named => ?_, resumeMma_allMemSame eng _⟩
    · exact (pendAt_congr (by rw [resumeMma_cl eng]) pos).trans (pendAt_unpend s m pos)
    · obtain ⟨x, rfl⟩ := resumeMma_comp eng _ c mem named
      exact ⟨rfl, rfl⟩
  case head =>
    intro n ahead noneWaits free
    have run : exec .ringHeadWrite s = .next (modLan s m fun l => { l with core := wrCsr l.core 0x143 (BitVec.ofNat 64 n) }) := by
      show Host.Outcome.next (ringHeadSet s m (bits v 0 11)) = _
      rw [show bits v 0 11 = v % 2 ^ 11 by simp [bits], ringHeadSet_free noneWaits (headStop_free free)]
    have small : n < 2 ^ 64 := by
      have := Nat.mod_le (v % 2 ^ 11) (2 ^ (ringL s m + 1))
      omega
    refine ⟨_, run, ?_, ?_, .of_eq⟩
    · rw [ringHead, getCl_modLan_self, rdCsr_wrCsr, if_pos rfl, BitVec.toNat_ofNat, Nat.mod_eq_of_lt small]
    · rw [ringTail, getCl_modLan_self, rdCsr_wrCsr, if_neg (by norm_num)]
      rfl

end Sys2Proof.Machine
end

section
/-! PROOFS. Source specifiers of vector instructions (spec 09 R152, R153, 10 R167). -/

namespace Sys2Proof.Machine

/-! ## Broadcast lanes -/

/-- Each lane of a broadcast is its low bits (R152, R167). -/
theorem lane_broadcast {w x j : Nat} (inside : j < 4096 / w) : lane w (ofLanes w (List.replicate (4096 / w) x)) j = x % 2 ^ w := by
  rw [lane_ofLanes _ _ _ (by rw [List.length_replicate]), List.getD_eq_getElem?_getD, List.getElem?_replicate, if_pos inside, Option.getD_some]

theorem tyWidth_le (ty : Nat) : tyWidth ty ≤ 64 := by
  unfold tyWidth
  split <;> norm_num

/-- A signed number taken mod 2^w is the low bits of its sign extension (R167). -/
theorem wrap_toInt (imm : BitVec 16) {w : Nat} (fits : w ≤ 64) : wrap imm.toInt w = (imm.signExtend 64).toNat % 2 ^ w := by
  have positive : (0 : Int) < 2 ^ w := by positivity
  have divides : (2 ^ w : Int) ∣ 2 ^ 64 := pow_dvd_pow 2 fits
  rw [wrap, BitVec.signExtend, BitVec.toNat_ofInt]
  zify
  rw [Int.toNat_of_nonneg (Int.emod_nonneg _ positive.ne'), Int.toNat_of_nonneg (Int.emod_nonneg _ (by norm_num))]
  exact (Int.emod_emod_of_dvd _ divides).symm

theorem bcastLane_f32 (imm : BitVec 16) (r : W64) : bcastLane 8 (some imm) r = imm.toNat * 65536 := rfl

theorem bcastLane_float {ty : Nat} (above : 8 < ty) (imm : BitVec 16) (r : W64) : bcastLane ty (some imm) r = imm.toNat := by
  simp only [bcastLane, if_neg above.ne', tyFloat, decide_eq_true_eq, if_pos above.le]

theorem bcastLane_int {ty : Nat} (below : ty < 8) (imm : BitVec 16) (r : W64) : bcastLane ty (some imm) r = wrap imm.toInt (tyWidth ty) := by
  simp only [bcastLane, if_neg below.ne, tyFloat, decide_eq_true_eq, if_neg (Nat.not_le.mpr below)]

/-- The lane of a broadcast immediate, by its type: a BF16 pattern widened, a pattern, or a sign-extended number (R167). -/
theorem bcastLane_imm (ty : Nat) (imm : BitVec 16) (r : W64) : bcastLane ty (some imm) r % 2 ^ tyWidth ty =
    if ty = 8 then imm.toNat * 65536 else if 8 < ty then imm.toNat % 2 ^ tyWidth ty else (imm.signExtend 64).toNat % 2 ^ tyWidth ty := by
  rcases Nat.lt_trichotomy ty 8 with below | rfl | above
  · rw [if_neg below.ne, if_neg below.not_gt, bcastLane_int below, wrap_toInt imm (tyWidth_le ty), Nat.mod_mod]
  · have small := imm.isLt
    rw [if_pos rfl, bcastLane_f32]
    exact Nat.mod_eq_of_lt (show imm.toNat * 65536 < 2 ^ 32 by omega)
  · rw [if_neg above.ne', if_pos above, bcastLane_float above]

/-! ## What a specifier names -/

section Specifier
variable {s : State} {f : VF} {x : BitVec 6}

theorem src_register (low : x.toNat < 0x20) : src s f x = rdV (hereUnit s) x.toNat := by
  rw [src, vsrc, if_pos low, hereView_u]

/-- Alone in its bundle an instruction takes the oldest entry of a queue (R153). -/
theorem src_queue (above : 0x20 ≤ x.toNat) (below : x.toNat < 0x28) {e : QEntry}
    (oldest : (sget [] (hereUnit s).queues (x.toNat - 0x20)).head? = some e) : src s f x = e.val.setWidth 4096 := by
  have queue : isQ x.toNat = true := by simp [isQ, above, below]
  have entry : srcEntry (hereView s 1) x.toNat = some e := by
    rw [srcEntry, hereView_u, hereView_pops, List.count_nil, queueEntry, ← List.head?_eq_getElem?, oldest]
  rw [src, vsrc, if_neg above.not_gt, if_pos queue, entry]
  rfl

theorem src_immediate (named : x.toNat = 0x3E) : src s f x = ofLanes (tyWidth f.ty.toNat)
    (List.replicate (4096 / tyWidth f.ty.toNat) (bcastLane f.ty.toNat (some f.imm) 0)) := by
  rw [src, named]
  rfl

theorem src_scalar (named : x.toNat = 0x3F) : src s f x = ofLanes (tyWidth f.ty.toNat)
    (List.replicate (4096 / tyWidth f.ty.toNat) (bits (reg s f.sreg).toNat 0 (tyWidth f.ty.toNat))) := by
  rw [src, named, ← hereView_sr s 1]
  rfl

end Specifier

/-- Settles O16: a specifier by the branch of `vsrc` it takes, and a broadcast by its one lane value. -/
theorem vectorOperands : Obligations.VectorOperands := by
  unfold Obligations.VectorOperands
  intro s f x _ w
  refine ⟨src_register, fun above below e oldest => src_queue above below oldest, fun named j inside => ?immediate, fun named j inside => ?scalar⟩
  case immediate => rw [src_immediate named, lane_broadcast inside, bcastLane_imm]
  case scalar => rw [src_scalar named, lane_broadcast inside, bits, pow_zero, Nat.div_one, Nat.mod_mod]

end Sys2Proof.Machine
end

section
/-! PROOFS. Branches, jumps and their delay slots (spec 09 R150, 11 R184, R191 to R193). -/

namespace Sys2Proof.Machine

/-! ## What a transfer asks for -/

/-- The link that a word alone in its slot sees (R192). -/
theorem hereView_link (s : State) : (hereView s 0).link = linkAt s := by
  unfold hereView linkAt here
  rcases cur : s.cur with m | k
  · simp only [lanView, getCore]
    exact codeAddr_afterBundle _
  · simp only [soloView, getCore]
    exact congrArg (unitLink s k.toNat) (codeAddr_afterBundle _)

/-- A branch asks for its target where its condition holds, and its target is then checked (R191, R193). -/
theorem branchSem_view (s : State) (a b : Reg) (o : BitVec 14) {f : W64 → W64 → Bool} {taken : Bool} (holds : f (reg s a) (reg s b) = taken) :
    let t : Int := ((here s).pc : Int) + o.toInt * 4
    branchSem a b o f (hereView s 0) =
      { reads := [a.toNat, b.toNat], xfer := true, ctl := if taken then .jump t.toNat else .seq, chk := transferChk s [a, b] (!taken || targetOk t) } := by
  subst holds
  simp [branchSem, transferChk, hS, Chk.and]

/-- A jump asks for its target and its link (R192, R193). -/
theorem jumpSem_view (s : State) (d : Reg) (rs : List Reg) (t : View → Int) :
    jumpSem d rs t (hereView s 0) =
      { wr := [d.toNat], reads := rs.map (fun r => r.toNat), xfer := true, ctl := .jump (t (hereView s 0)).toNat,
        chk := transferChk s rs (targetOk (t (hereView s 0))),
        eff := lands s d.toNat 1 (BitVec.ofNat 4096 (linkAt s)) (rs.map (fun r => r.toNat)) false 0 } := by
  have poison : regPsn (hereView s 0) = regBad s := funext (hereView_regPsn s 0)
  simp only [jumpSem, poison, transferChk, hS, hereView_link, hereView_g, hereView_core]
  rfl

/-- The target of JALR is its sum in 64 bits (R192). -/
theorem jalr_target (s : State) (a : Reg) (imm : BitVec 14) :
    (wrap (((hereView s 0).sr a).toNat + imm.toInt * 4) 64 : Int) = ((reg s a).toNat + imm.toInt * 4) % 2 ^ 64 := by
  rw [hereView_sr, wrap, Int.toNat_of_nonneg (Int.emod_nonneg _ (by norm_num))]

/-- A branch runs to its target or to the next word (R191). -/
theorem branch_runs (s : State) (a b : Reg) (o : BitVec 14) {i : Instr} {f : W64 → W64 → Bool} {taken : Bool}
    (form : exec i s = runOne i 0 (branchSem a b o f) s) (holds : f (reg s a) (reg s b) = taken) :
    let t : Int := ((here s).pc : Int) + o.toInt * 4
    Runs s i 0 { reads := [a.toNat, b.toNat], xfer := true, ctl := if taken then .jump t.toNat else .seq
                 chk := transferChk s [a, b] (!taken || targetOk t) } := fun free => by
  rw [form]
  exact runOne_free _ 0 _ s _ (branchSem_view s a b o holds) free

/-! ## Where control stands after a word with no effect of its own -/

/-- A word that finds nothing, pops nothing and has no effect of its own issues, and control goes on (R145, R184). -/
theorem lanDid_still {s : State} {m : Nat} {o : SlotOut} (finds : o.finds = []) (eff : o.eff = id) :
    lanDid s m o = lanControl (lanIssued s m) m (getCl s m).lan.core.pc o.ctl := by
  rw [lanDid, finds, eff]
  rfl

theorem unitDid_still {s : State} {k : Nat} {o : SlotOut} (finds : o.finds = []) (pops : o.pops = []) (eff : o.eff = id) :
    unitDid s k 0 o = bunControl (unitIssued s k o) k (soloBundle (getUnit s k) 0 ⟨0, none, fun _ => o⟩) o.ctl := by
  rw [unitDid_eq s k 0 o finds pops, eff]
  rfl

/-- A taken transfer is pending past the next word (R150). -/
def jumping (c : Core) (next t : Nat) : Core := { c with pc := next, delay := some t }

theorem lanControl_jump {s : State} {m addr : Nat} (untraced : traced s (.lantern (BitVec.ofNat 5 m)) = false) (t : Nat) :
    lanControl s m addr (.jump t) = modLan s m (fun l => { l with core := jumping l.core (codeAddr (addr + 4)) t }) :=
  traceRec_untraced untraced ..

theorem bunControl_jump {s : State} {k : Nat} {b : Bun} (untraced : traced s (.unit (BitVec.ofNat 8 k)) = false) (t : Nat) :
    bunControl s k b (.jump t) = modUnit s k (fun u => { u with core := jumping u.core (codeAddr (b.addr + b.len)) t }) :=
  traceRec_untraced untraced ..

theorem lanControl_seq (s : State) (m addr : Nat) : lanControl s m addr .seq = modLan s m (fun l => { l with core := goOn l.core (codeAddr (addr + 4)) }) := rfl

section Still
variable {s : State} {o : SlotOut} (finds : o.finds = []) (pops : o.pops = []) (eff : o.eff = id)
include finds pops eff

/-- After a taken transfer the next word is its delay slot (R150). -/
theorem here_wordDid_jump (untraced : traced s s.cur = false) {t : Nat} (jump : o.ctl = .jump t) :
    here (wordDid s 0 o) = jumping (issuedCore (here s)) (nextAddr s) t := by
  unfold nextAddr wordLen onLan
  rcases cur : s.cur with m | k <;> rw [cur] at untraced
  · rw [wordDid_lantern cur, lanDid_still finds eff, jump, lanControl_jump (by simpa using untraced)]
    simp [here, cur, getCore, lanIssued_core, codeAddr_afterWord]
  · rw [wordDid_unit cur, unitDid_still finds pops eff, jump, bunControl_jump (by simpa using untraced)]
    simp [here, cur, getCore, unitIssued_core, soloBundle, codeAddr_afterBundle]

/-- A word that transfers nowhere goes on (R150, R184). -/
theorem here_wordDid_seq (seq : o.ctl = .seq) : here (wordDid s 0 o) = goOn (issuedCore (here s)) (nextAddr s) := by
  unfold nextAddr wordLen onLan
  rcases cur : s.cur with m | k
  · rw [wordDid_lantern cur, lanDid_still finds eff, seq, lanControl_seq]
    simp [here, cur, getCore, lanIssued_core, codeAddr_afterWord]
  · rw [wordDid_unit cur, unitDid_still finds pops eff, seq, bunControl_seq rfl]
    simp [here, cur, getCore, unitIssued_core, soloBundle, codeAddr_afterBundle]

end Still

/-- A pending transfer that is reached leaves the one behind it pending (R150, R202). -/
theorem goOn_delay (c : Core) (next : Nat) : (goOn c next).delay = if c.delay.isSome then c.after else none := by
  unfold goOn
  split
  · next pending => rw [pending]; rfl
  · next free => simp [free]

/-- Settles O4: each form by what it asks for, and where control stands by `jumping` or `goOn`. -/
theorem controlTransfers : Obligations.ControlTransfers := by
  unfold Obligations.ControlTransfers
  refine ⟨?branches, ?jumps, ?control⟩
  case branches =>
    intro s a b o
    simp only [List.forall_mem_cons]
    refine ⟨branch_runs s a b o rfl (beq_eq_decide ..), branch_runs s a b o rfl ?_, branch_runs s a b o rfl (slt_eq ..), branch_runs s a b o rfl ?_,
      branch_runs s a b o rfl (ult_eq ..), branch_runs s a b o rfl ?_, fun _ none => absurd none List.not_mem_nil⟩
    · simp [bne, beq_eq_decide]
    · simp only [slt_eq, ← decide_not, Int.not_lt]
    · simp only [ult_eq, ← decide_not, Nat.not_lt]
  case jumps =>
    intro s d a off imm
    refine ⟨runOne_free _ 0 _ s _ ?_, runOne_free _ 0 _ s _ ?_⟩
    · rw [semJal, jumpSem_view, hereView_addr]
      rfl
    · rw [semJalr, jumpSem_view, jalr_target]
      rfl
  case control =>
    intro s o t untraced finds pops eff
    refine ⟨fun jump => ?_, fun seq => ?_⟩
    · have core := here_wordDid_jump finds pops eff untraced jump
      refine ⟨by rw [core]; rfl, by rw [core]; rfl, fun r => ?_⟩
      rw [reg, core]
      rfl
    · have core := here_wordDid_seq (s := s) finds pops eff seq
      refine ⟨by rw [core, goOn_pc]; rfl, by rw [core, goOn_delay]; rfl, fun r => ?_⟩
      rw [reg, core, rdS_goOn]
      rfl

end Sys2Proof.Machine
end

section
/-! PROOFS. What a trace record leaves alone (spec 17 R330, R331). -/

namespace Sys2Proof.Machine

/-- The units and the Lantern cores of the module. -/
def agents (s : State) : SMap Unit × (Nat → Lan) := (s.chip.units, fun m => (getCl s m).lan)

theorem agents_congr {s t : State} (chip : t.chip = s.chip) : agents t = agents s := by
  simp only [agents, getCl, chip]

theorem getUnit_of_agents {s t : State} (same : agents t = agents s) (k : Nat) : getUnit t k = getUnit s k :=
  congrArg (fun a : SMap Unit × (Nat → Lan) => sget ({} : Unit) a.1 k) same

theorem getLan_of_agents {s t : State} (same : agents t = agents s) (m : Nat) : (getCl t m).lan = (getCl s m).lan :=
  congrFun (congrArg Prod.snd same) m

/-! ## Packets and the cache change nothing on the chip -/

@[simp] theorem loopBackPkt_chip (s : State) (p : Packet) : (loopBackPkt s p).chip = s.chip := by
  unfold loopBackPkt
  split <;> rfl

@[simp] theorem onWire_chip (s : State) (port : Nat) (p : Packet) : (onWire s port p).chip = s.chip := by
  simp only [onWire, linkUp]
  split <;> rfl

@[simp] theorem hopOut_chip (s : State) (h : Hop) (e : Nat) : (hopOut s h e).chip = s.chip := by
  unfold hopOut
  dsimp only
  split
  · exact loopBackPkt_chip ..
  · split
    · rfl
    · split
      · rfl
      · exact onWire_chip ..

@[simp] theorem routeHop_chip (s : State) (id : Nat) : (routeHop s id).chip = s.chip := by
  unfold routeHop
  split
  · rfl
  · dsimp only
    split
    · rfl
    · split
      · split
        · rfl
        · split
          · exact hopOut_chip ..
          · rfl
      · split
        · rfl
        · exact hopOut_chip ..

@[simp] theorem sendFrom_chip (s : State) (die : Nat) (p : Packet) : (sendFrom s die p).chip = s.chip := by
  simp only [sendFrom, enterHop]
  split
  · exact loopBackPkt_chip ..
  · split
    · exact routeHop_chip ..
    · rfl

@[simp] theorem request_chip (s : State) (p : Packet) (who : Reqr) : (request s p who).2.chip = s.chip := by
  simp only [request]
  split
  · exact sendFrom_chip ..
  · rfl

@[simp] theorem setGr_chip (s : State) (j : Nat) (g : Granule) : (setGr s j g).chip = s.chip := (apply_ite State.chip ..).trans (ite_self _)

@[simp] theorem rpcInstall_chip (s : State) (j off : Nat) (img : List (Byte × Bool)) : (rpcInstall s j off img).chip = s.chip := setGr_chip ..

@[simp] theorem rpcHostRead_chip (s : State) (j a off n : Nat) : (rpcHostRead s j a off n).chip = s.chip := by
  simp only [rpcHostRead, rpcInstall_chip, setGr_chip, cxlNote]

@[simp] theorem rpcRefetch_chip (s : State) (j : Nat) (g : Granule) (off : Nat) : (rpcRefetch s j g off).chip = s.chip := by
  unfold rpcRefetch
  split
  · rfl
  · split
    · exact rpcHostRead_chip ..
    · rfl
    · rfl

@[simp] theorem rpcMiss_chip (s : State) (page ia : Nat) : (rpcMiss s page ia).chip = s.chip := by
  unfold rpcMiss
  dsimp only
  split
  · split
    · exact rpcRefetch_chip ..
    · split
      · exact setGr_chip ..
      · rfl
  · split
    · exact setGr_chip ..
    · split
      · rfl
      · split
        · exact setGr_chip ..
        · split
          · rfl
          · exact setGr_chip ..

/-! ## A write changes no agent -/

@[simp] theorem modTrace_agents (s : State) (f : TraceCfg → TraceCfg) : agents (modTrace s f) = agents s := rfl

@[simp] theorem writeLoc_agents (s : State) (l : Loc) (img : List (Byte × Bool)) : agents (writeLoc s l img) = agents s := by
  cases l <;> rfl

@[simp] theorem rpcDirty_agents (s : State) (slot ia n : Nat) : agents (rpcDirty s slot ia n) = agents s := by
  unfold rpcDirty
  dsimp only
  split
  · split
    · exact agents_congr (setGr_chip ..)
    · rfl
  · rfl

@[simp] theorem tailReport_agents (s : State) (ia n : Nat) : agents (tailReport s ia n) = agents s := by
  unfold tailReport
  dsimp only
  split <;> rfl

/-- What a code store held is kept beside it, in no Lantern core (R24). -/
@[simp] theorem codeKeep_agents (s : State) (ia n : Nat) : agents (codeKeep s ia n) = agents s := by
  unfold codeKeep
  dsimp only
  split
  · refine Prod.ext rfl (funext fun m => ?_)
    simp only [agents, getCl_modCl]
    split
    · next here => rw [here]
    · rfl
  · rfl

@[simp] theorem writeIa_agents (s : State) (slot pasid ia : Nat) (img : List (Byte × Bool)) : agents (writeIa s slot pasid ia img) = agents s := by
  refine (tailReport_agents ..).trans ((foldl_keeps _ agents (fun t r => ?_) _ _).trans (codeKeep_agents ..))
  cases r.2.2 <;> simp

/-! ## Records -/

@[simp] theorem traceLost_agents (s : State) (ag k : Nat) : agents (traceLost s ag k) = agents s := rfl

@[simp] theorem tracePut_agents (s : State) (ia n v : Nat) : agents (tracePut s ia n v) = agents s := writeIa_agents ..

@[simp] theorem traceSend_agents (s : State) (m l n v stage : Nat) : agents (traceSend s m l n v stage) = agents s :=
  (modTrace_agents ..).trans (agents_congr (request_chip ..))

/-- A place that is not here or at a peer leaves a state in which at most a page fills (R34). -/
theorem tracePlace_agents {s t : State} {cl off n : Nat} {kd : AKind} (no : tracePlace s cl off n kd = .no t) : agents t = agents s := by
  unfold tracePlace at no
  split at no
  · cases no
    rfl
  · dsimp only at no
    split at no
    · split at no
      · split at no <;> cases no
        rfl
      · cases no
    · cases no
      exact agents_congr (rpcMiss_chip ..)
    · cases no
      rfl

@[simp] theorem tracePop_agents (s : State) (lost : Bool) : agents (tracePop s lost) = agents s := by
  unfold tracePop
  split
  · rfl
  · dsimp only
    split
    · rfl
    · rfl

@[simp] theorem traceCount_agents (s : State) (cl : Nat) : agents (traceCount s cl) = agents s := by
  unfold traceCount
  dsimp only
  split
  · simp
  · simp
  · next no => exact (tracePop_agents ..).trans (tracePlace_agents no)

@[simp] theorem traceHave_agents (s : State) (cl : Nat) (r : BitVec 128) (h : Nat) : agents (traceHave s cl r h) = agents s := by
  unfold traceHave
  dsimp only
  split
  · exact tracePop_agents ..
  · split
    · simp
    · simp
    · next no => exact (tracePop_agents ..).trans ((tracePlace_agents no).trans (modTrace_agents ..))

theorem traceGo_agents (n : Nat) (s : State) : agents (traceGo n s) = agents s := by
  induction n generalizing s with
  | zero => rfl
  | succ n ih =>
    rw [traceGo]
    split
    · rfl
    · split
      · rfl
      · split
        · exact (ih _).trans (traceHave_agents ..)
        · exact (modTrace_agents ..).trans (agents_congr (request_chip ..))
        · next no => exact (ih _).trans ((tracePop_agents ..).trans (tracePlace_agents no))

/-- Whether its path takes a record or not, no agent changes (R331). -/
theorem traceAdd_agents {s u : State} (lost : agents u = agents s) (ag cl r : Nat) : agents ((traceAdd s ag cl r).getD u) = agents s := by
  unfold traceAdd
  split
  · exact lost
  · exact traceGo_agents ..

/-- A trace record changes no unit and no Lantern core (R330). -/
theorem traceRec_agents (s : State) (g : Agent) (ty a b : Nat) : agents (traceRec s g ty a b) = agents s := by
  unfold traceRec
  split
  · rfl
  · dsimp only
    generalize earlier : (if sget 0 s.chip.trace.lost (traceAgent g) = 0 then s else _) = t
    have same : agents t = agents s := by
      rw [← earlier]
      split
      · rfl
      · exact (traceAdd_agents (modTrace_agents ..).symm ..).trans (modTrace_agents ..)
    split
    · exact (traceLost_agents ..).trans same
    · rw [traceAdd_agents (traceLost_agents ..), same]

end Sys2Proof.Machine
end

section
/-! PROOFS. Asynchronous events of units and Lantern cores (spec 09 R148, 13 R232, 17 R312 to R316). -/

namespace Sys2Proof.Machine

/-! ## Traps of either agent -/

/-- What a trap leaves of a unit that does not deliver it itself (R159, R239, R314). -/
def stoppedUnit (u : Unit) (cause slot val addr : Nat) (dfr : Bool) : Unit :=
  { stopMx u with
    core := noteTrap { u.core with tw := none } cause slot val u.core.pc u.core.delay dfr
    owed := none
    stop := some ⟨cause, slot, addr, dfr, false⟩ }

theorem getUnit_unitTrap (s : State) (k cause slot val addr : Nat) (dfr : Bool) :
    getUnit (unitTrap s k cause slot val addr dfr) k = stoppedUnit (getUnit s k) cause slot val addr dfr :=
  (getUnit_of_agents (traceRec_agents ..) k).trans (getUnit_modUnit_self ..)

@[simp] theorem noteTrap_pc (c : Core) (cause slot val resume : Nat) (pending : Option Nat) (dfr : Bool) :
    (noteTrap c cause slot val resume pending dfr).pc = c.pc := by
  unfold noteTrap
  split <;> rfl

/-- What a Lantern core's handler finds of the core (R201, R316). -/
def handling (l : Lan) (cause val resume : Nat) (pending : Option Nat) : Lan :=
  { l with
    core := deliver { l.core with tw := none, after := none } cause 0 (BitVec.ofNat 64 val) resume pending
    stall := 0, wait := none, ans := none, trapUnit := none }

/-- A Lantern core whose handler takes a trap stands at its first word, and no unit changes (R201, R316). -/
theorem agents_lanTrap {s : State} {m : Nat} (en : trapEn (getCl s m).lan.core = true) (user : hm (getCl s m).lan.core = false)
    (cause val resume : Nat) (pending : Option Nat) :
    agents (lanTrap s m cause val resume pending) = agents (modLan s m (fun l => handling l cause val resume pending)) := by
  have delivered : (trapEn (getCl s m).lan.core && !hm (getCl s m).lan.core) = true := by rw [en, user]; rfl
  rw [lanTrap, traceRec_agents]
  exact congrArg agents (if_pos delivered)

/-! ## The Lantern core of a cluster -/

/-- The Lantern core `l` is given the cause where its handler stands, at the boundary of the word that `c` stands at (R201, R316). -/
def Taken (c : Core) (l : Lan) (cause val : Nat) : Prop :=
  l.core.pc = bits (rdCsr c 0xA0).toNat 2 19 * 4 ∧ rdCsr l.core 0xA1 = BitVec.ofNat 64 (2 ^ 31 + cause) ∧ rdCsr l.core 0xA4 = BitVec.ofNat 64 val ∧
    rdCsr l.core 0xA2 = BitVec.ofNat 64 (bits c.pc 2 19 * 4) ∧ l.core.delay = none ∧ ∀ r, rdS l.core r = rdS c r

theorem handling_taken (l : Lan) (cause val : Nat) (pending : Option Nat) : Taken l.core (handling l cause val l.core.pc pending) cause val := by
  refine ⟨rfl, ?_, ?_, ?_, rfl, fun r => rfl⟩ <;> exact (rdCsr_deliver ..).trans rfl

/-- The first number below `n` that answers. -/
theorem findSome?_range {β : Type} {f : Nat → Option β} {n j : Nat} {b : β} (inside : j < n) (found : f j = some b) (before : ∀ i < j, f i = none) :
    (List.range n).findSome? f = some b := by
  obtain ⟨d, rfl⟩ : ∃ d, n = j + 1 + d := ⟨n - (j + 1), by omega⟩
  refine List.findSome?_eq_some_iff.mpr ⟨List.range j, j, (List.range d).map (fun i => j + 1 + i), ?_, found, fun i mem => before i (List.mem_range.mp mem)⟩
  rw [List.range_add, List.range_succ, List.append_assoc]
  rfl

/-- The lowest unit of the cluster whose stop its Lantern core has not been told of is next (R314). -/
theorem nextStop_lowest {s : State} {m j : Nat} {x : Stop} (inside : j < 8) (stopped : (getUnit s (8 * m + j)).stop = some x) (new : x.told = false)
    (lowest : ∀ i < j, ∀ y, (getUnit s (8 * m + i)).stop = some y → y.told = true) : nextStop s m = some (j, x) := by
  refine findSome?_range inside ?_ fun i below => ?_
  · simp [stopped, new]
  · cases stop : (getUnit s (8 * m + i)).stop with
    | none => rfl
    | some y => simp [lowest i below y stop]

section Core
variable {s : State} {m : Nat} (cluster : s.arg.m.toNat = m) (running : s.chip.ended = none) (live : frozen s = false)
  (free : asyncOk (getCl s m).lan = true) (user : hm (getCl s m).lan.core = false) (en : trapEn (getCl s m).lan.core = true)
include cluster running live free

/-- The Lantern core takes the trap of its next stopped unit, which is told so (R314, R316). -/
theorem exec_unitTrap {j : Nat} {x : Stop} (next : nextStop s m = some (j, x)) :
    exec .unitTrap s = .next (modLan (lanTrap (modUnit s (8 * m + j) (fun u => { u with stop := some { x with told := true } })) m
      cUnitTrap (unitTrapVal j x) (getCl s m).lan.core.pc (getCl s m).lan.core.delay) m (fun l => { l with trapUnit := some j })) := by
  subst cluster
  show execUnitTrap s = _
  simp only [execUnitTrap, next, free, ended, running, live]
  rfl

include en

/-- The Lantern core takes the trap of its ring where an entry is left there (R104, R316). -/
theorem exec_ringTrap (ring : (getCl s m).lan.ring = true) (used : ringUsed s m ≠ 0) :
    exec .ringTrap s = .next (lanTrap (modLan s m (fun l => { l with ring := false })) m
      cRing (ringTail s m) (getCl s m).lan.core.pc (getCl s m).lan.core.delay) := by
  subst cluster
  show execRingTrap s = _
  simp only [execRingTrap, ring, free, en, ended, running, live, if_neg used]
  rfl

include user

/-- UNIT_TRAP is taken by the core's handler, and its unit has been told (R314, R316). -/
theorem unitTrap_taken {j : Nat} {x : Stop} (next : nextStop s m = some (j, x)) : ∃ t, exec .unitTrap s = .next t ∧
    Taken (getCl s m).lan.core (getCl t m).lan cUnitTrap (unitTrapVal j x) ∧ (getUnit t (8 * m + j)).stop = some { x with told := true } := by
  have same := agents_lanTrap (s := modUnit s (8 * m + j) (fun u => { u with stop := some { x with told := true } })) (m := m) en user
    cUnitTrap (unitTrapVal j x) (getCl s m).lan.core.pc (getCl s m).lan.core.delay
  refine ⟨_, exec_unitTrap cluster running live free next, ?_, ?_⟩
  · rw [getCl_modLan_self, getLan_of_agents same, getCl_modLan_self]
    exact handling_taken ..
  · rw [getUnit_modLan, getUnit_of_agents same, getUnit_modLan, getUnit_modUnit_self]

/-- RING is taken by the core's handler, and is no longer due (R104, R316). -/
theorem ringTrap_taken (ring : (getCl s m).lan.ring = true) (used : ringUsed s m ≠ 0) : ∃ t, exec .ringTrap s = .next t ∧
    Taken (getCl s m).lan.core (getCl t m).lan cRing (ringTail s m) ∧ (getCl t m).lan.ring = false := by
  have same := agents_lanTrap (s := modLan s m (fun l => { l with ring := false })) (m := m) (by rwa [getCl_modLan_self]) (by rwa [getCl_modLan_self])
    cRing (ringTail s m) (getCl s m).lan.core.pc (getCl s m).lan.core.delay
  refine ⟨_, exec_ringTrap cluster running live free en ring used, ?_, ?_⟩ <;> rw [getLan_of_agents same, getCl_modLan_self, getCl_modLan_self]
  · exact handling_taken { (getCl s m).lan with ring := false } ..
  · rfl

end Core

/-- Settles O34: each event by what it makes of its unit or Lantern core, which the trace record of the trap leaves as it is. -/
theorem asynchronousTraps : Obligations.AsynchronousTraps := by
  unfold Obligations.AsynchronousTraps
  intro s running
  refine ⟨?divider, ?deferred, ?core⟩
  case divider =>
    intro k due
    refine ⟨modUnit s k (fun u => { u with divFree := 0 }), congrArg Host.Outcome.next (if_pos due), getUnit_modUnit_self .., fun j other => ?_, .of_eq⟩
    rw [getUnit_modUnit, if_neg other]
  case deferred =>
    intro d r k first goes
    have run : exec .deferredCheckTrap s =
        .next (unitTrap (modUnit s k (fun u => { u with dfr := r })) k d.cause d.slot d.val (bits d.val 0 21) true) := by
      show execDeferredCheckTrap s = _
      simp only [execDeferredCheckTrap, k, first, goes, ended, running]
      rfl
    refine ⟨_, run, ?_⟩
    rw [getUnit_unitTrap, getUnit_modUnit_self]
    exact ⟨rfl, by simp [stoppedUnit, bits], fun n => rdS_noteTrap .., noteTrap_pc ..⟩
  case core =>
    intro m c taken live on user straight idle en
    have free : asyncOk (getCl s m).lan = true := by simp [asyncOk, c, on, user, straight, idle]
    refine ⟨fun j x inside stopped new lowest => ?unit, fun ring used => ringTrap_taken rfl running live free user en ring used⟩
    have value : unitTrapVal j x = (if x.dfr then 2 ^ 63 else 0) + x.cause % 256 * 2 ^ 32 + x.slot % 8 * 2 ^ 24 + j * 2 ^ 21 + x.addr % 2 ^ 21 := by
      simp [unitTrapVal, bits]
    rw [← value]
    exact unitTrap_taken rfl running live free user en (nextStop_lowest inside stopped new lowest)

end Sys2Proof.Machine
end

section
/-! PROOFS. The encoder and the decoder of slot words are inverse to each other (spec 10 R162 to R175). -/

namespace Sys2Proof.Machine

/-! ## Values put together of parts -/

/-- Each part of a value is read back from its place. -/
theorem extract_append {n m : Nat} (a : BitVec n) (b : BitVec m) :
    (a ++ b).extractLsb' m n = a ∧ (a ++ b).extractLsb' 0 m = b :=
  ⟨BitVec.extractLsb'_append_eq_left, BitVec.extractLsb'_append_eq_right⟩

theorem extract_append_append {n m k : Nat} (a : BitVec n) (b : BitVec m) (c : BitVec k) :
    (a ++ b ++ c).extractLsb' (m + k) n = a ∧ (a ++ b ++ c).extractLsb' k m = b ∧ (a ++ b ++ c).extractLsb' 0 k = c := by
  refine ⟨?_, ?_, BitVec.extractLsb'_append_eq_right⟩ <;> rw [BitVec.extractLsb'_append_eq_of_le (by omega)]
  · rw [Nat.add_sub_cancel, BitVec.extractLsb'_append_eq_left]
  · rw [Nat.sub_self, BitVec.extractLsb'_append_eq_right]

theorem exists_append {n m : Nat} (x : BitVec (n + m)) : ∃ (a : BitVec n) (b : BitVec m), x = a ++ b :=
  ⟨_, _, BitVec.extractLsb'_append_extractLsb'.symm⟩

/-- A value is put together of the parts at its places, and of no others. -/
theorem append_eq_iff {n m : Nat} (a : BitVec n) (b : BitVec m) (x : BitVec (n + m)) :
    a ++ b = x ↔ a = x.extractLsb' m n ∧ b = x.extractLsb' 0 m := by
  constructor
  · rintro rfl
    exact ⟨(extract_append a b).1.symm, (extract_append a b).2.symm⟩
  · rintro ⟨rfl, rfl⟩
    exact BitVec.extractLsb'_append_extractLsb'

theorem append_append_eq_iff {n m k : Nat} (a : BitVec n) (b : BitVec m) (c : BitVec k) (x : BitVec (n + m + k)) :
    a ++ b ++ c = x ↔ a = x.extractLsb' (m + k) n ∧ b = x.extractLsb' k m ∧ c = x.extractLsb' 0 k := by
  constructor
  · rintro rfl
    obtain ⟨high, middle, low⟩ := extract_append_append a b c
    exact ⟨high.symm, middle.symm, low.symm⟩
  · rintro ⟨rfl, rfl, rfl⟩
    rw [BitVec.extractLsb'_append_extractLsb'_eq_extractLsb' (Nat.add_comm m k), BitVec.extractLsb'_append_extractLsb']

theorem append_inj {n m : Nat} {a c : BitVec n} {b d : BitVec m} : a ++ b = c ++ d ↔ a = c ∧ b = d := by
  rw [append_eq_iff, (extract_append c d).1, (extract_append c d).2]

/-! ## A word and its fields -/

theorem join32_split32 (w : W32) : join32 (split32 w) = w := by
  simp only [join32, split32, BitVec.extractLsb'_append_extractLsb'_eq_extractLsb']
  exact BitVec.extractLsb'_eq_self

theorem joinTok_splitTok (w : W64) : joinTok (splitTok w) = w.extractLsb' 0 30 := by
  simp only [joinTok, splitTok, BitVec.extractLsb'_append_extractLsb'_eq_extractLsb']

theorem joinV_splitV (w : W64) : joinV (w.extractLsb' 56 8).toNat (splitV w) = w := by
  simp only [joinV, splitV, BitVec.ofNat_toNat, BitVec.setWidth_eq, BitVec.extractLsb'_append_extractLsb'_eq_extractLsb']
  exact BitVec.extractLsb'_eq_self

/-- Bit 30 of an M-slot word is no field's (R170). -/
theorem joinM_splitM (w : W64) (reserved : w.extractLsb' 30 1 = 0#1) : joinM (w.extractLsb' 58 6).toNat (splitM w) = w := by
  simp only [joinM, splitM, ← reserved, joinTok_splitTok, BitVec.ofNat_toNat, BitVec.setWidth_eq,
    BitVec.extractLsb'_append_extractLsb'_eq_extractLsb']
  exact BitVec.extractLsb'_eq_self

theorem joinC_splitC (w : W64) : joinC (w.extractLsb' 58 6).toNat (splitC w) = w := by
  simp only [joinC, splitC, joinTok_splitTok, BitVec.ofNat_toNat, BitVec.setWidth_eq,
    BitVec.extractLsb'_append_extractLsb'_eq_extractLsb']
  exact BitVec.extractLsb'_eq_self

theorem join32_inj {u t : S32} (h : join32 u = join32 t) : u = t := by
  obtain ⟨op, x, y, z, f⟩ := u
  unfold join32 at h
  iterate 4 rw [append_inj] at h
  obtain ⟨⟨⟨⟨rfl, rfl⟩, rfl⟩, rfl⟩, rfl⟩ := h
  rfl

theorem joinTok_inj {t v : TokF} (h : joinTok t = joinTok v) : t = v := by
  obtain ⟨tk0, tk1, tk2, gv⟩ := t
  unfold joinTok at h
  iterate 3 rw [append_inj] at h
  obtain ⟨⟨⟨rfl, rfl⟩, rfl⟩, rfl⟩ := h
  rfl

theorem joinV_inj {p q : Nat} {f g : VF} (h : joinV p f = joinV q g) : BitVec.ofNat 8 p = BitVec.ofNat 8 q ∧ f = g := by
  obtain ⟨ty, d, a, b, c, mask, mz, rm, sreg, imm⟩ := f
  unfold joinV at h
  iterate 10 rw [append_inj] at h
  obtain ⟨⟨⟨⟨⟨⟨⟨⟨⟨⟨op, rfl⟩, rfl⟩, rfl⟩, rfl⟩, rfl⟩, rfl⟩, rfl⟩, rfl⟩, rfl⟩, rfl⟩ := h
  exact ⟨op, rfl⟩

theorem joinM_inj {p q : Nat} {f g : MF} (h : joinM p f = joinM q g) : BitVec.ofNat 6 p = BitVec.ofNat 6 q ∧ f = g := by
  obtain ⟨tile, sb, sk, fa, fb, ft, tok⟩ := f
  unfold joinM at h
  iterate 8 rw [append_inj] at h
  obtain ⟨⟨⟨⟨⟨⟨⟨⟨op, rfl⟩, rfl⟩, rfl⟩, rfl⟩, rfl⟩, rfl⟩, -⟩, tokens⟩ := h
  obtain rfl := joinTok_inj tokens
  exact ⟨op, rfl⟩

theorem joinC_inj {p q : Nat} {f g : CF} (h : joinC p f = joinC q g) : BitVec.ofNat 6 p = BitVec.ofNat 6 q ∧ f = g := by
  obtain ⟨rd, ra, rb, rc, dsp, ssp, tok⟩ := f
  unfold joinC at h
  iterate 7 rw [append_inj] at h
  obtain ⟨⟨⟨⟨⟨⟨⟨op, rfl⟩, rfl⟩, rfl⟩, rfl⟩, rfl⟩, rfl⟩, tokens⟩ := h
  obtain rfl := joinTok_inj tokens
  exact ⟨op, rfl⟩

/-- The fields of a word that was joined are those it was joined of: they join to the same word, and no others do. -/
theorem split32_join32 (u : S32) : split32 (join32 u) = u := join32_inj (join32_split32 _)

theorem splitV_joinV (op : Nat) (f : VF) : (joinV op f).extractLsb' 56 8 = BitVec.ofNat 8 op ∧ splitV (joinV op f) = f := by
  simpa only [BitVec.ofNat_toNat, BitVec.setWidth_eq] using joinV_inj (joinV_splitV (joinV op f))

theorem joinM_reserved (op : Nat) (f : MF) : (joinM op f).extractLsb' 30 1 = 0#1 := by
  unfold joinM
  rw [BitVec.extractLsb'_append_eq_of_le (Nat.le_refl 30)]
  exact BitVec.extractLsb'_append_eq_right

theorem splitM_joinM (op : Nat) (f : MF) : (joinM op f).extractLsb' 58 6 = BitVec.ofNat 6 op ∧ splitM (joinM op f) = f := by
  simpa only [BitVec.ofNat_toNat, BitVec.setWidth_eq] using joinM_inj (joinM_splitM _ (joinM_reserved op f))

theorem splitC_joinC (op : Nat) (f : CF) : (joinC op f).extractLsb' 58 6 = BitVec.ofNat 6 op ∧ splitC (joinC op f) = f := by
  simpa only [BitVec.ofNat_toNat, BitVec.setWidth_eq] using joinC_inj (joinC_splitC (joinC op f))

/-! ## What a parser answers has the word that was parsed -/

/-- What a parser answers, if an instruction, is one of which `P` holds. -/
def Answers (P : Instr → Prop) (r : Except Nat Instr) : Prop := ∀ i, r = .ok i → P i

theorem Answers.error {P : Instr → Prop} (n : Nat) : Answers P (.error n) := fun _ h => nomatch h

theorem Answers.ok {P : Instr → Prop} {i : Instr} (h : P i) : Answers P (.ok i) := fun _ e => by cases e; exact h

theorem Answers.ite {P : Instr → Prop} {c : Prop} [Decidable c] {a b : Except Nat Instr} (yes : c → Answers P a) (no : Answers P b) :
    Answers P (if c then a else b) := by
  by_cases h : c
  · rw [if_pos h]
    exact yes h
  · rw [if_neg h]
    exact no

/-- An instruction with the places `u` in its word: a word of either agent, or of the Lantern core alone. -/
def HasPlaces (u : S32) (i : Instr) : Prop := form i = .sw u ∨ form i = .lan u

theorem Answers.sw {u t : S32} {i : Instr} (word : form i = .sw t) (same : t = u) : Answers (HasPlaces u) (.ok i) :=
  .ok (.inl (same ▸ word))

theorem Answers.lan {u t : S32} {i : Instr} (word : form i = .lan t) (same : t = u) : Answers (HasPlaces u) (.ok i) :=
  .ok (.inr (same ▸ word))

/-- The selector of a shift stands above four bits that are zero (R163). -/
theorem answers_parse07 (x y z : BitVec 6) (f : BitVec 8) : Answers (HasPlaces ⟨0x07, x, y, z, f⟩) (parse07 ⟨0x07, x, y, z, f⟩) := by
  obtain ⟨zh, zl, rfl⟩ := @exists_append 2 4 z
  repeat' refine .ite (fun sel => ?_) ?_
  any_goals exact .error _
  all_goals exact .sw rfl (by simp_all [@append_eq_iff 2 6, @extract_append 2 4])

/-- Each major opcode, and each selector below it, refuses the word or answers an instruction whose places are those of the word:
its operands are parts of them, and what its form fixes has been tested (R163 to R165, R175). -/
theorem answers_parseS (u : S32) : Answers (HasPlaces u) (parseS u) := by
  obtain ⟨op, x, y, z, f⟩ := u
  obtain ⟨n, small, rfl⟩ : ∃ n, n < 64 ∧ op = BitVec.ofNat 6 n := ⟨op.toNat, op.isLt, by simp⟩
  rw [parseS, BitVec.toNat_ofNat, Nat.mod_eq_of_lt small]
  split
  any_goals exact answers_parse07 _ _ _ _
  all_goals repeat' refine .ite (fun sel => ?_) ?_
  any_goals exact .error _
  any_goals exact .sw rfl (by
    simp_all [@append_eq_iff 2 6, @append_eq_iff 6 2, @append_eq_iff 4 2, @append_eq_iff 2 4, @append_eq_iff 3 3, @append_append_eq_iff 2 2 4,
      @extract_append 6 8, @extract_append 4 2, @extract_append 3 2, @extract_append_append 6 6 8, @extract_append_append 2 6 8,
      @extract_append_append 4 6 6])
  all_goals exact .lan rfl (by simp_all [@append_eq_iff 2 4, @extract_append 6 8])

theorem answers_parseV (op : Nat) (f : VF) : Answers (fun i => encode i = some (.v (joinV op f))) (parseV op f) := by
  unfold parseV
  split
  all_goals repeat' refine .ite (fun _ => ?_) ?_
  any_goals exact .error _
  all_goals exact .ok rfl

theorem answers_parseM (op : Nat) (f : MF) : Answers (fun i => encode i = some (.m (joinM op f))) (parseM op f) := by
  unfold parseM
  split
  any_goals exact .error _
  all_goals exact .ok rfl

theorem answers_parseC (op : Nat) (f : CF) : Answers (fun i => encode i = some (.c (joinC op f))) (parseC op f) := by
  unfold parseC
  split
  any_goals exact .error _
  all_goals exact .ok rfl

/-- The word of an instruction with places is what they join to (R162). -/
theorem encode_of_hasPlaces {i : Instr} {u : S32} (h : HasPlaces u i) : encode i = some (.s (join32 u)) := by
  rcases h with h | h <;> simp [encode, h]

/-! ## A parser answers every instruction at its fields -/

/-- Majors of the Lantern core alone, each with selectors of its own (R175). -/
theorem parseS_lantern (x y z : BitVec 6) (f : BitVec 8) :
    parseS ⟨0x38#6, x, y, z, f⟩ = parse38 ⟨0x38#6, x, y, z, f⟩ ∧ parseS ⟨0x39#6, x, y, z, f⟩ = parse39 ⟨0x39#6, x, y, z, f⟩ ∧
    parseS ⟨0x3A#6, x, y, z, f⟩ = parse3A ⟨0x3A#6, x, y, z, f⟩ ∧ parseS ⟨0x3C#6, x, y, z, f⟩ = parse3C ⟨0x3C#6, x, y, z, f⟩ :=
  ⟨rfl, rfl, rfl, rfl⟩

/-- Operands that are whole places are read as they stand; the parts of the others are put together again (R162 to R165). -/
theorem parseS_of_sw {i : Instr} {u : S32} (h : form i = .sw u) : parseS u = .ok i := by
  cases i <;> cases h
  any_goals rfl
  all_goals
    simp [parseS, parse07, @extract_append 2 6, @extract_append 6 2, @extract_append 4 2, @extract_append 2 4, @extract_append 3 3,
      @extract_append_append 2 2 4, @append_eq_iff 6 8, @append_eq_iff 4 2, @append_eq_iff 3 2, @append_append_eq_iff 6 6 8,
      @append_append_eq_iff 2 6 8, @append_append_eq_iff 4 6 6]

/-- A descriptor register's number stands below two fixed bits (R269, R270, R273). -/
theorem parseS_of_lan {i : Instr} {u : S32} (h : form i = .lan u) : parseS u = .ok i := by
  cases i <;> cases h
  any_goals rfl
  all_goals simp [parseS_lantern, parse38, parse39, parse3A, parse3C, @extract_append 2 4, @append_eq_iff 6 8]

theorem parseS_of_hasPlaces {i : Instr} {u : S32} (h : HasPlaces u i) : parseS u = .ok i :=
  h.elim parseS_of_sw parseS_of_lan

/-- No case of a list is broken exactly where each is none (R158). -/
theorem firstBad_eq_none {l : List (Option Nat)} : firstBad l = none ↔ ∀ x ∈ l, x = none := by
  induction l with
  | nil => simp [firstBad]
  | cons x r ih => cases x <;> simp [firstBad, ih]

theorem rmOk_of_vBad {r : VRow} {f : VF} (h : vBad r f = none) : rmOk r f = true := by
  simpa [need] using firstBad_eq_none.mp h (need 2 (rmOk r f)) (by simp)

/-- The three forms of QLD share an opcode: rm, which the row of each fixes, tells them apart (R169). -/
theorem parseV_of_form {i : Instr} {r : VRow} {f : VF} (h : form i = .v r f) (rm : rmOk r f = true) :
    parseV (BitVec.ofNat 8 r.op).toNat f = .ok i := by
  cases i <;> cases h
  case qld.refl =>
    have codec : f.rm = 0 := BitVec.eq_of_toNat_eq (eq_of_beq rm)
    simp [parseV, codec]
  case qldZ1.refl =>
    have codec : f.rm = 1 := BitVec.eq_of_toNat_eq (eq_of_beq rm)
    simp [parseV, codec]
  case qldZ2.refl =>
    have codec : f.rm = 2 := BitVec.eq_of_toNat_eq (eq_of_beq rm)
    simp [parseV, codec]
  all_goals rfl

theorem parseM_of_form {i : Instr} {op : Nat} {f : MF} (h : form i = .m op f) : parseM (BitVec.ofNat 6 op).toNat f = .ok i := by
  cases i <;> cases h <;> rfl

theorem parseC_of_form {i : Instr} {r : CRow} {f : CF} (h : form i = .c r f) : parseC (BitVec.ofNat 6 r.op).toNat f = .ok i := by
  cases i <;> cases h <;> rfl

/-! ## The decoder and the encoder -/

theorem legal_of_parsed {r : Except Nat Instr} {i : Instr} (parsed : r = .ok i) (fits : illegal i = none) : legal r = .ok i := by
  rw [parsed, legal, fits]

/-- The word of a slot decodes to the instruction whose fields were joined, where its own bits are legal. -/
theorem decodeS_join32 {i : Instr} {u : S32} (h : HasPlaces u i) (fits : illegal i = none) : decodeS (join32 u) = .ok i := by
  refine legal_of_parsed ?_ fits
  rw [split32_join32, parseS_of_hasPlaces h]

theorem decodeV_joinV {i : Instr} {r : VRow} {f : VF} (h : form i = .v r f) (fits : illegal i = none) : decodeV (joinV r.op f) = .ok i := by
  have rm : rmOk r f = true := rmOk_of_vBad (by simpa [illegal, h] using fits)
  obtain ⟨op, fields⟩ := splitV_joinV r.op f
  refine legal_of_parsed ?_ fits
  rw [op, fields, parseV_of_form h rm]

theorem decodeM_joinM {i : Instr} {op : Nat} {f : MF} (h : form i = .m op f) (fits : illegal i = none) : decodeM (joinM op f) = .ok i := by
  obtain ⟨major, fields⟩ := splitM_joinM op f
  refine legal_of_parsed ?_ fits
  rw [joinM_reserved, major, fields, parseM_of_form h]
  rfl

theorem decodeC_joinC {i : Instr} {r : CRow} {f : CF} (h : form i = .c r f) (fits : illegal i = none) : decodeC (joinC r.op f) = .ok i := by
  obtain ⟨op, fields⟩ := splitC_joinC r.op f
  refine legal_of_parsed ?_ fits
  rw [op, fields, parseC_of_form h]

/-- The decoder reads an instruction whose own bits are legal back from its word. -/
theorem decode_encode {i : Instr} {c : Code} (fits : illegal i = none) (h : encode i = some c) : decode c = .ok i := by
  unfold encode at h
  split at h <;> cases h
  next u word => exact decodeS_join32 (.inl word) fits
  next u word => exact decodeS_join32 (.inr word) fits
  next r f word => exact decodeV_joinV word fits
  next op f word => exact decodeM_joinM word fits
  next r f word => exact decodeC_joinC word fits

/-- A word that decodes is the word of what it decodes to. -/
theorem encode_decode {c : Code} {i : Instr} (h : decode c = .ok i) : illegal i = none ∧ encode i = some c := by
  cases c with
  | s w =>
    obtain ⟨parsed, fits⟩ := legal_ok h
    exact ⟨fits, by rw [encode_of_hasPlaces (answers_parseS _ _ parsed), join32_split32]⟩
  | v w =>
    obtain ⟨parsed, fits⟩ := legal_ok h
    exact ⟨fits, by rw [answers_parseV _ _ _ parsed, joinV_splitV]⟩
  | m w =>
    obtain ⟨parsed, fits⟩ := legal_ok h
    split at parsed
    next reserved => exact ⟨fits, by rw [answers_parseM _ _ _ parsed, joinM_splitM w (eq_of_beq reserved)]⟩
    next => cases parsed
  | c w =>
    obtain ⟨parsed, fits⟩ := legal_ok h
    exact ⟨fits, by rw [answers_parseC _ _ _ parsed, joinC_splitC]⟩

theorem wf_iff (i : Instr) : i.wf = true ↔ illegal i = none := Option.isNone_iff_eq_none

/-- Every form that a slot holds has a word. -/
theorem exists_encode {i : Instr} (h : form i ≠ .event) : ∃ c, encode i = some c := by
  unfold encode
  split
  case h_6 event => exact absurd event h
  all_goals exact ⟨_, rfl⟩

/-- Settles O56: a word's fields are those it was joined of, and each parser answers the instruction at its fields. -/
theorem decodeReadsEncoding : Obligations.DecodeReadsEncoding := by
  unfold Obligations.DecodeReadsEncoding
  intro i wf
  exact ⟨exists_encode, fun c word => decode_encode ((wf_iff i).mp wf) word⟩

/-- Settles O57: what a parser answers has the fields that were parsed, and they join to the word they were split from. -/
theorem encodingIsUnique : Obligations.EncodingIsUnique := by
  unfold Obligations.EncodingIsUnique
  intro c i decoded
  obtain ⟨fits, word⟩ := encode_decode decoded
  exact ⟨(wf_iff i).mpr fits, word⟩

/-- Settles O58: each word is closed, and is decoded by evaluation; two name a selector and a major that are not assigned. -/
theorem wordsDecode : Obligations.WordsDecode := by
  unfold Obligations.WordsDecode
  refine ⟨?_, ?_, ?_, ?_, ?_, ⟨1, ?_⟩, ⟨1, ?_⟩, ?_, ?_, ?_, ?_⟩ <;> decide

end Sys2Proof.Machine
end

section
/-! PROOFS. Scalar arithmetic and FENCE (spec 04 R79, 11 R185 to R188, R196). -/

namespace Sys2Proof.Machine

/-! ## Scalar forms -/

section
variable {s : State} {i : Instr} {d a b : Reg}

/-- A word whose meaning asks for `o` runs to it. -/
theorem runs_of_view {slot : Nat} {sem : Sem} {o : SlotOut} (form : exec i s = runOne i slot sem s) (view : sem (hereView s slot) = o) : Runs s i slot o :=
  fun free => form.trans (runOne_free i slot sem s o view free)

/-- A register form of two sources runs to its row's value (R185). -/
theorem alu2_runs {lat : Nat} {f : W64 → W64 → W64} {v : W64} (form : exec i s = runOne i 0 (alu2 d a b lat f) s)
    (value : f (reg s a) (reg s b) = v) : Runs s i 0 (scalarOut s d [a, b] lat v) :=
  runs_of_view form (by rw [alu2_view, value])

/-- A divide runs to its row's value and occupies the divider (R187). -/
theorem aluDiv_runs {f : W64 → W64 → W64} {v : W64} (form : exec i s = runOne i 0 (aluDiv d a b f) s)
    (value : f (reg s a) (reg s b) = v) : Runs s i 0 { scalarOut s d [a, b] 20 v with div := true } :=
  runs_of_view form (by rw [aluDiv_view, value])

/-- A form of one source runs to its row's value (R185, R186, R188). -/
theorem alu1_runs {f : W64 → W64} {v : W64} (form : exec i s = runOne i 0 (alu1 d a f) s) (value : f (reg s a) = v) :
    Runs s i 0 (scalarOut s d [a] 1 v) :=
  runs_of_view form (by rw [alu1_view, value])

/-- An immediate form runs to its row's value of the sign-extended immediate (R186). -/
theorem aluI_runs {imm : BitVec 14} {f : W64 → W64 → W64} {v : W64} (form : exec i s = runOne i 0 (aluI d a imm f) s)
    (value : f (reg s a) (imm.signExtend 64) = v) : Runs s i 0 (scalarOut s d [a] 1 v) :=
  runs_of_view form (by rw [aluI_view, value])

/-- A form whose value is not of its sources alone runs to it (R186, R188). -/
theorem aluOut_runs {rs : List Reg} {lat : Nat} {f : View → W64} {v : W64} (form : exec i s = runOne i 0 (aluOut d rs lat f) s)
    (value : f (hereView s 0) = v) : Runs s i 0 (scalarOut s d rs lat v) :=
  runs_of_view form (by rw [aluOut_view, value])

end

/-- A bit field that runs lies inside its word (R165, R188). -/
theorem field_inside {p l : BitVec 6} (fits : need 2 (decide (p.toNat + l.toNat + 1 ≤ 64)) = none) : p.toNat + l.toNat < 64 := by
  simpa [need] using fits

/-- The own bits of a word that runs are legal (R158). -/
theorem illegal_of_wordFree {s : State} {i : Instr} {slot : Nat} {o : SlotOut} (free : wordFree s i slot o = true) : illegal i = none := by
  simp only [wordFree, Bool.and_eq_true, Option.isNone_iff_eq_none] at free
  obtain ⟨⟨⟨legal, -⟩, -⟩, -⟩ := free
  exact legal

/-- Settles O1: each form by the shape of its meaning and the value of its row. -/
theorem scalarForms : Obligations.ScalarForms := by
  unfold Obligations.ScalarForms
  refine ⟨?binary, ?unary, ?divide, ?immediate, ?field⟩
  case binary =>
    intro s d a b x y n
    have small : n < 64 := Nat.mod_lt _ (by norm_num)
    simp only [List.forall_mem_cons, List.not_mem_nil, false_imp_iff, implies_true, and_true]
    refine ⟨⟨?add, ?sub, ?and, ?or, ?xor, ?andn, ?orn, ?xnor, ?shl, ?shr, ?sra, ?ror, ?slt, ?sltu, ?min, ?max, ?minu, ?maxu⟩, ?mul, ?mulh, ?mulhu, ?mulhsu⟩
    case ror => exact alu2_runs rfl (rorW_eq _ _ small)
    case slt => exact alu2_runs rfl (by rw [flag_eq, slt_eq])
    case sltu => exact alu2_runs rfl (by rw [flag_eq, ult_eq])
    case min => exact alu2_runs rfl (min_eq ..)
    case max => exact alu2_runs rfl (max_eq ..)
    case minu => exact alu2_runs rfl (minu_eq ..)
    case maxu => exact alu2_runs rfl (maxu_eq ..)
    case mul => exact alu2_runs rfl (mul_eq ..)
    case mulhu => exact alu2_runs rfl (mulHi_nat ..)
    all_goals exact alu2_runs rfl rfl
  case unary =>
    intro s d a x
    exact ⟨fun n small zeros one => alu1_runs rfl (clzW_eq x n small zeros one), fun n small zeros one => alu1_runs rfl (ctzW_eq x n small zeros one),
      alu1_runs rfl rfl, fun v bytes => alu1_runs rfl (bswapW_eq x v bytes)⟩
  case divide =>
    intro s d a b x y
    simp only [List.forall_mem_cons, List.not_mem_nil, false_imp_iff, implies_true, and_true]
    exact ⟨aluDiv_runs rfl (divS_fst x y), aluDiv_runs rfl (divU_fst x y), aluDiv_runs rfl (divS_snd x y), aluDiv_runs rfl (divU_snd x y)⟩
  case immediate =>
    intro s d a imm n big x i
    simp only [List.forall_mem_cons, List.not_mem_nil, false_imp_iff, implies_true, and_true]
    refine ⟨⟨?addi, ?andi, ?ori, ?xori, ?slti, ?sltiu, ?shli, ?shri, ?srai, ?rori⟩, ?lui, ?addpc⟩
    case slti => exact aluI_runs rfl (slti_eq x imm)
    case sltiu => exact aluI_runs rfl (by rw [flag_eq, ult_eq])
    case rori => exact alu1_runs rfl (rorW_eq x _ n.isLt)
    case lui => exact aluOut_runs rfl (lui_eq big)
    case addpc => exact aluOut_runs rfl (by rw [hereView_addr, codeAddr_eq])
    case shli | shri | srai => exact alu1_runs rfl rfl
    all_goals exact aluI_runs rfl rfl
  case field =>
    intro s d a p l x n
    simp only [List.forall_mem_cons, List.not_mem_nil, false_imp_iff, implies_true, and_true]
    refine ⟨⟨alu1_runs rfl (field_zero x p.toNat n), fun free => ?bfxs⟩, fun v bits => aluOut_runs rfl ?bfi⟩
    case bfxs => exact alu1_runs rfl (field_sign x p.toNat l.toNat (field_inside (illegal_of_wordFree free))) free
    case bfi =>
      rw [hereView_sr, hereView_sr]
      exact insertW_eq _ x v p.toNat n bits

/-! ## FENCE -/

/-- A value put together of two parts is their sum, the higher one at its weight. -/
theorem toNat_append_add {n m : Nat} (a : BitVec n) (b : BitVec m) : (a ++ b).toNat = a.toNat * 2 ^ m + b.toNat := by
  rw [BitVec.toNat_append, ← Nat.shiftLeft_add_eq_or_of_lt b.isLt, Nat.shiftLeft_eq]

/-- The places of FENCE in its word (R165). -/
def fencePlaces (sc : BitVec 3) (k : BitVec 5) : S32 := ⟨0x2F#6, sc ++ k.extractLsb' 2 3, k.extractLsb' 0 2 ++ 0#4, 0#6, 0#8⟩

theorem form_fence (sc : BitVec 3) (k : BitVec 5) : form (.fence sc k) = .sw (fencePlaces sc k) := rfl

/-- The word of FENCE, as a sum (R196). -/
theorem join32_fencePlaces (sc : BitVec 3) (k : BitVec 5) :
    join32 (fencePlaces sc k) = BitVec.ofNat 32 (0x2F * 2 ^ 26 + sc.toNat * 2 ^ 23 + k.toNat * 2 ^ 18) := by
  apply BitVec.eq_of_toNat_eq
  have scope := sc.isLt
  have kinds := k.isLt
  simp only [join32, fencePlaces, toNat_append_add, BitVec.extractLsb'_toNat, BitVec.toNat_ofNat, Nat.shiftRight_eq_div_pow]
  omega

/-- Only a scope code has a FENCE (R165, R196). -/
theorem illegal_fence (sc : BitVec 3) (k : BitVec 5) : illegal (.fence sc k) = if sc.toNat ≤ 4 then none else some 2 := by
  simp [illegal, form_fence, swBad, need]

/-- A FENCE waits where something outstanding has one of its kinds and acts in its region (R79). -/
theorem fenceHeld_iff (s : State) (g : Agent) (sc : Nat) (k : BitVec 5) : fenceHeld s g sc k.toNat = true ↔ ∃ p ∈ pends s g,
    ((k.getLsbD 0 = true ∨ k.getLsbD 1 = true) ∧ p.load = true ∧ inRegion s g sc p.at0 = true) ∨
    ((k.getLsbD 2 = true ∨ k.getLsbD 3 = true) ∧ p.store = true ∧ inRegion s g sc p.at0 = true) ∨
    (k.getLsbD 4 = true ∧ p.engine = true ∧ (p.at0 = [] ∨ inRegion s g sc p.at0 = true)) := by
  simp only [fenceHeld, List.any_eq_true, bit_eq_getLsbD, Bool.or_eq_true, Bool.and_eq_true, List.isEmpty_iff, or_assoc]

/-- A word with no effect of its own that transfers nowhere leaves every memory (R145, R184). -/
theorem wordDid_still_allMemSame {s : State} {o : SlotOut} (finds : o.finds = []) (pops : o.pops = []) (eff : o.eff = id) (seq : o.ctl = .seq) :
    AllMemSame s (wordDid s 0 o) := by
  rcases cur : s.cur with m | k
  · rw [wordDid_lantern cur, lanDid_still finds eff, seq, lanControl_seq]
    exact .of_eq
  · rw [wordDid_unit cur, unitDid_still finds pops eff, seq, bunControl_seq rfl]
    exact .of_eq

/-- Settles O6: the word by its fields, the wait by what is outstanding, and what FENCE leaves by where control stands. -/
theorem fenceInstruction : Obligations.FenceInstruction := by
  unfold Obligations.FenceInstruction
  intro s sc k o word
  have join : word = join32 (fencePlaces sc k) := (join32_fencePlaces sc k).symm
  have core := here_wordDid_seq (s := s) (o := o) rfl rfl rfl rfl
  refine ⟨fun low => ?_, fun high => ⟨2, ?_⟩, ?_, fun n => ?_, runs_of_view rfl rfl, fenceHeld_iff .., fun none => ?_, fun r => ?_, fun n other => ?_,
    wordDid_still_allMemSame rfl rfl rfl rfl⟩
  · rw [join]
    exact decodeS_join32 (.inl (form_fence sc k)) (by rw [illegal_fence, if_pos low])
  · rw [join, decodeS, split32_join32, parseS_of_sw (form_fence sc k), legal, illegal_fence, if_neg (by omega)]
  · decide
  · rw [illegal_fence]
    split <;> simp <;> omega
  · rw [none, ← Bool.not_eq_true, fenceHeld_iff]
    simp
  · rw [reg, core, rdS_goOn]
    rfl
  · rw [core, rdCsr_goOn]
    exact rdCsr_issuedCore _ other

end Sys2Proof.Machine
end

section
/-! PROOFS. Integer lanes: arithmetic, shifts, counts and carry-less products (spec 12 R204, R207, R208, R216). -/

namespace Sys2Proof.Machine

/-! ## Lanes and their values -/

theorem tyWidth_pos (ty : Nat) : 0 < tyWidth ty := by
  unfold tyWidth
  split <;> norm_num

theorem lane_lt (w : Nat) (x : Vec) (j : Nat) : lane w x j < 2 ^ w := Nat.mod_lt _ (Nat.two_pow_pos w)

theorem topDigit_eq_one_iff {k x : Nat} (small : x < 2 ^ (k + 1)) : x / 2 ^ k % 2 = 1 ↔ 2 ^ k ≤ x := by
  have high : x / 2 ^ k < 2 := Nat.div_lt_of_lt_mul (by rwa [← pow_succ])
  rw [Nat.mod_eq_of_lt high, ← Nat.one_le_div_iff (Nat.two_pow_pos k)]
  omega

/-- A lane read as two's complement (R12). -/
theorem sextN_eq {w x : Nat} (wide : 0 < w) (small : x < 2 ^ w) : sextN x w = if 2 ^ (w - 1) ≤ x then (x : Int) - 2 ^ w else x := by
  obtain ⟨k, rfl⟩ := Nat.exists_eq_succ_of_ne_zero wide.ne'
  have top : bits x k 1 = 1 ↔ 2 ^ k ≤ x := topDigit_eq_one_iff small
  have whole : bits x 0 (k + 1) = x := by rw [bits, pow_zero, Nat.div_one, Nat.mod_eq_of_lt small]
  simp only [sextN, Nat.succ_eq_add_one, Nat.add_sub_cancel, top, whole]

/-- val of a lane lies in the range of its type (R207). -/
theorem laneVal_bounds (f : VF) {x : Nat} (small : x < 2 ^ tyWidth f.ty.toNat) :
    -2 ^ (tyWidth f.ty.toNat - 1) ≤ laneVal f x ∧ laneVal f x < 2 ^ tyWidth f.ty.toNat := by
  obtain ⟨k, wide⟩ := Nat.exists_eq_succ_of_ne_zero (tyWidth_pos f.ty.toNat).ne'
  have positive : (0 : Int) < 2 ^ k := by positivity
  have bound : (x : Int) < 2 ^ (k + 1) := by exact_mod_cast wide ▸ small
  rw [laneVal, wide, Nat.succ_eq_add_one, Nat.add_sub_cancel]
  rw [pow_succ] at bound ⊢
  split
  · next signed =>
    have high : (2 : Int) ^ k ≤ x := by exact_mod_cast signed.2
    omega
  · omega

theorem clampI_eq {lo hi : Int} (ordered : lo ≤ hi) (x : Int) : clampI x lo hi = max lo (min hi x) := by
  unfold clampI
  split
  · omega
  · split <;> omega

theorem intLo_le_intHi (w : Nat) (signed : Bool) : intLo w signed ≤ intHi w signed := by
  have half : (0 : Int) < 2 ^ (w - 1) := by positivity
  have whole : (0 : Int) < 2 ^ w := by positivity
  cases signed
  · simp only [intLo, intHi, Bool.false_eq_true, if_false]
    omega
  · simp only [intLo, intHi, if_true]
    omega

/-- Clamping to a lane type, with its bounds written out (R207). -/
theorem clampI_ty (ty w : Nat) (x : Int) : clampI x (intLo w (tySigned ty)) (intHi w (tySigned ty)) =
    max (if ty < 4 then -2 ^ (w - 1) else 0) (min (if ty < 4 then 2 ^ (w - 1) - 1 else 2 ^ w - 1) x) := by
  rw [clampI_eq (intLo_le_intHi ..), intLo, intHi, tySigned]
  simp only [decide_eq_true_eq]

theorem bit_eq_testBit (x n : Nat) : bit x n = x.testBit n := by rw [bit, Nat.testBit_eq_decide_div_mod_eq, beq_eq_decide]

/-! ## Shapes of lane-wise forms -/

section Forms
variable {s : State} {i : Instr} {f : VF} {srcs : List (BitVec 6)} {lat : Nat}

/-- A form with an integer and a float meaning has the first for an integer type, at latency 2 (R207). -/
theorem both_int {gi gf : List Nat → Nat × Flags} (int : f.ty.toNat < 8) (form : exec i s = runOne i 1 (bothSem f srcs lat gi gf) s) :
    exec i s = runOne i 1 (laneSem f srcs 2 gi) s := by
  rw [form, bothSem, tyFloat, decide_eq_false (by omega), if_neg Bool.false_ne_true]

/-- A form of integer values writes them mod 2^w and raises no flag (R207). -/
theorem intLane_wise {g : (Nat → Int) → Int} {v : Nat → Int} (unit : onLan s = false)
    (form : exec i s = runOne i 1 (laneSem f srcs lat (intLane f.ty.toNat g)) s)
    (value : ∀ j, g (fun n => laneVal f (arg (srcs.map fun x => lane (tyWidth f.ty.toNat) (src s f x) j) n)) = v j) :
    LaneWise s i f srcs (tyWidth f.ty.toNat) lat (fun j => ((v j % 2 ^ tyWidth f.ty.toNat).toNat, 0)) := by
  refine laneSem_wise s i f srcs lat _ _ unit form (fun j _ => ⟨?_, rfl⟩)
  have same : ∀ n, tv f.ty.toNat (arg (srcs.map fun x => lane (tyWidth f.ty.toNat) (src s f x) j) n) =
      laneVal f (arg (srcs.map fun x => lane (tyWidth f.ty.toNat) (src s f x) j) n) := by
    intro n
    refine tv_eq f _ ?_
    rw [arg, List.getD_eq_getElem?_getD, List.getElem?_map]
    cases srcs[n]?
    · exact Nat.two_pow_pos _
    · exact lane_lt ..
  simp only [intLane, same, value, wrap]

/-- A form of the bits of its operands writes its result and raises no flag (R207, R208). -/
theorem bitLane_wise {g : (Nat → Nat) → Nat} {v : Nat → Nat} (unit : onLan s = false) (form : exec i s = runOne i 1 (laneSem f srcs lat (bitLane g)) s)
    (value : ∀ j < 4096 / tyWidth f.ty.toNat, g (arg (srcs.map fun x => lane (tyWidth f.ty.toNat) (src s f x) j)) = v j) :
    LaneWise s i f srcs (tyWidth f.ty.toNat) lat (fun j => (v j, 0)) :=
  laneSem_wise s i f srcs lat _ _ unit form (fun j inside => ⟨by rw [bitLane, value j inside], rfl⟩)

end Forms

/-! ## Shifts -/

/-- A shift right by more than the width is one by the width. -/
theorem ediv_two_pow_min {v : Int} {w : Nat} (low : -2 ^ w ≤ v) (high : v < 2 ^ w) (n : Nat) : v / 2 ^ min n w = v / 2 ^ n := by
  rcases Nat.le_total n w with small | large
  · rw [min_eq_left small]
  · have more : (2 : Int) ^ w ≤ 2 ^ n := pow_le_pow_right₀ (by norm_num) large
    have positive : (0 : Int) < 2 ^ w := by positivity
    rw [min_eq_right large]
    rcases le_or_gt 0 v with nonneg | negative
    · rw [Int.ediv_eq_zero_of_lt nonneg high, Int.ediv_eq_zero_of_lt nonneg (by omega)]
    · have one : ∀ d : Int, 0 < d → -d ≤ v → v / d = -1 := fun d pos bound =>
        le_antisymm (Int.le_of_lt_add_one (by rw [Int.ediv_lt_iff_lt_mul pos]; omega)) ((Int.le_ediv_iff_mul_le pos).mpr (by omega))
      rw [one _ positive low, one _ (by omega) (by omega)]

/-- Rounding half up in a shift right is one step of halving (R208). -/
theorem add_half_ediv (v : Int) (m : Nat) : (v + 2 ^ m) / 2 ^ (m + 1) = (v / 2 ^ m + 1) / 2 := by
  have positive : (0 : Int) < 2 ^ m := by positivity
  rw [pow_succ, ← Int.ediv_ediv_of_nonneg positive.le, ← Int.add_mul_ediv_left v 1 positive.ne', mul_one]

theorem shl_eq (w x n : Nat) : (if w ≤ n then 0 else x * 2 ^ n % 2 ^ w) = x * 2 ^ n % 2 ^ w := by
  split
  · next large => exact (Nat.mod_eq_zero_of_dvd ((pow_dvd_pow 2 large).mul_left x)).symm
  · rfl

theorem shr_eq {w x : Nat} (small : x < 2 ^ w) (n : Nat) : x / 2 ^ min n w = x / 2 ^ n := by
  have signed := ediv_two_pow_min (v := x) (w := w) (by have : (0 : Int) < 2 ^ w := by positivity
                                                        omega) (by exact_mod_cast small) n
  exact_mod_cast signed

theorem sra_eq {w x : Nat} (wide : 0 < w) (small : x < 2 ^ w) (n : Nat) :
    wrap (sextN x w / 2 ^ min n w) w = (((if 2 ^ (w - 1) ≤ x then (x : Int) - 2 ^ w else x) / 2 ^ n) % 2 ^ w).toNat := by
  have bound : (x : Int) < 2 ^ w := by exact_mod_cast small
  rw [wrap, sextN_eq wide small, ediv_two_pow_min]
  all_goals split <;> omega

theorem rshrLane_eq (f : VF) {x : Nat} (small : x < 2 ^ tyWidth f.ty.toNat) (n : Nat) : rshrLane f.ty.toNat x n =
    if n = 0 then x else (((laneVal f x + 2 ^ (n - 1)) / 2 ^ n) % 2 ^ tyWidth f.ty.toNat).toNat := by
  obtain ⟨low, high⟩ := laneVal_bounds f small
  have half : (2 : Int) ^ (tyWidth f.ty.toNat - 1) ≤ 2 ^ tyWidth f.ty.toNat := pow_le_pow_right₀ (by norm_num) (Nat.sub_le _ _)
  rcases n with _ | m
  · rfl
  · rw [rshrLane, if_neg (Nat.succ_ne_zero m), if_neg (Nat.succ_ne_zero m), Nat.add_min_add_right, Nat.add_sub_cancel, Nat.add_sub_cancel, tv_eq f x small,
      add_half_ediv, add_half_ediv, ediv_two_pow_min (by omega) high, wrap]

/-! ## Counts -/

/-- Leading zeros of a lane, by the bounds that its highest one sets (R207). -/
theorem clzN_eq {w x z : Nat} (most : z ≤ w) (above : x < 2 ^ (w - z)) (below : z < w → 2 ^ (w - z - 1) ≤ x) : clzN w x = z := by
  unfold clzN
  rcases most.lt_or_eq with some | rfl
  · have low := below some
    have nonzero : x ≠ 0 := by have := Nat.two_pow_pos (w - z - 1)
                               omega
    have log : Nat.log2 x = w - z - 1 := (Nat.log2_eq_iff nonzero).mpr ⟨low, by rwa [show w - z - 1 + 1 = w - z by omega]⟩
    rw [if_neg nonzero, log]
    omega
  · rw [Nat.sub_self, pow_zero, Nat.lt_one_iff] at above
    rw [if_pos above]

theorem popN_eq (w x : Nat) : popN w x = (List.range w).countP (fun i => x.testBit i) := by simp only [popN, bit_eq_testBit]

/-! ## Carry-less products -/

/-- Bit n of a sum of shifted lanes without carries (R216). -/
theorem testBit_foldl_shifts (a b n : Nat) (l : List Nat) (p : Nat) :
    (l.foldl (fun p j => if bit b j then Nat.xor p (a * 2 ^ j) else p) p).testBit n =
      l.foldl (fun q i => q ^^ (b.testBit i && decide (i ≤ n) && a.testBit (n - i))) (p.testBit n) := by
  induction l generalizing p with
  | nil => rfl
  | cons j l ih =>
    rw [List.foldl_cons, List.foldl_cons, ih]
    congr 1
    rw [bit_eq_testBit]
    by_cases set : b.testBit j
    · rw [if_pos set, set, Bool.true_and, show Nat.xor p (a * 2 ^ j) = p ^^^ (a * 2 ^ j) from rfl, Nat.testBit_xor, Nat.testBit_mul_two_pow]
    · simp [set]

theorem clmul_lt {a : Nat} (small : a < 2 ^ 32) (b : Nat) : clmul a b < 2 ^ 63 := by
  refine List.foldlRecOn (motive := fun p => p < 2 ^ 63) _ _ (by norm_num) (fun p below j mem => ?_)
  have inside := List.mem_range.mp mem
  have shifted : a * 2 ^ j < 2 ^ 63 := calc
    a * 2 ^ j ≤ a * 2 ^ 31 := Nat.mul_le_mul_left a (Nat.pow_le_pow_right (by norm_num) (by omega))
    _ < 2 ^ 32 * 2 ^ 31 := Nat.mul_lt_mul_of_pos_right small (by norm_num)
  split
  · exact Nat.xor_lt_two_pow below shifted
  · exact below

/-- A product without carries is the number of its bits (R216). -/
theorem clmul_eq {a b x : Nat} (small : a < 2 ^ 32) (below : x < 2 ^ 63) (set : ∀ n < 63, x.testBit n =
    (List.range 32).foldl (fun q i => q ^^ (b.testBit i && decide (i ≤ n) && a.testBit (n - i))) false) : clmul a b = x := by
  refine Nat.eq_of_testBit_eq (fun n => ?_)
  rcases lt_or_ge n 63 with low | high
  · rw [set n low, clmul, testBit_foldl_shifts, Nat.zero_testBit]
  · have far : 2 ^ 63 ≤ 2 ^ n := Nat.pow_le_pow_right (by norm_num) high
    rw [Nat.testBit_lt_two_pow ((clmul_lt small b).trans_le far), Nat.testBit_lt_two_pow (below.trans_le far)]

/-- Settles O17: each row by its shape, and the amounts, counts and products by the value of one lane. -/
theorem vectorIntegerLanes : Obligations.VectorIntegerLanes := by
  unfold Obligations.VectorIntegerLanes
  refine ⟨?arithmetic, ?shifts⟩
  case arithmetic =>
    intro s f unit int w a b va vb vc lo hi md
    simp only [List.forall_mem_cons, List.not_mem_nil, false_imp_iff, implies_true, and_true]
    refine ⟨⟨?add, ?sub, ?mul, ?mulh, ?adds, ?subs, ?min, ?max, ?abd⟩, ⟨?and, ?or, ?xor, ?andn⟩, ?mac, ?abs, ?neg, ?popc, fun z fits => ?clz⟩
    case mulh | mac => exact intLane_wise unit rfl fun _ => rfl
    case adds | subs => exact intLane_wise unit rfl fun _ => clampI_ty ..
    case and | or | xor | andn => exact bitLane_wise unit rfl fun _ _ => rfl
    case popc => exact bitLane_wise unit rfl fun _ _ => popN_eq ..
    case clz =>
      refine bitLane_wise unit rfl fun j inside => ?_
      obtain ⟨most, above, below⟩ := fits j inside
      exact clzN_eq most above below
    case abd | abs => exact intLane_wise unit (both_int int rfl) fun _ => Int.natCast_natAbs _
    all_goals exact intLane_wise unit (both_int int rfl) fun _ => rfl
  case shifts =>
    intro s f unit int w a b va
    have small : ∀ j, a j < 2 ^ w := lane_lt w _
    simp only [List.forall_mem_cons, List.not_mem_nil, false_imp_iff, implies_true, and_true]
    refine ⟨⟨?shl, ?shr, ?sra, ?rshr⟩, fun wide x product => ?clmul⟩
    case shl => exact bitLane_wise unit rfl fun _ _ => shl_eq ..
    case shr => exact bitLane_wise unit rfl fun j _ => shr_eq (small j) _
    case sra => exact bitLane_wise unit rfl fun j _ => sra_eq (tyWidth_pos _) (small j) _
    case rshr => exact bitLane_wise unit rfl fun j _ => rshrLane_eq f (small j) _
    case clmul =>
      have lanes : 4096 / w = 128 := by rw [wide]
      have value : ∀ j < 4096 / w, clmul (a j) (b j) = x j := by
        intro j inside
        obtain ⟨below, set⟩ := product j (by omega)
        exact clmul_eq (wide ▸ small j) below set
      exact ⟨bitLane_wise unit rfl fun j inside => congrArg (· % 2 ^ 32) (value j inside),
        bitLane_wise unit rfl fun j inside => congrArg (· / 2 ^ 32) (value j inside)⟩

end Sys2Proof.Machine
end

section
/-! PROOFS. Float lanes: sums of exact terms, rounded once (spec 07 R126, 12 R209). -/

namespace Sys2Proof.Machine

/-! ## Exact sums -/

/-- The number that a value stands for; 0 where it is no nonzero finite one (R126). -/
def exactOf (v : Val) : ℚ := match v with | .fin i e => (i : ℚ) * 2 ^ e | _ => 0

theorem two_zpow_eq {e d : Int} (below : e ≤ d) : (2 : ℚ) ^ d = 2 ^ (d - e).toNat * 2 ^ e := by
  rw [← zpow_natCast, Int.toNat_of_nonneg (by omega), ← zpow_add₀ (by norm_num), sub_add_cancel]

theorem addFin_exact (i e j d : Int) : ((addFin i e j d).1 : ℚ) * 2 ^ (addFin i e j d).2 = i * 2 ^ e + j * 2 ^ d := by
  unfold addFin
  split
  · next below =>
    rw [two_zpow_eq below]
    push_cast
    ring
  · next above =>
    rw [two_zpow_eq (le_of_not_ge above)]
    push_cast
    ring

/-- One more term of an exact sum. -/
def addTerm (p : Int × Int) (v : Val) : Int × Int := match v with | .fin i e => addFin p.1 p.2 i e | _ => p

/-- The exact sum of the finite terms, as a mantissa and an exponent. -/
def total (vs : List Val) : Int × Int := vs.foldl addTerm (0, 0)

theorem addTerm_exact (p : Int × Int) (v : Val) : ((addTerm p v).1 : ℚ) * 2 ^ (addTerm p v).2 = p.1 * 2 ^ p.2 + exactOf v := by
  cases v with
  | fin i e => exact addFin_exact p.1 p.2 i e
  | nan | inf | zero => exact (add_zero _).symm

theorem foldl_addTerm_exact (vs : List Val) (p : Int × Int) :
    ((vs.foldl addTerm p).1 : ℚ) * 2 ^ (vs.foldl addTerm p).2 = p.1 * 2 ^ p.2 + (vs.map exactOf).sum := by
  induction vs generalizing p with
  | nil => simp
  | cons v vs ih => rw [List.foldl_cons, ih, addTerm_exact, List.map_cons, List.sum_cons, add_assoc]

theorem total_exact (vs : List Val) : ((total vs).1 : ℚ) * 2 ^ (total vs).2 = (vs.map exactOf).sum := by
  rw [total, foldl_addTerm_exact]
  simp

theorem total_eq_zero_iff (vs : List Val) : (total vs).1 = 0 ↔ (vs.map exactOf).sum = 0 := by
  rw [← total_exact, mul_eq_zero, or_iff_left (zpow_ne_zero _ (by norm_num)), Int.cast_eq_zero]

/-- Whether a value is a nonzero finite one. -/
def Val.isFin (v : Val) : Bool := match v with | .fin _ _ => true | _ => false

theorem sumVals_bothInf {rm : Nat} {vs : List Val} (pos : .inf false ∈ vs) (neg : .inf true ∈ vs) : sumVals rm vs = none := by
  simp only [sumVals, List.any_beq', List.contains_iff_mem.mpr pos, List.contains_iff_mem.mpr neg, Bool.and_self, if_true]

theorem sumVals_inf {rm : Nat} {vs : List Val} {n : Bool} (here : .inf n ∈ vs) (alone : .inf (!n) ∉ vs) : sumVals rm vs = some (.inf n) := by
  cases n <;> simp_all [sumVals]

/-- A sum with no infinity among its terms: a nonzero one as it is, and the sign of one that is zero (R209). -/
theorem sumVals_finite (rm : Nat) {vs : List Val} (finite : ∀ n, .inf n ∉ vs) : sumVals rm vs =
    some (if (total vs).1 ≠ 0 then .fin (total vs).1 (total vs).2
      else .zero (if vs.any Val.isFin then rm == 2 else if rm = 2 then vs.any Val.isNeg else vs.all Val.isNeg)) := by
  have none : ∀ n, vs.any (· == .inf n) = false := fun n => by rw [List.any_beq', List.contains_eq_mem, decide_eq_false (finite n)]
  unfold sumVals
  rw [none, none]
  show (if (total vs).1 ≠ 0 then some (Val.fin (total vs).1 (total vs).2) else if vs.any Val.isFin then some (Val.zero (rm == 2))
    else if rm = 2 then some (Val.zero (vs.any Val.isNeg)) else some (Val.zero (vs.all Val.isNeg))) = _
  split
  · rfl
  · split
    · rfl
    · split <;> rfl

/-! ## fl of R209 -/

section Fl
variable {c rm : Nat} {ts : List (Option Val)} {vs : List Val}

theorem flSum_nan (nan : some .nan ∈ ts) : flSum c rm ts = (canonNan c, 0) := by
  rw [flSum, if_pos (by simpa using nan)]

theorem flSum_none (noNan : some .nan ∉ ts) (none : none ∈ ts) : flSum c rm ts = (canonNan c, flagNv) := by
  rw [flSum, if_neg (by simpa using noNan), if_pos (by simpa using none)]

/-- fl of terms that are values: their exact sum, rounded once (R209). -/
theorem flSum_some (noNan : .nan ∉ vs) :
    flSum c rm (vs.map some) = (sumVals rm vs).elim (canonNan c, flagNv) (fun v => roundTo c v rm) := by
  rw [flSum, if_neg (by simpa using noNan), if_neg (by simp), show (vs.map some).filterMap id = vs by simp [List.filterMap_map]]
  cases sumVals rm vs <;> rfl

end Fl

/-- Terms that are zeros or finite hold no NaN and no infinity. -/
theorem not_mem_special {vs : List Val} (terms : ∀ v ∈ vs, (∃ n, v = .zero n) ∨ ∃ i e, v = .fin i e) : .nan ∉ vs ∧ ∀ n, .inf n ∉ vs := by
  constructor
  · intro mem
    simpa using terms _ mem
  · intro n mem
    simpa using terms _ mem

/-- A sum of zeros (R209). -/
theorem flSum_zeros {c rm : Nat} {vs : List Val} (zeros : ∀ v ∈ vs, v = .zero false ∨ v = .zero true) : flSum c rm (vs.map some) =
    roundTo c (.zero (if rm = 2 then decide (.zero true ∈ vs) else decide (.zero false ∉ vs))) rm := by
  obtain ⟨noNan, finite⟩ := not_mem_special fun v mem => .inl ((zeros v mem).elim (⟨_, ·⟩) (⟨_, ·⟩))
  have sum : (vs.map exactOf).sum = 0 := List.sum_eq_zero fun x mem => by
    obtain ⟨v, term, rfl⟩ := List.mem_map.mp mem
    rcases zeros v term with rfl | rfl <;> rfl
  have noFin : ¬vs.any Val.isFin = true := by
    simp only [List.any_eq_true, not_exists, not_and]
    intro v mem
    rcases zeros v mem with rfl | rfl <;> exact Bool.false_ne_true
  have anyNeg : vs.any Val.isNeg = decide (.zero true ∈ vs) := by
    rw [Bool.eq_iff_iff, List.any_eq_true, decide_eq_true_eq]
    refine ⟨fun ⟨v, mem, neg⟩ => ?_, fun mem => ⟨_, mem, rfl⟩⟩
    rcases zeros v mem with rfl | rfl
    · cases neg
    · exact mem
  have allNeg : vs.all Val.isNeg = decide (.zero false ∉ vs) := by
    rw [Bool.eq_iff_iff, List.all_eq_true, decide_eq_true_eq]
    refine ⟨fun neg mem => Bool.false_ne_true (neg _ mem), fun noPos v mem => ?_⟩
    rcases zeros v mem with rfl | rfl
    · exact absurd mem noPos
    · rfl
  rw [flSum_some noNan, sumVals_finite rm finite, if_neg (not_not.mpr ((total_eq_zero_iff vs).mpr sum)), if_neg noFin, anyNeg, allNeg]
  rfl

/-! ## Lanes -/

/-- A form with an integer and a float meaning has the second for a float type (R209, R210). -/
theorem both_float {s : State} {i : Instr} {f : VF} {srcs : List (BitVec 6)} {lat : Nat} {gi gf : List Nat → Nat × Flags} (float : 8 ≤ f.ty.toNat)
    (form : exec i s = runOne i 1 (bothSem f srcs lat gi gf) s) : exec i s = runOne i 1 (laneSem f srcs lat gf) s := by
  rw [form, bothSem, tyFloat, decide_eq_true float, if_pos rfl]

/-- A form rounded by fl writes fl of its terms (R209). -/
theorem flLane_wise {s : State} {i : Instr} {f : VF} {srcs : List (BitVec 6)} {lat : Nat} {g : (Nat → Val) → List (Option Val)} {v : Nat → List (Option Val)}
    (unit : onLan s = false) (form : exec i s = runOne i 1 (laneSem f srcs lat (flLane f g)) s)
    (terms : ∀ j, g (fun n => valOf (f.ty.toNat - 8) (arg (srcs.map fun x => lane (tyWidth f.ty.toNat) (src s f x) j) n)) = v j) :
    LaneWise s i f srcs (tyWidth f.ty.toNat) lat (fun j => flSum (f.ty.toNat - 8) f.rm.toNat (v j)) :=
  laneSem_wise s i f srcs lat _ _ unit form (fun j _ => by rw [← terms j]; exact ⟨rfl, rfl⟩)

/-- VABD of two float lanes (R209). -/
theorem flAbd_eq (f : VF) (x y : Nat) : let c := f.ty.toNat - 8
    flAbd f [x, y] = if valOf c x = .nan ∨ valOf c y = .nan then (canonNan c, 0)
      else (sumVals f.rm.toNat [valOf c x, (valOf c y).neg]).elim (canonNan c, flagNv) (fun v => roundTo c v.abs f.rm.toNat) := by
  simp only [flAbd, tyFmt, arg, List.getD_cons_zero, List.getD_cons_succ, Bool.or_eq_true, beq_iff_eq]
  split
  · rfl
  · cases sumVals f.rm.toNat [valOf (f.ty.toNat - 8) x, (valOf (f.ty.toNat - 8) y).neg] <;> rfl

/-- Settles O18: each row by its terms, and fl by what stands among them. -/
theorem vectorFloatLanes : Obligations.VectorFloatLanes := by
  unfold Obligations.VectorFloatLanes
  refine ⟨?lanes, ?fl⟩
  case lanes =>
    intro s f unit float _ w c a b va vb vc fl nan
    simp only [List.forall_mem_cons, List.not_mem_nil, false_imp_iff, implies_true, and_true]
    refine ⟨⟨?add, ?sub, ?mul, ?abd⟩, ?fma, ?fms, ?fnma⟩
    case abd =>
      refine laneSem_wise s _ f _ 3 _ _ unit (both_float float rfl) fun j _ => ?_
      rw [List.map_cons, List.map_cons, List.map_nil, flAbd_eq]
      cases sumVals f.rm.toNat [va j, (vb j).neg] <;> exact ⟨rfl, rfl⟩
    case fma | fms | fnma => exact flLane_wise unit rfl fun _ => rfl
    all_goals exact flLane_wise unit (both_float float rfl) fun _ => rfl
  case fl =>
    intro c rm ts vs frac
    have exact : vs.map frac = vs.map exactOf := List.map_congr_left fun v _ => by cases v <;> rfl
    rw [exact]
    refine ⟨flSum_nan, flSum_none, fun noNan pos neg => ?bothSigns, fun n noNan here alone => ?oneSign, fun zeros _ => flSum_zeros zeros,
      fun terms fin zero => ?cancels, fun terms nonzero => ?rounds⟩
    case bothSigns =>
      rw [flSum_some noNan, sumVals_bothInf pos neg]
      rfl
    case oneSign =>
      rw [flSum_some noNan, sumVals_inf here alone]
      rfl
    case cancels =>
      obtain ⟨noNan, finite⟩ := not_mem_special terms
      obtain ⟨i, e, mem⟩ := fin
      have some : vs.any Val.isFin = true := List.any_eq_true.mpr ⟨_, mem, rfl⟩
      rw [flSum_some noNan, sumVals_finite rm finite, if_neg (not_not.mpr ((total_eq_zero_iff vs).mpr zero)), if_pos some]
      rfl
    case rounds =>
      obtain ⟨noNan, finite⟩ := not_mem_special terms
      refine ⟨(total vs).1, (total vs).2, ?_, total_exact vs⟩
      rw [flSum_some noNan, sumVals_finite rm finite, if_pos (mt (total_eq_zero_iff vs).mp nonzero)]
      rfl

end Sys2Proof.Machine
end

section
/-! PROOFS. The order of float lanes, and the lane operations that round nothing (spec 07 R120, 12 R210). -/

namespace Sys2Proof.Machine

/-! ## The order of values -/

theorem exact_lt_iff {i j n m : Int} {e d q : Int} (left : (i : ℚ) * 2 ^ e = n * 2 ^ q) (right : (j : ℚ) * 2 ^ d = m * 2 ^ q) :
    (i : ℚ) * 2 ^ e < j * 2 ^ d ↔ n < m := by
  have unit : (0 : ℚ) < 2 ^ q := by positivity
  rw [left, right, mul_lt_mul_iff_left₀ unit, Int.cast_lt]

theorem lt0_fin_fin (i e j d : Int) : (Val.fin i e).lt0 (.fin j d) = decide ((i : ℚ) * 2 ^ e < j * 2 ^ d) := by
  have sum := addFin_exact i e (-j) d
  have unit : (0 : ℚ) < 2 ^ (addFin i e (-j) d).2 := by positivity
  show decide ((addFin i e (-j) d).1 < 0) = _
  rw [decide_eq_decide, ← Int.cast_lt (R := ℚ), ← mul_lt_mul_iff_left₀ unit, sum]
  push_cast
  rw [zero_mul, neg_mul, ← sub_eq_add_neg, sub_neg]

theorem lt0_fin_zero (i e : Int) (n : Bool) : (Val.fin i e).lt0 (.zero n) = decide (i < 0) := rfl
theorem lt0_zero_fin (i e : Int) (n : Bool) : (Val.zero n).lt0 (.fin i e) = decide (0 < i) := rfl
theorem lt0_fin_inf (i e : Int) (n : Bool) : (Val.fin i e).lt0 (.inf n) = !n := by cases n <;> rfl
theorem lt0_inf_fin (i e : Int) (n : Bool) : (Val.inf n).lt0 (.fin i e) = n := by cases n <;> rfl
theorem lt0_zero_zero (m n : Bool) : (Val.zero m).lt0 (.zero n) = (m && !n) := by cases m <;> cases n <;> rfl
theorem lt0_zero_inf (m n : Bool) : (Val.zero m).lt0 (.inf n) = !n := by cases m <;> cases n <;> rfl
theorem lt0_inf_zero (m n : Bool) : (Val.inf m).lt0 (.zero n) = m := by cases m <;> cases n <;> rfl
theorem lt0_inf_inf (m n : Bool) : (Val.inf m).lt0 (.inf n) = (m && !n) := by cases m <;> cases n <;> rfl

theorem lt0_nan_left (v : Val) : Val.nan.lt0 v = false := by
  cases v with
  | inf n | zero n => cases n <;> rfl
  | nan | fin => rfl

/-- Two values are not each below the other (R210). -/
theorem lt0_asymm {a b : Val} (below : a.lt0 b = true) : b.lt0 a = false := by
  cases a with
  | nan => rw [lt0_nan_left] at below; cases below
  | inf m => cases b with
    | nan => exact lt0_nan_left _
    | inf n | zero n | fin => simp_all [lt0_inf_inf, lt0_inf_zero, lt0_zero_inf, lt0_inf_fin, lt0_fin_inf]
  | zero m => cases b with
    | nan => exact lt0_nan_left _
    | inf n | zero n => simp_all [lt0_zero_inf, lt0_inf_zero, lt0_zero_zero]
    | fin i e =>
      rw [lt0_zero_fin, decide_eq_true_eq] at below
      rw [lt0_fin_zero, decide_eq_false (by omega)]
  | fin i e => cases b with
    | nan => exact lt0_nan_left _
    | inf n => simp_all [lt0_inf_fin, lt0_fin_inf]
    | zero n =>
      rw [lt0_fin_zero, decide_eq_true_eq] at below
      rw [lt0_zero_fin, decide_eq_false (by omega)]
    | fin j d =>
      rw [lt0_fin_fin, decide_eq_true_eq] at below
      rw [lt0_fin_fin, decide_eq_false below.not_gt]

theorem lt0_irrefl (a : Val) : a.lt0 a = false := by
  by_contra below
  exact below (lt0_asymm (Bool.eq_true_of_not_eq_false below))

/-! ## Binary patterns with infinities -/

/-- The magnitude of a binary pattern without its sign, in units of the least one (R120). -/
def binNum (F : BinFmt) (m : Nat) : Nat := if m / 2 ^ F.fb = 0 then m % 2 ^ F.fb else (2 ^ F.fb + m % 2 ^ F.fb) * 2 ^ (m / 2 ^ F.fb - 1)

/-- A larger pattern has a larger magnitude (R120). -/
theorem binNum_strictMono (F : BinFmt) : StrictMono (binNum F) := by
  intro m n less
  have fracM : m % 2 ^ F.fb < 2 ^ F.fb := Nat.mod_lt _ (Nat.two_pow_pos _)
  have digitsM := Nat.div_add_mod m (2 ^ F.fb)
  have digitsN := Nat.div_add_mod n (2 ^ F.fb)
  have expos := Nat.div_le_div_right (c := 2 ^ F.fb) less.le
  unfold binNum
  generalize m / 2 ^ F.fb = e, m % 2 ^ F.fb = p, n / 2 ^ F.fb = d, n % 2 ^ F.fb = q at *
  rcases expos.lt_or_eq with lower | rfl
  · have upper : (if e = 0 then p else (2 ^ F.fb + p) * 2 ^ (e - 1)) < 2 ^ (F.fb + e) := by
      split
      · next zero => rwa [zero, Nat.add_zero]
      · next some =>
        calc (2 ^ F.fb + p) * 2 ^ (e - 1)
          _ < 2 ^ (F.fb + 1) * 2 ^ (e - 1) := Nat.mul_lt_mul_of_pos_right (by omega) (Nat.two_pow_pos _)
          _ = 2 ^ (F.fb + e) := by rw [← pow_add]; congr 1; omega
    rw [if_neg (show d ≠ 0 by omega)]
    calc _ < 2 ^ (F.fb + e) := upper
      _ ≤ 2 ^ (F.fb + (d - 1)) := Nat.pow_le_pow_right (by norm_num) (by omega)
      _ = 2 ^ F.fb * 2 ^ (d - 1) := pow_add ..
      _ ≤ (2 ^ F.fb + q) * 2 ^ (d - 1) := Nat.mul_le_mul_right _ (Nat.le_add_right ..)
  · split
    · omega
    · exact Nat.mul_lt_mul_of_pos_right (by omega) (Nat.two_pow_pos _)

theorem binNum_zero (F : BinFmt) : binNum F 0 = 0 := by simp [binNum]

/-- A binary format with infinities whose NaNs are the patterns above them: those of the float lanes (R120, R167). -/
structure LaneFmt (c : Nat) (F : BinFmt) : Prop where
  kind : fmtKind c = some (.bin F)
  inf : F.hasInf = true
  notF8 : F.eb ≠ 4
  exps : 0 < F.eb

/-- Bits below the sign (R120). -/
def BinFmt.body (F : BinFmt) : Nat := F.eb + F.fb
/-- The pattern of an infinity without its sign (R120). -/
def BinFmt.top (F : BinFmt) : Nat := (2 ^ F.eb - 1) * 2 ^ F.fb
/-- The number of a finite pattern with its sign, in units of the least one (R120). -/
def binSigned (F : BinFmt) (x : Nat) : Int := if 2 ^ F.body ≤ x then -(binNum F (x % 2 ^ F.body)) else binNum F (x % 2 ^ F.body)

/-- What value a pattern reads as, by where it stands below its sign (R120). -/
inductive BinReads (F : BinFmt) (x : Nat) : Val → Prop
  | nan : BinReads F x .nan
  | zero (none : x % 2 ^ F.body = 0) : BinReads F x (.zero (decide (2 ^ F.body ≤ x)))
  | fin {i e : Int} (some : 0 < x % 2 ^ F.body) (finite : x % 2 ^ F.body < F.top)
      (exact : (i : ℚ) * 2 ^ e = binSigned F x * 2 ^ (1 - (F.bias : Int) - F.fb)) : BinReads F x (.fin i e)
  | inf (top : x % 2 ^ F.body = F.top) : BinReads F x (.inf (decide (2 ^ F.body ≤ x)))

/-- The type of a float lane has such a format, as wide as its lanes (R167). -/
theorem laneFmt_of_type {ty : Nat} (low : 8 ≤ ty) (high : ty ≤ 10) : ∃ F, LaneFmt (ty - 8) F ∧ tyWidth ty = F.body + 1 := by
  obtain rfl | rfl | rfl : ty = 8 ∨ ty = 9 ∨ ty = 10 := by omega
  · exact ⟨⟨8, 23, 127, true⟩, ⟨rfl, rfl, by decide, by decide⟩, rfl⟩
  · exact ⟨⟨8, 7, 127, true⟩, ⟨rfl, rfl, by decide, by decide⟩, rfl⟩
  · exact ⟨⟨5, 10, 15, true⟩, ⟨rfl, rfl, by decide, by decide⟩, rfl⟩

section Patterns
variable {c : Nat} {F : BinFmt} {x y : Nat}

theorem mkVal_pos (neg : Bool) {m : Nat} (some : 0 < m) (e : Int) : mkVal neg m e = .fin (if neg then -(m : Int) else m) e :=
  if_neg some.ne'

/-- A nonzero mantissa that stands for the pattern's magnitude reads as its finite value. -/
theorem BinReads.mkVal {n : Nat} {e : Int} (pos : 0 < n) (some : 0 < x % 2 ^ F.body) (finite : x % 2 ^ F.body < F.top)
    (exact : (n : ℚ) * 2 ^ e = binNum F (x % 2 ^ F.body) * 2 ^ (1 - (F.bias : Int) - F.fb)) : BinReads F x (mkVal (decide (2 ^ F.body ≤ x)) n e) := by
  rw [mkVal_pos _ pos]
  refine .fin some finite ?_
  rw [binSigned]
  by_cases neg : 2 ^ F.body ≤ x
  · rw [if_pos (decide_eq_true neg), if_pos neg]
    push_cast
    rw [neg_mul, exact, neg_mul]
  · rw [if_neg (by simpa using neg), if_neg neg]
    exact_mod_cast exact

/-- Every pattern as wide as the format reads as its place says (R120). -/
theorem valOf_reads (fmt : LaneFmt c F) (small : x < 2 ^ (F.body + 1)) : BinReads F x (valOf c x) := by
  obtain ⟨kind, hasInf, notF8, exps⟩ := fmt
  have expo : bits x F.fb F.eb = x % 2 ^ F.body / 2 ^ F.fb := by rw [bits, BinFmt.body, Nat.add_comm, pow_add, Nat.mod_mul_right_div_self]
  have frac : bits x 0 F.fb = x % 2 ^ F.body % 2 ^ F.fb := by
    rw [bits, pow_zero, Nat.div_one, BinFmt.body, Nat.mod_mod_of_dvd _ (pow_dvd_pow 2 (Nat.le_add_left ..))]
  have sign : bit x (F.eb + F.fb) = decide (2 ^ F.body ≤ x) := by
    rw [bit, beq_eq_decide, decide_eq_decide]
    exact topDigit_eq_one_iff small
  have value : valOf c x = if bits x F.fb F.eb = 2 ^ F.eb - 1 then (if bits x 0 F.fb = 0 then .inf (bit x (F.eb + F.fb)) else .nan)
      else if bits x F.fb F.eb = 0 then mkVal (bit x (F.eb + F.fb)) (bits x 0 F.fb) (1 - (F.bias : Int) - F.fb)
      else mkVal (bit x (F.eb + F.fb)) (2 ^ F.fb + bits x 0 F.fb) ((bits x F.fb F.eb : Int) - F.bias - F.fb) := by
    simp [valOf, kind, hasInf, notF8]
  have digits := Nat.div_add_mod (x % 2 ^ F.body) (2 ^ F.fb)
  have fracSmall : x % 2 ^ F.body % 2 ^ F.fb < 2 ^ F.fb := Nat.mod_lt _ (Nat.two_pow_pos _)
  have expoSmall : x % 2 ^ F.body / 2 ^ F.fb < 2 ^ F.eb := expo ▸ Nat.mod_lt _ (Nat.two_pow_pos _)
  have manyExps : 2 ≤ 2 ^ F.eb := Nat.le_self_pow exps.ne' 2
  rw [value, expo, frac, sign]
  split
  · next high =>
    split
    · next none => exact .inf (by rw [BinFmt.top, ← high, ← digits, none]; simp [Nat.mul_comm])
    · exact .nan
  · next notHigh =>
    have finite : x % 2 ^ F.body < F.top := (Nat.div_lt_iff_lt_mul (Nat.two_pow_pos _)).mp (by omega)
    split
    · next low =>
      rcases Nat.eq_zero_or_pos (x % 2 ^ F.body % 2 ^ F.fb) with none | some
      · rw [none]
        exact .zero (by rw [← digits, low, none]; rfl)
      · exact .mkVal some (by omega) finite (by rw [binNum, if_pos low])
    · next normal =>
      have some : 0 < x % 2 ^ F.body := Nat.pos_of_ne_zero fun zero => normal (by rw [zero, Nat.zero_div])
      refine .mkVal (by omega) some finite ?_
      rw [binNum, if_neg normal, two_zpow_eq (show 1 - (F.bias : Int) - F.fb ≤ (x % 2 ^ F.body / 2 ^ F.fb : Nat) - F.bias - F.fb by omega),
        show ((x % 2 ^ F.body / 2 ^ F.fb : Nat) - (F.bias : Int) - F.fb - (1 - (F.bias : Int) - F.fb)).toNat = x % 2 ^ F.body / 2 ^ F.fb - 1 by omega]
      push_cast
      ring

/-- The place of a pattern in the order of values, -0 below +0 (R210). -/
def orderKey (k x : Nat) : Int := if 2 ^ k ≤ x then -1 - (x % 2 ^ k : Nat) else (x % 2 ^ k : Nat)

/-- The place of a pattern by the pattern itself. -/
theorem orderKey_eq {k : Nat} (small : x < 2 ^ (k + 1)) : orderKey k x = if 2 ^ k ≤ x then ((2 ^ k : Nat) : Int) - 1 - x else x := by
  rw [pow_succ] at small
  unfold orderKey
  split
  · next high =>
    rw [Nat.mod_eq_sub_mod high, Nat.mod_eq_of_lt (by omega), Nat.cast_sub high]
    ring
  · next low => rw [Nat.mod_eq_of_lt (by omega)]

/-- Above a pattern no larger without its sign, a pattern is positive. -/
theorem positive_of_orderKey_lt {k : Nat} (bound : x % 2 ^ k ≤ y % 2 ^ k) (less : orderKey k x < orderKey k y) : ¬2 ^ k ≤ y := by
  unfold orderKey at less
  generalize x % 2 ^ k = m, y % 2 ^ k = n at *
  split at less <;> split at less <;> omega

/-- Below a pattern no larger without its sign, a pattern is negative. -/
theorem negative_of_orderKey_lt {k : Nat} (bound : y % 2 ^ k ≤ x % 2 ^ k) (less : orderKey k x < orderKey k y) : 2 ^ k ≤ x := by
  unfold orderKey at less
  generalize x % 2 ^ k = m, y % 2 ^ k = n at *
  split at less <;> split at less <;> omega

theorem BinReads.le_top {v : Val} (reads : BinReads F x v) (num : v ≠ .nan) : x % 2 ^ F.body ≤ F.top := by
  cases reads with
  | nan => exact absurd rfl num
  | zero none => omega
  | fin some finite => exact finite.le
  | inf top => exact top.le

theorem binSigned_of_zero (none : x % 2 ^ F.body = 0) : binSigned F x = 0 := by
  rw [binSigned, none, binNum_zero]
  split <;> rfl

/-- Patterns in order have numbers in order, unless both are zero. -/
theorem binSigned_lt (less : orderKey F.body x < orderKey F.body y) (some : 0 < x % 2 ^ F.body ∨ 0 < y % 2 ^ F.body) :
    binSigned F x < binSigned F y := by
  have mono := fun {a b : Nat} => (binNum_strictMono F).lt_iff_lt (a := a) (b := b)
  have positive : 0 < binNum F (x % 2 ^ F.body) ∨ 0 < binNum F (y % 2 ^ F.body) :=
    some.imp (fun h => binNum_zero F ▸ mono.mpr h) (fun h => binNum_zero F ▸ mono.mpr h)
  have ascend := mono (a := x % 2 ^ F.body) (b := y % 2 ^ F.body)
  have descend := mono (a := y % 2 ^ F.body) (b := x % 2 ^ F.body)
  unfold orderKey at less
  unfold binSigned
  generalize x % 2 ^ F.body = m, y % 2 ^ F.body = n at *
  split at less <;> split at less <;> simp only [*, if_true, if_false] <;> omega

theorem mantissa_pos_iff {i n : Int} {e q : Int} (exact : (i : ℚ) * 2 ^ e = n * 2 ^ q) : 0 < i ↔ 0 < n := by
  have unit : ∀ z : Int, (0 : ℚ) < 2 ^ z := fun z => by positivity
  rw [← Int.cast_pos (R := ℚ), ← Int.cast_pos (R := ℚ) (n := n), ← mul_pos_iff_of_pos_right (unit e), exact, mul_pos_iff_of_pos_right (unit q)]

theorem mantissa_neg_iff {i n : Int} {e q : Int} (exact : (i : ℚ) * 2 ^ e = n * 2 ^ q) : i < 0 ↔ n < 0 := by
  have flipped := mantissa_pos_iff (i := -i) (n := -n) (e := e) (q := q) (by push_cast; rw [neg_mul, exact, neg_mul])
  omega

theorem orderKey_inj {k : Nat} (smallX : x < 2 ^ (k + 1)) (smallY : y < 2 ^ (k + 1)) (same : orderKey k x = orderKey k y) : x = y := by
  rw [orderKey_eq smallX, orderKey_eq smallY] at same
  generalize 2 ^ k = h at same
  split at same <;> split at same <;> omega

/-- Values of patterns in order are in order (R210). -/
theorem lt0_of_orderKey (fmt : LaneFmt c F) (smallX : x < 2 ^ (F.body + 1)) (smallY : y < 2 ^ (F.body + 1)) (numX : valOf c x ≠ .nan)
    (numY : valOf c y ≠ .nan) (less : orderKey F.body x < orderKey F.body y) : (valOf c x).lt0 (valOf c y) = true := by
  have readX := valOf_reads fmt smallX
  have readY := valOf_reads fmt smallY
  have belowX := readX.le_top numX
  have belowY := readY.le_top numY
  have signed := binSigned_lt less
  have positive := positive_of_orderKey_lt (less := less)
  have negative := negative_of_orderKey_lt (less := less)
  generalize valOf c x = u at *
  generalize valOf c y = v at *
  cases readX with
  | nan => exact absurd rfl numX
  | zero noneX =>
    rw [binSigned_of_zero noneX] at signed
    rw [noneX] at positive negative
    cases readY with
    | nan => exact absurd rfl numY
    | zero noneY => rw [lt0_zero_zero, decide_eq_true (negative noneY.le), decide_eq_false (positive (Nat.zero_le _))]; rfl
    | fin some _ exact => rw [lt0_zero_fin, decide_eq_true_eq, mantissa_pos_iff exact]; exact signed (.inr some)
    | inf _ => rw [lt0_zero_inf, decide_eq_false (positive (Nat.zero_le _))]; rfl
  | fin someX finite exactX =>
    cases readY with
    | nan => exact absurd rfl numY
    | zero noneY =>
      rw [binSigned_of_zero noneY] at signed
      rw [lt0_fin_zero, decide_eq_true_eq, mantissa_neg_iff exactX]
      exact signed (.inl someX)
    | fin _ _ exactY => rw [lt0_fin_fin, decide_eq_true_eq, exact_lt_iff exactX exactY]; exact signed (.inl someX)
    | inf topY => rw [lt0_fin_inf, decide_eq_false (positive (topY ▸ finite.le))]; rfl
  | inf topX =>
    rw [topX] at positive negative
    cases readY with
    | nan => exact absurd rfl numY
    | zero _ => rw [lt0_inf_zero, decide_eq_true (negative belowY)]
    | fin _ finite _ => rw [lt0_inf_fin, decide_eq_true (negative belowY)]
    | inf topY => rw [lt0_inf_inf, decide_eq_true (negative belowY), decide_eq_false (positive topY.ge)]; rfl

/-- Patterns that are no NaN are ordered as their places are (R210). -/
theorem lt0_iff_orderKey (fmt : LaneFmt c F) (smallX : x < 2 ^ (F.body + 1)) (smallY : y < 2 ^ (F.body + 1)) (numX : valOf c x ≠ .nan)
    (numY : valOf c y ≠ .nan) : (valOf c x).lt0 (valOf c y) = true ↔ orderKey F.body x < orderKey F.body y := by
  refine ⟨fun below => ?_, lt0_of_orderKey fmt smallX smallY numX numY⟩
  by_contra notLess
  rcases (not_lt.mp notLess).lt_or_eq with greater | same
  · exact Bool.false_ne_true ((lt0_asymm (lt0_of_orderKey fmt smallY smallX numY numX greater)).symm.trans below)
  · rw [orderKey_inj smallY smallX same, lt0_irrefl] at below
    cases below

/-- The order of patterns by their sign and what stands below it. -/
theorem orderKey_lt_iff {k : Nat} (smallX : x < 2 ^ (k + 1)) (smallY : y < 2 ^ (k + 1)) : orderKey k x < orderKey k y ↔
    if 2 ^ k ≤ x then (if 2 ^ k ≤ y then y < x else True) else y < 2 ^ k ∧ x < y := by
  rw [orderKey_eq smallX, orderKey_eq smallY]
  rw [pow_succ] at smallX smallY
  generalize 2 ^ k = h at *
  split
  · split
    · omega
    · exact iff_of_true (by omega) trivial
  · split <;> omega

end Patterns

/-! ## Lanes -/

/-- VMIN and VMAX of two float lanes (R210). -/
theorem flMinMax_eq (f : VF) (larger : Bool) (x y : Nat) : let c := f.ty.toNat - 8
    flMinMax f larger x y = if valOf c x = .nan ∨ valOf c y = .nan then canonNan c
      else if (if larger then (valOf c x).lt0 (valOf c y) else (valOf c y).lt0 (valOf c x)) then y else x := by
  simp only [flMinMax, tyFmt, Bool.or_eq_true, beq_iff_eq]
  rfl

theorem flSign_eq (f : VF) (g : Nat → Nat) (x : Nat) : let c := f.ty.toNat - 8
    flSign f g [x] = (if valOf c x = .nan then canonNan c else g x, 0) := by
  simp only [flSign, tyFmt, arg, List.getD_cons_zero, beq_iff_eq]

/-! ## Encoding checks -/

theorem firstBad_isSome {l : List (Option Nat)} {n : Nat} (broken : some n ∈ l) : (firstBad l).isSome = true := by
  induction l with
  | nil => cases broken
  | cons x l ih =>
    cases x with
    | none => exact ih (by simpa using broken)
    | some => rfl

/-- A rounding mode where the row has none breaks the word (R169, R210). -/
theorem vBad_of_rm {r : VRow} {f : VF} (none : r.rm = .none) (set : f.rm ≠ 0) : (vBad r f).isSome = true := by
  refine firstBad_isSome (n := 2) ?_
  have bad : need 2 (rmOk r f) = some 2 := by
    rw [rmOk, none]
    exact if_neg (by simpa using set)
  simp only [bad, List.mem_cons, true_or, or_true]

/-- Settles O19: the order by places of patterns, each form by its lane, and the rounding mode by the row's check. -/
theorem floatExactLanes : Obligations.FloatExactLanes := by
  unfold Obligations.FloatExactLanes
  intro s f unit float high w c a b va vb nan below
  obtain ⟨F, fmt, width⟩ := laneFmt_of_type float high
  refine ⟨fun j num => ?order, ?min, ?max, ?abs, ?neg, fun set => ?rm⟩
  case order =>
    obtain ⟨numA, numB⟩ := not_or.mp num
    have smallA : a j < 2 ^ (F.body + 1) := width ▸ lane_lt ..
    have smallB : b j < 2 ^ (F.body + 1) := width ▸ lane_lt ..
    rw [lt0_iff_orderKey fmt smallA smallB numA numB, orderKey_lt_iff smallA smallB]
    simp only [below, w, width, Nat.add_sub_cancel]
  case min | max => exact bitLane_wise unit (both_float float rfl) fun _ _ => flMinMax_eq ..
  case abs | neg =>
    refine laneSem_wise s _ f _ 3 _ _ unit (both_float float rfl) fun j _ => ?_
    rw [List.map_cons, List.map_nil, flSign_eq]
    exact ⟨rfl, rfl⟩
  case rm =>
    simp only [List.forall_mem_cons, List.not_mem_nil, false_imp_iff, implies_true, and_true]
    exact ⟨vBad_of_rm rfl set, vBad_of_rm rfl set, vBad_of_rm rfl set, vBad_of_rm rfl set⟩

end Sys2Proof.Machine
end

section
/-! PROOFS. Movement of lanes: permutes, moves, widening, narrowing and prefixes (spec 12 R213 to R215, R217). -/

namespace Sys2Proof.Machine

/-! ## Forms that pick one lane for each lane -/

theorem tyWidth_cases (ty : Nat) : tyWidth ty = 8 ∨ tyWidth ty = 16 ∨ tyWidth ty = 32 := by
  unfold tyWidth
  split <;> simp

theorem pick_getD (l ix : List Nat) {j : Nat} (inside : j < ix.length) : (pick l ix).getD j 0 = l.getD (ix.getD j 0) 0 := by
  simp [pick, List.getD_eq_getElem?_getD, inside]

section Forms
variable {s : State} {i : Instr} {f : VF} {srcs : List (BitVec 6)} {w lat : Nat}

/-- A form that works on one list of lanes writes the result of each (R204). -/
theorem listForm_wise {l : View → List Nat} {op : List Nat → Nat × Flags} {g : Nat → Nat × Flags} (unit : onLan s = false)
    (form : exec i s = runOne i 1 (laneForm f srcs w lat (fun v => (l v).map fun x => [x]) op) s) (length : (l (hereView s 1)).length = 4096 / w)
    (value : ∀ j < 4096 / w, op [(l (hereView s 1)).getD j 0] = g j) : LaneWise s i f srcs w lat g := by
  refine laneForm_wise s i f srcs w lat _ op g unit form (by rw [List.length_map, length]) (fun j inside => ?_)
  have row : ((l (hereView s 1)).map fun x => [x]).getD j [] = [(l (hereView s 1)).getD j 0] := by
    simp [List.getD_eq_getElem?_getD, length, inside]
  rw [row, value j inside]
  exact ⟨rfl, rfl⟩

/-- A permute writes the lanes that its indices name (R214). -/
theorem perm_wise {l ix : Nat → List (List Nat) → List Nat} {v : Nat → Nat} (k : Nat → Nat) (unit : onLan s = false)
    (form : exec i s = runOne i 1 (permSem f srcs (fun n ls => pick (l n ls) (ix n ls))) s)
    (length : (ix (4096 / tyWidth f.ty.toNat) (srcs.map fun x => lanes (tyWidth f.ty.toNat) (src s f x))).length = 4096 / tyWidth f.ty.toNat)
    (index : ∀ j < 4096 / tyWidth f.ty.toNat, (ix (4096 / tyWidth f.ty.toNat) (srcs.map fun x => lanes (tyWidth f.ty.toNat) (src s f x))).getD j 0 = k j)
    (value : ∀ j < 4096 / tyWidth f.ty.toNat, (l (4096 / tyWidth f.ty.toNat) (srcs.map fun x => lanes (tyWidth f.ty.toNat) (src s f x))).getD (k j) 0 = v j) :
    LaneWise s i f srcs (tyWidth f.ty.toNat) 3 (fun j => (v j, 0)) := by
  refine listForm_wise unit form ((List.length_map _).trans length) (fun j inside => ?_)
  refine congrArg (fun x => (x, (0 : Flags))) ((pick_getD _ _ (inside.trans_eq length.symm)).trans ?_)
  rw [← value j inside, ← index j inside]
  rfl

end Forms

/-- Two registers of lanes side by side (R214). -/
theorem lanes_append_getD (w : Nat) (x y : Vec) {k : Nat} (inside : k < 2 * (4096 / w)) :
    (lanes w x ++ lanes w y).getD k 0 = if k < 4096 / w then lane w x k else lane w y (k - 4096 / w) := by
  rw [List.getD_eq_getElem?_getD, List.getElem?_append, lanes_length]
  split
  · next low => rw [lanes_getElem? w k x low]; rfl
  · rw [lanes_getElem? w _ y (by omega)]; rfl

theorem lanes_map_getD (w : Nat) (x : Vec) (g : Nat → Nat) {j : Nat} (inside : j < 4096 / w) : ((lanes w x).map g).getD j 0 = g (lane w x j) := by
  rw [List.getD_eq_getElem?_getD, List.getElem?_map, lanes_getElem? w j x inside]
  rfl

theorem range_map_getD (g : Nat → Nat) {j n : Nat} (inside : j < n) : ((List.range n).map g).getD j 0 = g j := by
  rw [List.getD_eq_getElem?_getD, List.getElem?_map, List.getElem?_range inside]
  rfl

theorem replicate_getD (x : Nat) {j n : Nat} (inside : j < n) : (List.replicate n x).getD j 0 = x := by
  rw [List.getD_eq_getElem?_getD, List.getElem?_replicate, if_pos inside]
  rfl

theorem lanes_pos (ty : Nat) : 0 < 4096 / tyWidth ty := by rcases tyWidth_cases ty with h | h | h <;> simp [h]

/-! ## Prefixes -/

/-- Exclusive or of bits 0 to j (R217). -/
def prefixBit (x : Vec) (j : Nat) : Bool := (List.range (j + 1)).foldl (fun q i => q ^^ x.getLsbD i) false

theorem foldl_xor_init (x : Vec) (l : List Nat) (b : Bool) : l.foldl (fun q i => q ^^ x.getLsbD i) b = (b ^^ l.foldl (fun q i => q ^^ x.getLsbD i) false) := by
  induction l generalizing b with
  | nil => simp
  | cons i l ih => rw [List.foldl_cons, List.foldl_cons, ih, ih (false ^^ _), Bool.false_xor, Bool.xor_assoc]

theorem prefixBit_succ (x : Vec) (j : Nat) : prefixBit x (j + 1) = (prefixBit x j ^^ x.getLsbD (j + 1)) := by
  rw [prefixBit, List.range_succ, List.foldl_append]
  rfl

/-- After n doublings a bit holds the exclusive or of the 2^n bits up to it: all up to it, without all up to the one 2^n lower (R217). -/
theorem doublings_getLsbD (x : Vec) (n : Nat) {j : Nat} (inside : j < 4096) :
    ((List.range n).foldl (fun (y : Vec) (k : Nat) => y ^^^ (y <<< (2 ^ k))) x).getLsbD j = (prefixBit x j ^^ (decide (2 ^ n ≤ j) && prefixBit x (j - 2 ^ n))) := by
  induction n generalizing j with
  | zero =>
    cases j with
    | zero => simp [prefixBit]
    | succ j =>
      rw [prefixBit_succ, pow_zero, decide_eq_true (Nat.le_add_left 1 j), Nat.add_sub_cancel]
      show x.getLsbD (j + 1) = _
      cases prefixBit x j <;> cases x.getLsbD (j + 1) <;> rfl
  | succ n ih =>
    rw [List.range_succ, List.foldl_append, List.foldl_cons, List.foldl_nil, BitVec.getLsbD_xor, BitVec.getLsbD_shiftLeft, ih inside]
    by_cases one : 2 ^ n ≤ j
    · have twice : 2 ^ n ≤ j - 2 ^ n ↔ 2 ^ (n + 1) ≤ j := by rw [pow_succ]; omega
      have back : j - 2 ^ n - 2 ^ n = j - 2 ^ (n + 1) := by rw [pow_succ]; omega
      rw [ih ((Nat.sub_le ..).trans_lt inside), back, decide_eq_decide.mpr twice, decide_eq_true one, decide_eq_true inside, decide_eq_false one.not_gt]
      cases prefixBit x j <;> cases prefixBit x (j - 2 ^ n) <;> cases decide (2 ^ (n + 1) ≤ j) && prefixBit x (j - 2 ^ (n + 1)) <;> rfl
    · have two : ¬2 ^ (n + 1) ≤ j := by rw [pow_succ]; omega
      simp [two, Nat.lt_of_not_le one, one]

theorem prefixXor_getLsbD (x : Vec) {j : Nat} (inside : j < 4096) : (prefixXor x).getLsbD j = prefixBit x j := by
  rw [prefixXor, doublings_getLsbD x 12 inside, decide_eq_false (by omega), Bool.false_and, Bool.xor_false]

theorem psumLanes_length (w : Nat) (zero : Bool) (acc : Nat) (es : List Bool) (os as : List Nat) : (psumLanes w zero acc es os as).length ≤ es.length := by
  induction es generalizing acc os as with
  | nil => simp [psumLanes]
  | cons e es ih => cases os <;> cases as <;> cases e <;> simp [psumLanes, ih]

/-- The running sum of enabled lanes (R217). -/
theorem psumLanes_getD (w : Nat) (zero : Bool) (acc : Nat) (es : List Bool) (os as : List Nat) {j : Nat} (e : j < es.length) (o : j < os.length) (a : j < as.length) :
    (psumLanes w zero acc es os as).getD j 0 =
      if es.getD j false then (acc + ((List.range (j + 1)).map fun i => if es.getD i false then as.getD i 0 else 0).sum) % 2 ^ w
      else if zero then 0 else os.getD j 0 := by
  induction es generalizing acc os as j with
  | nil => cases e
  | cons on es ih =>
    obtain ⟨old, os, rfl⟩ := List.exists_cons_of_length_pos (Nat.zero_lt_of_lt o)
    obtain ⟨x, as, rfl⟩ := List.exists_cons_of_length_pos (Nat.zero_lt_of_lt a)
    rw [List.range_succ_eq_map, List.map_cons, List.sum_cons, List.map_map]
    cases j with
    | zero => cases on <;> simp [psumLanes]
    | succ j =>
      have tail := fun acc => ih acc os as (by simpa using e) (by simpa using o) (by simpa using a)
      cases on with
      | false => simpa [psumLanes, Function.comp_def] using tail acc
      | true =>
        have step := tail ((acc + x) % 2 ^ w)
        rw [Nat.mod_add_mod, Nat.add_assoc] at step
        simpa [psumLanes, Function.comp_def] using step

/-! ## One lane and a scalar -/

section Scalar
variable {s : State} (unit : onLan s = false) (f : VF)
include unit

theorem vext_runs : let w := tyWidth f.ty.toNat
    Runs s (.vext f) 1 (vecOut s f f.sreg.toNat [f.a, f.b] 3
      (BitVec.ofNat 4096 (laneVal f (lane w (src s f f.a) (lane w (src s f f.b) 0 % (4096 / w))) % 2 ^ 64).toNat) [] 0) := by
  refine runs_of_view rfl ?_
  rw [semVext, unitOnly_view _ _ _ unit, vecOut, List.append_nil]
  simp only [lanes_getD _ 0 _ (lanes_pos _), lanes_getD _ _ _ (Nat.mod_lt _ (lanes_pos _)), wrap, tv_eq f _ (lane_lt ..), hereView_g, hereView_core]
  rfl

/-- The vector that VINS gives its destination (R215). -/
def insertedLane (s : State) (f : VF) : Vec :=
  let w := tyWidth f.ty.toNat
  ofLanes w ((lanes w (rdV (hereUnit s) f.d.toNat)).set (lane w (src s f f.b) 0 % (4096 / w)) ((reg s f.sreg).toNat % 2 ^ w))

omit unit in
theorem lane_insertedLane (s : State) {j : Nat} (inside : j < 4096 / tyWidth f.ty.toNat) : let w := tyWidth f.ty.toNat
    lane w (insertedLane s f) j = if j = lane w (src s f f.b) 0 % (4096 / w) then (reg s f.sreg).toNat % 2 ^ w else lane w (rdV (hereUnit s) f.d.toNat) j := by
  intro w
  rw [insertedLane, lane_ofLanes _ _ _ (by rw [List.length_set, lanes_length]), List.getD_eq_getElem?_getD, List.getElem?_set, lanes_length,
    lanes_getElem? w j _ inside]
  by_cases there : lane w (src s f f.b) 0 % (4096 / w) = j
  · rw [if_pos there, if_pos (there ▸ inside), if_pos there.symm]
    exact Nat.mod_mod _ _
  · rw [if_neg there, if_neg (Ne.symm there)]
    exact Nat.mod_eq_of_lt (lane_lt ..)

theorem vins_runs : Runs s (.vins f) 1 { vecOut s f (64 + f.d.toNat) [f.b] 2 (insertedLane s f) [] 0 with
    eff := lands s (64 + f.d.toNat) 2 (insertedLane s f) ([64 + f.d.toNat, f.sreg.toNat] ++ srcHs f [f.b.toNat]) (srcPsn (hereView s 1) [f.b.toNat]) 0 } := by
  refine runs_of_view rfl ?_
  rw [semVins, unitOnly_view _ _ _ unit]
  simp only [lanes_getD _ 0 _ (lanes_pos _), hereView_g, hereView_core, hereView_u, hereView_sr]
  rfl

/-- The vector that VPXOR gives its destination (R217). -/
def carriedPrefix (s : State) (f : VF) : Vec :=
  if bit (reg s f.sreg).toNat 0 then ~~~prefixXor (src s f f.a) else prefixXor (src s f f.a)

omit unit in
theorem carriedPrefix_getLsbD (s : State) {j : Nat} (inside : j < 4096) : (carriedPrefix s f).getLsbD j =
    (List.range (j + 1)).foldl (fun q i => q ^^ (src s f f.a).getLsbD i) ((reg s f.sreg).getLsbD 0) := by
  rw [foldl_xor_init, carriedPrefix, bit_eq_getLsbD, ← prefixBit, ← prefixXor_getLsbD _ inside]
  split
  · next set => rw [set, BitVec.getLsbD_not, decide_eq_true inside, Bool.true_and, Bool.true_xor]
  · next clear => rw [Bool.not_eq_true _ |>.mp clear, Bool.false_xor]

theorem vpxor_runs : Runs s (.vpxor f) 1 { vecOut s f (64 + f.d.toNat) [f.a] 3 (carriedPrefix s f) [] 0 with
    eff := lands s (64 + f.d.toNat) 3 (carriedPrefix s f) (f.sreg.toNat :: srcHs f [f.a.toNat]) (srcPsn (hereView s 1) [f.a.toNat]) 0 } := by
  refine runs_of_view rfl ?_
  rw [semVpxor, unitOnly_view _ _ _ unit]
  simp only [hereView_g, hereView_core, hereView_sr]
  rfl

/-- The vector that VPSUM gives its destination (R217). -/
def prefixSums (s : State) (f : VF) : Vec :=
  let w := tyWidth f.ty.toNat
  ofLanes w (psumLanes w (f.mz == 1) (lane w (src s f f.b) 0) (laneOn (hereView s 1) f w) (lanes w (rdV (hereUnit s) f.d.toNat)) (lanes w (src s f f.a)))

omit unit in
theorem lane_prefixSums (s : State) {j : Nat} (inside : j < 4096 / tyWidth f.ty.toNat) : let w := tyWidth f.ty.toNat
    lane w (prefixSums s f) j = if laneEn s f w j
      then (lane w (src s f f.b) 0 + ((List.range (j + 1)).map (fun i => if laneEn s f w i then lane w (src s f f.a) i else 0)).sum) % 2 ^ w
      else if f.mz = 1 then 0 else lane w (rdV (hereUnit s) f.d.toNat) j := by
  intro w
  have switches : (laneOn (hereView s 1) f w).length = 4096 / w := by rw [laneOn, maskBits_length]
  have sums : (List.range (j + 1)).map (fun i => if (laneOn (hereView s 1) f w).getD i false then (lanes w (src s f f.a)).getD i 0 else 0) =
      (List.range (j + 1)).map (fun i => if laneEn s f w i then lane w (src s f f.a) i else 0) :=
    List.map_congr_left fun i mem => by
      have within : i < 4096 / w := (Nat.lt_succ_iff.mp (List.mem_range.mp mem)).trans_lt inside
      rw [laneOn_view s f w within, lanes_getD w i _ within]
  rw [prefixSums, lane_ofLanes _ _ _ ((psumLanes_length ..).trans switches.le),
    psumLanes_getD _ _ _ _ _ _ (inside.trans_eq switches.symm) (by rwa [lanes_length]) (by rwa [lanes_length]), sums, laneOn_view s f w inside, lanes_getD w j _ inside]
  simp only [beq_iff_eq]
  split
  · exact Nat.mod_mod _ _
  · split
    · exact Nat.zero_mod _
    · exact Nat.mod_eq_of_lt (lane_lt ..)

theorem vpsum_runs : Runs s (.vpsum f) 1 (vecOut s f (64 + f.d.toNat) [f.a, f.b] 4 (prefixSums s f) (maskHs f (64 + f.d.toNat)) 0) := by
  refine runs_of_view rfl ?_
  rw [semVpsum, unitOnly_view _ _ _ unit]
  simp only [lanes_getD _ 0 _ (lanes_pos _), hereView_g, hereView_core, hereView_u]
  rfl

end Scalar

/-- Settles O20: permutes by the lanes they pick, and the others by what they ask for and the lanes of their value. -/
theorem vectorMovement : Obligations.VectorMovement := by
  unfold Obligations.VectorMovement
  refine ⟨?lanes, ?words⟩
  case lanes =>
    intro s f unit int w n a b c cat
    have some : 0 < n := lanes_pos _
    have one : ∀ x j, j < n → (lanes w x).getD j 0 = lane w x j := fun x j inside => lanes_getD w j x inside
    have two : ∀ j, j < 2 * n → (lanes w (src s f f.a) ++ lanes w (src s f f.b)).getD j 0 = cat j := fun j inside => lanes_append_getD w _ _ inside
    have low : ∀ k < n, cat k = a k := fun k inside => if_pos inside
    have high : ∀ k, cat (n + k) = b k := fun k => by simp [cat]
    obtain ⟨even, wider, half⟩ : n = 2 * (n / 2) ∧ 4096 / (2 * w) = n / 2 ∧ 2048 / w = n / 2 := by
      rcases tyWidth_cases f.ty.toNat with h | h | h <;> simp [n, w, h]
    have widened : ∀ {x k}, x = a k → wrap (tv f.ty.toNat x) (2 * w) = (laneVal f (a k) % 2 ^ (2 * w)).toNat := by
      rintro _ k rfl
      rw [tv_eq f _ (lane_lt ..), wrap]
    simp only [List.forall_mem_cons, List.not_mem_nil, false_imp_iff, implies_true, and_true]
    refine ⟨⟨?perm, ?rot, ?zipLo, ?zipHi, ?unzipE, ?unzipO, ?bcast⟩, ?perm2, ?slide, ?mov, fun narrow => ⟨?widenLo, ?widenHi⟩, fun wide => ?narrow⟩
    case mov => exact bitLane_wise unit rfl fun _ _ => rfl
    case perm =>
      exact perm_wise (fun j => b j % n) unit rfl (by simp [ln]) (fun j inside => lanes_map_getD w _ _ inside) (fun j _ => one _ _ (Nat.mod_lt _ some))
    case rot =>
      exact perm_wise (fun j => (j + b 0 % n) % n) unit rfl (by simp)
        (fun j inside => (range_map_getD _ inside).trans (congrArg (fun z => (j + z % n) % n) (one _ 0 some))) (fun j _ => one _ _ (Nat.mod_lt _ some))
    case bcast =>
      exact perm_wise (fun j => b 0 % n) unit rfl (by simp) (fun j inside => (replicate_getD _ inside).trans (congrArg (· % n) (one _ 0 some)))
        (fun j _ => one _ _ (Nat.mod_lt _ some))
    case perm2 =>
      exact perm_wise (fun j => c j % (2 * n)) unit rfl (by simp [ln]) (fun j inside => lanes_map_getD w _ _ inside) (fun j _ => two _ (Nat.mod_lt _ (by omega)))
    case slide =>
      exact perm_wise (fun j => (j + c 0 % (2 * n)) % (2 * n)) unit rfl (by simp)
        (fun j inside => (range_map_getD _ inside).trans (congrArg (fun z => (j + z % (2 * n)) % (2 * n)) (one _ 0 some))) (fun j _ => two _ (Nat.mod_lt _ (by omega)))
    case unzipE => exact perm_wise (fun j => 2 * j) unit rfl (by simp) (fun j inside => range_map_getD _ inside) (fun j (inside : j < n) => two _ (by omega))
    case unzipO => exact perm_wise (fun j => 2 * j + 1) unit rfl (by simp) (fun j inside => range_map_getD _ inside) (fun j (inside : j < n) => two _ (by omega))
    case zipLo =>
      refine perm_wise (fun j => if j % 2 = 0 then j / 2 else n + j / 2) unit rfl (by simp) (fun j inside => range_map_getD _ inside) (fun j (inside : j < n) => ?_)
      refine (two _ (by split <;> omega)).trans ?_
      by_cases left : j % 2 = 0
      · simp only [if_pos left, low (j / 2) (by omega)]
      · simp only [if_neg left, high]
    case zipHi =>
      refine perm_wise (fun j => if j % 2 = 0 then j / 2 + n / 2 else n + j / 2 + n / 2) unit rfl (by simp) (fun j inside => range_map_getD _ inside)
        (fun j (inside : j < n) => ?_)
      refine (two _ (by split <;> omega)).trans ?_
      by_cases left : j % 2 = 0
      · simp only [if_pos left, low (j / 2 + n / 2) (by omega)]
      · simp only [if_neg left, Nat.add_assoc, high]
    case widenLo =>
      refine listForm_wise unit rfl (by rw [List.length_take, lanes_length]; show min (2048 / w) n = 4096 / (2 * w); omega) (fun j inside => ?_)
      have there : ((lanes w (src s f f.a)).take (2048 / w)).getD j 0 = a j := by
        rw [List.getD_eq_getElem?_getD, List.getElem?_take_of_lt (by omega), lanes_getElem? w j _ (by omega)]
        rfl
      exact congrArg (fun x => (x, (0 : Flags))) (widened there)
    case widenHi =>
      refine listForm_wise unit rfl (by rw [List.length_drop, lanes_length]; show n - 2048 / w = 4096 / (2 * w); omega) (fun j inside => ?_)
      have there : ((lanes w (src s f f.a)).drop (2048 / w)).getD j 0 = a (j + n / 2) := by
        rw [List.getD_eq_getElem?_getD, List.getElem?_drop, half, Nat.add_comm, lanes_getElem? w _ _ (by omega)]
        rfl
      exact congrArg (fun x => (x, (0 : Flags))) (widened there)
    case narrow =>
      have double : 4096 / (w / 2) = 2 * n := by rcases tyWidth_cases f.ty.toNat with h | h | h <;> simp [n, w, h] at wide ⊢
      refine listForm_wise unit rfl (by rw [List.length_append, lanes_length, lanes_length]; show n + n = 4096 / (w / 2); omega) (fun j inside => ?_)
      have small : cat j < 2 ^ w := by simp only [cat]; split <;> exact lane_lt ..
      show (wrap (clampI (tv f.ty.toNat ((lanes w (src s f f.a) ++ lanes w (src s f f.b)).getD j 0)) _ _) (w / 2), (0 : Flags)) = _
      rw [two j (by omega), tv_eq f _ small, clampI_ty, wrap]
  case words =>
    intro s f unit int w n a b old x
    exact ⟨vext_runs unit f, ⟨_, fun j inside => lane_insertedLane f s inside, vins_runs unit f⟩, ⟨_, fun j inside => carriedPrefix_getLsbD f s inside, vpxor_runs unit f⟩,
      ⟨_, fun j inside => lane_prefixSums f s inside, vpsum_runs unit f⟩⟩

end Sys2Proof.Machine
end

section
/-! PROOFS. Conversions of vector elements between formats and scales (spec 07 R130, 12 R211, R212). -/

namespace Sys2Proof.Machine

/-! ## Lists of elements -/

/-- The lanes of a vector, by their numbers. -/
theorem lanes_eq_map (w : Nat) (x : Vec) : lanes w x = (List.range (4096 / w)).map (lane w x) := by
  refine List.map_congr_left fun j _ => ?_
  rw [lane, BitVec.extractLsb'_toNat, Nat.shiftRight_eq_div_pow]

/-- A run of k elements of a list that is told by number. -/
theorem range_map_run {α : Type} (l : Nat → α) {m k n : Nat} (within : m + k ≤ n) :
    (((List.range n).map l).drop m).take k = (List.range k).map (fun j => l (m + j)) := by
  refine List.ext_getElem? fun j => ?_
  by_cases inside : j < k
  · rw [List.getElem?_take_of_lt inside, List.getElem?_drop, List.getElem?_map, List.getElem?_map, List.getElem?_range (by omega), List.getElem?_range inside]
    rfl
  · rw [List.getElem?_take_eq_none (by omega), List.getElem?_eq_none (by simpa using inside)]

theorem lanes_take (w : Nat) (x : Vec) {n : Nat} (within : n ≤ 4096 / w) : (lanes w x).take n = (List.range n).map (lane w x) := by
  rw [lanes_eq_map, ← List.map_take, List.take_range, min_eq_left within]

/-- Numbers cut into blocks of m, one block after the other. -/
theorem range_blocks (m k : Nat) : (List.range k).flatMap (fun b => (List.range m).map (m * b + ·)) = List.range (m * k) := by
  induction k with
  | zero => rfl
  | succ k ih => rw [List.range_succ, List.flatMap_append, ih, List.flatMap_singleton, Nat.mul_succ, List.range_add]

/-- A list worked on block by block, its elements by their numbers. -/
theorem flatMap_blocks {α β : Type} (l : Nat → α) (h : Nat → α → β) {m : Nat} (some : 0 < m) (k : Nat) :
    (List.range k).flatMap (fun b => ((((List.range (m * k)).map l).drop (m * b)).take m).map (h b)) = (List.range (m * k)).map (fun j => h (j / m) (l j)) := by
  have numbered : (List.range (m * k)).map (fun j => h (j / m) (l j)) =
      (List.range k).flatMap (fun b => ((List.range m).map (m * b + ·)).map (fun j => h (j / m) (l j))) := by rw [← range_blocks, List.map_flatMap]
  rw [numbered]
  refine List.flatMap_congr fun b mem => ?_
  have last : m * b + m ≤ m * k := by
    rw [← Nat.mul_succ]
    exact Nat.mul_le_mul_left m (List.mem_range.mp mem)
  rw [range_map_run l last, List.map_map, List.map_map]
  refine List.map_congr_left fun j inside => ?_
  simp [Nat.mul_add_div some, Nat.div_eq_of_lt (List.mem_range.mp inside)]

/-- Elements spelled from the lowest lane up, zero above the last (R211, R212). -/
theorem lane_elements (w : Nat) (g : Nat → Nat × Flags) {n j : Nat} (within : n ≤ 4096 / w) :
    lane w (ofLanes w (((List.range n).map g).map Prod.fst)) j = if j < n then (g j).1 % 2 ^ w else 0 := by
  rw [lane_ofLanes _ _ _ (by simpa using within), List.map_map]
  split
  · next inside => rw [range_map_getD _ inside]; rfl
  · next above => simp [List.getD_eq_getElem?_getD, above]

/-! ## Formats and counts -/

theorem fmtW_pos : ∀ c < 32, 0 < fmtW c := by decide

theorem div_max_le (n a : Nat) {b : Nat} (some : 0 < b) : n / max a b ≤ n / b := Nat.div_le_div_left (le_max_right a b) some

theorem blocks_le (m n d : Nat) : m * (n / (m * d)) ≤ n / d := by
  rw [Nat.mul_comm m d, ← Nat.div_div_eq_div_mul]
  exact Nat.mul_div_le ..

/-- The unscaled code of a scaled one (R117). -/
theorem fmtBase_scaled {c : Nat} (low : 0x11 ≤ c) (high : c ≤ 0x16) : fmtBase c = c - 16 := by
  rw [fmtBase, fmtScaled, decide_eq_true low, decide_eq_true high]
  rfl

/-- A form that writes a whole register runs to its value (R206). -/
theorem whole_runs {s : State} {i : Instr} {f : VF} {srcs : List (BitVec 6)} {lat : Nat} {op : View → Vec × Flags} {y : Vec} {fl : Flags}
    (unit : onLan s = false) (form : exec i s = runOne i 1 (wholeSem f srcs lat op) s) (value : op (hereView s 1) = (y, fl)) :
    Runs s i 1 (vecOut s f (64 + f.d.toNat) srcs lat y [] fl) := by
  refine runs_of_view form ?_
  rw [wholeSem, unitOnly_view _ _ _ unit, vecOut, List.append_nil]
  simp only [value, hereView_g, hereView_core]
  rfl

/-- VCVT as elements by number (R211). -/
theorem cvtVec_eq (f : VF) (x : Vec) {fs ft : Nat} (source : bits f.imm.toNat 11 5 = fs) (target : bits f.imm.toNat 6 5 = ft) (some : 0 < fmtW fs) :
    let g := fun j => roundTo ft (valOf fs (lane (fmtW fs) x j)) f.rm.toNat
    let n := 4096 / max (fmtW fs) (fmtW ft)
    cvtVec f x = (ofLanes (fmtW ft) (((List.range n).map g).map Prod.fst), (List.range n).foldl (fun x j => x ||| (g j).2) 0) := by
  intro g n
  have elements : (lanes (fmtW fs) x).take (4096 / max (fmtW fs) (fmtW ft)) = (List.range n).map (lane (fmtW fs) x) :=
    lanes_take _ _ (Nat.div_le_div_left (le_max_left ..) some)
  rw [cvtVec, source, target]
  simp only [elements, List.map_map, List.foldl_map]
  rfl

/-- VRQ as elements by number (R212). -/
theorem rqVec_eq (f : VF) (x y z : Vec) {fs ft : Nat} (source : fmtBase (bits f.imm.toNat 11 5) = fs) (target : fmtBase (bits f.imm.toNat 6 5) = ft)
    (some : 0 < fmtW fs) :
    let n := 24 * (4096 / (24 * max (fmtW fs) (fmtW ft)))
    let g := fun j => requant fs (lane 8 y (j / 24)) ft (lane 8 z (j / 24)) (lane (fmtW fs) x j) f.rm.toNat
    rqVec f x y z = (ofLanes (fmtW ft) (((List.range n).map g).map Prod.fst), (List.range n).foldl (fun x j => x ||| (g j).2) 0) := by
  intro n g
  have within : n ≤ 4096 / fmtW fs := (blocks_le ..).trans (Nat.div_le_div_left (le_max_left ..) some)
  rw [rqVec, source, target]
  have blocks := flatMap_blocks (lane (fmtW fs) x) (fun b e => requant fs (lane 8 y b) ft (lane 8 z b) e f.rm.toNat) (m := 24) (by norm_num)
    (4096 / (24 * max (fmtW fs) (fmtW ft)))
  rw [← lanes_take _ _ within] at blocks
  rw [← List.foldl_map (f := g) (g := fun (x : Flags) r => x ||| r.2), show (List.range n).map g = _ from blocks.symm]
  rfl

/-- Settles O21: each form by its elements. -/
theorem vectorConversions : Obligations.VectorConversions := by
  unfold Obligations.VectorConversions
  intro s f unit fs ft
  have source : bits f.imm.toNat 11 5 = fs := Nat.mod_eq_of_lt (by omega)
  have target : bits f.imm.toNat 6 5 = ft := rfl
  have some : ∀ c < 32, 0 < fmtW c := fmtW_pos
  refine ⟨⟨_, fun j _ => lane_elements _ _ (div_max_le _ _ (some ft (by omega))), whole_runs unit rfl (cvtVec_eq f _ source target (some fs (by omega)))⟩,
    fun lowS highS lowT highT => ⟨_, fun j _ => lane_elements _ _ ((blocks_le ..).trans (div_max_le _ _ (some (ft - 16) (by omega)))),
      whole_runs unit rfl (rqVec_eq f _ _ _ ?_ ?_ (some (fs - 16) (by omega)))⟩⟩
  · rw [source, fmtBase_scaled lowS highS]
  · rw [target, fmtBase_scaled lowT highT]

end Sys2Proof.Machine
end

section
/-! PROOFS. Reductions of enabled lanes (spec 12 R218). -/

namespace Sys2Proof.Machine

/-! ## The lanes reduced -/

/-- The switches of the lanes, by their numbers (R204). -/
theorem laneOn_eq_map (s : State) (f : VF) (w : Nat) : laneOn (hereView s 1) f w = (List.range (4096 / w)).map (laneEn s f w) := by
  rw [laneOn, maskBits, hereView_u]
  rfl

/-- The enabled lanes, each with its index (R204). -/
theorem onLanes_view (s : State) (f : VF) : let w := tyWidth f.ty.toNat
    onLanes (hereView s 1) f = (laneHits s f w).map (fun j => (j, lane w (src s f f.a) j)) := by
  intro w
  have numbered : (lanes w (src s f f.a)).mapIdx (fun i x => (i, x)) = (List.range (4096 / w)).map (fun i => (i, lane w (src s f f.a) i)) := by
    rw [lanes_eq_map]
    exact List.ext_getElem (by simp) (fun j _ _ => by simp)
  have onlyHits := filterMap_marked (List.range (4096 / w)) (laneEn s f w) (lane w (src s f f.a))
  rw [List.filterMap_map] at onlyHits
  rw [onLanes, laneOn_eq_map, ← src, numbered, List.zip_map', List.filterMap_map, laneHits, ← onlyHits]
  rfl

/-- What stands before and after an enabled lane. -/
theorem laneHits_split {s : State} {f : VF} {w j : Nat} (hit : j ∈ laneHits s f w) :
    ∃ pre post, laneHits s f w = pre ++ j :: post ∧ (∀ i ∈ pre, i ∈ laneHits s f w ∧ i < j) ∧ ∀ i ∈ post, i ∈ laneHits s f w := by
  obtain ⟨pre, post, split⟩ := List.append_of_mem hit
  have ascending := laneHits_ascending s f w
  rw [split, List.pairwise_append] at ascending
  obtain ⟨-, -, before⟩ := ascending
  exact ⟨pre, post, split, fun i mem => ⟨by simp [split, mem], before i mem j List.mem_cons_self⟩, fun i mem => by simp [split, mem]⟩

/-! ## The first best of a list -/

section Best
variable {α : Type} {better : α → α → Bool}

theorem foldl_best_keeps {x : α} (l : List α) (best : ∀ y ∈ l, better y x = false) : l.foldl (fun q y => if better y q then y else q) x = x := by
  induction l with
  | nil => rfl
  | cons y l ih =>
    obtain ⟨head, tail⟩ := List.forall_mem_cons.mp best
    rw [List.foldl_cons, head, if_neg Bool.false_ne_true, ih tail]

theorem foldl_best_mem (l : List α) (p : α) : l.foldl (fun q y => if better y q then y else q) p ∈ p :: l := by
  induction l generalizing p with
  | nil => exact List.mem_cons_self
  | cons y l ih =>
    have mem := ih (if better y p then y else p)
    rw [List.foldl_cons]
    rcases List.mem_cons.mp mem with same | later
    · rw [same]
      split <;> simp
    · simp [later]

/-- The one that betters all before it and that none after it betters is what remains (R218). -/
theorem foldl_best_first {p x : α} {r pre post : List α} (split : p :: r = pre ++ x :: post) (first : ∀ y ∈ pre, better x y = true)
    (best : ∀ y ∈ post, better y x = false) : r.foldl (fun q y => if better y q then y else q) p = x := by
  cases pre with
  | nil =>
    obtain ⟨rfl, rfl⟩ := List.cons.inj split
    exact foldl_best_keeps _ best
  | cons p' pre =>
    rw [List.cons_append] at split
    obtain ⟨rfl, rfl⟩ := List.cons.inj split
    rw [List.foldl_append, List.foldl_cons, first _ (foldl_best_mem pre p), if_pos rfl]
    exact foldl_best_keeps _ best

end Best

/-! ## Least and greatest -/

/-- Whether a lane is to replace another as the least, or the greatest with `mx` (R218). -/
def redBetter (f : VF) (mx : Bool) (y x : Nat) : Bool :=
  if tyFloat f.ty.toNat then (if mx then (valOf (tyFmt f.ty.toNat) x).lt0 (valOf (tyFmt f.ty.toNat) y) else (valOf (tyFmt f.ty.toNat) y).lt0 (valOf (tyFmt f.ty.toNat) x))
  else (if mx then decide (tv f.ty.toNat x < tv f.ty.toNat y) else decide (tv f.ty.toNat y < tv f.ty.toNat x))

/-- Whether a lane holds a NaN (R218). -/
def redNan (f : VF) (x : Nat) : Bool := tyFloat f.ty.toNat && decide (valOf (tyFmt f.ty.toNat) x = .nan)

section Values
variable {f : VF} {mx ix : Bool} {l : List (Nat × Nat)}

theorem find_redNan (f : VF) (l : List (Nat × Nat)) :
    (if tyFloat f.ty.toNat then l.find? (fun p => valOf (tyFmt f.ty.toNat) p.2 == .nan) else none) = l.find? (fun p => redNan f p.2) := by
  unfold redNan
  cases tyFloat f.ty.toNat
  · exact (List.find?_eq_none.mpr fun _ _ => Bool.false_ne_true).symm
  · simp [beq_eq_decide]

/-- With no NaN, the first of the best lanes (R218). -/
theorem minRed_best {x : Nat × Nat} {pre post : List (Nat × Nat)} (split : l = pre ++ x :: post) (num : ∀ p ∈ l, redNan f p.2 = false)
    (first : ∀ y ∈ pre, redBetter f mx x.2 y.2 = true) (best : ∀ y ∈ post, redBetter f mx y.2 x.2 = false) :
    minRed f mx ix l = ((x.2, if ix then some x.1 else none), 0) := by
  have none : l.find? (fun p => redNan f p.2) = none := List.find?_eq_none.mpr fun p mem => by rw [num p mem]; exact Bool.false_ne_true
  cases l with
  | nil => simp at split
  | cons p r =>
    have remains : r.foldl (fun q y => if redBetter f mx y.2 q.2 then y else q) p = x :=
      foldl_best_first (better := fun (y x : Nat × Nat) => redBetter f mx y.2 x.2) split first best
    simp only [minRed, find_redNan, none]
    rw [← remains]
    rfl

/-- The first NaN among the lanes (R218). -/
theorem minRed_nan {x : Nat × Nat} {pre post : List (Nat × Nat)} (split : l = pre ++ x :: post) (nan : redNan f x.2 = true)
    (first : ∀ y ∈ pre, redNan f y.2 = false) : minRed f mx ix l = ((canonNan (tyFmt f.ty.toNat), if ix then some x.1 else none), 0) := by
  have found : l.find? (fun p => redNan f p.2) = some x := by
    rw [split, List.find?_append, List.find?_eq_none.mpr fun p mem => by rw [first p mem]; exact Bool.false_ne_true]
    simp [nan]
  simp only [minRed, find_redNan, found]

theorem minRed_nil : minRed f mx ix [] = (((if tyFloat f.ty.toNat then (roundTo (tyFmt f.ty.toNat) (.inf mx) 0).1
    else wrap (if mx then tLo f.ty.toNat else tHi f.ty.toNat) (tyWidth f.ty.toNat)), if ix then some 0xFFFFFFFF else none), 0) := by
  simp only [minRed, List.find?_nil, ite_self]

end Values

/-- A lane's being better, by the values of lanes (R218). -/
theorem redBetter_lanes (f : VF) (mx : Bool) {x y : Nat} (smallX : x < 2 ^ tyWidth f.ty.toNat) (smallY : y < 2 ^ tyWidth f.ty.toNat) :
    let c := f.ty.toNat - 8
    let lt := fun x y => if decide (8 ≤ f.ty.toNat) then (valOf c x).lt0 (valOf c y) else decide (laneVal f x < laneVal f y)
    redBetter f mx y x = if mx then lt x y else lt y x := by
  simp only [redBetter, tyFloat, tyFmt, tv_eq f x smallX, tv_eq f y smallY]
  cases mx <;> rfl

theorem wrap_intLo {w : Nat} (wide : 0 < w) (signed : Bool) : wrap (intLo w signed) w = if signed then 2 ^ (w - 1) else 0 := by
  obtain ⟨k, rfl⟩ := Nat.exists_eq_succ_of_ne_zero wide.ne'
  have half : (0 : Int) < 2 ^ k := by positivity
  cases signed
  · simp [wrap, intLo]
  · rw [wrap, intLo, if_pos rfl, Nat.succ_sub_one, ← Int.add_emod_right, pow_succ, show -(2 : Int) ^ k + 2 ^ k * 2 = (2 ^ k : Nat) by push_cast; ring,
      Int.emod_eq_of_lt (by positivity) (by push_cast; omega)]
    rfl

theorem wrap_intHi (w : Nat) (signed : Bool) : wrap (intHi w signed) w = if signed then 2 ^ (w - 1) - 1 else 2 ^ w - 1 := by
  have whole : (0 : Int) < 2 ^ w := by positivity
  have half : (0 : Int) < 2 ^ (w - 1) := by positivity
  have less : (2 : Int) ^ (w - 1) ≤ 2 ^ w := pow_le_pow_right₀ (by norm_num) (Nat.sub_le ..)
  cases signed
  · rw [wrap, intHi, if_neg Bool.false_ne_true, Int.emod_eq_of_lt (by omega) (by omega), if_neg Bool.false_ne_true]
    exact_mod_cast Int.toNat_sub (2 ^ w) 1
  · rw [wrap, intHi, if_pos rfl, Int.emod_eq_of_lt (by omega) (by omega), if_pos rfl]
    exact_mod_cast Int.toNat_sub (2 ^ (w - 1)) 1

/-! ## Sums -/

theorem sumRed_int {f : VF} (int : tyFloat f.ty.toNat = false) (a : Nat → Nat) (hits : List Nat) :
    sumRed f (hits.map fun j => (j, a j)) = (((hits.map a).sum % 2 ^ tyWidth f.ty.toNat, none), 0) := by
  rw [sumRed, int, if_neg Bool.false_ne_true, List.foldl_map, List.sum_eq_foldl, List.foldl_map]

theorem sumRed_float {f : VF} (float : tyFloat f.ty.toNat = true) (a : Nat → Nat) (hits : List Nat) : let c := f.ty.toNat - 8
    let r := if hits = [] then (0, 0) else flSum c f.rm.toNat (hits.map fun j => some (valOf c (a j)))
    sumRed f (hits.map fun j => (j, a j)) = ((r.1, none), r.2) := by
  rw [sumRed, if_pos float, List.map_map]
  cases hits <;> rfl

theorem xorRed (a : Nat → Nat) (hits : List Nat) :
    (hits.map fun j => (j, a j)).foldl (fun x p => Nat.xor x p.2) 0 = hits.foldl (fun x j => x ^^^ a j) 0 := List.foldl_map ..

/-! ## Words -/

/-- What a reduction to the number `v` asks for (R218). -/
def redOut (s : State) (f : VF) (v : Nat) (fl : Flags) : SlotOut :=
  vecOut s f (64 + f.d.toNat) [f.a] (if tyFloat f.ty.toNat then 6 else 4) (BitVec.ofNat 4096 v) (maskHs f (64 + f.d.toNat)) fl

theorem mem_laneHits {s : State} {f : VF} {w i : Nat} : i ∈ laneHits s f w ↔ i < 4096 / w ∧ laneEn s f w i = true := by
  rw [laneHits, List.mem_filter, List.mem_range]

section Words
variable {s : State} {i : Instr} {f : VF} {mx ix : Bool} (unit : onLan s = false)
include unit

/-- A reduction runs to its value below its index (R218). -/
theorem red_runs {g : List (Nat × Nat) → (Nat × Option Nat) × Flags} {x v : Nat} {k : Option Nat} {fl : Flags}
    (form : exec i s = runOne i 1 (redSem f g) s)
    (value : g ((laneHits s f (tyWidth f.ty.toNat)).map fun j => (j, lane (tyWidth f.ty.toNat) (src s f f.a) j)) = ((x, k), fl))
    (number : x + k.getD 0 % 2 ^ 32 * 2 ^ 32 = v) : Runs s i 1 (redOut s f v fl) := by
  refine runs_of_view form ?_
  rw [redSem, unitOnly_view _ _ _ unit, redOut, vecOut]
  simp only [onLanes_view, value, number, hereView_g, hereView_core]
  rfl

omit unit in
theorem bare_number (v : Nat) : v + (none : Option Nat).getD 0 % 2 ^ 32 * 2 ^ 32 = v := by
  simp only [Option.getD_none, Nat.zero_mod, Nat.zero_mul, Nat.add_zero]

omit unit in
theorem indexed_number (v : Nat) {j : Nat} (small : j < 2 ^ 32) : v + (some j).getD 0 % 2 ^ 32 * 2 ^ 32 = v + j * 2 ^ 32 := by
  simp only [Option.getD_some, Nat.mod_eq_of_lt small]

omit unit in
theorem laneHits_small {w j : Nat} (hit : j ∈ laneHits s f w) : j < 2 ^ 32 := by
  obtain ⟨inside, -⟩ := mem_laneHits.mp hit
  have most : 4096 / w ≤ 4096 := Nat.div_le_self ..
  omega

section Extreme
variable {i' : Instr} (form : exec i s = runOne i 1 (redSem f (minRed f mx false)) s) (form' : exec i' s = runOne i' 1 (redSem f (minRed f mx true)) s)
include form form'

/-- The least or greatest lane, without and with its index (R218). -/
theorem red_best_runs {j : Nat} : let a := fun j => lane (tyWidth f.ty.toNat) (src s f f.a) j
    let hits := laneHits s f (tyWidth f.ty.toNat)
    j ∈ hits → (∀ i ∈ hits, redNan f (a i) = false) → (∀ i ∈ hits, redBetter f mx (a i) (a j) = false) →
      (∀ i ∈ hits, i < j → redBetter f mx (a j) (a i) = true) → Runs s i 1 (redOut s f (a j) 0) ∧ Runs s i' 1 (redOut s f (a j + j * 2 ^ 32) 0) := by
  intro a hits hit num best first
  obtain ⟨pre, post, split, before, after⟩ := laneHits_split hit
  have value : ∀ ix, minRed f mx ix (hits.map fun j => (j, a j)) = ((a j, if ix then some j else none), 0) := fun ix =>
    minRed_best (pre := pre.map fun j => (j, a j)) (x := (j, a j)) (post := post.map fun j => (j, a j)) (by rw [show hits = _ from split]; simp)
      (List.forall_mem_map.mpr num) (List.forall_mem_map.mpr fun i mem => first i (before i mem).1 (before i mem).2)
      (List.forall_mem_map.mpr fun i mem => best i (after i mem))
  exact ⟨red_runs unit form (value false) (bare_number ..), red_runs unit form' (value true) (indexed_number _ (laneHits_small hit))⟩

/-- The first NaN among the lanes, without and with its index (R218). -/
theorem red_nan_runs {j : Nat} : let a := fun j => lane (tyWidth f.ty.toNat) (src s f f.a) j
    let hits := laneHits s f (tyWidth f.ty.toNat)
    let nan := canonNan (tyFmt f.ty.toNat)
    j ∈ hits → redNan f (a j) = true → (∀ i ∈ hits, i < j → redNan f (a i) = false) →
      Runs s i 1 (redOut s f nan 0) ∧ Runs s i' 1 (redOut s f (nan + j * 2 ^ 32) 0) := by
  intro a hits nan hit here first
  obtain ⟨pre, post, split, before, -⟩ := laneHits_split hit
  have value : ∀ ix, minRed f mx ix (hits.map fun j => (j, a j)) = ((nan, if ix then some j else none), 0) := fun ix =>
    minRed_nan (pre := pre.map fun j => (j, a j)) (x := (j, a j)) (post := post.map fun j => (j, a j)) (by rw [show hits = _ from split]; simp) here
      (List.forall_mem_map.mpr fun i mem => first i (before i mem).1 (before i mem).2)
  exact ⟨red_runs unit form (value false) (bare_number ..), red_runs unit form' (value true) (indexed_number _ (laneHits_small hit))⟩

/-- With no lane enabled, the value past every other, without and with the index of none (R218). -/
theorem red_none_runs (none : laneHits s f (tyWidth f.ty.toNat) = []) {v : Nat} (past : v = if tyFloat f.ty.toNat then (roundTo (tyFmt f.ty.toNat) (.inf mx) 0).1
      else wrap (if mx then tLo f.ty.toNat else tHi f.ty.toNat) (tyWidth f.ty.toNat)) :
    Runs s i 1 (redOut s f v 0) ∧ Runs s i' 1 (redOut s f (v + 0xFFFFFFFF * 2 ^ 32) 0) := by
  subst past
  exact ⟨red_runs unit form (by rw [none]; exact minRed_nil) (bare_number ..),
    red_runs unit form' (by rw [none]; exact minRed_nil) (indexed_number _ (by norm_num))⟩

end Extreme

end Words

/-- Settles O22: sums by the fold of the enabled lanes, and the least and greatest lane by the split of the lanes about it. -/
theorem vectorReductions : Obligations.VectorReductions := by
  unfold Obligations.VectorReductions
  intro s f unit _ float w c a en nan lt out ixs
  have enabled : ∀ {i}, en i = true ↔ i ∈ ixs := by
    intro i
    rw [show ixs = laneHits s f w from rfl, mem_laneHits]
    simp [en]
  have least : ∀ i j, redBetter f false (a i) (a j) = lt (a i) (a j) := fun i j => redBetter_lanes f false (lane_lt ..) (lane_lt ..)
  have greatest : ∀ i j, redBetter f true (a i) (a j) = lt (a j) (a i) := fun i j => redBetter_lanes f true (lane_lt ..) (lane_lt ..)
  refine ⟨fun int => ?sum, fun isFloat => ?rounded, ?xor, ?extreme, fun none => ?none⟩
  case sum => exact red_runs unit rfl (sumRed_int int a ixs) (bare_number _)
  case rounded =>
    intro r
    exact red_runs unit rfl (sumRed_float isFloat a ixs) (bare_number _)
  case xor =>
    have form : exec (.vrxor f) s = runOne (.vrxor f) 1 (semVrxor f) s := rfl
    exact red_runs unit form (congrArg (fun x => ((x, Option.none), (0 : Flags))) (xorRed a ixs)) (bare_number _)
  case extreme =>
    have extreme : ∀ (mx : Bool) {i i' : Instr} (q : Nat → Nat → Bool), (∀ i j, redBetter f mx (a i) (a j) = q (a i) (a j)) →
        exec i s = runOne i 1 (redSem f (minRed f mx false)) s → exec i' s = runOne i' 1 (redSem f (minRed f mx true)) s →
        (∀ j, en j = true → (∀ i, en i = true → nan i = false) → (∀ i, en i = true → q (a i) (a j) = false) →
          (∀ i < j, en i = true → q (a j) (a i) = true) → Runs s i 1 (out (a j) 0) ∧ Runs s i' 1 (out (a j + j * 2 ^ 32) 0)) ∧
        (∀ j, en j = true → nan j = true → (∀ i < j, en i = true → nan i = false) →
          Runs s i 1 (out (canonNan c) 0) ∧ Runs s i' 1 (out (canonNan c + j * 2 ^ 32) 0)) := by
      intro mx i i' q better form form'
      refine ⟨fun j on num best first => ?_, fun j on here first => ?_⟩
      · exact red_best_runs unit form form' (enabled.mp on) (fun i hit => num i (enabled.mpr hit)) (fun i hit => (better i j).trans (best i (enabled.mpr hit)))
          (fun i hit before => (better j i).trans (first i before (enabled.mpr hit)))
      · exact red_nan_runs unit form form' (enabled.mp on) here (fun i hit before => first i before (enabled.mpr hit))
    simp only [List.forall_mem_cons, List.not_mem_nil, false_imp_iff, implies_true, and_true]
    exact ⟨extreme false _ least rfl rfl, extreme true (fun x y => lt y x) greatest rfl rfl⟩
  case none =>
    intro top low
    obtain ⟨min, mini⟩ := red_none_runs unit (i := .vrmin f) (i' := .vrmini f) (mx := false) rfl rfl none (v := top)
      (by rw [if_neg Bool.false_ne_true, tHi, wrap_intHi]; simp only [tySigned, decide_eq_true_eq]; rfl)
    obtain ⟨max, maxi⟩ := red_none_runs unit (i := .vrmax f) (i' := .vrmaxi f) (mx := true) rfl rfl none (v := low)
      (by rw [if_pos rfl, tLo, wrap_intLo (tyWidth_pos _)]; simp only [tySigned, decide_eq_true_eq]; rfl)
    exact ⟨min, mini, max, maxi⟩

end Sys2Proof.Machine
end

section
/-! PROOFS. Compares, selection and mask operations (spec 12 R219, R220). -/

namespace Sys2Proof.Machine

/-! ## Compares of two lanes -/

/-- Zeros apart, less is below (R210, R219). -/
theorem lt0_of_lt {a b : Val} (less : a.lt b = true) : a.lt0 b = true := by
  cases a with
  | zero m => cases b with
    | zero n => cases less
    | nan | inf n | fin => exact less
  | nan | inf m | fin => cases b <;> exact less

/-- Of two values each is not less than the other (R219). -/
theorem lt_asymm {a b : Val} (less : a.lt b = true) : b.lt a = false := by
  by_contra back
  have below := lt0_asymm (lt0_of_lt less)
  rw [lt0_of_lt (Bool.eq_true_of_not_eq_false back)] at below
  cases below

/-- Whether a lane is less than another, by its type (R219). -/
def laneLess (f : VF) (x y : Nat) : Bool :=
  if tyFloat f.ty.toNat then (valOf (f.ty.toNat - 8) x).lt (valOf (f.ty.toNat - 8) y) else decide (laneVal f x < laneVal f y)

/-- Whether two lanes are unordered: float lanes, one of them a NaN (R219). -/
def laneUnordered (f : VF) (x y : Nat) : Bool :=
  tyFloat f.ty.toNat && (decide (valOf (f.ty.toNat - 8) x = .nan) || decide (valOf (f.ty.toNat - 8) y = .nan))

theorem laneLess_asymm {f : VF} {x y : Nat} (less : laneLess f x y = true) : laneLess f y x = false := by
  unfold laneLess at *
  cases float : tyFloat f.ty.toNat
  · rw [float, if_neg Bool.false_ne_true] at less
    have := of_decide_eq_true less
    rw [if_neg Bool.false_ne_true, decide_eq_false (by omega)]
  · rw [float, if_pos rfl] at less
    rw [if_pos rfl, lt_asymm less]

theorem greater_eq (un : Bool) {less greater : Bool} (one : less = true → greater = false) :
    (!un && !(!un && !less && !greater) && !(!un && less)) = (!un && greater) := by
  cases less with
  | false => cases un <;> cases greater <;> rfl
  | true => rw [one rfl]; cases un <;> rfl

theorem greaterEqual_eq (un : Bool) {less greater : Bool} (one : less = true → greater = false) :
    (!un && !(!un && less)) = (!un && greater || !un && !less && !greater) := by
  cases less with
  | false => cases un <;> cases greater <;> rfl
  | true => rw [one rfl]; cases un <;> rfl

/-- A predicate of two lanes, by whether they are unordered, equal and less (R219). -/
theorem cmpLane_eq (f : VF) (p : Bool → Bool → Bool → Bool) {x y : Nat} (smallX : x < 2 ^ tyWidth f.ty.toNat) (smallY : y < 2 ^ tyWidth f.ty.toNat) :
    let un := laneUnordered f x y
    cmpLane f.ty.toNat p x y = p un (!un && !laneLess f x y && !laneLess f y x) (!un && laneLess f x y) := by
  unfold cmpLane laneUnordered laneLess
  cases tyFloat f.ty.toNat
  · have equal : decide (laneVal f x = laneVal f y) = (!decide (laneVal f x < laneVal f y) && !decide (laneVal f y < laneVal f x)) := by
      rw [Bool.eq_iff_iff, Bool.and_eq_true, Bool.not_eq_true', Bool.not_eq_true', decide_eq_true_eq, decide_eq_false_iff_not, decide_eq_false_iff_not]
      omega
    simp [tv_eq f x smallX, tv_eq f y smallY, equal]
  · by_cases nan : valOf (f.ty.toNat - 8) x = .nan ∨ valOf (f.ty.toNat - 8) y = .nan
    · simp [tyFmt, nan, ← Bool.decide_or]
    · simp [tyFmt, nan, ← Bool.decide_or]

section Compare
variable {s : State} {i : Instr} {f : VF} {p : Bool → Bool → Bool → Bool} (unit : onLan s = false) (form : exec i s = runOne i 1 (cmpSem f p) s)
  {v : Nat → Bool} (value : ∀ j, let w := tyWidth f.ty.toNat
    cmpLane f.ty.toNat p (lane w (src s f f.a) j) (lane w (src s f f.b) j) = v j)
include unit form value

/-- A compare into a vector register (R219). -/
theorem compare_vector (vector : f.d.toNat < 0x20) : let w := tyWidth f.ty.toNat
    LaneWise s i f [f.a, f.b] w (if tyFloat f.ty.toNat then 3 else 2) (fun j => (if v j then 2 ^ w - 1 else 0, 0)) := by
  refine bitLane_wise unit (g := fun x => if cmpLane f.ty.toNat p (x 0) (x 1) then 2 ^ tyWidth f.ty.toNat - 1 else 0)
    (by rw [form, cmpSem, if_pos vector]) (fun j _ => ?_)
  rw [← value j]
  rfl

/-- A bit of the mask that a compare gives (R219). -/
def compareBit (s : State) (f : VF) (v : Nat → Bool) (i : Nat) : Bool :=
  let k := 32 / tyWidth f.ty.toNat
  if (rdM (hereUnit s) f.mask.toNat).getLsbD i then decide (∀ j < k, v (i * k + j) = true)
    else if f.mz = 1 then false else (rdM (hereUnit s) (f.d.toNat - 0x30)).getLsbD i

/-- The number that these bits spell. -/
def compareNumber (s : State) (f : VF) (v : Nat → Bool) : Nat := (List.range 128).foldl (fun a i => if compareBit s f v i then a + 2 ^ i else a) 0

omit unit form value in
theorem compareNumber_getLsbD (s : State) (f : VF) (v : Nat → Bool) {i : Nat} (inside : i < 128) :
    (BitVec.ofNat 128 (compareNumber s f v)).getLsbD i = compareBit s f v i := by
  rw [BitVec.getLsbD_ofNat, compareNumber, (foldl_bits _ 128).2 i, decide_eq_true inside, Bool.true_and, Bool.true_and]

omit unit form value in
theorem compareNumber_setWidth (s : State) (f : VF) (v : Nat → Bool) :
    (BitVec.ofNat 128 (compareNumber s f v)).setWidth 4096 = BitVec.ofNat 4096 (compareNumber s f v) := by
  have small : compareNumber s f v < 2 ^ 128 := (foldl_bits _ 128).1
  apply BitVec.eq_of_toNat_eq
  rw [BitVec.toNat_setWidth, BitVec.toNat_ofNat, BitVec.toNat_ofNat, Nat.mod_eq_of_lt small]

omit unit form in
/-- The AND of the lanes of one 32-bit position (R219). -/
theorem compare_position {i : Nat} (inside : i < 128) : let w := tyWidth f.ty.toNat
    let k := 32 / w
    (((List.zipWith (fun x y => cmpLane f.ty.toNat p x y) (lanes w (src s f f.a)) (lanes w (src s f f.b))).drop (k * i)).take k).all id =
      decide (∀ j < k, v (i * k + j) = true) := by
  intro w k
  have widths : 4096 / w = 128 * k := by rcases tyWidth_cases f.ty.toNat with h | h | h <;> simp [k, w, h]
  have within : k * i + k ≤ 4096 / w := by
    rw [widths, ← Nat.mul_succ, Nat.mul_comm 128]
    exact Nat.mul_le_mul_left k inside
  have results : List.zipWith (fun x y => cmpLane f.ty.toNat p x y) (lanes w (src s f f.a)) (lanes w (src s f f.b)) = (List.range (4096 / w)).map v := by
    rw [lanes_eq_map, lanes_eq_map, List.zipWith_map, List.zipWith_self]
    exact List.map_congr_left fun j _ => value j
  rw [results, range_map_run v within, Bool.eq_iff_iff, List.all_map, List.all_eq_true, decide_eq_true_eq, Nat.mul_comm i]
  simp

/-- A compare into a mask register (R219). -/
theorem compare_mask (mask : 0x30 ≤ f.d.toNat) : Runs s i 1 (vecOut s f (96 + (f.d.toNat - 0x30)) [f.a, f.b] (if tyFloat f.ty.toNat then 3 else 2)
    ((BitVec.ofNat 128 (compareNumber s f v)).setWidth 4096) (maskHs f (96 + (f.d.toNat - 0x30))) 0) := by
  refine runs_of_view form ?_
  rw [cmpSem, if_neg (show ¬f.d.toNat < 0x20 by omega), unitOnly_view _ _ _ unit, compareNumber_setWidth, compareNumber,
    List.foldl_ext _ _ _ fun a i mem => by rw [compareBit, ← compare_position value (List.mem_range.mp mem)]]
  simp only [hereView_g, hereView_core, hereView_u]
  rfl

end Compare

/-! ## Selection and masks -/

section Select
variable {s : State} (unit : onLan s = false) (f : VF)

/-- The vector that VSEL gives its destination (R220). -/
def selectedLanes (s : State) (f : VF) : Vec :=
  let w := tyWidth f.ty.toNat
  ofLanes w ((List.range (4096 / w)).map fun j => if laneEn s f w j then lane w (src s f f.a) j else lane w (src s f f.b) j)

theorem lane_selectedLanes (s : State) {j : Nat} (inside : j < 4096 / tyWidth f.ty.toNat) : let w := tyWidth f.ty.toNat
    lane w (selectedLanes s f) j = if laneEn s f w j then lane w (src s f f.a) j else lane w (src s f f.b) j := by
  intro w
  rw [selectedLanes, lane_ofLanes _ _ _ (by rw [List.length_map, List.length_range]), range_map_getD _ inside, Nat.mod_eq_of_lt]
  split <;> exact lane_lt ..

include unit

theorem vsel_runs : Runs s (.vsel f) 1 (vecOut s f (64 + f.d.toNat) [f.a, f.b] 2 (selectedLanes s f) (maskHs f (64 + f.d.toNat)) 0) := by
  refine runs_of_view rfl ?_
  rw [semVsel, unitOnly_view _ _ _ unit]
  simp only [lanes_eq_map, laneOn_eq_map, List.zip_map', List.zipWith_map, List.zipWith_self, hereView_g, hereView_core]
  rfl

/-- A mask operation runs to its mask (R220). -/
theorem mask_runs {i : Instr} {srcs : List (BitVec 6)} {g : BitVec 128 → BitVec 128 → BitVec 128} (form : exec i s = runOne i 1 (maskSem f srcs g) s) :
    let m := fun (x : BitVec 6) => rdM (hereUnit s) (x.toNat - 0x30)
    let n := 96 + (f.d.toNat - 0x30)
    Runs s i 1 { wr := [n], eff := lands s n 2 ((g (m f.a) (m f.b)).setWidth 4096) (srcHs f (srcs.map (fun x => x.toNat))) false 0 } := by
  refine runs_of_view form ?_
  rw [maskSem, unitOnly_view _ _ _ unit]
  simp only [hereView_g, hereView_core, hereView_u]
  rfl

end Select

/-- Settles O23: each compare by its predicate of two lanes, VSEL by its lanes, and the mask operations by their one shape. -/
theorem vectorSelection : Obligations.VectorSelection := by
  unfold Obligations.VectorSelection
  refine ⟨?compares, ?others⟩
  case compares =>
    intro s f unit _ float w c a b un lt ls gr eq
    have compare : ∀ {i : Instr} {p : Bool → Bool → Bool → Bool} {v : Nat → Bool}, exec i s = runOne i 1 (cmpSem f p) s → (∀ j, p (un j) (eq j) (ls j) = v j) →
        (f.d.toNat < 0x20 → LaneWise s i f [f.a, f.b] w (if float then 3 else 2) (fun j => (if v j then 2 ^ w - 1 else 0, 0))) ∧
        (0x30 ≤ f.d.toNat → ∃ y : BitVec 128,
          (∀ i < 128, y.getLsbD i = if (rdM (hereUnit s) f.mask.toNat).getLsbD i then decide (∀ j < 32 / w, v (i * (32 / w) + j) = true)
            else if f.mz = 1 then false else (rdM (hereUnit s) (f.d.toNat - 0x30)).getLsbD i) ∧
          Runs s i 1 (vecOut s f (96 + (f.d.toNat - 0x30)) [f.a, f.b] (if float then 3 else 2) (y.setWidth 4096) (maskHs f (96 + (f.d.toNat - 0x30))) 0)) := by
      intro i p v form same
      have value : ∀ j, cmpLane f.ty.toNat p (a j) (b j) = v j := fun j => (cmpLane_eq f p (lane_lt ..) (lane_lt ..)).trans (same j)
      exact ⟨compare_vector unit form value, fun mask => ⟨_, fun i inside => compareNumber_getLsbD s f v inside, compare_mask unit form value mask⟩⟩
    simp only [List.forall_mem_cons, List.not_mem_nil, false_imp_iff, implies_true, and_true]
    refine ⟨compare rfl fun _ => rfl, compare rfl fun _ => rfl, compare rfl fun _ => rfl, compare rfl fun j => ?le, compare rfl fun j => ?gt, compare rfl fun j => ?ge,
      compare rfl fun _ => rfl⟩
    case le => exact Bool.or_comm ..
    case gt => exact greater_eq (un j) (laneLess_asymm (f := f))
    case ge => exact greaterEqual_eq (un j) (laneLess_asymm (f := f))
  case others =>
    intro s f unit w m out
    refine ⟨⟨_, fun j inside => lane_selectedLanes f s inside, vsel_runs unit f⟩, ?binary, mask_runs unit f (g := fun x _ => ~~~x) rfl⟩
    simp only [List.forall_mem_cons, List.not_mem_nil, false_imp_iff, implies_true, and_true]
    exact ⟨mask_runs unit f (g := fun x y => x &&& y) rfl, mask_runs unit f (g := fun x y => x ||| y) rfl, mask_runs unit f (g := fun x y => x ^^^ y) rfl,
      mask_runs unit f (g := fun x y => x &&& ~~~y) rfl⟩

end Sys2Proof.Machine
end

section
/-! PROOFS. SWAP and ZERO (spec 13 R241). -/

namespace Sys2Proof.Machine

/-- The engine once a command has left its queue and is complete at once (R83, R229). -/
def leftDoneMx (mx : Mx) (clk : Nat) (c : QCmd) (rest : List QCmd) : Mx := mxDone (leftMx mx clk c rest) mx.seq false

/-- The last token of the engine is then a complete one (R83, R84). -/
theorem getLast?_leftDoneMx (mx : Mx) (clk : Nat) (c : QCmd) (rest : List QCmd) :
    (leftDoneMx mx clk c rest).toks.getLast? = some ⟨mx.seq, tokGive (tokOf c.ins), c.inst, true, false, c.x⟩ := by
  simp [leftDoneMx, mxDone, leftMx, leftTok]

section
variable {s : State} {k : UnitIx} {c : QCmd} {rest : List QCmd} {f : MF} (leaves : HeadLeaves s k c rest)
include leaves

/-- A SWAP and a ZERO that leave act and are complete at once (R229, R241). -/
theorem leave_swap_zero :
    (c.ins = .swap f → exec .matrixCommandLeave s = .next (modMx (modUnit s k.toNat fun u => leftUnit u s.clk c rest) k.toNat fun mx =>
      mxDone (swapBanks mx) (getUnit s k.toNat).mx.seq false)) ∧
    (c.ins = .zero f → exec .matrixCommandLeave s = .next (modUnit (modUnit s k.toNat fun u => leftUnit u s.clk c rest) k.toNat fun u =>
      { zeroTile u f.tile.toNat with mx := mxDone u.mx (getUnit s k.toNat).mx.seq false })) := by
  have free := leave_free leaves
  obtain ⟨rfl, -, -, queue, -, -, -, same, -, -⟩ := leaves
  show (_ → execMatrixCommandLeave s = _) ∧ (_ → execMatrixCommandLeave s = _)
  simp only [execMatrixCommandLeave, queue, free, Bool.false_eq_true, if_false]
  constructor <;> intro ins <;>
    simp only [same, bne_self_eq_false, Bool.false_eq_true, if_false, ins, tileIx, zeroTile, leftUnit, leftMx, leftTok, takeTokens_mx]

/-- After a SWAP the banks are exchanged and every tile is as it was (R241). -/
theorem leave_swap_exchanges (ins : c.ins = .swap f) : ∃ t, exec .matrixCommandLeave s = .next t ∧
    (getUnit t k.toNat).mx = swapBanks (leftDoneMx (getUnit s k.toNat).mx s.clk c rest) ∧
    (getUnit t k.toNat).tiles = (getUnit s k.toNat).tiles ∧ AllMemSame s t := by
  refine ⟨_, (leave_swap_zero leaves).1 ins, ?_⟩
  rw [modMx_left]
  exact ⟨rfl, leftUnit_tiles _ s.clk c rest, .of_eq rfl rfl rfl⟩

/-- After a ZERO its tile is clear, and every other tile and the banks are as they were (R241). -/
theorem leave_zero_clears (ins : c.ins = .zero f) : ∃ t, exec .matrixCommandLeave s = .next t ∧
    (getUnit t k.toNat).mx = leftDoneMx (getUnit s k.toNat).mx s.clk c rest ∧
    (getUnit t k.toNat).tiles = serase (getUnit s k.toNat).tiles f.tile.toNat ∧ AllMemSame s t := by
  refine ⟨_, (leave_swap_zero leaves).2 ins, ?_⟩
  simp only [getUnit_modUnit_self, leftUnit_mx, zeroTile, leftUnit_tiles, true_and]
  exact ⟨rfl, .of_eq rfl rfl rfl⟩

end

/-- Settles O32: a SWAP exchanges the banks as it leaves, a second one exchanges them back, and a ZERO erases its tile. -/
theorem swapAndZero : Obligations.SwapAndZero := by
  unfold Obligations.SwapAndZero
  intro ready left
  have head : ∀ {s c rest}, ready s c rest → HeadLeaves s s.arg.k c rest :=
    fun ⟨running, goes, queue, handed, earlier, first, same, may, counts⟩ => ⟨rfl, running, goes, queue, handed, earlier, first, same, may, counts⟩
  refine ⟨?swap, ?zero⟩
  case swap =>
    intro s c rest f go ins
    obtain ⟨t, leaving, engine, tiles, memory⟩ := leave_swap_exchanges (head go) ins
    refine ⟨t, leaving, ?_⟩
    simp only [left, engine, tiles]
    refine ⟨⟨rfl, getLast?_leftDoneMx .., rfl, memory⟩, rfl, rfl, rfl, rfl, trivial, ?again⟩
    intro s2 d rest2 g go2 ins2 unit act shadow
    obtain ⟨t2, leaving2, engine2, -, -⟩ := leave_swap_exchanges (unit ▸ head go2) ins2
    exact ⟨t2, leaving2, by rw [engine2]; exact shadow, by rw [engine2]; exact act⟩
  case zero =>
    intro s c rest f go ins
    obtain ⟨t, leaving, engine, tiles, memory⟩ := leave_zero_clears (head go) ins
    refine ⟨t, leaving, ?_⟩
    simp only [left, engine, tiles]
    exact ⟨⟨rfl, getLast?_leftDoneMx .., rfl, memory⟩, fun j => sget_serase .., rfl, rfl⟩

end Sys2Proof.Machine
end

section
/-! PROOFS. Descriptor registers and the tensor table (spec 15 R268 to R270, R273, R274). -/

namespace Sys2Proof.Machine

/-! ## Fields of a descriptor -/

/-- Bits of a number put together of three parts: above, within and below a field of `n` bits from bit `lo` up. -/
theorem testBit_parts (h x l lo n j : Nat) :
    (h * 2 ^ (lo + n) + x % 2 ^ n * 2 ^ lo + l % 2 ^ lo).testBit j =
      if j < lo then l.testBit j else if j < lo + n then x.testBit (j - lo) else h.testBit (j - (lo + n)) := by
  have low : l % 2 ^ lo < 2 ^ lo := Nat.mod_lt _ (Nat.two_pow_pos lo)
  have mid : 2 ^ lo * (x % 2 ^ n) + l % 2 ^ lo < 2 ^ (lo + n) := by
    rw [Nat.pow_add]
    have : x % 2 ^ n + 1 ≤ 2 ^ n := Nat.mod_lt _ (Nat.two_pow_pos n)
    nlinarith [Nat.two_pow_pos lo]
  rw [show h * 2 ^ (lo + n) + x % 2 ^ n * 2 ^ lo + l % 2 ^ lo = 2 ^ (lo + n) * h + (2 ^ lo * (x % 2 ^ n) + l % 2 ^ lo) by ring,
    Nat.testBit_two_pow_mul_add _ mid, Nat.testBit_two_pow_mul_add _ low, Nat.testBit_mod_two_pow, Nat.testBit_mod_two_pow]
  grind

/-- A field replaced in a descriptor: its bits are those of the new value, every other bit stays (R269). -/
theorem getLsbD_setBits (d : Desc) (lo n x : Nat) {j : Nat} (inside : j < 256) :
    (setBits d lo n x).getLsbD j = if lo ≤ j ∧ j < lo + n then x.testBit (j - lo) else d.getLsbD j := by
  rw [setBits, BitVec.getLsbD_ofNat, testBit_parts, Nat.testBit_div_two_pow, ← BitVec.testBit_toNat]
  grind

/-- A descriptor with a field replaced is the one that the forms write. -/
theorem Replaced.eq {x y : Desc} {lo n : Nat} {v : W64} (replaced : Replaced x y lo n v) : setBits x lo n v.toNat = y :=
  BitVec.eq_of_getLsbD_eq fun j inside => by rw [getLsbD_setBits _ _ _ _ inside, replaced j inside, BitVec.testBit_toNat]

/-- Only the bits of the field count. -/
theorem setBits_mod (d : Desc) (lo n x : Nat) : setBits d lo n (x % 2 ^ n) = setBits d lo n x := by
  simp [setBits]

theorem extract_eq_bits (x : Desc) (lo n : Nat) : (x.extractLsb' lo n).toNat = bits x.toNat lo n := by
  simp [bits, Nat.shiftRight_eq_div_pow]

/-! ## Forms of a Lantern core -/

section Forms
variable {s : State} (lan : onLan s = true)
include lan

/-- A form that writes part of a descriptor register (R268). -/
theorem dsetSem_view (n : BitVec 4) (a : Reg) (f : Desc → W64 → Desc) {y : Desc} (value : f (dreg s n) (reg s a) = y) :
    dsetSem n a f (hereView s 0) = descOut s n a y := by
  subst value
  simp [dsetSem, lanOnly_view lan, descOut, hD, hS]
  rfl

/-- A form that reads part of a descriptor register, zero-extended (R269). -/
theorem dgetSem_view (d : Reg) (n : BitVec 4) (lo w : Nat) :
    dgetSem d n (fun x => bits x lo w) (hereView s 0) =
      { wr := [d.toNat], reads := [128 + n.toNat]
        eff := lands s d.toNat 1 (((dreg s n).extractLsb' lo w).zeroExtend 4096) [128 + n.toNat] false 0 } := by
  have value : BitVec.ofNat 4096 (bits (dreg s n).toNat lo w) = ((dreg s n).extractLsb' lo w).zeroExtend 4096 := by
    apply BitVec.eq_of_toNat_eq
    rw [BitVec.toNat_ofNat, BitVec.zeroExtend_eq_setWidth, BitVec.toNat_setWidth, extract_eq_bits]
  simp only [dgetSem, lanOnly_view lan, dr_view, hereView_g, hereView_core, hS, hD, value]
  rfl

/-- DMOV copies a register (R269). -/
theorem semDmov_view (n n2 : BitVec 4) :
    semDmov n n2 (hereView s 0) = { wr := [128 + n.toNat], reads := [128 + n2.toNat]
                                    eff := lands s (128 + n.toNat) 1 ((dreg s n2).setWidth 4096) [128 + n2.toNat] false 0 } := by
  simp [semDmov, lanOnly_view lan, hD]
  rfl

/-- DLD loads 32 bytes of the cluster scratchpad (R270). -/
theorem semDld_view (n : BitVec 4) (a : Reg) (imm : BitVec 14) :
    let o := accessAt s a (imm.toInt * 32)
    semDld n a imm (hereView s 0) =
      { wr := [128 + n.toNat], reads := [a.toNat], gate := [a.toNat], chk := needRange (decide (o + 32 ≤ clSize)) o
        eff := fun t => lands s (128 + n.toNat) 5 (BitVec.ofNat 4096 (padRead s o 32).1) [a.toNat] (padRead s o 32).2 0
          (touchChip t (padBase s + o) 32) } := by
  simp only [semDld, lanOnly_view lan, descAddr_view, loadVal_view, hereView_base, hereView_g, hereView_core]
  rfl

/-- DST stores 32 bytes there (R270). -/
theorem semDst_view (n : BitVec 4) (a : Reg) (imm : BitVec 14) :
    let o := accessAt s a (imm.toInt * 32)
    semDst n a imm (hereView s 0) =
      { reads := [a.toNat, 128 + n.toNat], gate := [a.toNat, 128 + n.toNat]
        chk := ((needRange (decide (o + 32 ≤ clSize)) o).unless (regBad s a)).and ((psnChk s [a]).and (psnOf (dBad s n) 1 n.toNat))
        eff := fun t => modMem t (fun m => writeImg m (padBase s + o) ((toBytes (dreg s n).toNat 32).map (fun b => (b, false)))) } := by
  simp only [semDst, lanOnly_view lan, descAddr_view, hereView_regPsn, psnRegs_view, dPsn_view, dr_view, hereView_base, writeNat]
  rfl

/-- TDECL of a valid descriptor into a free entry sets it, live, with the IA of its base where it names a VA (R273). -/
theorem tdeclSem_view (n : BitVec 4) (b : Reg) {y : Desc} (valid : tValid (dreg s n) = true) (small : (reg s b).toNat < 256)
    (free : tLive (tensorOf s (hereCl s) (reg s b).toNat) = false) (based : Option Nat)
    (reach : tSpace (dreg s n) = 0 → (translate s (hereCl s) (tBase (dreg s n)) (tWhole (dreg s n)).2 .rw) = based ∧ based.isSome)
    (value : setBits (if tSpace (dreg s n) = 0 then setBits (dreg s n) 192 64 (based.getD 0) else dreg s n) 0 1 1 = y) :
    tdeclSem n b (hereView s 0) =
      { reads := [128 + n.toNat, b.toNat], gate := [128 + n.toNat, b.toNat], chk := (psnOf (dBad s n) 1 n.toNat).and (psnChk s [b])
        eff := fun t => modCl t (hereCl s) (fun c => { c with tensors := sset 0 c.tensors (reg s b).toNat y }) } := by
  subst value
  by_cases glob : tSpace (dreg s n) = 0
  · obtain ⟨rfl, found⟩ := reach glob
    simp [tdeclSem, lanOnly_view lan, needIll_true, valid, free, small, glob, vaChk, found, needRange, hD, hS]
  · simp [tdeclSem, lanOnly_view lan, needIll_true, valid, free, small, glob, Chk.unless, hD, hS]

/-- TREL of an entry that no live region names clears it (R274). -/
theorem trelSem_view (a : Reg) (small : (reg s a).toNat < 256)
    (unused : tLive (tensorOf s (hereCl s) (reg s a).toNat) = false ∨ tensorLive (getCl s (hereCl s)) (reg s a).toNat = false) :
    trelSem a (hereView s 0) =
      { reads := [a.toNat], gate := [a.toNat], chk := psnChk s [a]
        eff := fun t => modCl t (hereCl s) (fun c => { c with tensors := serase c.tensors (reg s a).toNat }) } := by
  have free : (tLive (tensorOf s (hereCl s) (reg s a).toNat) && tensorLive (getCl s (hereCl s)) (reg s a).toNat) = false := by
    rcases unused with h | h <;> simp [h]
  simp only [trelSem, lanOnly_view lan, hereView_sr, hereView_s, hereView_g, hereView_regPsn, psnRegs_view, cur_cl, free, small, decide_true, needIll_true,
    chk_unless_empty, chk_empty_and, Bool.false_eq_true, if_false, hS]

end Forms

/-- Settles O11: each form by the field it names, and DLD and DST by what they ask for. -/
theorem descriptors : Obligations.Descriptors := by
  unfold Obligations.Descriptors
  refine ⟨fun s n n2 d a k lan => ⟨?set, ?get, ?move, ?add⟩, fun s n a imm lan => ⟨?load, ?store⟩⟩
  case set =>
    simp only [List.forall_mem_cons]
    refine ⟨fun y h => ?_, fun y h => ?_, fun y h => ?_, fun y h => ?_, by simp⟩ <;>
      exact runOne_free _ 0 _ s _ (dsetSem_view lan n a _ h.eq)
  case get =>
    simp only [List.forall_mem_cons]
    refine ⟨?_, ?_, ?_, ?_, by simp⟩ <;> exact runOne_free _ 0 _ s _ (dgetSem_view lan d n _ _)
  case move => exact runOne_free _ 0 _ s _ (semDmov_view lan n n2)
  case add =>
    intro y h
    refine runOne_free _ 0 _ s _ (dsetSem_view lan n a _ ?_)
    rw [← h.eq, ← setBits_mod, BitVec.toNat_add, extract_eq_bits]
  case load => exact runOne_free _ 0 _ s _ (semDld_view lan n a imm)
  case store => exact runOne_free _ 0 _ s _ (semDst_view lan n a imm)

/-- Settles O13: TDECL by the descriptor it stores, and TREL by the entry it clears. -/
theorem tensorTable : Obligations.TensorTable := by
  unfold Obligations.TensorTable
  intro s n a b y ia lan
  refine ⟨fun space found valid small free value => ?va, fun space valid small free value => ?offset, fun small unused => ?release⟩
  case va =>
    refine runOne_free _ 0 _ s _ (tdeclSem_view lan n b valid small free (some ia) (fun _ => ⟨found, rfl⟩) ?_)
    refine BitVec.eq_of_getLsbD_eq fun j inside => ?_
    rw [getLsbD_setBits _ _ _ _ inside, value j inside, if_pos space, getLsbD_setBits _ _ _ _ inside]
    by_cases zero : j = 0
    · simp [zero]
    · simp [zero, inside]
  case offset =>
    refine runOne_free _ 0 _ s _ (tdeclSem_view lan n b valid small free none (fun h => absurd h space) ?_)
    refine BitVec.eq_of_getLsbD_eq fun j inside => ?_
    rw [getLsbD_setBits _ _ _ _ inside, value j inside, if_neg space]
    by_cases zero : j = 0
    · simp [zero]
    · simp [zero]
  case release => exact runOne_free _ 0 _ s _ (trelSem_view lan a small unused)

end Sys2Proof.Machine
end

section
/-! PROOFS. Posts and the words that wait for their answer (spec 15 R276 to R280, 16 R293, R301). -/

namespace Sys2Proof.Machine

/-! ## What counting errors leaves alone -/

/-- The streams differ in their CSRs, and in no CSR but ecc.ce and ecc.ue (R199). -/
def Counted (c d : Core) : Prop := (∃ x, d = { c with csr := x }) ∧ ∀ n, n ≠ 0xC0 → n ≠ 0xC1 → rdCsr d n = rdCsr c n

theorem Counted.refl (c : Core) : Counted c c := ⟨⟨_, rfl⟩, fun _ _ _ => rfl⟩

theorem Counted.trans {c d e : Core} (first : Counted c d) (second : Counted d e) : Counted c e := by
  obtain ⟨⟨x, rfl⟩, csr⟩ := first
  obtain ⟨⟨y, rfl⟩, csr'⟩ := second
  exact ⟨⟨y, rfl⟩, fun n ce ue => (csr' n ce ue).trans (csr n ce ue)⟩

theorem counted_bumps (c : Core) (ce ue : Nat) : Counted c (bumpSat (bumpSat c 0xC0 ce) 0xC1 ue) :=
  ⟨⟨_, rfl⟩, fun n notCe notUe => by simp only [bumpSat, rdCsr_wrCsr, if_neg notCe, if_neg notUe]⟩

/-- The clusters differ in the error counters of their Lantern core alone (R199). -/
def ClCounted (c d : Cluster) : Prop := ∃ k, Counted c.lan.core k ∧ d = { c with lan := { c.lan with core := k } }

theorem ClCounted.refl (c : Cluster) : ClCounted c c := ⟨_, .refl _, rfl⟩

theorem ClCounted.trans {c d e : Cluster} (first : ClCounted c d) (second : ClCounted d e) : ClCounted c e := by
  obtain ⟨k, counted, rfl⟩ := first
  obtain ⟨l, counted', rfl⟩ := second
  exact ⟨l, counted.trans counted', rfl⟩

/-- Errors that a read finds are counted by the core of the cluster they lie in, which is otherwise as it was (R47, R199). -/
theorem touchChip_clCounted (s : State) (a n j : Nat) : ClCounted (getCl s j) (getCl (touchChip s a n) j) := by
  unfold touchChip
  rcases touch s.chip.mem a n with ⟨m, ce, ue⟩
  rcases countErr_cases (modChip s fun c => { c with mem := m }) a ce ue with same | ⟨g, bumped⟩
  · simp only [same]
    exact .refl _
  · simp only [bumped]
    cases g with
    | unit k => exact .refl _
    | lantern i =>
      rw [modCore, getCl_modLan]
      split
      · next here =>
        rw [← here]
        exact ⟨_, counted_bumps .., rfl⟩
      · exact .refl _

theorem touchAll_clCounted (l : List (Nat × Nat)) (s : State) (j : Nat) : ClCounted (getCl s j) (getCl (touchAll s l) j) := by
  induction l generalizing s with
  | nil => exact .refl _
  | cons p l ih => exact (touchChip_clCounted s p.1 p.2 j).trans (ih _)

theorem countErr_trace (s : State) (a ce ue : Nat) : (countErr s a ce ue).chip.trace = s.chip.trace := by
  rcases countErr_cases s a ce ue with same | ⟨g, bumped⟩
  · rw [same]
  · rw [bumped]
    cases g <;> rfl

/-- Reads change no byte, and neither HBM, host memory nor what is traced. -/
theorem touchAll_rest (l : List (Nat × Nat)) (s : State) : (touchAll s l).chip.mem.cells = s.chip.mem.cells ∧ (touchAll s l).hbm = s.hbm ∧
    (touchAll s l).host = s.host ∧ (touchAll s l).chip.trace = s.chip.trace := by
  induction l generalizing s with
  | nil => exact ⟨rfl, rfl, rfl, rfl⟩
  | cons p l ih =>
    obtain ⟨cells, hbm, host, trace⟩ := ih (touchChip s p.1 p.2)
    exact ⟨cells.trans (touchChip_cells ..), hbm.trans (touchChip_hbm ..), host.trans (touchChip_host ..), trace.trans (countErr_trace ..)⟩

/-! ## A trap that a word raises -/

theorem hereView_lantern {s : State} {m : ClusterIx} (cur : s.cur = .lantern m) (slot : Nat) : hereView s slot = lanView s m.toNat := by
  rw [hereView, cur]

/-- A Lantern word that nothing holds and that raises a cause of its own takes it in the core's handler (R201, R284). -/
theorem lanTraps_of_trap {s : State} {m : ClusterIx} {o : SlotOut} {finds : List (Nat × Nat)} {sem : Sem} {cause val : Nat}
    (value : sem (lanView s m.toNat) = { o with finds := finds, trap := some (cause, val) }) :
    LanTraps s m o (.next (lanRun s m.toNat none sem)) cause val := by
  intro passes free untraced en user
  obtain ⟨cells, hbm, host, trace⟩ := touchAll_rest finds s
  obtain ⟨k, ⟨⟨x, rfl⟩, csr⟩, counted⟩ := touchAll_clCounted finds s m.toNat
  have raised : lanCause s m.toNat none (lanOut s m.toNat sem) = some (cause, val) := by
    simp only [lanFree, Bool.and_eq_true, Bool.not_eq_true', Option.isNone_iff_eq_none] at free
    obtain ⟨⟨⟨⟨legal, delay⟩, handler⟩, held⟩, -⟩ := free
    have notHeld : lanHeld s m.toNat { o with finds := finds, trap := some (cause, val) } = false := held
    rw [show lanOut s m.toNat sem = _ from value]
    simp only [lanCause, notHeld]
    simp [legal, delay, handler, chk_cause_none _ passes]
  have trapped : lanRun s m.toNat none sem = lanTrap (touchAll s finds) m.toNat cause val (getCl s m.toNat).lan.core.pc (getCl s m.toNat).lan.core.delay := by
    have sees : (lanOut s m.toNat sem).finds = finds := congrArg SlotOut.finds value
    unfold lanRun
    simp only [raised, sees]
  have vec := csr 0xA0 (by decide) (by decide)
  have mode := csr 0xA1 (by decide) (by decide)
  rw [trapped, lanTrap_handled (by rw [counted, trapEn, vec]; exact en) (by rw [counted, hm, mode]; exact user)
    (by rw [traced, trace]; simpa [traced] using untraced)]
  refine ⟨_, rfl, ?_⟩
  simp only [getCl_modLan_self, rdCsr_deliver, deliver_pc, counted]
  refine ⟨by simp, by simp, by simp [bits], ?_, fun _ => rfl, trivial, fun i => ?_, ?_, ?_⟩
  · exact congrArg (fun v : W64 => v.toNat / 4 % 2 ^ 19 * 4) vec
  · rw [modLan_chip_mem, cells]
  · exact memSame_of_eq hbm
  · exact memSame_of_eq host

/-! ## Posts -/

/-- What a post asks for beside its outcome (R277 to R280): `rs` its registers, `wr` the holder of its status. -/
def postAsks (s : State) (m off : Nat) (wr : List Nat) (rs : List Reg) : SlotOut :=
  { wr := wr, reads := rs.map (fun r => r.toNat), gate := rs.map (fun r => r.toNat), fence := some (4, 31)
    finds := postReads s.chip.mem (clBase m) clSize off, chk := psnChk s rs }

section Post
variable {s : State} {m : ClusterIx} (cur : s.cur = .lantern m) (idle : (getCl s m.toNat).lan.wait = none) {a : Reg}
  (aligned : (reg s a).toNat % 64 = 0) (inside : (reg s a).toNat + 64 ≤ clSize) (clean : regBad s a = false)
  (whole : ((readPost s.chip.mem (clBase m.toNat) clSize (reg s a).toNat).psnImg || (readPost s.chip.mem (clBase m.toNat) clSize (reg s a).toNat).psnRegs) = false)
include cur idle aligned inside clean whole

/-- A post to the core's own window that reads nothing poisoned comes to what the window answers (R277, R279). -/
theorem postSem_here (d : Option Reg) (wholeMv : (readPost s.chip.mem (clBase m.toNat) clSize (reg s a).toNat).psnMv = false) :
    postSem d a none (hereView s 0) =
      postOut (hereView s 0) d (postHere (hereView s 0) (readPost s.chip.mem (clBase m.toNat) clSize (reg s a).toNat))
        (postAsks s m.toNat (reg s a).toNat (d.map (fun r => r.toNat)).toList [a]) := by
  have wait : (hereView s 0).core0.wait = none := by rw [View.core0, hereView_s, hereView_g, cur_cl, hereCl_lantern cur, idle]
  rw [postSem, lanOnly_view (onLan_lantern cur)]
  simp only [wait, hereView_sr, hereView_s, hereView_g, hereView_regPsn, psnRegs_view, cur_cl, hereCl_lantern cur, clean, aligned, inside, whole, wholeMv]
  simp [needIll_true, psnChk_clean clean, needRange, psnMem, Chk.unless, Chk.and, Chk.ok, postAsks, hS]

/-- A post to a window of this module that its handle names (R280). -/
theorem postSem_away (d : Option Reg) (b : Reg) (valid : handleOk s (reg s b).toNat = true) (window : bit (reg s b).toNat 47 = false)
    (index : bits (reg s b).toNat 0 12 = 0) (cleanHandle : regBad s b = false)
    (wholeMv : moveBlockPsn s (handleAt s.partMod (reg s b).toNat).2.1 (readPost s.chip.mem (clBase m.toNat) clSize (reg s a).toNat).img = false) :
    postSem d a (some b) (hereView s 0) =
      postOut (hereView s 0) d (postAway (hereView s 0) (reg s b).toNat (readPost s.chip.mem (clBase m.toNat) clSize (reg s a).toNat))
        (postAsks s m.toNat (reg s a).toNat (d.map (fun r => r.toNat)).toList [a, b]) := by
  have wait : (hereView s 0).core0.wait = none := by rw [View.core0, hereView_s, hereView_g, cur_cl, hereCl_lantern cur, idle]
  rw [postSem, lanOnly_view (onLan_lantern cur)]
  simp only [wait, hereView_sr, hereView_s, hereView_g, hereView_regPsn, psnRegs_view, cur_cl, hereCl_lantern cur, clean, aligned, inside, whole, wholeMv,
    Option.map_some, Option.getD_some, cleanHandle, valid, window, index]
  simp [needIll_true, psnChk, psnOf, clean, cleanHandle, needRange, psnMem, Chk.unless, Chk.and, Chk.ok, postAsks, hS]

end Post

section Outcome
variable {s : State} {m : ClusterIx} (cur : s.cur = .lantern m)
include cur

/-- A post that is accepted with nothing left to wait for is complete (R276, R293). -/
theorem postTake_done {cl : Nat} {p : Post} (room : (acceptPost s cl p false (.word m)).2 = none) :
    postTake (hereView s 0) cl p 0 = .done 0 (fun t => (acceptPost t cl p false (.word m)).1) := by
  have zero : ((0 : Nat) == 1) = false := rfl
  simp only [postTake, hereView_g, hereView_st, cur_cl, hereCl_lantern cur, BitVec.ofNat_toNat, BitVec.setWidth_eq, zero, room]

/-- A post that its own window takes (R279, R301). -/
theorem postHere_enters {o : PostObj} (fits : postReason s m.toNat clSize o.img o.regs o.mv = 0)
    (place : placeOf (getCl s m.toNat) 0 (postRegs (mkPost s m.toNat 0 o)).length = 0)
    (room : (acceptPost s m.toNat (mkPost s m.toNat 0 o) false (.word m)).2 = none) :
    postHere (hereView s 0) o = .done 0 (fun t => (acceptPost t m.toNat (mkPost s m.toNat 0 o) false (.word m)).1) := by
  simp only [postHere, hereView_s, hereView_g, cur_cl, hereCl_lantern cur, fits, ne_eq, not_true_eq_false, if_false, place]
  exact postTake_done cur room

/-- A post that its own window rejects (R278). -/
theorem postHere_rejected {o : PostObj} (bad : postReason s m.toNat clSize o.img o.regs o.mv ≠ 0) :
    postHere (hereView s 0) o = .done (3 + 256 * postReason s m.toNat clSize o.img o.regs o.mv) id := by
  simp only [postHere, hereView_s, hereView_g, cur_cl, hereCl_lantern cur, bad, ne_eq, not_false_eq_true, if_true]

/-- A post that finds its own window and queue full (R279, R301). -/
theorem postHere_full {o : PostObj} (fits : postReason s m.toNat clSize o.img o.regs o.mv = 0)
    (place : placeOf (getCl s m.toNat) 0 (postRegs (mkPost s m.toNat 0 o)).length = 2) : postHere (hereView s 0) o = .full id := by
  simp only [postHere, hereView_s, hereView_g, cur_cl, hereCl_lantern cur, fits, ne_eq, not_true_eq_false, if_false, place]

/-- A post that a window of this module takes (R280, R301). -/
theorem postAway_enters {h : Nat} {o : PostObj} (own : (handleAt s.partMod h).1 = s.partMod) {c : Nat} (cluster : (handleAt s.partMod h).2.1 = c)
    {o2 : PostObj} (moved : { o with mv := moveBlock s c o.img } = o2) (fits : postReason s c clSize o2.img o2.regs o2.mv = 0)
    (place : placeOf (getCl s c) 9 (postRegs (mkPost s c 9 o2)).length = 0) (room : (acceptPost s c (mkPost s c 9 o2) false (.word m)).2 = none) :
    postAway (hereView s 0) h o = .done 0 (fun t => (acceptPost t c (mkPost s c 9 o2) false (.word m)).1) := by
  have taken : remotePlace s c o2 = .ok (mkPost s c 9 o2) := by simp only [remotePlace, fits, ne_eq, not_true_eq_false, if_false, place, if_true]
  simp only [postAway, hereView_s, own, cluster, moved, if_true, taken]
  exact postTake_done cur room

end Outcome

/-- A form with a destination returns its status (R279). -/
theorem postOut_status (s : State) (d : Reg) (code : Nat) (f : State → State) (o : SlotOut) : postOut (hereView s 0) (some d) (.done code f) o =
    { o with eff := fun t => lands s d.toNat 1 (BitVec.ofNat 4096 code) [] false 0 (f t) } := by
  simp only [postOut, hereView_g, hereView_core]
  rfl

/-- A rejected POST traps with its reason (R278, R279). -/
theorem postOut_rejected (v : View) (reason : Nat) (f : State → State) (o : SlotOut) :
    postOut v none (.done (3 + 256 * reason) f) o = { o with trap := some (cPostReject, reason) } := by
  have status : (3 + 256 * reason) % 256 = 3 := by omega
  have value : (3 + 256 * reason) / 256 = reason := by omega
  simp only [postOut, status, value, if_true]

/-- A legal word of a Lantern core. -/
theorem runOne_lantern {s : State} {m : ClusterIx} (cur : s.cur = .lantern m) {i : Instr} (legal : illegal i = none) (slot : Nat) (sem : Sem) :
    runOne i slot sem s = .next (lanRun s m.toNat none sem) := by
  rw [runOne, cur, legal]

/-- Settles O14: a post that a window takes by the acceptance it asks for, a rejected one by its status or its trap. -/
theorem posts : Obligations.Posts := by
  unfold Obligations.Posts
  refine ⟨?taken, ?rejected⟩
  case taken =>
    intro s m d a b cur idle off o h out aligned inside whole clean
    constructor
    · intro wholeMv fits place enter room
      refine ⟨runOne_free _ 0 _ s _ ?_, runOne_free _ 0 _ s _ ?_⟩
      · rw [semPost, postSem_here cur idle aligned inside clean whole none wholeMv, postHere_enters cur fits place room]
        rfl
      · rw [semPostTry, postSem_here cur idle aligned inside clean whole (some d) wholeMv, postHere_enters cur fits place room, postOut_status]
        rfl
    · intro valid window index own cleanHandle c o2 wholeMv fits place enter room
      refine ⟨runOne_free _ 0 _ s _ ?_, runOne_free _ 0 _ s _ ?_⟩
      · rw [semPostR, postSem_away cur idle aligned inside clean whole none b valid window index cleanHandle wholeMv,
          postAway_enters cur own rfl rfl fits place room]
        rfl
      · rw [semPostRtry, postSem_away cur idle aligned inside clean whole (some d) b valid window index cleanHandle wholeMv,
          postAway_enters cur own rfl rfl fits place room, postOut_status]
        rfl
  case rejected =>
    intro s m d a cur idle off o reason aligned inside whole clean bad
    simp only [Bool.or_eq_false_iff] at whole
    obtain ⟨wholePost, wholeMv⟩ := whole
    rw [← Bool.or_eq_false_iff] at wholePost
    refine ⟨runOne_free _ 0 _ s _ ?_, ?_⟩
    · rw [semPostTry, postSem_here cur idle aligned inside clean wholePost (some d) wholeMv, postHere_rejected cur bad, postAsks, psnChk_clean clean,
        postOut_status]
      rfl
    · rw [show exec (.post a) s = _ from runOne_lantern cur rfl 0 (semPost a)]
      refine lanTraps_of_trap (finds := postReads s.chip.mem (clBase m.toNat) clSize off) ?_
      rw [← hereView_lantern cur 0, semPost, postSem_here cur idle aligned inside clean wholePost none wholeMv, postHere_rejected cur bad, postAsks,
        psnChk_clean clean, postOut_rejected]
      rfl

/-! ## The answer, and the end of win.timeout -/

section Again
variable {s : State} {m : ClusterIx} (arg : s.arg.m = m)
include arg

theorem postAnswer_idle (unanswered : (getCl s m.toNat).lan.ans = none) : exec .postAnswer s = .next s := by
  show execPostAnswer s = _
  simp [execPostAnswer, arg, unanswered]

variable (runs : lanRuns s m.toNat = true)
include runs

theorem postAnswer_runs (answered : (getCl s m.toNat).lan.ans ≠ none) : exec .postAnswer s = .next (postWord s m.toNat) := by
  show execPostAnswer s = _
  simp [execPostAnswer, arg, runs, Option.isSome_iff_ne_none.mpr answered]

theorem postTimeout_runs (stalled : postTimedOut (getCl s m.toNat).lan = true) : exec .postTimeout s = .next (postWord s m.toNat) := by
  show execPostTimeout s = _
  simp [execPostTimeout, arg, runs, stalled]

end Again

theorem here_lantern {s : State} {m : ClusterIx} (cur : s.cur = .lantern m) : here s = (getCl s m.toNat).lan.core := by rw [here, cur, getCore]

/-- Where a post or a TKSIG stands at the core's pc, it is run again (R276, R279, R280). -/
theorem postWord_runs {s : State} {m : ClusterIx} (cur : s.cur = .lantern m) {d a b : Reg} {i : Instr}
    (form : i = .post a ∨ i = .postR a b ∨ i = .postTry d a ∨ i = .postRtry d a b ∨ i = .tksig a) (fetched : lanFetch s m.toNat = .ok i) :
    .next (postWord s m.toNat) = exec i s := by
  obtain rfl | rfl | rfl | rfl | rfl := form <;> simp only [postWord, fetched] <;> exact (runOne_lantern cur rfl 0 _).symm

/-- A remote TKSIG whose answer has come asks for nothing more (R276, R281). -/
theorem semTksig_answered {s : State} {m : ClusterIx} (cur : s.cur = .lantern m) {a : Reg} {c : Nat} (waits : (getCl s m.toNat).lan.wait = some (.post c 255))
    (answer : (getCl s m.toNat).lan.ans = some (0, 0)) (valid : handleOk s (reg s a).toNat = true) (token : bit (reg s a).toNat 47 = false)
    (away : (handleAt s.partMod (reg s a).toNat).1 ≠ s.partMod) (clean : regBad s a = false) :
    semTksig a (hereView s 0) = { reads := [a.toNat], gate := [a.toNat], fence := some (4, 31) } := by
  have lan : (hereView s 0).core0 = (getCl s m.toNat).lan := by rw [View.core0, hereView_s, hereView_g, cur_cl, hereCl_lantern cur]
  have far : tokHere s (reg s a).toNat = false := by simp [tokHere, away]
  rw [semTksig, tokSem_view (onLan_lantern cur) valid token clean]
  simp only [tksigOut, hereView_s, far, Bool.false_eq_true, if_false, tokAsk, lan, waits, answer]
  rfl

/-- Settles O47: an answer and the end of win.timeout run the word again, a signal whose answer has come goes on, and a POST that finds no room traps. -/
theorem postEvents : Obligations.PostEvents := by
  unfold Obligations.PostEvents
  intro s m d a b arg cur runs
  refine ⟨fun i form fetched => ⟨fun answered => ?_, fun stalled => ?_⟩, postAnswer_idle arg, ?signal, ?stall⟩
  · rw [postAnswer_runs arg runs answered, postWord_runs cur form fetched]
  · rw [postTimeout_runs arg runs (decide_eq_true (here_lantern cur ▸ stalled)), postWord_runs cur form fetched]
  case signal =>
    intro c waits answer fetched valid token away clean free straight
    rw [postAnswer_runs arg runs (by rw [answer]; exact Option.some_ne_none _), postWord, fetched]
    have word : lanRun s m.toNat none (semTksig a) = lanDid s m.toNat { reads := [a.toNat], gate := [a.toNat], fence := some (4, 31) } :=
      lanRun_free s m.toNat _ _ (by rw [← hereView_lantern cur 0, semTksig_answered cur waits answer valid token away clean]) rfl rfl free
    refine ⟨_, congrArg Host.Outcome.next word, ?_⟩
    have gone : lanDid s m.toNat { reads := [a.toNat], gate := [a.toNat], fence := some (4, 31) } = modLan (lanIssued s m.toNat) m.toNat
        (fun l => { l with core := goOn l.core (codeAddr ((getCl s m.toNat).lan.core.pc + 4)) }) := rfl
    rw [here_lantern cur] at straight ⊢
    rw [gone, here_modLan (show (lanIssued s m.toNat).cur = .lantern m from cur), getCl_modLan_self, lanIssued_core,
      goOn_noDelay (show (issuedCore (getCl s m.toNat).lan.core).delay = none from straight), codeAddr_afterWord]
    exact ⟨rfl, by simp [lanIssued], by simp [lanIssued]⟩
  case stall =>
    intro off o fetched idle aligned inside whole clean fits place stalled
    simp only [Bool.or_eq_false_iff] at whole
    obtain ⟨wholePost, wholeMv⟩ := whole
    rw [← Bool.or_eq_false_iff] at wholePost
    have timedOut : postTimedOut (getCl s m.toNat).lan = true := decide_eq_true (here_lantern cur ▸ stalled)
    rw [postTimeout_runs arg runs timedOut, postWord, fetched]
    refine lanTraps_of_trap (finds := postReads s.chip.mem (clBase m.toNat) clSize off) ?_
    have lan : (hereView s 0).core0 = (getCl s m.toNat).lan := by rw [View.core0, hereView_s, hereView_g, cur_cl, hereCl_lantern cur]
    rw [← hereView_lantern cur 0, semPost, postSem_here cur idle aligned inside clean wholePost none wholeMv, postHere_full cur fits place, postAsks,
      psnChk_clean clean]
    simp only [postOut, lan, timedOut, if_true]
    rfl

end Sys2Proof.Machine
end

section
/-! PROOFS. Packets that are dropped or go on to another module (spec 18 R334, R336, R349 to R351). -/

namespace Sys2Proof.Machine

/-- A packet that came over a link advances its counter and no other (R349). -/
theorem linkIn_rxCtrs {s : State} (link : s.arg.flag = false) (k : Nat) :
    sget 0 (linkIn s).svc.rxCtrs k = if k = s.arg.n then (sget 0 s.svc.rxCtrs k + 1) % 2 ^ 64 else sget 0 s.svc.rxCtrs k := by
  rw [linkIn, if_neg (by simp [link])]
  dsimp only
  rw [sget_smod]
  split
  · next here => rw [here]
  · rfl

theorem tagHolds_iff {s : State} (link : s.arg.flag = false) :
    tagHolds s = true ↔ s.arg.pkt.tag = tagOf s (sget 0 s.svc.rxNonces s.arg.n) (sget 0 s.svc.rxCtrs s.arg.n) s.arg.pkt := by
  simp [tagHolds, link]

/-- A packet whose tag or key fails is dropped and counted at its port (R350, R351). -/
theorem onPacket_drops {s : State} (ok : Packet → Bool) (f : State → Packet → State) (bad : tagHolds s = false ∨ keyOk s s.arg.pkt.slot.toNat = false) :
    onPacket s ok f = .next (tagFail (linkIn s) s.arg.n) := by
  have fails : (!tagHolds s || !keyOk s s.arg.pkt.slot.toNat || !ok s.arg.pkt) = true := by
    rcases bad with tag | key
    · simp [tag]
    · simp [key]
  simp only [onPacket, fails, if_true]

/-- A packet for another module goes on as it is (R334). -/
theorem onPacket_passes {s : State} {ok : Packet → Bool} (f : State → Packet → State) (tag : tagHolds s = true)
    (key : keyOk s s.arg.pkt.slot.toNat = true) (formed : ok s.arg.pkt = true) (away : s.arg.pkt.dmod.toNat ≠ s.partMod) :
    onPacket s ok f = .next (passOn (linkIn s) s.arg.pkt) := by
  simp [onPacket, tag, key, formed, away]

theorem linkIn_inj (s : State) : (linkIn s).inj = s.inj := by obtain ⟨v, h⟩ := linkIn_eq s; rw [h]
theorem linkIn_hops (s : State) : (linkIn s).hops = s.hops := by obtain ⟨v, h⟩ := linkIn_eq s; rw [h]

/-- A packet that goes on stands in the input buffer of its port's die router (R334, R338). -/
theorem passOn_enters (s : State) (p : Packet) : passOn s p = { s with
    sent := s.sent ++ [p], inj := s.inj + 1, hops := s.hops ++ [⟨s.inj, s.arg.n / 32 % 4, 1 + s.arg.n / 16 % 2, p, s.arg.v.toNat⟩] } := by
  rw [passOn, enterHop]
  exact if_neg fun circuit => absurd circuit.2 (by omega)

/-- The events whose packet arrives in a form of its own (R336). -/
def ArrivesAs (i : Instr) (ok : Packet → Bool) : Prop := ∀ s, ∃ f, exec i s = onPacket s ok f

theorem onToken_arrives {s : State} {out : Out} {type resp : Nat} {f : State → Packet → Nat → Nat → State} (run : out = onToken s type resp f) :
    ∃ g, out = onPacket s (fun p => pktIs p 0 type 0 0) g := ⟨_, run⟩

/-- Every packet event is the arrival of a packet of its form (R336). -/
theorem packetEvents_arrive : ∀ x ∈ ([(.rd, 0, 0x01, 0, 0), (.wr, 0, 0x02, 1, 8), (.amo, 0, 0x03, 1, 1), (.fadd, 0, 0x04, 1, 1), (.postPacket, 0, 0x08, 5, 5),
      (.tkarm, 0, 0x09, 0, 0), (.tksigPacket, 0, 0x0A, 0, 0), (.tkrdPacket, 0, 0x0B, 0, 0), (.mcreq, 0, 0x10, 0, 0), (.red, 2, 0x30, 8, 8),
      (.data, 1, 0x20, 0, 8), (.ack, 1, 0x21, 0, 0)] : List (Instr × Nat × Nat × Nat × Nat)),
    ArrivesAs x.1 (fun p => pktIs p x.2.1 x.2.2.1 x.2.2.2.1 x.2.2.2.2) := by
  simp only [List.forall_mem_cons]
  exact ⟨fun s => ⟨_, show execRd s = _ from rfl⟩, fun s => ⟨_, show execWr s = _ from rfl⟩, fun s => ⟨_, show execAmo s = _ from rfl⟩,
    fun s => ⟨_, show execFadd s = _ from rfl⟩, fun s => ⟨_, show execPostPacket s = _ from rfl⟩,
    fun s => onToken_arrives (show exec .tkarm s = execTkarm s from rfl), fun s => onToken_arrives (show exec .tksigPacket s = execTksigPacket s from rfl),
    fun s => onToken_arrives (show exec .tkrdPacket s = execTkrdPacket s from rfl), fun s => ⟨_, show execMcreq s = _ from rfl⟩,
    fun s => ⟨_, show execRed s = _ from rfl⟩, fun s => ⟨_, show execData s = _ from rfl⟩, fun s => ⟨_, show execAck s = _ from rfl⟩, by simp⟩

/-- Settles O48: every packet event is an arrival, whose tag and key decide first and whose module decides then. -/
theorem packetsDroppedOrForwarded : Obligations.PacketsDroppedOrForwarded := by
  unfold Obligations.PacketsDroppedOrForwarded
  intro s i event p form r
  have arrive := packetEvents_arrive
  simp only [List.forall_mem_cons] at arrive
  obtain ⟨rd, wr, amo, fadd, post, arm, sig, read, mcreq, red, data, ack, -⟩ := arrive
  refine ⟨fun link => ⟨linkIn_rxCtrs link, tagHolds_iff link⟩, fun bad => ?dropped, fun tag key away kind => ?passed⟩
  case dropped =>
    have arrival : ∃ ok, ArrivesAs i ok := by
      simp only [List.mem_cons, List.not_mem_nil, or_false] at event
      rcases event with rfl | rfl | rfl | rfl | rfl | rfl | rfl | rfl | rfl | rfl | rfl | rfl <;> exact ⟨_, ‹_›⟩
    obtain ⟨ok, arrives⟩ := arrival
    obtain ⟨f, run⟩ := arrives s
    rw [run, onPacket_drops ok f bad]
    rfl
  case passed =>
    have arrival : ∃ ok, ArrivesAs i ok ∧ ok p = true := by
      rcases kind with ⟨rfl, h⟩ | ⟨rfl, h⟩ | ⟨rfl, h⟩ | ⟨rfl, h⟩ | ⟨rfl, h⟩ | ⟨rfl, h⟩ | ⟨rfl, h⟩ | ⟨rfl, h⟩ | ⟨rfl, h⟩ | ⟨rfl, h⟩ | ⟨rfl, h⟩ | ⟨rfl, h⟩ <;>
        exact ⟨_, ‹_›, decide_eq_true h⟩
    obtain ⟨ok, arrives, formed⟩ := arrival
    obtain ⟨f, run⟩ := arrives s
    rw [run, onPacket_passes f tag key formed away, passOn_enters]
    refine ⟨_, rfl, ?_, ?_, linkIn_chip s, .of_eq ?_ ?_ ?_⟩ <;> simp [linkIn_inj, linkIn_hops, p]

end Sys2Proof.Machine
end

section
/-! PROOFS. Token packets and remote posts (spec 15 R276, R280, R281, 16 R301, R308). -/

namespace Sys2Proof.Machine

section Token
variable {s : State} (arrives : Arrives s) (admitted : Admitted s)
include arrives admitted

/-- A token packet of the job acts on the token that it names (R276, R336). -/
theorem onToken_admitted {type : Nat} (form : pktIs s.arg.pkt 0 type 0 0 = true) (resp : Nat) (f : State → Packet → Nat → Nat → State) :
    onToken s type resp f = .next (f (linkIn s) s.arg.pkt (bits s.arg.pkt.ia.toNat 12 5) (bits s.arg.pkt.ia.toNat 0 12)) := by
  rw [onToken, onPacket_arrives s _ _ arrives form, jobGate_admitted s admitted]

end Token

theorem getTok_of_chip {s t : State} (chip : t.chip = s.chip) (m i : Nat) : getTok t m i = getTok s m i :=
  getTok_congr (by simp only [getCl, chip]) i

/-- A token armed or signalled changes, and no other (R276). -/
theorem getTok_modTokens {s : State} {cl k : Nat} {f : Cluster → Cluster} {x : Token}
    (tokens : ∀ i, sget ({} : Token) (f (getCl s cl)).tokens i = if i = k then x else sget {} (getCl s cl).tokens i) (m i : Nat) :
    getTok (modCl s cl f) m i = if m = cl ∧ i = k then x else getTok s m i := by
  rw [getTok, getTok, getCl_modCl]
  by_cases own : m = cl
  · rw [if_pos own, tokens i, own]
    simp
  · rw [if_neg own, if_neg fun both => own both.1]

theorem getTok_tokArm (s : State) (cl k m i : Nat) : getTok (tokArm s cl k) m i = if m = cl ∧ i = k then ⟨false, 0⟩ else getTok s m i :=
  getTok_modTokens (fun i => sget_serase ({} : Token) _ k i) m i

theorem getTok_tokFire (s : State) (cl k m i : Nat) :
    getTok (tokFire s cl k) m i = if m = cl ∧ i = k then ⟨true, min 65535 ((getTok s cl k).cnt + 1)⟩ else getTok s m i :=
  getTok_modTokens (fun i => by simp [satPosts, getTok]) m i

/-- What an answer to a token packet leaves: the tokens and the memories of the state that it is sent from. -/
theorem token_answered {s u : State} (arrives : Arrives s) (number : u.partMod = s.partMod) {x : Token} {cl k : Nat}
    (tokens : ∀ m i, getTok u m i = if m = cl ∧ i = k then x else getTok (linkIn s) m i) (sent : u.sent = s.sent)
    (mem : u.chip.mem = s.chip.mem) (hbm : u.hbm = s.hbm) (host : u.host = s.host) :
    let t := respond u s.arg.pkt 0x21 0 0 []
    Answered s u t 0x21 0 0 [] ∧ u.sent = s.sent ∧ (∀ m i, getTok t m i = if m = cl ∧ i = k then x else getTok s m i) ∧ AllMemSame s t := by
  obtain ⟨r, -, -, -, -, -, -, -, -, -, -, -, -, chip', hbm', host'⟩ := respond_answered s u arrives number 0x21 0 0 []
  refine ⟨respond_answered s u arrives number 0x21 0 0 [], sent, fun m i => ?_, .of_eq (by rw [chip', mem]) (by rw [hbm', hbm]) (by rw [host', host])⟩
  rw [getTok_of_chip chip', tokens, getTok_of_chip (linkIn_chip s)]

/-- What a read of a token answers: its 64 bytes (R276, R336). -/
theorem read_answered {s : State} (arrives : Arrives s) (v : Nat) :
    Answered s (linkIn s) (respond (linkIn s) s.arg.pkt 0x20 0 0 ((toBytes v 64).map (fun b => (b, false)))) 0x20 0 0 (toBytes v 64) := by
  generalize toBytes v 64 = bytes
  simpa [Function.comp_def] using respond_answered s (linkIn s) arrives (linkIn_partMod s) 0x20 0 0 (bytes.map (fun b => (b, false)))

section Post
variable {s : State} (arrives : Arrives s) (admitted : Admitted s) (form : pktIs s.arg.pkt 0 0x08 5 5 = true)

/-- The image that a post's packet carries, and all that is read with it at its target (R280, R336). -/
def carriedImg (s : State) : Nat := ofBytes (s.arg.pkt.payload.take 64)
def carriedPost (s : State) : PostObj :=
  let x := carriedImg s
  ⟨x, (List.range (imNreg x)).map (fun j => ofBytes ((s.arg.pkt.payload.drop (64 + 32 * j)).take 32)),
    moveBlock (linkIn s) (bits s.arg.pkt.ia.toNat 12 5) x, false, false, false⟩

/-- The image is 512 bits. -/
theorem carriedImg_lt (s : State) : carriedImg s < 2 ^ 512 := by
  rw [carriedImg, ofBytes_take]
  exact Nat.mod_lt _ (Nat.two_pow_pos _)

include arrives admitted form

/-- A post's packet is placed at the cluster its handle names (R280, R308). -/
theorem exec_postPacket_admitted : exec .postPacket s = .next (
    match remotePlace (linkIn s) (bits s.arg.pkt.ia.toNat 12 5) (carriedPost s) with
    | .error c => if c = 2 then respondSt (linkIn s) s.arg.pkt 0x21 (3, 0) else respondSt (linkIn s) s.arg.pkt 0x21 (4, c / 256)
    | .ok q =>
      match acceptPost (linkIn s) (bits s.arg.pkt.ia.toNat 12 5) q false (.armAns s.arg.pkt) with
      | (t, none) => respond t s.arg.pkt 0x21 0 0 []
      | (t, some _) => t) := by
  rw [show exec .postPacket s = execPostPacket s from rfl, execPostPacket, onPacket_arrives s _ _ arrives form, jobGate_admitted s admitted]
  rfl

/-- A post's packet that finds no place is answered so (R280). -/
theorem exec_postPacket_refused {c : Nat}
    (place : remotePlace (linkIn s) (bits s.arg.pkt.ia.toNat 12 5) (carriedPost s) = .error c) :
    exec .postPacket s = .next (if c = 2 then respondSt (linkIn s) s.arg.pkt 0x21 (3, 0) else respondSt (linkIn s) s.arg.pkt 0x21 (4, c / 256)) := by
  rw [exec_postPacket_admitted arrives admitted form, place]

/-- A post's packet that has entered the window with no token to arm is answered at once (R280). -/
theorem exec_postPacket_enters {q : Post} {t : State}
    (place : remotePlace (linkIn s) (bits s.arg.pkt.ia.toNat 12 5) (carriedPost s) = .ok q)
    (entry : acceptPost (linkIn s) (bits s.arg.pkt.ia.toNat 12 5) q false (.armAns s.arg.pkt) = (t, none)) :
    exec .postPacket s = .next (respond t s.arg.pkt 0x21 0 0 []) := by
  rw [exec_postPacket_admitted arrives admitted form, place]
  dsimp only
  rw [entry]

end Post

/-- A post of another cluster or module whose target accepts it with no token to arm enters the window there (R293, R301). -/
theorem acceptPost_unarmed {s : State} {m : Nat} {p : Post} (free : bit (imTok p.img.toNat 3) 47 = false) (who : Reqr) :
    acceptPost s m p false who = (refresh (enterWindow s m (acceptSat s m p)) m, none) := by
  have unarmed : armProduced s (acceptSat s m p) who = (s, none) := by
    have img : (acceptSat s m p).img = p.img := rfl
    simp [armProduced, img, free]
  simp only [acceptPost, unarmed]
  rfl

/-- The window after a post has entered it: its serial number and its image are the last (R293). -/
theorem entered_last (s : State) (m : Nat) (p : Post) : let t := refresh (enterWindow s m p) m
    (getCl t m).tasks.map (fun y => y.serial) = (getCl s m).tasks.map (fun y => y.serial) ++ [(getCl s m).serial] ∧
      ∃ z, (getCl t m).tasks.getLast? = some z ∧ z.post.img = p.img := by
  obtain ⟨_, serials⟩ := entered s m p (fun y => y.serial) (fun _ _ _ => rfl)
  obtain ⟨regs, images⟩ := entered s m p (fun y => y.post.img) (fun _ _ _ => rfl)
  refine ⟨serials, ?_⟩
  have last := congrArg List.getLast? images
  rw [List.getLast?_map, List.getLast?_append, List.getLast?_singleton, Option.some_or, Option.map_eq_some_iff] at last
  exact last

theorem entered_rest (s : State) (m : Nat) (p : Post) : let t := refresh (enterWindow s m p) m
    t.partMod = s.partMod ∧ t.sent = s.sent := by
  obtain ⟨b, regs, enters⟩ := enterWindow_enters s m p
  simp [refresh, enters]

/-- Settles O50: a token packet by what it makes of its token, a remote post by what its target answers. -/
theorem remoteTokensAndPosts : Obligations.RemoteTokensAndPosts := by
  unfold Obligations.RemoteTokensAndPosts
  intro s arrives admitted p r cl k toks
  have cluster : getCl r cl = getCl s cl := by rw [getCl, getCl, linkIn_chip]
  refine ⟨fun form => ?arm, fun form => ?signal, fun form => ?read, fun form => ?post⟩
  case arm =>
    refine ⟨tokArm r cl k, _, ?_, token_answered (u := tokArm r cl k) arrives (linkIn_partMod s) (getTok_tokArm r cl k) (linkIn_sent s) (linkIn_chip s ▸ rfl) (linkIn_hbm s) (linkIn_host s)⟩
    rw [show exec .tkarm s = execTkarm s from rfl, execTkarm, onToken_admitted arrives admitted form]
  case signal =>
    refine ⟨tokFire r cl k, _, ?_, token_answered (u := tokFire r cl k) arrives (linkIn_partMod s) (fun m i => ?_) (linkIn_sent s) (linkIn_chip s ▸ rfl) (linkIn_hbm s) (linkIn_host s)⟩
    · rw [show exec .tksigPacket s = execTksigPacket s from rfl, execTksigPacket, onToken_admitted arrives admitted form]
    · rw [getTok_tokFire, getTok_of_chip (linkIn_chip s) cl k]
  case read =>
    refine ⟨respond r p 0x20 0 0 ((toBytes (tokenVal (getTok r cl k)) 64).map (fun b => (b, false))), ?_, answered_linkIn ?_⟩
    · rw [show exec .tkrdPacket s = execTkrdPacket s from rfl, execTkrdPacket, onToken_admitted arrives admitted form]
    · rw [← getTok_of_chip (linkIn_chip s) cl k]
      exact read_answered arrives (tokenVal (getTok r cl k))
  case post =>
    intro x regs o q why
    refine ⟨fun rejected => ?_, fun fits full => ?_, fun fits room free => ?_⟩
    · have place : remotePlace r cl o = .error (3 + 256 * why) := if_pos rejected
      have status : ¬ 3 + 256 * why = 2 := by omega
      have reason : (3 + 256 * why) / 256 = why := by omega
      have refused := exec_postPacket_refused arrives admitted form place
      rw [if_neg status, reason] at refused
      exact ⟨_, refused, respondSt_answered arrives 0x21 (4, why)⟩
    · have place : remotePlace r cl o = .error 2 := by
        rw [← cluster] at full
        exact (if_neg (not_not.mpr fits)).trans (if_neg full)
      exact ⟨_, exec_postPacket_refused arrives admitted form place, respondSt_answered arrives 0x21 (3, 0)⟩
    · have place : remotePlace r cl o = .ok q := by
        rw [← cluster] at room
        exact (if_neg (not_not.mpr fits)).trans (if_pos room)
      have img : q.img.toNat = x := by
        show (BitVec.ofNat 512 (carriedImg s)).toNat = carriedImg s
        rw [BitVec.toNat_ofNat, Nat.mod_eq_of_lt (carriedImg_lt s)]
      have entry := acceptPost_unarmed (s := r) (m := cl) (p := q) (img ▸ free) (.armAns p)
      obtain ⟨number, sent⟩ := entered_rest r cl (acceptSat r cl q)
      rw [linkIn_partMod] at number
      rw [linkIn_sent] at sent
      refine ⟨_, _, exec_postPacket_enters arrives admitted form place entry, respond_answered s _ arrives number 0x21 0 0 [], sent, ?_⟩
      obtain ⟨-, -, -, -, -, -, -, -, -, -, -, -, -, chip', -⟩ := respond_answered s _ arrives number 0x21 0 0 []
      rw [show getCl _ cl = _ from congrArg (fun c : Chip => sget ({} : Cluster) c.clusters cl) chip', ← cluster]
      exact entered_last r cl (acceptSat r cl q)

end Sys2Proof.Machine
end

section
/-! PROOFS. A unit's trap CSRs across a gang switch (spec 17 R318). -/

namespace Sys2Proof.Machine

/-- CSR `n` of unit `k`, as plain bits. -/
def unitCsr (k n : Nat) (s : State) : W64 := rdCsr (getUnit s k).core n

section
variable (k n : Nat)

theorem unitCsr_of_chip {s t : State} (chip : t.chip = s.chip) : unitCsr k n t = unitCsr k n s := by
  simp only [unitCsr, getUnit, chip]

theorem unitCsr_of_agents {s t : State} (same : agents t = agents s) : unitCsr k n t = unitCsr k n s := by
  rw [unitCsr, unitCsr, getUnit_of_agents same]

/-- A change of a unit that keeps its CSRs changes no unit's. -/
theorem unitCsr_modUnit (s : State) (j : Nat) {f : Unit → Unit} (kept : ∀ u, rdCsr (f u).core n = rdCsr u.core n) :
    unitCsr k n (modUnit s j f) = unitCsr k n s := by
  rw [unitCsr, unitCsr, getUnit_modUnit]
  split
  · next own => rw [kept, own]
  · rfl

@[simp] theorem unitCsr_modMx (s : State) (j : Nat) (f : Mx → Mx) : unitCsr k n (modMx s j f) = unitCsr k n s :=
  unitCsr_modUnit k n s j fun _ => rfl

@[simp] theorem unitCsr_modCl (s : State) (m : Nat) (f : Cluster → Cluster) : unitCsr k n (modCl s m f) = unitCsr k n s := rfl

@[simp] theorem unitCsr_modLan (s : State) (m : Nat) (f : Lan → Lan) : unitCsr k n (modLan s m f) = unitCsr k n s := rfl

@[simp] theorem unitCsr_modX (s : State) (e : Eng) (f : XEng → XEng) : unitCsr k n (modX s e f) = unitCsr k n s := by
  cases e with
  | uce j q => exact unitCsr_modUnit k n s _ fun u => by split <;> rfl
  | cce | xe | lantern | mat | stream => rfl

@[simp] theorem unitCsr_putChunk (s : State) (e : Eng) (id : Nat) (c : Chunk) : unitCsr k n (putChunk s e id c) = unitCsr k n s :=
  unitCsr_modX ..

@[simp] theorem unitCsr_putRedo (s : State) (e : Eng) (seq id idx : Nat) : unitCsr k n (putRedo s e seq id idx) = unitCsr k n s :=
  unitCsr_modX ..

theorem unitCsr_traceSwitch (s : State) (out : Bool) : unitCsr k n (traceSwitch s out) = unitCsr k n s :=
  unitCsr_of_agents k n ((foldl_keeps _ agents (fun t _ => traceRec_agents t ..) _ _).trans (foldl_keeps _ agents (fun t _ => traceRec_agents t ..) _ _))

/-- A request put back as not issued changes no CSR of a unit (R325). -/
theorem unitCsr_answerDeferred (s : State) (o : Outst) (rid : Nat) : unitCsr k n (answerDeferred s o rid) = unitCsr k n s := by
  unfold answerDeferred
  split
  · split <;> simp
  · split <;> simp
  · split
    · rfl
    · exact unitCsr_of_chip k n rfl |>.trans (unitCsr_putRedo ..)
  · simp
  · exact unitCsr_modMx ..
  · rfl
  · rfl

theorem unitCsr_putBack (s : State) : unitCsr k n (putBack s) = unitCsr k n s :=
  foldl_keeps _ (unitCsr k n) (fun t p => by exact unitCsr_answerDeferred k n { t with outst := serase t.outst p.1 } p.2 p.1) _ _

/-! ## Saving -/

theorem saveArea_chip (s : State) (c : Chip) (base : Nat) : (saveArea s c base).chip = s.chip := rfl
theorem saveArea_images (s : State) (c : Chip) (base : Nat) : (saveArea s c base).images = s.images := rfl

theorem unitCsr_saveArea (s : State) (c : Chip) (base : Nat) : unitCsr k n (saveArea s c base) = unitCsr k n s :=
  unitCsr_of_chip k n (saveArea_chip s c base)

/-- What is saved of a unit has its CSRs. -/
theorem rdCsr_sget_saveUnit (l : SMap Unit) :
    rdCsr (sget {} (l.map (fun p => (p.1, saveUnit (stopMx p.2)))) k).core n = rdCsr (sget {} l k).core n := by
  induction l with
  | nil => rfl
  | cons p l ih =>
    rw [List.map_cons, sget, sget]
    split
    · rfl
    · exact ih

/-! ## Restoring -/

theorem frameErr_chip (s : State) (a ce ue : Nat) : (frameErr s a ce ue).chip = s.chip := by
  unfold frameErr
  split <;> rfl

@[simp] theorem unitCsr_copyCells (s : State) (src : MemSt) (a d len : Nat) : unitCsr k n (copyCells s src a d len) = unitCsr k n s := rfl

/-- A page of a code store read again changes no CSR of a unit. -/
theorem unitCsr_copyPage (s : State) (a d len : Nat) : let r := touch s.hbm a len
    let u := frameErr { s with hbm := r.1 } a r.2.1 r.2.2
    unitCsr k n (copyCells u u.hbm a d len) = unitCsr k n s :=
  (unitCsr_copyCells ..).trans (unitCsr_of_chip k n (frameErr_chip ..))

/-- A code store read again changes no CSR of a unit (R328). -/
theorem unitCsr_reloadCode (s : State) (m : Nat) : unitCsr k n (reloadCode s m) = unitCsr k n s := by
  have emptied : unitCsr k n (modCl (copyCells s memNone 0 (codeBase m) codeSize) m fun c => { c with codeOld := [] }) = unitCsr k n s :=
    (unitCsr_modCl ..).trans (unitCsr_copyCells ..)
  unfold reloadCode
  cases (getCl s m).image with
  | none => exact emptied
  | some ia =>
    refine (foldl_keeps _ (unitCsr k n) (fun t p => ?_) _ _).trans emptied
    split
    · exact unitCsr_copyPage ..
    · rfl

/-! ## Starting -/

/-- Fresh bits for volatile registers, whatever is drawn and however the unit's registers change with it (R155). -/
theorem unitCsr_foldl_freeBits {l : List Nat} (j w : Nat) {f : Nat → Nat → Unit → Unit}
    (kept : ∀ r v u, rdCsr (f r v u).core n = rdCsr u.core n) (s : State) :
    unitCsr k n (l.foldl (fun t r => modUnit (freeBits t w).2 j (f r (freeBits t w).1)) s) = unitCsr k n s :=
  foldl_keeps _ (unitCsr k n) (fun t r => by exact unitCsr_modUnit k n (freeBits t w).2 j (kept r _)) _ _

theorem unitCsr_thawVolatile (s : State) (j : Nat) : unitCsr k n (thawVolatile s j) = unitCsr k n s := by
  unfold thawVolatile
  refine (unitCsr_foldl_freeBits k n j 4096
    (f := fun r v u => { u with core := setMeta u.core (hV r) {}, v := sset 0 u.v r (BitVec.ofNat 4096 v) }) (fun _ _ _ => rdCsr_setMeta ..) _).trans ?_
  refine (unitCsr_foldl_freeBits k n j 64
    (f := fun r v u => { u with core := setMeta (wrS u.core r (BitVec.ofNat 64 v)) (hS r) {} }) (fun _ _ _ => (rdCsr_setMeta ..).trans (rdCsr_wrS ..)) _).trans ?_
  exact unitCsr_modUnit k n _ _ fun _ => rfl

theorem unitCsr_thawCl (s : State) (m : Nat) : unitCsr k n (thawCl s m) = unitCsr k n s := by
  unfold thawCl
  dsimp only
  split
  · split
    · exact unitCsr_modUnit k n _ _ fun _ => rfl
    · rfl
  · rfl

/-- A Lantern word's trap changes no CSR of a unit (R201). -/
theorem unitCsr_lanTrap (s : State) (m cause val resume : Nat) (pending : Option Nat) :
    unitCsr k n (lanTrap s m cause val resume pending) = unitCsr k n s := by
  refine (unitCsr_of_agents k n (traceRec_agents ..)).trans ?_
  split <;> rfl

end

/-- A unit's engines resume (R239, R325). -/
def thawOn (s : State) (k : Nat) : State :=
  modUnit s k fun u =>
    let u := if u.stop.isNone then resumeMx u else u
    { u with uce0 := thawEng u.uce0, uce1 := thawEng u.uce1 }
/-- Its banks are read again. -/
def thawRead (s : State) (k : Nat) : State := if (getUnit s k).stop.isNone then refetchUnit (thawOn s k) k else thawOn s k

/-- A unit resumes: its engines, its banks, and then what is volatile. -/
theorem thawUnit_eq (s : State) (k : Nat) : thawUnit s k =
    if (getUnit (thawRead s k) k).inst.isSome && (getUnit (thawRead s k) k).stop.isNone then thawVolatile (thawRead s k) k else thawRead s k := rfl

/-! ## Reads of on-chip memory count errors, in other CSRs -/

section
variable (k : Nat) {n : Nat} (trap : n ≤ 0xA4)
include trap

theorem unitCsr_touchChip (s : State) (a len : Nat) : unitCsr k n (touchChip s a len) = unitCsr k n s := by
  simp only [touchChip]
  rcases countErr_cases (modChip s fun c => { c with mem := (touch s.chip.mem a len).1 }) a (touch s.chip.mem a len).2.1
    (touch s.chip.mem a len).2.2 with same | ⟨g, counted⟩
  · rw [same]
    rfl
  · rw [counted]
    cases g with
    | lantern m => rfl
    | unit j =>
      refine (unitCsr_modUnit k n _ _ fun u => ?_).trans rfl
      simp only [bumpSat, rdCsr_wrCsr]
      rw [if_neg (by omega), if_neg (by omega)]

theorem unitCsr_touchAll (s : State) (l : List (Nat × Nat)) : unitCsr k n (touchAll s l) = unitCsr k n s :=
  foldl_keeps _ (unitCsr k n) (fun t p => by exact unitCsr_touchChip k trap t p.1 p.2) _ _

theorem unitCsr_foldl_pieces (base : Nat) (l : List (Nat × Nat)) (img : List (Byte × Bool)) (s : State) :
    unitCsr k n (l.foldl (fun (p : List (Byte × Bool) × State) q =>
      let (i, t) := readLoc p.2 (.chip (base + q.1)) q.2; (p.1 ++ i, t)) (img, s)).2 = unitCsr k n s :=
  foldl_keeps _ (fun p : List (Byte × Bool) × State => unitCsr k n p.2) (fun p q => by exact unitCsr_touchChip k trap p.2 (base + q.1) q.2) _ (img, s)

theorem unitCsr_fetchRow (s : State) (cl : Nat) (d : W64) (fb : Nat) (b : Bank) (r : Nat) :
    unitCsr k n (fetchRow s cl d fb b r).2 = unitCsr k n s := by
  unfold fetchRow
  dsimp only
  split
  · rfl
  · exact (unitCsr_foldl_pieces k trap _ _ _ _).trans (unitCsr_foldl_pieces k trap _ _ _ _)

theorem unitCsr_refetchBank (s : State) (cl : Nat) (b : Bank) : unitCsr k n (refetchBank s cl b).2 = unitCsr k n s := by
  unfold refetchBank
  split
  · exact (foldl_keeps _ (fun p : Bank × State => unitCsr k n p.2) (fun p r => by exact unitCsr_fetchRow k trap p.2 cl _ _ p.1 r) _ _).trans rfl
  · rfl

theorem unitCsr_refetchUnit (s : State) (j : Nat) : unitCsr k n (refetchUnit s j) = unitCsr k n s :=
  (unitCsr_modMx ..).trans ((unitCsr_refetchBank k trap _ _ _).trans (unitCsr_refetchBank k trap _ _ _))

theorem unitCsr_thawRead (s : State) (j : Nat) : unitCsr k n (thawRead s j) = unitCsr k n s := by
  have on : unitCsr k n (thawOn s j) = unitCsr k n s := unitCsr_modUnit k n s j fun u => by dsimp only; split <;> rfl
  unfold thawRead
  split
  · exact (unitCsr_refetchUnit k trap ..).trans on
  · exact on

theorem unitCsr_thawUnit (s : State) (j : Nat) : unitCsr k n (thawUnit s j) = unitCsr k n s := by
  rw [thawUnit_eq]
  split
  · exact (unitCsr_thawVolatile ..).trans (unitCsr_thawRead k trap ..)
  · exact unitCsr_thawRead k trap ..

/-! ## The switch instant -/

theorem unitCsr_wordFound (s : State) (m : Nat) : unitCsr k n (wordFound s m) = unitCsr k n s := by
  unfold wordFound
  dsimp only
  split
  · rfl
  · exact unitCsr_touchChip k trap ..

theorem unitCsr_syncFirst (s : State) (m : Nat) : unitCsr k n (syncFirst s m) = unitCsr k n s := by
  unfold syncFirst
  split
  · rfl
  · dsimp only
    split
    · exact (unitCsr_lanTrap ..).trans (unitCsr_wordFound k trap ..)
    · split
      · split
        · exact (unitCsr_lanTrap ..).trans ((unitCsr_touchAll k trap ..).trans (unitCsr_wordFound k trap ..))
        · rfl
      · rfl

end

section
variable {s t : State} (k : Nat) {n : Nat}

/-- A gang switch changes no trap CSR of a unit, at its instant or as it saves. -/
theorem unitCsr_gangSwitch (trap : n ≤ 0xA4) (done : exec .gangSwitch s = .next t) : unitCsr k n t = unitCsr k n s := by
  change execGangSwitch s = .next t at done
  unfold execGangSwitch at done
  obtain rfl := Host.Outcome.next.inj done
  split
  · split
    · split
      · rfl
      · have instant : unitCsr k n (traceSwitch ((liveClusters s).foldl syncFirst s) true) = unitCsr k n s :=
          (unitCsr_traceSwitch ..).trans (foldl_keeps _ (unitCsr k n) (fun u m => unitCsr_syncFirst k trap u m) (liveClusters s) s)
        dsimp only
        generalize traceSwitch ((liveClusters s).foldl syncFirst s) true = u at instant
        exact (unitCsr_putBack ..).trans instant
    · rfl
  · split
    · rfl
    · dsimp only
      split
      · exact (unitCsr_saveArea ..).trans rfl
      · rfl

/-- What a gang switch saves of a quiet job has its trap CSRs. -/
theorem unitCsr_saved {w : Switch} {img : Chip} (switch : s.cp.switch = some w) (phase : w.phase = 0) (quiet : quiesced s = true)
    (job : s.cp.jobs.any (fun p => p.1 == w.out) = true) (done : exec .gangSwitch s = .next t)
    (saved : t.images.find? (fun p => p.1 == w.out) = some (w.out, img)) : rdCsr (sget {} img.units k).core n = unitCsr k n s := by
  change execGangSwitch s = .next t at done
  obtain ⟨j, found⟩ : ∃ j, s.cp.jobs.find? (fun p => p.1 == w.out) = some j := by
    rwa [← List.isSome_find?, Option.isSome_iff_exists] at job
  simp only [execGangSwitch, switch, phase, quiet, found, ne_eq, not_true_eq_false, Bool.true_eq_false, or_self, if_false] at done
  obtain rfl := Host.Outcome.next.inj done
  rw [saveArea_images, find?_sput] at saved
  cases saved
  exact rdCsr_sget_saveUnit ..

/-- A context restored has the trap CSRs that were saved. -/
theorem unitCsr_restored {w : Switch} {img : Chip} (switch : s.cp.switch = some w) (phase : w.phase = 1)
    (saved : s.images.find? (fun p => p.1 == w.inn) = some (w.inn, img)) (done : exec .contextRestore s = .next t) :
    unitCsr k n t = rdCsr (sget {} img.units k).core n := by
  change execContextRestore s = .next t at done
  simp only [execContextRestore, switch, phase, saved, ne_eq, not_true_eq_false, if_false] at done
  obtain rfl := Host.Outcome.next.inj done
  exact foldl_keeps _ (unitCsr k n) (fun u m => unitCsr_reloadCode k n u m) _ _

/-- The start of a job changes no trap CSR of a unit. -/
theorem unitCsr_jobStart (trap : n ≤ 0xA4) (done : exec .jobStart s = .next t) : unitCsr k n t = unitCsr k n s := by
  change execJobStart s = .next t at done
  unfold execJobStart at done
  obtain rfl := Host.Outcome.next.inj done
  split
  · split
    · rfl
    · refine (unitCsr_of_agents k n (traceGo_agents ..)).trans ((unitCsr_traceSwitch ..).trans ?_)
      refine (foldl_keeps _ (unitCsr k n) (fun u m => unitCsr_thawCl k n u m) _ _).trans ?_
      exact (foldl_keeps _ (unitCsr k n) (fun u j => unitCsr_thawUnit k trap u j) _ _).trans rfl
  · rfl

end

/-- Settles O37: each event of a gang switch keeps the trap CSRs of every unit, in the state it leaves and in what it saves. -/
theorem handlerModeKept : Obligations.HandlerModeKept := by
  unfold Obligations.HandlerModeKept
  intro s t k n _ trap csr
  exact ⟨unitCsr_gangSwitch k trap,
    fun w img done switch phase quiet job saved => unitCsr_saved k switch phase quiet job done saved,
    fun w img done switch phase saved => unitCsr_restored k switch phase saved done, unitCsr_jobStart k trap⟩

end Sys2Proof.Machine
end

section
/-! PROOFS. Boot, attestation, updates, power (spec 20 R369 to R378). -/

namespace Sys2Proof.Machine

/-! ## Spares -/

/-- The failed units of a die, in order. -/
def failedOn (failed : List Nat) (d : Nat) : List Nat := (List.range 256).filter (fun k => decide (k / 64 = d) && failed.contains k)

theorem mem_failedOn {failed : List Nat} {d k : Nat} : k ∈ failedOn failed d ↔ k < 256 ∧ k / 64 = d ∧ k ∈ failed := by
  simp [failedOn]

/-- Two lists that a fold lengthens side by side. -/
theorem foldl_append_both {α β : Type} (f g : α → List β) (l : List α) (x y : List β) :
    l.foldl (fun (p : List β × List β) a => (p.1 ++ f a, p.2 ++ g a)) (x, y) = (x ++ l.flatMap f, y ++ l.flatMap g) := by
  induction l generalizing x y with
  | nil => simp
  | cons a l ih => simp [ih]

/-- The first two failed units of each die have spares; the rest are disabled (R373). -/
theorem spareMap_eq (failed : List Nat) : spareMap failed =
    ((List.range 4).flatMap (fun d => (failedOn failed d).take 2), (List.range 4).flatMap (fun d => (failedOn failed d).drop 2)) := by
  exact foldl_append_both (fun d => (failedOn failed d).take 2) (fun d => (failedOn failed d).drop 2) (List.range 4) [] []

theorem mem_of_spared {failed : List Nat} {k : Nat} (spared : k ∈ (spareMap failed).1) : k ∈ failed := by
  rw [spareMap_eq, List.mem_flatMap] at spared
  obtain ⟨d, -, first⟩ := spared
  obtain ⟨-, -, listed⟩ := mem_failedOn.mp (List.mem_of_mem_take first)
  exact listed

/-- Of the units that have spares, those of a die are its own first two. -/
theorem filter_take_failedOn (failed : List Nat) (d e : Nat) :
    ((failedOn failed e).take 2).filter (fun k => decide (k / 64 = d)) = if e = d then (failedOn failed e).take 2 else [] := by
  have die : ∀ k ∈ (failedOn failed e).take 2, k / 64 = e := fun k first => by
    obtain ⟨-, own, -⟩ := mem_failedOn.mp (List.mem_of_mem_take first)
    exact own
  split
  · next same => exact List.filter_eq_self.mpr fun k first => by simp [die k first, same]
  · next other => exact List.filter_eq_nil_iff.mpr fun k first => by simp [die k first, other]

theorem spared_le_two (failed : List Nat) {d : Nat} (die : d < 4) :
    ((spareMap failed).1.filter (fun k => decide (k / 64 = d))).length ≤ 2 := by
  simp only [spareMap_eq, List.filter_flatMap, filter_take_failedOn]
  interval_cases d <;> simp [List.range_succ]

theorem spared_or_disabled {failed : List Nat} {k : Nat} (listed : k ∈ failed) (unit : k < 256) :
    k ∈ (spareMap failed).1 ∨ k ∈ (spareMap failed).2 := by
  have own : k ∈ (failedOn failed (k / 64)).take 2 ++ (failedOn failed (k / 64)).drop 2 := by
    rw [List.take_append_drop]
    exact mem_failedOn.mpr ⟨unit, rfl, listed⟩
  have die : k / 64 ∈ List.range 4 := List.mem_range.mpr (by omega)
  simp only [spareMap_eq, List.mem_flatMap]
  exact (List.mem_append.mp own).imp (fun first => ⟨_, die, first⟩) (fun rest => ⟨_, die, rest⟩)

/-! ## Boot -/

/-- The ports at boot: those that stay down, and a fresh nonce for each other one (R351, R369). -/
def bootPort (down : Nat) (t : State) (p : Nat) : State :=
  if bit down p then modSvc t (fun v => { v with lanes := sput v.lanes p 0 }) else linkUp t p

/-- The ports at boot change nothing but the state of the links, and no counter is above zero (R351). -/
theorem bootPorts_links (down : Nat) (l : List Nat) (s : State) (zero : s.svc.ctrs = []) : ∃ draws lanes nonces rxNonces rxCtrs,
    l.foldl (bootPort down) s = { s with draws := draws, svc := { s.svc with
      lanes := lanes, nonces := nonces, ctrs := [], rxNonces := rxNonces, rxCtrs := rxCtrs } } := by
  induction l generalizing s with
  | nil => exact ⟨_, _, _, _, _, by rw [← zero]; rfl⟩
  | cons p l ih =>
    have port : (bootPort down s p).svc.ctrs = [] := by
      unfold bootPort
      split
      · exact zero
      · show serase s.svc.ctrs p = []
        rw [zero]
        rfl
    obtain ⟨draws, lanes, nonces, rxNonces, rxCtrs, rest⟩ := ih _ port
    refine ⟨draws, lanes, nonces, rxNonces, rxCtrs, rest.trans ?_⟩
    unfold bootPort
    split <;> rfl

/-- What the module knows of itself at boot, before its ports (R369, R371, R373). -/
def bootSvc (s : State) : Service :=
  let ver := bits s.arg.v.toNat 0 16
  let v := (powerOff s).svc
  let ok := patchOk v s.arg.flag ver
  { v with
    pr := decide (ver ≠ 0) && !ok
    fwver := if ver ≠ 0 ∧ ok = true then ver else 0
    patchHash := if ver ≠ 0 ∧ ok = true then BitVec.ofNat 256 (ofBytes s.arg.dat) else 0
    rollback := if ver ≠ 0 ∧ ok = true then ver else v.rollback
    spared := (spareMap s.arg.ixs).1
    disabled := (spareMap s.arg.ixs).2
    hbmFailed := (List.range 12).filter (bit s.arg.n) }

/-- Boot leaves the module as it is without power, with its ports' links fresh, and ready (R369). -/
theorem exec_powerGood (s : State) : ∃ draws lanes nonces rxNonces rxCtrs,
    exec .powerGood s = .next { powerOff s with draws := draws, svc := { bootSvc s with
      lanes := lanes, nonces := nonces, ctrs := [], rxNonces := rxNonces, rxCtrs := rxCtrs, ready := true } } := by
  obtain ⟨draws, lanes, nonces, rxNonces, rxCtrs, ports⟩ := bootPorts_links s.arg.j (List.range 128) { powerOff s with svc := bootSvc s } rfl
  exact ⟨draws, lanes, nonces, rxNonces, rxCtrs, congrArg (fun t => Host.Outcome.next (modSvc t fun v => { v with ready := true })) ports⟩

/-- A stack is degraded where it failed, or where it has more than 4,096 frames retired (R369, R374). -/
theorem mem_degraded {v : Service} {n : Nat} : n ∈ degraded v ↔
    n < 12 ∧ (n ∈ v.hbmFailed ∨ 4096 < v.retired.countP (fun f => decide (8192 * f / 2 ^ 36 = n))) := by
  simp [degraded]

/-- What boot leaves of the links, the fuses, the patch and the spares (R369, R371, R373, R374). -/
theorem boots (s : State) : let ver := bits s.arg.v.toNat 0 16
    let good := s.arg.flag && decide (s.svc.rollback ≤ ver)
    let v := s.svc
    ∃ t, exec .powerGood s = .next t ∧ t.svc.ready = true ∧ t.cp.keys = [] ∧ t.cp.jobs = [] ∧ t.cp.slots = [] ∧ t.outst = [] ∧ t.chip = State.reset.chip ∧
      (∀ n, n ∈ degraded t.svc ↔ n < 12 ∧ (bit s.arg.n n = true ∨ 4096 < v.retired.countP (fun f => decide (8192 * f / 2 ^ 36 = n)))) ∧
      t.svc.ctrs = [] ∧ t.svc.retired = v.retired ∧ t.svc.sigsLeft = v.sigsLeft ∧ t.svc.tripped = false ∧
      (ver = 0 → t.svc.pr = false ∧ t.svc.fwver = 0 ∧ t.svc.rollback = v.rollback) ∧
      (ver ≠ 0 → good = false → t.svc.pr = true ∧ t.svc.fwver = 0 ∧ t.svc.rollback = v.rollback) ∧
      (ver ≠ 0 → good = true → t.svc.pr = false ∧ t.svc.fwver = ver ∧ t.svc.rollback = ver) ∧
      (∀ d < 4, ∀ k ∈ t.svc.spared, k / 64 = d → k ∈ s.arg.ixs) ∧ (∀ d < 4, (t.svc.spared.filter (fun k => decide (k / 64 = d))).length ≤ 2) ∧
      ∀ k ∈ s.arg.ixs, k < 256 → k ∈ t.svc.spared ∨ k ∈ t.svc.disabled := by
  intro ver good v
  obtain ⟨draws, lanes, nonces, rxNonces, rxCtrs, boot⟩ := exec_powerGood s
  refine ⟨_, boot, rfl, rfl, rfl, rfl, rfl, rfl, fun n => ?_, rfl, rfl, rfl, rfl, fun none => ?_, fun some bad => ?_, fun some fine => ?_,
    fun _ _ _ spared _ => mem_of_spared spared, fun _ die => spared_le_two _ die, fun _ listed unit => spared_or_disabled listed unit⟩
  · rw [mem_degraded]
    refine and_congr_right fun stack => or_congr_left ?_
    show n ∈ (List.range 12).filter (bit s.arg.n) ↔ _
    rw [List.mem_filter, List.mem_range, and_iff_right stack]
  · exact ⟨by simp [bootSvc, show bits s.arg.v.toNat 0 16 = 0 from none], if_neg fun both => both.1 none, if_neg fun both => both.1 none⟩
  · have refused : patchOk (powerOff s).svc s.arg.flag (bits s.arg.v.toNat 0 16) = false := bad
    exact ⟨by simp [bootSvc, refused, show bits s.arg.v.toNat 0 16 ≠ 0 from some], if_neg fun both => by simp [refused] at both,
      if_neg fun both => by simp [refused] at both⟩
  · have taken : patchOk (powerOff s).svc s.arg.flag (bits s.arg.v.toNat 0 16) = true := fine
    exact ⟨by simp only [bootSvc, taken]; simp, if_pos ⟨some, taken⟩, if_pos ⟨some, taken⟩⟩

/-! ## Attestation -/

/-- The parts of an attestation: what is attested, the nonce, and the signatures left (R372). -/
theorem attestation_parts (v : Service) (nonce : List Byte) :
    (attestation v nonce).take 66 = toBytes Config.romHash.toNat 32 ++ toBytes v.patchHash.toNat 32 ++ toBytes v.fwver 2 ∧
      ((attestation v nonce).drop 130).take (min 32 nonce.length) = nonce.take 32 ∧
      (attestation v nonce).drop (130 + min 32 nonce.length) = toBytes v.sigsLeft 4 := by
  have attested : (toBytes Config.romHash.toNat 32 ++ toBytes v.patchHash.toNat 32 ++ toBytes v.fwver 2).length = 66 := by simp [toBytes_length]
  have masks : (toBytes Config.romHash.toNat 32 ++ toBytes v.patchHash.toNat 32 ++ toBytes v.fwver 2 ++ unitMask v.spared ++ unitMask v.disabled).length = 130 := by
    simp [unitMask, toBytes_length]
  have nonceSize : (nonce.take 32).length = min 32 nonce.length := List.length_take
  have rest : (attestation v nonce).drop 130 = nonce.take 32 ++ toBytes v.sigsLeft 4 := by
    rw [attestation, List.append_assoc, ← masks, List.drop_left]
  refine ⟨?_, ?_, ?_⟩
  · rw [attestation, List.append_assoc, List.append_assoc, List.append_assoc, ← attested, List.take_left]
  · rw [rest, ← nonceSize, List.take_left]
  · rw [← List.drop_drop, rest, ← nonceSize, List.drop_left]

/-! ## Updates -/

theorem exec_liveUpdate_refused {s : State} (bad : patchOk s.svc s.arg.flag (bits s.arg.v.toNat 0 16) = false) : exec .liveUpdate s = .next s :=
  congrArg Host.Outcome.next (if_pos (by simp [bad]))

/-- A patch accepted is staged, and in force where no job holds a slot (R376). -/
theorem exec_liveUpdate_accepted {s : State} (fine : patchOk s.svc s.arg.flag (bits s.arg.v.toNat 0 16) = true) :
    let ver := bits s.arg.v.toNat 0 16
    let w := { s.svc with upd := true, staged := ver, stagedHash := BitVec.ofNat 256 (ofBytes s.arg.dat), rollback := ver }
    exec .liveUpdate s = .next { s with svc := if anyJob s then w else patchSwitch w } :=
  congrArg Host.Outcome.next (if_neg (by simp [fine]))

/-- Settles O53: boot from the state without power, and each other event of the service by what it sets. -/
theorem bootAndService : Obligations.BootAndService := by
  unfold Obligations.BootAndService
  intro s ver good v
  refine ⟨boots s, fun none => ?_, fun left => ?_, fun bad => ?_, fun fine busy => ?_, fun fine idle => ?_, fun low high => ?_, fun outside => ?_, rfl, rfl,
    ⟨_, rfl, rfl, rfl, rfl, rfl, rfl, rfl, rfl, fun i => ⟨rfl, rfl⟩⟩⟩
  · exact congrArg (fun w : Service => Host.Outcome.next { s with svc := w }) (if_pos none)
  · refine ⟨attestation { v with sigsLeft := v.sigsLeft - 1 } s.arg.dat, ?_, attestation_parts ..⟩
    exact congrArg (fun w : Service => Host.Outcome.next { s with svc := w }) (if_neg left)
  · exact exec_liveUpdate_refused bad
  · rw [exec_liveUpdate_accepted fine, if_pos (by simpa [anyJob] using busy)]
  · rw [exec_liveUpdate_accepted fine, if_neg (by simp [anyJob, idle])]
    exact ⟨_, rfl, rfl, rfl, rfl, rfl, rfl, rfl, .of_eq rfl rfl rfl⟩
  · exact congrArg Host.Outcome.next (if_pos ⟨low, high⟩)
  · exact congrArg Host.Outcome.next (if_neg outside)

end Sys2Proof.Machine
end

section
/-! PROOFS. Schedules, links, lanes, peers and groups (spec 18 R342 to R352, 20 R375, R377). -/

namespace Sys2Proof.Machine

/-! ## Schedules -/

/-- Entries stored one after another from `o`. -/
theorem sget_foldl_sset_mapIdx {α : Type} [DecidableEq α] (d : α) (o : Nat) (l : List α) (m : SMap α) (j : Nat) :
    sget d ((l.mapIdx (fun i e => (o + i, e))).foldl (fun b q => sset d b q.1 q.2) m) j =
      if o ≤ j ∧ j < o + l.length then l.getD (j - o) d else sget d m j := by
  induction l using List.reverseRecOn with
  | nil => rw [if_neg (by simp)]; rfl
  | append_singleton l e ih =>
    rw [List.mapIdx_concat, List.foldl_append, List.foldl_cons, List.foldl_nil]
    by_cases last : j = o + l.length
    · have inside : o ≤ o + l.length ∧ o + l.length < o + (l ++ [e]).length := ⟨Nat.le_add_right .., by simp⟩
      rw [last, if_pos inside, sget_sset, if_pos rfl, Nat.add_sub_cancel_left, List.getD_append_right _ _ _ _ le_rfl, Nat.sub_self, List.getD_cons_zero]
    · rw [sget_sset_ne d d _ _ _ _ last, ih]
      by_cases within : o ≤ j ∧ j < o + l.length
      · obtain ⟨low, high⟩ := within
        rw [if_pos ⟨low, high⟩, if_pos ⟨low, by simp; omega⟩, List.getD_append _ _ _ _ (by omega)]
      · rw [if_neg within, if_neg (by simp; omega)]

/-- The entries of the dies of a load, replaced (R345). -/
def belfryDie (mask : Nat) (es : List (BitVec 128)) (b : SMap (BitVec 128)) (d : Nat) : SMap (BitVec 128) :=
  if bit mask d then (es.mapIdx (fun i e => (256 * d + i, e))).foldl (fun b q => sset 0 b q.1 q.2) b else b

theorem sget_foldl_belfryDie (mask : Nat) {es : List (BitVec 128)} (whole : es.length = 256) (b : SMap (BitVec 128)) (n d : Nat) {i : Nat} (entry : i < 256) :
    sget 0 ((List.range n).foldl (belfryDie mask es) b) (256 * d + i) =
      if d < n ∧ bit mask d = true then es.getD i 0 else sget 0 b (256 * d + i) := by
  induction n with
  | zero => rw [if_neg fun both => absurd both.1 (Nat.not_lt_zero d)]; rfl
  | succ n ih =>
    rw [List.range_succ, List.foldl_append, List.foldl_cons, List.foldl_nil]
    by_cases own : d = n
    · subst own
      have earlier := ih.trans (if_neg fun both => absurd both.1 (lt_irrefl d))
      rw [belfryDie]
      split
      · next taken =>
        rw [sget_foldl_sset_mapIdx, if_pos ⟨by omega, by omega⟩, if_pos ⟨Nat.lt_succ_self d, taken⟩, Nat.add_sub_cancel_left]
      · next left =>
        rw [earlier, if_neg fun both => left both.2]
    · have kept : sget 0 (belfryDie mask es ((List.range n).foldl (belfryDie mask es) b) n) (256 * d + i) =
          sget 0 ((List.range n).foldl (belfryDie mask es) b) (256 * d + i) := by
        rw [belfryDie]
        split
        · rw [sget_foldl_sset_mapIdx, if_neg (by omega)]
        · rfl
      rw [kept, ih]
      exact if_congr (and_congr_left fun _ => by omega) rfl rfl

/-- A load of the job switched in takes force at its slot (R345). -/
theorem exec_belfrySlotBoundary_due {s : State} {t0 mask : Nat} {es : List (BitVec 128)} (load : s.cp.belfryLoad = [(t0, mask, s.chip.slot, es)])
    (here : s.images.find? (fun p => p.1 == s.chip.slot) = none) (due : t0 ≤ ptp s) : exec .belfrySlotBoundary s = .next
      { s with cp := { s.cp with belfryLoad := [] }, chip := { s.chip with belfry := (List.range 4).foldl (belfryDie mask es) s.chip.belfry } } := by
  rw [show exec .belfrySlotBoundary s = execBelfrySlotBoundary s from rfl]
  simp only [execBelfrySlotBoundary, load, due, List.filter_cons, List.filter_nil, decide_true, Bool.not_true, Bool.false_eq_true, if_true, if_false,
    List.foldl_cons, List.foldl_nil, modJobChip, here]
  rfl

/-! ## Links -/

/-- The links of several ports come up, and nothing else changes (R351). -/
theorem foldl_linkUp (l : List Nat) (s : State) : ∃ draws nonces ctrs rxNonces rxCtrs,
    l.foldl linkUp s = { s with draws := draws, svc := { s.svc with nonces := nonces, ctrs := ctrs, rxNonces := rxNonces, rxCtrs := rxCtrs } } ∧
      ∀ k, sget 0 ctrs k = if k ∈ l then 0 else sget 0 s.svc.ctrs k := by
  induction l generalizing s with
  | nil => exact ⟨_, _, _, _, _, rfl, fun k => by simp⟩
  | cons p l ih =>
    obtain ⟨draws, nonces, ctrs, rxNonces, rxCtrs, rest, counts⟩ := ih (linkUp s p)
    refine ⟨draws, nonces, ctrs, rxNonces, rxCtrs, rest, fun k => ?_⟩
    rw [counts, show (linkUp s p).svc.ctrs = serase s.svc.ctrs p from rfl, sget_serase]
    by_cases later : k ∈ l <;> simp [later]

/-- A lane that fails takes a lane of its port and the time it is back, and nothing else (R375). -/
theorem exec_laneFailure (s : State) : exec .laneFailure s = .next { s with draws := s.draws + 1, svc := { s.svc with
    lanes := sput s.svc.lanes (s.arg.n % 128) (sget 2 s.svc.lanes (s.arg.n % 128) - 1)
    back := sput s.svc.back (s.arg.n % 128) (ptp s + Config.pick s.draws % 10001) } } := rfl

/-- Where the peer has nothing to answer, its reset brings the links up and does nothing else (R352). -/
theorem exec_peerReset_idle {s : State} (idle : ∀ q ∈ s.outst, q.2.pkt.dmod.toNat = s.arg.n → q.2.deferred = true) :
    exec .peerReset s = .next ((portsTo s s.arg.n).foldl linkUp s) := by
  have none : s.outst.filter (fun p => decide (p.2.pkt.dmod.toNat = s.arg.n) && !p.2.deferred) = [] :=
    List.filter_eq_nil_iff.mpr fun q listed => by
      by_cases peer : q.2.pkt.dmod.toNat = s.arg.n
      · simp [idle q listed peer]
      · simp [peer]
  rw [show exec .peerReset s = execPeerReset s from rfl]
  simp only [execPeerReset, none, List.foldl_nil]

/-! ## Groups -/

/-- A group entry without the pres bits of a module that has left (R346, R377). -/
def groupLess (s : State) (m : Nat) (g : McGroup) : McGroup :=
  let x := g.toNat
  let d := bits x 122 2
  let ring := (List.range 4).all (fun e => decide (e = d) || decide (coordOf s m e = coordOf s s.partMod e))
  (List.range (bits x 118 4 + 1)).foldl (fun (g : McGroup) i =>
    if ring && decide (bits x (4 * i) 4 = coordOf s m d) then g &&& ~~~ (BitVec.ofNat 128 (2 ^ (102 + i))) else g) g

/-- A bit that one step of a fold clears, and none sets, is clear. -/
theorem foldl_clears (l : List Nat) (leaves : Nat → Bool) (o : Nat) (g : BitVec 128) {i : Nat} (step : i ∈ l) (left : leaves i = true) :
    (l.foldl (fun (g : BitVec 128) i => if leaves i then g &&& ~~~ (BitVec.ofNat 128 (2 ^ (o + i))) else g) g).getLsbD (o + i) = false := by
  have stays : ∀ (r : List Nat) (g : BitVec 128), g.getLsbD (o + i) = false →
      (r.foldl (fun (g : BitVec 128) i => if leaves i then g &&& ~~~ (BitVec.ofNat 128 (2 ^ (o + i))) else g) g).getLsbD (o + i) = false := by
    intro r
    induction r with
    | nil => exact fun _ clear => clear
    | cons j r ih =>
      refine fun g clear => ih _ ?_
      dsimp only
      split
      · simp [clear]
      · exact clear
  obtain ⟨before, after, parts⟩ := List.append_of_mem step
  rw [parts, List.foldl_append, List.foldl_cons, if_pos left]
  refine stays _ _ ?_
  rw [BitVec.getLsbD_and, BitVec.getLsbD_not, BitVec.getLsbD_ofNat, Nat.testBit_two_pow_self]
  simp

theorem groupLess_clears {s : State} {m : Nat} {g : McGroup} {i : Nat} (member : i ≤ bits g.toNat 118 4)
    (ring : ∀ e < 4, e ≠ bits g.toNat 122 2 → coordOf s m e = coordOf s s.partMod e) (place : bits g.toNat (4 * i) 4 = coordOf s m (bits g.toNat 122 2)) :
    (groupLess s m g).getLsbD (102 + i) = false := by
  refine foldl_clears _ _ 102 g (List.mem_range.mpr (by omega)) ?_
  rw [Bool.and_eq_true, List.all_eq_true]
  refine ⟨fun e dim => ?_, by simpa using place⟩
  by_cases own : e = bits g.toNat 122 2
  · simp [own]
  · simp [ring e (List.mem_range.mp dim) own]

/-- A canonical map whose values are changed, with those that become zero left out. -/
theorem sget_map_filter {α : Type} [DecidableEq α] (d : α) (f : α → α) (fixed : f d = d) {m : SMap α} (canonical : swf d m = true) (k : Nat) :
    sget d ((m.map (fun p => (p.1, f p.2))).filter (fun p => p.2 != d)) k = f (sget d m k) := by
  induction m with
  | nil => exact fixed.symm
  | cons p m ih =>
    obtain ⟨j, v⟩ := p
    obtain ⟨-, above, rest⟩ := (swf_cons d j v m).mp canonical
    rw [List.map_cons, List.filter_cons]
    by_cases own : j = k
    · subst own
      by_cases gone : f v = d
      · rw [if_neg (by simpa using gone), ih rest, sget_unlisted fun q later => (above q later).ne', fixed, sget, if_pos rfl, gone]
      · rw [if_pos (by simpa using gone), sget, sget, if_pos rfl, if_pos rfl]
    · rw [sget, if_neg own, ← ih rest]
      split
      · rw [sget, if_neg own]
      · rfl

theorem groupLess_zero (s : State) (m : Nat) : groupLess s m 0 = 0 := by
  refine List.foldl_fixed' (fun i => ?_) _
  split
  · exact BitVec.zero_and
  · rfl

/-- Settles O52: each event of a link, a lane, a peer or a group by what it leaves. -/
theorem linksAndGroups : Obligations.LinksAndGroups := by
  unfold Obligations.LinksAndGroups
  intro s
  refine ⟨fun t0 mask es load whole here => ⟨fun due => ?_, fun early => ?_⟩, ?_, ?_, fun idle => ?_, fun canonical => ?_, rfl⟩
  · exact ⟨_, exec_belfrySlotBoundary_due load here due, rfl, .of_eq rfl rfl rfl, fun d die i entry => by
      exact (sget_foldl_belfryDie mask whole _ 4 d entry).trans (if_congr (and_iff_right die) rfl rfl)⟩
  · rw [show exec .belfrySlotBoundary s = execBelfrySlotBoundary s from rfl]
    simp only [execBelfrySlotBoundary, load, Nat.not_le.mpr early, List.filter_cons, List.filter_nil, decide_false, Bool.not_false, Bool.false_eq_true, if_true,
      if_false, List.foldl_nil]
    rw [← load]
  · refine ⟨linkUp s s.arg.n, rfl, ?_, fun d => ?_, rfl, ?_, fun d => ?_, fun k other => ?_, rfl, rfl, .of_eq rfl rfl rfl⟩
    · exact (sget_serase ..).trans (if_pos rfl)
    · exact (sget_sput ..).trans (if_pos rfl)
    · exact (sget_serase ..).trans (if_pos rfl)
    · exact (sget_sput ..).trans (if_pos rfl)
    · exact (sget_serase ..).trans (if_neg other)
  · refine ⟨_, exec_laneFailure s, (sget_sput ..).trans (if_pos rfl), rfl, rfl, rfl, rfl, fun d => ?_, rfl, rfl, .of_eq rfl rfl rfl⟩
    rw [sget_sput, if_pos rfl]
    have soon : Config.pick s.draws % 10001 < 10001 := Nat.mod_lt _ (by norm_num)
    omega
  · obtain ⟨draws, nonces, ctrs, rxNonces, rxCtrs, links, counts⟩ := foldl_linkUp (portsTo s s.arg.n) s
    rw [exec_peerReset_idle idle, links]
    exact ⟨_, rfl, rfl, counts, rfl, .of_eq rfl rfl rfl⟩
  · refine ⟨_, rfl, .of_eq rfl rfl rfl, fun g i => ?_⟩
    intro x d member ring place
    show (sget 0 ((s.chip.mcg.map (fun p => (p.1, groupLess s s.arg.n p.2))).filter (fun p => p.2 != 0)) g).getLsbD (102 + i) = false
    rw [sget_map_filter 0 (groupLess s s.arg.n) (groupLess_zero s _) canonical]
    exact groupLess_clears member ring place

end Sys2Proof.Machine
end

section
/-! PROOFS. The operands with which a command is handed off (spec 14 R245 to R263). -/

namespace Sys2Proof.Machine

/-! ## Findings that let a command go -/

@[simp] theorem Chk.ok_and (a b : Chk) : (a.and b).ok = true ↔ a.ok = true ∧ b.ok = true := by
  obtain ⟨ai, am, ap⟩ := a
  obtain ⟨bi, bm, bp⟩ := b
  cases ai <;> cases am <;> cases ap <;> simp [Chk.and, Chk.ok, and_assoc]

@[simp] theorem Chk.ok_unless (p : Bool) (c : Chk) : (c.unless p).ok = true ↔ (p = false → c.ok = true) := by
  cases p <;> simp [Chk.unless, Chk.ok]

@[simp] theorem needIll_ok (b : Bool) : (needIll b).ok = true ↔ b = true := by simp [needIll, Chk.ok]

@[simp] theorem psnOf_ok (p : Bool) (cls reg : Nat) : (psnOf p cls reg).ok = true ↔ p = false := by cases p <;> simp [psnOf, Chk.ok]

@[simp] theorem opChk_ok (r : Except Nat Nat) : (opChk r).ok = true ↔ r = .ok (opIa r) := by cases r <;> simp [opChk, opIa, Chk.ok]

/-! ## What a command reads -/

/-- What a command of unit `k` reads that issues there alone (R245). -/
def rinOf (s : State) (k : Nat) : RIn := ⟨s, k, holderVal (getUnit s k)⟩

section
variable {s : State} {k : UnitIx} (cur : s.cur = .unit k)

@[simp] theorem rinOf_s (s : State) (k : Nat) : (rinOf s k).s = s := rfl
@[simp] theorem rinOf_cl (s : State) (k : Nat) : (rinOf s k).cl = k / 8 := rfl
@[simp] theorem rinOf_chk (s : State) (k : Nat) (r : Reg) : ((rinOf s k).chk r).ok = true ↔ (rinOf s k).psn r = false := psnOf_ok ..

include cur in
theorem rinOf_val (r : Reg) : (rinOf s k.toNat).val r = (reg s r).toNat := by
  simp only [rinOf, RIn.val, holderVal, hS, r.isLt, if_true, reg, here_unit cur]

/-! ## Hand-off -/

/-- What a command has that is handed off as it issues, with its operands (R245). -/
structure Handed (i : Instr) (x : Xfer) (c : QCmd) : Prop where
  ins : c.ins = i
  handed : c.handed = true
  x : c.x = some x

theorem newCmd_hands {i : Instr} {slot : Nat} (at0 : handedAtOnce s k.toNat slot i = true) {x : Xfer} (plain : x.op ≠ 0x28) {t : State} {u : Unit}
    (unit : getUnit t k.toNat = u) (gate : List (Nat × Nat)) (tag : Option (Nat × Nat)) :
    let y := if handedAtOnce s k.toNat slot i = true then handOff t k.toNat (newCmd s k.toNat slot i gate tag) x else (t, newCmd s k.toNat slot i gate tag)
    ∃ c, getUnit (modUnit y.1 k.toNat (fun u => setSlotQ u slot (slotQ u slot ++ [y.2]))) k.toNat = setSlotQ u slot (slotQ u slot ++ [c]) ∧ Handed i x c := by
  subst unit
  rw [if_pos at0, handOff, if_neg plain]
  exact ⟨_, getUnit_modUnit_self .., rfl, rfl, rfl⟩

include cur

/-- A command that nothing holds is handed off with the operands it reads (R245). -/
theorem cmdSem_hands {i : Instr} {slot : Nat} (at0 : handedAtOnce s k.toNat slot i = true)
    (plain : (resolverOf i (parOf (getUnit s k.toNat) i) (rinOf s k.toNat)).2.op ≠ 0x28) (t : State) : ∃ c,
    getUnit ((cmdSem i (hereView s slot)).eff t) k.toNat = enqueue slot (cmdDst i) c (getUnit t k.toNat) ∧
      Handed i (resolverOf i (parOf (getUnit s k.toNat) i) (rinOf s k.toNat)).2 c := by
  have unit : onLan s = false := by rw [onLan, cur]
  rw [cmdSem, unitOnly_view _ _ _ unit]
  simp only [hereView_g, cur, hereView_st, hereView_s, hereView_core, hereView_u, hereView_addr, hereView_slot cur, hereUnit_unit cur, here_unit cur]
  have free : ((slotQ (getUnit s k.toNat) slot).all (fun q => q.handed || q.opened) && !((cmdOps i (parOf (getUnit s k.toNat) i)).any
      (tainted (getUnit s k.toNat).core) || tileFlight (getUnit s k.toNat) i)) = handedAtOnce s k.toNat slot i := rfl
  cases dst : cmdDst i with
  | none =>
    simp only [free, enqueue, Option.elim_none]
    exact newCmd_hands at0 plain (t := setUnit t k.toNat (getUnit t k.toNat)) (u := getUnit t k.toNat) (getUnit_setUnit_self ..) [] none
  | some h =>
    simp only [free, enqueue, Option.elim_some]
    have taken := getUnit_setUnit_self t k.toNat { getUnit t k.toNat with
      core := takeTagFor (getUnit t k.toNat).core ((freeTag (getUnit t k.toNat).core 16).getD 0) h }
    by_cases own : (cmdOps i (parOf (getUnit s k.toNat) i)).contains h = true
    · simp only [own, if_true]
      exact newCmd_hands at0 plain taken (tagsOf (getUnit s k.toNat).core (hmeta (getUnit s k.toNat).core h).taint)
        (some ((freeTag (getUnit t k.toNat).core 16).getD 0, (getUnit t k.toNat).core.gen))
    · simp only [own]
      exact newCmd_hands at0 plain taken [] (some ((freeTag (getUnit t k.toNat).core 16).getD 0, (getUnit t k.toNat).core.gen))

/-- A command word's checks are those of its operands, where it is handed off at once (R232, R245). -/
theorem cmdSem_checks {i : Instr} {slot : Nat} (at0 : handedAtOnce s k.toNat slot i = true) (ok : (cmdSem i (hereView s slot)).chk.ok = true) :
    (resolverOf i (parOf (getUnit s k.toNat) i) (rinOf s k.toNat)).1.ok = true := by
  have unit : onLan s = false := by rw [onLan, cur]
  rw [cmdSem, unitOnly_view _ _ _ unit] at ok
  simp only [hereView_g, cur, hereView_st, hereView_core, hereView_u, hereView_slot cur, hereUnit_unit cur, here_unit cur] at ok
  have free : ((slotQ (getUnit s k.toNat) slot).all (fun q => q.handed || q.opened) && !((cmdOps i (parOf (getUnit s k.toNat) i)).any
      (tainted (getUnit s k.toNat).core) || tileFlight (getUnit s k.toNat) i)) = true := at0
  rw [free, if_pos rfl, Chk.ok_and] at ok
  obtain ⟨-, operands⟩ := ok
  exact operands

/-- A command whose checks pass is handed off with what it reads as its operands (R245). -/
theorem handedOff_of_resolver {slot : Nat} {dst : Option Nat} {i : Instr} (command : IsCommand s slot dst i) {p : Xfer → Prop}
    (plain : ((resolverOf i (parOf (getUnit s k.toNat) i) (rinOf s k.toNat)).2.op == 0x28) = false)
    (reads : illegal i = none → (resolverOf i (parOf (getUnit s k.toNat) i) (rinOf s k.toNat)).1.ok = true →
      p (resolverOf i (parOf (getUnit s k.toNat) i) (rinOf s k.toNat)).2) : HandedOff s k.toNat slot i p := by
  obtain ⟨runs, asked, -⟩ := command
  intro at0 free
  rw [asked] at free
  refine ⟨_, runs.trans (runOne_free _ slot _ s _ rfl free), ?_⟩
  obtain ⟨pops, straight⟩ := cmdSem_straight cur i slot
  obtain ⟨now, u, t, ⟨csr, rfl⟩, start, stop⟩ := unitDid_found s k.toNat slot straight
  obtain ⟨c, joined, ins, handed, x⟩ := cmdSem_hands cur at0 (beq_eq_false_iff_ne.mp plain) t
  rw [joined, start, issueStart, pops] at stop
  simp only [wordFree, Bool.and_eq_true, Option.isNone_iff_eq_none] at free
  obtain ⟨⟨⟨legal, checked⟩, -⟩, -⟩ := free
  refine ⟨c, _, ?_, ins, handed, x, reads legal (cmdSem_checks cur at0 checked)⟩
  rw [wordDid_unit cur, stop]
  exact slotQ_setSlotQ_self ..

/-! ## Copies, atomics and cell adds -/

/-- An optional barrier that is named is one of the barrier's places (R246). -/
theorem copyBar_ok {f : CF} (named : (copyBar (rinOf s k.toNat) f).1.ok = true) (clean : (rinOf s k.toNat).psn f.rc = false) :
    (f.rc = 0 → (copyBar (rinOf s k.toNat) f).2 = none) ∧
      (f.rc ≠ 0 → ∃ b, barrierOp s (k.toNat / 8) (reg s f.rc).toNat = .ok b ∧ (copyBar (rinOf s k.toNat) f).2 = some b) := by
  unfold copyBar at named ⊢
  split
  · next zero => exact ⟨fun _ => rfl, fun other => absurd zero other⟩
  · next other =>
    rw [if_neg other] at named
    simp only [Chk.ok_unless, clean, opChk_ok, rinOf_s, rinOf_cl, rinOf_val cur, forall_const] at named ⊢
    exact ⟨fun zero => absurd zero other, fun _ => ⟨_, named, by rw [named]; rfl⟩⟩

theorem resCopy_ok {op : Nat} {f : CF} (ok : (resCopy op f (rinOf s k.toNat)).1.ok = true) : let x := (resCopy op f (rinOf s k.toNat)).2
    operand s (k.toNat / 8) f.dsp.toNat (reg s f.rd).toNat 0 (reg s f.rb).toNat .wr = .ok x.dst ∧
      operand s (k.toNat / 8) f.ssp.toNat (reg s f.ra).toNat 0 (reg s f.rb).toNat .rd = .ok x.src ∧ x.len = (reg s f.rb).toNat ∧
      (reg s f.rb).toNat < 2 ^ 32 ∧ x.pm = (op == 1) ∧ (f.rc = 0 → x.bar = none) ∧
      (f.rc ≠ 0 → ∃ b, barrierOp s (k.toNat / 8) (reg s f.rc).toNat = .ok b ∧ x.bar = some b) := by
  simp only [resCopy, Chk.ok_and, Chk.ok_unless, needIll_ok, opChk_ok, rinOf_chk, rinOf_s, rinOf_cl, rinOf_val cur, Bool.or_eq_false_iff,
    Bool.not_eq_true', decide_eq_false_iff_not, not_le] at ok
  obtain ⟨short, dst, src, bar, rd, ra, rb, rc⟩ := ok
  have fits := short rb
  intro x
  simp only [x, resCopy, rinOf_s, rinOf_cl, rinOf_val cur, true_and]
  exact ⟨dst ⟨rd, rb, fits⟩, src ⟨ra, rb, fits⟩, fits, copyBar_ok cur bar rc⟩

omit cur in
/-- The size that an integer atomic names in bit 0 of its fn (R258). -/
theorem atomicSize (x : BitVec 6) : (if bit x.toNat 0 = true then 8 else 4) = if x.toNat % 2 = 1 then 8 else 4 := by
  simp [bit]

theorem ofNat_val (r : Reg) : BitVec.ofNat 64 ((rinOf s k.toNat).val r) = reg s r := by
  rw [rinOf_val cur, BitVec.ofNat_toNat, BitVec.setWidth_eq]

theorem resAmo_ok {op : Nat} {f : CF} (ok : (resAmo op f (rinOf s k.toNat)).1.ok = true) : let x := (resAmo op f (rinOf s k.toNat)).2
    let w := if f.rc.toNat % 2 = 1 then 8 else 4
    x.op = op ∧ x.len = w ∧ (reg s f.ra).toNat % w = 0 ∧ operand s (k.toNat / 8) f.ssp.toNat (reg s f.ra).toNat 0 w .at = .ok x.dst ∧ x.a = reg s f.rb ∧
      x.b = reg s f.rd ∧ x.fn = f.rc.toNat ∧ x.rd = f.rd.toNat := by
  simp only [resAmo, Chk.ok_and, Chk.ok_unless, needIll_ok, opChk_ok, rinOf_chk, rinOf_s, rinOf_cl, atomicSize, decide_eq_true_eq] at ok
  obtain ⟨aligned, dst, -, ra, rb⟩ := ok
  rw [rinOf_val cur] at aligned dst
  intro x w
  have place : opIa (operand s (k.toNat / 8) f.ssp.toNat (reg s f.ra).toNat 0 (w : Nat) .at) = x.dst := by
    simp only [x, w, resAmo, rinOf_s, rinOf_cl, rinOf_val cur, atomicSize]
  refine ⟨rfl, atomicSize .., aligned ra, (dst ra).trans (congrArg _ place), ofNat_val cur f.rb, ?_, rfl, rfl⟩
  simp only [x, resAmo]
  split
  · next zero => rw [zero]; rfl
  · exact ofNat_val cur f.rd

theorem resFadd_ok {op : Nat} {f : CF} (ok : (resFadd op f (rinOf s k.toNat)).1.ok = true) : let x := (resFadd op f (rinOf s k.toNat)).2
    x.op = op ∧ x.len = 16 ∧ (reg s f.ra).toNat % 16 = 0 ∧ operand s (k.toNat / 8) f.ssp.toNat (reg s f.ra).toNat 0 16 .at = .ok x.dst ∧
      x.a.toNat = (reg s f.rb).toNat % 2 ^ (if op = 0x1A then 32 else 16) ∧ x.c = (reg s f.rd).toInt ∧ -256 ≤ x.c ∧ x.c ≤ 255 := by
  simp only [resFadd, Chk.ok_and, Chk.ok_unless, needIll_ok, opChk_ok, rinOf_chk, rinOf_s, rinOf_cl, rinOf_val cur, Bool.and_eq_true, decide_eq_true_eq] at ok
  obtain ⟨scale, aligned, dst, rd, ra, rb⟩ := ok
  obtain ⟨low, high⟩ := scale rd
  intro x
  simp only [x, resFadd, rinOf_s, rinOf_cl, rinOf_val cur, true_and]
  refine ⟨rfl, aligned ra, dst ra, ?_, ?_, low, high⟩
  · rw [BitVec.toNat_ofNat, bits, Nat.pow_zero, Nat.div_one]
    split <;> omega
  · rw [sextN_eq (by norm_num) (reg s f.rd).isLt, BitVec.toInt_eq_toNat_cond]
    split <;> split <;> omega

/-! ## Signals, semaphores and barriers -/

theorem resSig_ok {f : CF} (ok : (resSig f (rinOf s k.toNat)).1.ok = true) : let x := (resSig f (rinOf s k.toNat)).2
    (reg s f.ra).toNat < 8 ∧ (reg s f.rb).toNat < 128 ∧ x.dst = 8 * (k.toNat / 8) + (reg s f.ra).toNat ∧ x.a.toNat = (reg s f.rb).toNat % 32 ∧
      x.b.toNat = (reg s f.rb).toNat / 32 + 1 := by
  simp only [resSig, Chk.ok_and, Chk.ok_unless, needIll_ok, rinOf_chk, rinOf_cl, rinOf_val cur, decide_eq_true_eq] at ok
  obtain ⟨unit, sem, ra, rb⟩ := ok
  have unit := unit ra
  have sem := sem rb
  simp only [resSig, rinOf_cl, rinOf_val cur, bits, BitVec.toNat_ofNat]
  omega

theorem resSwait_ok {f : CF} (ok : (resSwait f (rinOf s k.toNat)).1.ok = true) : let x := (resSwait f (rinOf s k.toNat)).2
    (reg s f.rb).toNat < 128 ∧ x.a.toNat = (reg s f.rb).toNat % 32 ∧ x.b.toNat = (reg s f.rb).toNat / 32 + 1 := by
  simp only [resSwait, Chk.ok_and, Chk.ok_unless, needIll_ok, rinOf_chk, rinOf_val cur, decide_eq_true_eq] at ok
  obtain ⟨sem, rb⟩ := ok
  have sem := sem rb
  simp only [resSwait, rinOf_val cur, bits, BitVec.toNat_ofNat]
  omega

theorem resBar_ok {op : Nat} {f : CF} (ok : (resBar op f (rinOf s k.toNat)).1.ok = true) : let x := (resBar op f (rinOf s k.toNat)).2
    (reg s f.rb).toNat < 2 ^ 40 ∧ barrierOp s (k.toNat / 8) (reg s f.ra).toNat = .ok x.dst ∧ x.a = reg s f.rb := by
  simp only [resBar, Chk.ok_and, Chk.ok_unless, needIll_ok, opChk_ok, rinOf_chk, rinOf_s, rinOf_cl, decide_eq_true_eq] at ok
  obtain ⟨bytes, dst, ra, rb⟩ := ok
  simp only [rinOf_val cur] at bytes dst
  intro x
  have place : opIa (barrierOp s (k.toNat / 8) (reg s f.ra).toNat) = x.dst := by simp only [x, resBar, rinOf_s, rinOf_cl, rinOf_val cur]
  exact ⟨bytes rb, (dst ra).trans (congrArg _ place), ofNat_val cur f.rb⟩

theorem resBwait_ok {f : CF} (ok : (resBwait f (rinOf s k.toNat)).1.ok = true) : let x := (resBwait f (rinOf s k.toNat)).2
    (reg s f.rb).toNat < 2 ∧ barrierOp s (k.toNat / 8) (reg s f.ra).toNat = .ok x.dst ∧ x.a = reg s f.rb := by
  simp only [resBwait, Chk.ok_and, Chk.ok_unless, needIll_ok, opChk_ok, rinOf_chk, rinOf_s, rinOf_cl, decide_eq_true_eq] at ok
  obtain ⟨phase, dst, ra, rb⟩ := ok
  simp only [rinOf_val cur] at phase dst
  intro x
  have place : opIa (barrierOp s (k.toNat / 8) (reg s f.ra).toNat) = x.dst := by simp only [x, resBwait, rinOf_s, rinOf_cl, rinOf_val cur]
  exact ⟨phase rb, (dst ra).trans (congrArg _ place), ofNat_val cur f.rb⟩

theorem resSemrd_ok {f : CF} (ok : (resSemrd f (rinOf s k.toNat)).1.ok = true) : let x := (resSemrd f (rinOf s k.toNat)).2
    (reg s f.rb).toNat < 32 ∧ x.a = reg s f.rb ∧ x.rd = f.rd.toNat := by
  simp only [resSemrd, Chk.ok_and, Chk.ok_unless, needIll_ok, rinOf_chk, decide_eq_true_eq] at ok
  obtain ⟨sem, rb⟩ := ok
  exact ⟨rinOf_val cur f.rb ▸ sem rb, ofNat_val cur f.rb, rfl⟩

/-! ## Registers -/

theorem resLdr_ok {op : Nat} {f : CF} (ok : (resLdr op f (rinOf s k.toNat)).1.ok = true) : let x := (resLdr op f (rinOf s k.toNat)).2
    let n : Nat := if op = 0x30 then 8 else 512
    operand s (k.toNat / 8) f.ssp.toNat (reg s f.ra).toNat 0 n .rd = .ok x.src ∧ x.len = n ∧ x.rd = if op = 0x30 then f.rd.toNat else 64 + f.rd.toNat := by
  simp only [resLdr, Chk.ok_and, Chk.ok_unless, opChk_ok, rinOf_chk, rinOf_s, rinOf_cl, rinOf_val cur] at ok
  obtain ⟨src, ra⟩ := ok
  intro x n
  have place : opIa (operand s (k.toNat / 8) f.ssp.toNat (reg s f.ra).toNat 0 n .rd) = x.src := by simp only [x, n, resLdr, rinOf_s, rinOf_cl, rinOf_val cur]
  exact ⟨(src ra).trans (congrArg _ place), rfl, rfl⟩

theorem resStr_ok {f : CF} (ok : (resStr f (rinOf s k.toNat)).1.ok = true) : let x := (resStr f (rinOf s k.toNat)).2
    operand s (k.toNat / 8) f.dsp.toNat (reg s f.rd).toNat 0 8 .wr = .ok x.dst ∧ x.data = toBytes (reg s f.ra).toNat 8 := by
  simp only [resStr, Chk.ok_and, Chk.ok_unless, opChk_ok, rinOf_chk, rinOf_s, rinOf_cl, rinOf_val cur] at ok
  obtain ⟨dst, rd, ra⟩ := ok
  intro x
  simp only [x, resStr, rinOf_s, rinOf_cl, rinOf_val cur, and_true]
  exact dst rd

omit cur in
/-- The bytes of a vector (R12). -/
theorem toBytes_vector (v : Vec) : toBytes v.toNat 512 = (List.range 512).map (fun j => v.extractLsb' (8 * j) 8) := by
  refine List.ext_getElem (by simp [toBytes_length]) fun j low _ => ?_
  rw [toBytes_length] at low
  rw [toBytes_getElem _ _ _ low, List.getElem_map, List.getElem_range, BitVec.extractLsb', Nat.shiftRight_eq_div_pow, Nat.pow_mul]

theorem resStrV_ok {f : CF} (ok : (resStrV f (rinOf s k.toNat)).1.ok = true) : let x := (resStrV f (rinOf s k.toNat)).2
    operand s (k.toNat / 8) f.dsp.toNat (reg s f.rd).toNat 0 512 .wr = .ok x.dst ∧
      x.data = (List.range 512).map (fun j => (rdV (getUnit s k.toNat) (f.rb.toNat % 32)).extractLsb' (8 * j) 8) := by
  simp only [resStrV, Chk.ok_and, Chk.ok_unless, opChk_ok, rinOf_chk, rinOf_s, rinOf_cl, rinOf_val cur] at ok
  obtain ⟨dst, rd, -⟩ := ok
  have holder : ((rinOf s k.toNat).get (hV (f.rb.toNat % 32))).1 = (rdV (getUnit s k.toNat) (f.rb.toNat % 32)).toNat := by
    simp only [rinOf, holderVal, hV]
    rw [if_neg (by omega), if_pos (by omega), Nat.add_sub_cancel_left]
  intro x
  simp only [x, resStrV, rinOf_s, rinOf_cl, rinOf_val cur, holder, toBytes_vector, and_true]
  exact dst rd

end

/-- LDR.V names one of the 32 vector registers (R265). -/
theorem vectorDest_lt {f : CF} (legal : illegal (.ldrV f) = none) : f.rd.toNat < 32 := by
  have uses := firstBad_eq_none.mp legal _ List.mem_cons_self
  obtain ⟨low, -⟩ : f.rd.toNat < 32 ∧ f.rb.toNat = 0 := by simpa [need, cuseOk] using uses
  exact low

/-! ## The commands -/

/-- Settles O29: each command by how its form reads its operands. -/
theorem commandOperands : Obligations.CommandOperands := by
  unfold Obligations.CommandOperands
  intro s k f cur cl v go
  refine ⟨?copies, ?atomics, ?adds, handedOff_of_resolver cur ⟨rfl, rfl, rfl⟩ rfl fun _ => resSig_ok cur,
    handedOff_of_resolver cur ⟨rfl, rfl, rfl⟩ rfl fun _ => resSwait_ok cur, ?barriers,
    handedOff_of_resolver cur ⟨rfl, rfl, rfl⟩ rfl fun _ => resBwait_ok cur,
    handedOff_of_resolver cur ⟨rfl, rfl, rfl⟩ rfl fun _ => resSemrd_ok cur, ?reads,
    handedOff_of_resolver cur ⟨rfl, rfl, rfl⟩ rfl fun _ => resStr_ok cur,
    handedOff_of_resolver cur ⟨rfl, rfl, rfl⟩ rfl fun _ => resStrV_ok cur⟩
  case copies =>
    simp only [List.forall_mem_cons]
    refine ⟨?_, ?_, fun _ none => absurd none List.not_mem_nil⟩
    all_goals exact handedOff_of_resolver cur ⟨rfl, rfl, rfl⟩ rfl fun _ => resCopy_ok cur
  case atomics =>
    simp only [List.forall_mem_cons]
    refine ⟨?_, ?_, ?_, ?_, ?_, ?_, ?_, ?_, ?_, ?_, fun _ none => absurd none List.not_mem_nil⟩
    all_goals exact handedOff_of_resolver cur ⟨rfl, rfl, rfl⟩ rfl fun _ => resAmo_ok cur
  case adds =>
    simp only [List.forall_mem_cons]
    refine ⟨?_, ?_, ?_, fun _ none => absurd none List.not_mem_nil⟩
    all_goals exact handedOff_of_resolver cur ⟨rfl, rfl, rfl⟩ rfl fun _ => resFadd_ok cur
  case barriers =>
    simp only [List.forall_mem_cons]
    refine ⟨?_, ?_, fun _ none => absurd none List.not_mem_nil⟩
    all_goals exact handedOff_of_resolver cur ⟨rfl, rfl, rfl⟩ rfl fun _ => resBar_ok cur
  case reads =>
    simp only [List.forall_mem_cons]
    refine ⟨handedOff_of_resolver cur ⟨rfl, rfl, rfl⟩ rfl fun _ => resLdr_ok cur,
      handedOff_of_resolver cur ⟨rfl, rfl, rfl⟩ rfl fun legal ok => ?_, fun _ none => absurd none List.not_mem_nil⟩
    obtain ⟨src, len, rd⟩ := resLdr_ok cur ok
    exact ⟨src, len, rd.trans (by rw [Nat.mod_eq_of_lt (vectorDest_lt legal), if_neg (by decide)])⟩

end Sys2Proof.Machine
end

section
/-! PROOFS. Responses, timeouts and reductions (spec 17 R325, 18 R337, R341, R348, R352). -/

namespace Sys2Proof.Machine

/-! ## A response reaches its request -/

/-- The events whose packet answers a request of this module (R336). -/
def IsAnswer (s : State) (i : Instr) : Prop :=
  i = .data ∧ pktIs s.arg.pkt 1 0x20 0 8 = true ∨ i = .ack ∧ pktIs s.arg.pkt 1 0x21 0 0 = true

theorem exec_answer {s : State} {i : Instr} (form : IsAnswer s i) (arrives : Arrives s) : exec i s = .next (onAnswer (linkIn s) s.arg.pkt) := by
  rcases form with ⟨rfl, form⟩ | ⟨rfl, form⟩
  · rw [show exec .data s = execData s from rfl, execData, onPacket_arrives s _ _ arrives form]
  · rw [show exec .ack s = execAck s from rfl, execAck, onPacket_arrives s _ _ arrives form]

section
variable {s : State} {p : Packet} {o : Outst}

/-- A response that nothing waits for is dropped (R341). -/
theorem onAnswer_dropped (none : ∀ q ∈ s.outst, q.1 ≠ p.rid.toNat) : onAnswer s p = s := by
  have gone : s.outst.find? (fun q => q.1 == p.rid.toNat) = .none := List.find?_eq_none.mpr fun q listed => by simpa using none q listed
  rw [onAnswer, gone]

variable (asked : s.outst.find? (fun q => q.1 == p.rid.toNat) = some (p.rid.toNat, o)) (held : o.who ≠ .gone) (reaches : jobAway s o = false)
include asked held reaches

/-- A request answered DEFERRED is kept for a later reissue (R325). -/
theorem onAnswer_deferred (status : p.st = 1) (runs : (frozen s && decide (o.job = s.chip.slot) && !keepsDeferred o) = false) :
    onAnswer s p = { s with outst := sput s.outst p.rid.toNat { o with deferred := true, since := ptp s } } := by
  simp [onAnswer, asked, held, reaches, status, runs]

/-- A request answered otherwise is not outstanding any more (R337). -/
theorem onAnswer_answered (status : p.st ≠ 1) : onAnswer s p =
    if p.st = 2 then answerFault { s with outst := serase s.outst p.rid.toNat } p.rid.toNat o p.fk.toNat
    else answerOk { s with outst := serase s.outst p.rid.toNat } p.rid.toNat o p := by
  have one : p.st.toNat ≠ 1 := fun same => status (BitVec.eq_of_toNat_eq same)
  simp only [onAnswer, asked, held, reaches, if_false, Bool.false_eq_true]
  by_cases two : p.st = 2
  · rw [if_pos two, two]
    rfl
  · have other : p.st.toNat ≠ 2 := fun same => two (BitVec.eq_of_toNat_eq same)
    rw [if_neg two]
    split
    · next one' => exact absurd one' one
    · next two' => exact absurd two' other
    · rfl

end

/-- No request that is erased stays outstanding. -/
theorem serase_ne {α : Type} {m : SMap α} {k : Nat} : ∀ q ∈ serase m k, q.1 ≠ k := fun q listed => by
  obtain ⟨-, other⟩ := List.mem_filter.mp listed
  simpa using other

/-- Whether a word of a Lantern core waits for an answer (R279 to R281). -/
def WaitsFor (l : Lan) (rid code : Nat) : Prop := l.wait ∈ [some (.post rid code), some (.arm rid code), some (.tok rid)]

/-- The answer that a Lantern word waits for (R279 to R281). -/
theorem wordAnswer_waited {s : State} {m rid w : Nat} (waits : WaitsFor (getCl s m).lan rid w) (code v : Nat) :
    (getCl (wordAnswer s m rid code v) m).lan.ans = some (code, v) := by
  simp only [WaitsFor, List.mem_cons, List.not_mem_nil, or_false] at waits
  rw [wordAnswer, getCl_modLan_self]
  rcases waits with waits | waits | waits <;> simp [waits]

theorem wordAnswer_mem (s : State) (m rid code v : Nat) : AllMemSame s (wordAnswer s m rid code v) := .of_eq rfl rfl rfl

theorem AllMemSame.trans {s t u : State} (first : AllMemSame s t) (second : AllMemSame t u) : AllMemSame s u := by
  obtain ⟨chip, hbm, host⟩ := first
  obtain ⟨chip', hbm', host'⟩ := second
  have link : ∀ {a b c : MemSt}, MemSame a b → MemSame b c → MemSame a c := fun x y i => ⟨(y i).1.trans (x i).1, (y i).2.trans (x i).2⟩
  exact ⟨link chip chip', link hbm hbm', link host host'⟩

/-- What a status makes of a Lantern word's answer (R279 to R281). -/
theorem answerCode (st : BitVec 4) (reason : Nat) :
    (match st.toNat with | 3 => 2 | 4 => reason | _ => 0) = if st = 3 then 2 else if st = 4 then reason else 0 := by
  by_cases full : st = 3
  · rw [if_pos full, full]
    rfl
  · by_cases rejected : st = 4
    · rw [if_neg full, if_pos rejected, rejected]
      rfl
    · rw [if_neg full, if_neg rejected]
      split
      · next same => exact absurd (BitVec.eq_of_toNat_eq same) full
      · next same => exact absurd (BitVec.eq_of_toNat_eq same) rejected
      · rfl

/-- The answer of a Lantern word's request, by its status (R279 to R281). -/
theorem word_answered {s u : State} {p : Packet} {o : Outst} {m : ClusterIx} {w : Nat} (word : o.who = .word m) (waits : WaitsFor (getCl u m.toNat).lan p.rid.toNat w)
    (mem : AllMemSame s u) :
    let t := if p.st = 2 then answerFault { u with outst := serase u.outst p.rid.toNat } p.rid.toNat o p.fk.toNat
      else answerOk { u with outst := serase u.outst p.rid.toNat } p.rid.toNat o p
    (∀ q ∈ t.outst, q.1 ≠ p.rid.toNat) ∧ AllMemSame s t ∧ (getCl t m.toNat).lan.ans = some (if p.st = 2 then (4, 0)
        else (if p.st = 3 then 2 else if p.st = 4 then 3 + 256 * p.fk.toNat else 0, ofBytes (p.payload.take 8))) := by
  intro t
  by_cases fault : p.st = 2
  · simp only [t, if_pos fault, answerFault, word]
    exact ⟨serase_ne, mem.trans (wordAnswer_mem _ _ _ _ _), wordAnswer_waited waits 4 0⟩
  · simp only [t, if_neg fault, answerOk, word]
    refine ⟨serase_ne, mem.trans (wordAnswer_mem _ _ _ _ _), (wordAnswer_waited waits _ _).trans (congrArg (fun c => some (c, _)) ?_)⟩
    exact answerCode p.st _

/-- The bytes that answer an access of a Lantern core (R337). -/
theorem acc_answered {s u : State} {p : Packet} {o : Outst} {m : ClusterIx} {seq off : Nat} {a : LAcc} (acc : o.who = .acc m seq off)
    (found : findAcc u m.toNat seq = some a) (phase : a.phase = .reading [p.rid.toNat]) (data : p.type = 0x20) (mem : AllMemSame s u) :
    let t := answerOk { u with outst := serase u.outst p.rid.toNat } p.rid.toNat o p
    AllMemSame s t ∧ ∀ b ∈ (getCl t m.toNat).lan.accs, b.seq = seq → b.phase = .reading [] ∧
        b.out = patch a.out off ((p.payload.take (askedLen o)).mapIdx (fun j y => (y, p.psn.getLsbD (j / 32)))) := by
  have number : a.seq = seq := by simpa using List.find?_some found
  have waiting : waitingAcc { u with outst := serase u.outst p.rid.toNat } m.toNat seq p.rid.toNat = some a := by
    rw [waitingAcc, show findAcc { u with outst := serase u.outst p.rid.toNat } m.toNat seq = some a from found]
    simp [phase, phaseHas]
  intro t
  simp only [t, answerOk, acc, waiting]
  refine ⟨mem.trans (.of_eq rfl rfl rfl), fun b listed named => ?_⟩
  rw [modAcc, getCl_modLan_self, List.mem_map] at listed
  obtain ⟨c, -, rfl⟩ := listed
  by_cases own : c.seq = seq
  · rw [if_pos own]
    simp [phase, phaseLess, phaseReads, data, payloadImg]
  · rw [if_neg own] at named
    exact absurd named own

theorem linkIn_mem (s : State) : AllMemSame s (linkIn s) := .of_eq (by rw [linkIn_chip]) (linkIn_hbm s) (linkIn_host s)

/-- A request that is overdue is not outstanding any more, and its agent knows (R341). -/
theorem exec_requestTimeout_overdue {s : State} {o : Outst} (asked : s.outst.find? (fun q => q.1 == s.arg.j) = some (s.arg.j, o)) (now : o.deferred = false)
    (late : o.since + 2000000 ≤ ptp s ∨ o.injected = false) (reaches : jobAway s o = false) :
    exec .requestTimeout s = .next (answerNone { s with outst := serase s.outst s.arg.j } s.arg.j o) := by
  have due : overdue s o = true := by
    rcases late with late | late <;> simp [overdue, now, late]
  rw [show exec .requestTimeout s = execRequestTimeout s from rfl]
  simp [execRequestTimeout, asked, due, reaches]

theorem exec_requestTimeout_young {s : State} {o : Outst} (asked : s.outst.find? (fun q => q.1 == s.arg.j) = some (s.arg.j, o))
    (young : o.deferred = true ∨ (ptp s < o.since + 2000000 ∧ o.injected = true)) : exec .requestTimeout s = .next s := by
  have fresh : overdue s o = false := by
    rcases young with held | ⟨early, sent⟩
    · simp [overdue, held]
    · simp [overdue, early, sent]
  rw [show exec .requestTimeout s = execRequestTimeout s from rfl]
  simp [execRequestTimeout, asked, fresh]

theorem jobAway_own {s : State} {o : Outst} (own : o.job = s.chip.slot) : jobAway s o = false := by simp [jobAway, own]

/-! ## Partial sums -/

/-- Where the partial sums go on to from ring position `i`: a position, or the requester (R348). -/
def redTo (s : State) (p : Packet) (j : Option Nat) : Nat := match j with | some j => memberMod s p j | none => p.smod.toNat

/-- The partial sums go on in one packet (R348). -/
theorem redNext_sends {s : State} {p : Packet} {i : Nat} {img : List (Byte × Bool)} {j : Option Nat} (onward : j = (presOf p).find? (fun j => decide (i < j)))
    (fits : redTo s p j < 65536) (away : redTo s p j ≠ s.partMod) : let full := img ++ List.replicate (512 - img.length) (0, false)
    ∃ z, (redNext s p i img).sent = s.sent ++ [z] ∧ (redNext s p i img).mcr = s.mcr ∧ AllMemSame s (redNext s p i img) ∧ z.dmod = BitVec.ofNat 16 (redTo s p j) ∧
      z.type = 0x30 ∧ z.cls = 2 ∧ z.rid = p.rid ∧ z.smod = p.smod ∧ z.payload = full.map Prod.fst ∧
      z.st = (if (presOf p).length = p.gp.toNat + 1 then 0 else 5) ∧ ∀ n, j = some n → z.pos = BitVec.ofNat 4 n := by
  have sends : ∀ z : Packet, z.dmod = BitVec.ofNat 16 (redTo s p j) → z.circ = 0 → sendPkt s z =
      { s with sent := s.sent ++ [z], inj := s.inj + 1, hops := s.hops ++ [⟨s.inj, 0, 0, z, ptp s / 40 - 2⟩] } := fun z dmod circ => by
    rw [sendPkt, sendFrom_away _ _ _ _ (by rw [circ]; decide)]
    rw [dmod, BitVec.toNat_ofNat, Nat.mod_eq_of_lt fits]
    exact away
  cases j with
  | some j =>
    simp only [redNext, ← onward]
    rw [sends _ rfl rfl]
    exact ⟨_, rfl, rfl, .of_eq rfl rfl rfl, rfl, rfl, rfl, rfl, rfl, rfl, rfl, fun n same => by cases same; rfl⟩
  | none =>
    simp only [redNext, ← onward]
    rw [sends _ (by simp [redTo]) rfl]
    exact ⟨_, rfl, rfl, .of_eq rfl rfl rfl, by simp [redTo], rfl, rfl, rfl, rfl, rfl, rfl, fun n same => nomatch same⟩

/-- The last or a middle member of a group adds its elements to the partial sums that come (R348). -/
theorem exec_red_adds {s : State} (arrives : Arrives s) (form : pktIs s.arg.pkt 2 0x30 8 8 = true) {q : McRead}
    (later : (presOf s.arg.pkt).head? ≠ some s.arg.pkt.pos.toNat)
    (held : s.mcr.find? (fun q => decide (q.smod = s.arg.pkt.smod.toNat ∧ q.rid = s.arg.pkt.rid.toNat)) = some q) :
    exec .red s = .next (redNext { linkIn s with mcr := s.mcr.erase q } s.arg.pkt s.arg.pkt.pos.toNat (redAdd (payloadImg s.arg.pkt 512) q.img)) := by
  rw [show exec .red s = execRed s from rfl, execRed, onPacket_arrives s _ _ arrives form]
  refine congrArg Host.Outcome.next ((if_neg later).trans ?_)
  dsimp only
  simp only [linkIn_mcr, held]

/-! ## Reads of a group -/

/-- A read of a group goes on by the next module of its ring, or not at all (R348). -/
theorem mcreqTravel_rest (s : State) (p : Packet) : (mcreqTravel s p false 0).chip = s.chip ∧ (mcreqTravel s p false 0).cp = s.cp := by
  unfold mcreqTravel
  dsimp only
  split
  · exact ⟨rfl, rfl⟩
  · simp [enterHop]

/-- A present member reads its bytes; the first one starts the sums, and any other keeps them for their packet (R348). -/
theorem exec_mcreq_reads {s : State} (arrives : Arrives s) (admitted : Admitted s) (form : pktIs s.arg.pkt 0 0x10 0 0 = true) {i : Nat}
    (place : groupPos s s.arg.pkt.gdim.toNat s.arg.pkt.gp.toNat s.arg.pkt.gcoord.toNat = some i) (present : s.arg.pkt.gpres.getLsbD i = true) :
    let p := s.arg.pkt
    let s1 := mcreqTravel (linkIn s) p false 0
    remoteAt s1 p.ia.toNat (p.len.toNat + 1) .rd = true →
    faultOf (resolveAll s1 s.chip.slot s.chip.pasid (fullIa s1 p.ia.toNat) (p.len.toNat + 1) .rd) = none →
    ∀ img t, readIa s1 s1.chip.slot s1.chip.pasid (fullIa s1 p.ia.toNat) (p.len.toNat + 1) = (img, t) →
    exec .mcreq s = .next (if (presOf p).head? = some i then redNext t p i (redInit img) else
      { t with mcr := t.mcr.filter (fun q => !decide (q.smod = p.smod.toNat ∧ q.rid = p.rid.toNat)) ++ [⟨p.smod.toNat, p.rid.toNat, img⟩] }) := by
  intro p s1 inside places img t read
  obtain ⟨chip, cp⟩ := mcreqTravel_rest (linkIn s) p
  obtain ⟨-, -, -, foreign⟩ := id arrives
  have here : groupPos (linkIn s) p.gdim.toNat p.gp.toNat p.gcoord.toNat = some i := by
    obtain ⟨v, link⟩ := linkIn_eq s
    rw [link]
    exact place
  have gate : jobGate s1 p = none := by
    rw [← jobGate_admitted s admitted]
    simp only [jobGate, frozen, s1, chip, cp]
    rfl
  rw [linkIn_chip] at chip
  rw [← chip] at places
  rw [show exec .mcreq s = execMcreq s from rfl, execMcreq, onPacket_arrives s _ _ arrives form]
  simp only [linkIn_partMod, if_neg foreign]
  rw [show groupPos (linkIn s) s.arg.pkt.gdim.toNat s.arg.pkt.gp.toNat s.arg.pkt.gcoord.toNat = some i from here]
  simp only [present, Bool.not_true, Bool.false_eq_true, if_false]
  rw [remoteDo_performed gate inside places]
  rw [read]

/-- What a member's read of a group comes to: the sums begin with the first member's bytes, and another's are kept (R348). -/
theorem mcreq_member {s t : State} {p : Packet} {i : Nat} {img : List (Byte × Bool)} {rid : Nat}
    (reads : exec .mcreq s = .next (if (presOf p).head? = some i then redNext t p i (redInit img) else
      { t with mcr := t.mcr.filter (fun q => !decide (q.smod = p.smod.toNat ∧ q.rid = rid)) ++ [⟨p.smod.toNat, rid, img⟩] })) :
    ((presOf p).head? ≠ some i → ∃ u, exec .mcreq s = .next u ∧ (⟨p.smod.toNat, rid, img⟩ : McRead) ∈ u.mcr ∧ u.sent = t.sent) ∧
      ∀ j, (presOf p).head? = some i → (presOf p).find? (fun j => decide (i < j)) = some j → memberMod t p j < 65536 → memberMod t p j ≠ t.partMod →
        ∃ u z, exec .mcreq s = .next u ∧ u.sent = t.sent ++ [z] ∧ z.dmod = BitVec.ofNat 16 (memberMod t p j) ∧ z.type = 0x30 ∧ z.pos = BitVec.ofNat 4 j ∧
          z.payload.take (redInit img).length = (redInit img).map Prod.fst := by
  refine ⟨fun later => ?_, fun j first next fits away => ?_⟩
  · rw [if_neg later] at reads
    exact ⟨_, reads, List.mem_append_right _ (List.mem_singleton_self _), rfl⟩
  · rw [if_pos first] at reads
    obtain ⟨z, sent, -, -, dmod, type, -, -, -, payload, -, place⟩ := redNext_sends (i := i) (img := redInit img) next.symm fits away
    refine ⟨_, z, reads, sent, dmod, type, place j rfl, ?_⟩
    rw [payload, List.map_append, ← List.length_map Prod.fst, List.take_left]

/-- Settles O51: each answer by what its request waits for, a request without one by its age, and a group's packets by the member that this module is. -/
theorem responsesAndReductions : Obligations.ResponsesAndReductions := by
  unfold Obligations.ResponsesAndReductions
  intro s p rid u
  have number : u.partMod = s.partMod := linkIn_partMod s
  refine ⟨fun i form arrives => ?answer, fun o m code asked now late word own waits => ?timeout, fun o asked young => ?young,
    fun q i j r arrives form pos later held onward fits away whole => ?adds, fun i arrives admitted form place present => ?reads⟩
  case answer =>
    rw [exec_answer form arrives]
    refine ⟨fun none => by rw [onAnswer_dropped (by rwa [linkIn_outst])], fun o asked => ?_⟩
    have asked : u.outst.find? (fun q => q.1 == rid) = some (rid, o) := by rwa [linkIn_outst]
    refine ⟨fun deferred held runs => ?_, fun m code word own waits answered => ?_, fun m seq off a word own found phase ok data => ?_⟩
    · have outst : s.outst = u.outst := (linkIn_outst s).symm
      have time : ptp s = ptp u := by rw [ptp, ptp, linkIn_fclk]
      have chip : s.chip = u.chip := (linkIn_chip s).symm
      have cp : frozen s = frozen u := by rw [frozen, frozen, linkIn_cp]
      rw [chip, cp] at runs
      rw [outst, time]
      rcases runs with ⟨running, own⟩ | ⟨other, j, off, granule⟩
      · rw [onAnswer_deferred asked held (jobAway_own own) deferred (by rw [running]; rfl)]
      · rw [onAnswer_deferred asked held (by simp [jobAway, granule]) deferred (by simp [other])]
    · rw [onAnswer_answered asked (by rw [word]; exact Reqr.noConfusion) (jobAway_own (own.trans (by rw [linkIn_chip]))) answered]
      exact ⟨_, rfl, word_answered word (by rwa [getCl, linkIn_chip]) (linkIn_mem s)⟩
    · have zero : p.st ≠ 1 ∧ p.st ≠ 2 := by rw [ok]; decide
      rw [onAnswer_answered asked (by rw [word]; exact Reqr.noConfusion) (jobAway_own (own.trans (by rw [linkIn_chip]))) zero.1, if_neg zero.2]
      exact ⟨_, rfl, acc_answered word (by rwa [findAcc, getCl, linkIn_chip]) phase data (linkIn_mem s)⟩
  case timeout =>
    rw [exec_requestTimeout_overdue asked now late (jobAway_own own), answerNone, word]
    exact ⟨_, rfl, serase_ne, wordAnswer_waited waits 4 0, .of_eq rfl rfl rfl⟩
  case young =>
    exact exec_requestTimeout_young asked young
  case adds =>
    obtain ⟨next, rfl⟩ := onward
    subst pos
    obtain ⟨z, sent, mcr, mem, dmod, type, cls, id, smod, payload, st, -⟩ :=
      redNext_sends (s := { u with mcr := s.mcr.erase q }) next fits (fun same => away (same.trans number))
    refine ⟨_, z, exec_red_adds arrives form later held, sent.trans (by rw [linkIn_sent]), dmod, type, cls, id, smod, payload.trans ?_, st, mcr,
      (linkIn_mem s).trans mem⟩
    rw [whole, Nat.sub_self, List.replicate_zero, List.append_nil]
  case reads =>
    intro s1 inside places x
    have reads : ∀ img t, x = (img, t) → _ := exec_mcreq_reads arrives admitted form place present inside places
    clear_value x
    obtain ⟨img, t⟩ := x
    exact mcreq_member (reads img t rfl)

end Sys2Proof.Machine
end

section
/-! PROOFS. Unit commands, schedules, groups and tracing (spec 17 R314, R330, 18 R345 to R347, 19 R360). -/

namespace Sys2Proof.Machine

/-! ## A stopped unit goes on -/

/-- The volatile registers of a unit change, and its results in flight: not its pc, its matrix engine, its tiles or its stop. -/
def Steady (u w : Unit) : Prop := w.core.pc = u.core.pc ∧ w.mx = u.mx ∧ w.tiles = u.tiles ∧ w.stop = u.stop

section
variable {γ : Type} (g : State → γ) {k : Nat} (draws : ∀ s n, g { s with draws := n } = g s)
  (units : ∀ s f, (∀ u, Steady u (f u)) → g (modUnit s k f) = g s)
include draws units

/-- Undefined bits for registers keep whatever does not see them. -/
theorem foldl_freeBits_keeps {l : List Nat} (w : Nat) {f : Nat → Nat → Unit → Unit} (steady : ∀ r v u, Steady u (f r v u)) (s : State) :
    g (l.foldl (fun t r => modUnit (freeBits t w).2 k (f r (freeBits t w).1)) s) = g s :=
  foldl_keeps _ g (fun t r => (units _ _ (steady r _)).trans (draws t _)) _ _

theorem thawVolatile_keeps (s : State) : g (thawVolatile s k) = g s := by
  unfold thawVolatile
  refine (foldl_freeBits_keeps g draws units 4096
    (f := fun r v u => { u with core := setMeta u.core (hV r) {}, v := sset 0 u.v r (BitVec.ofNat 4096 v) }) (fun _ _ _ => ⟨setMeta_pc .., rfl, rfl, rfl⟩) _).trans ?_
  refine (foldl_freeBits_keeps g draws units 64
    (f := fun r v u => { u with core := setMeta (wrS u.core r (BitVec.ofNat 64 v)) (hS r) {} }) (fun _ _ _ => ⟨(setMeta_pc ..).trans (wrS_pc ..), rfl, rfl, rfl⟩) _).trans ?_
  exact units _ _ fun _ => ⟨rfl, rfl, rfl, rfl⟩

end

section
variable (k : Nat)

/-- Where unit `k` stands, the steps of its matrix engine, and the command processor. -/
@[irreducible] def unitRuns (s : State) : Nat × List CompRun × Cp := ((getUnit s k).core.pc, (getUnit s k).mx.comp, s.cp)

theorem unitRuns_congr {s t : State} (unit : getUnit t k = getUnit s k) (cp : t.cp = s.cp) : unitRuns k t = unitRuns k s := by
  simp only [unitRuns, unit, cp]

theorem unitRuns_modUnit (s : State) (j : Nat) {f : Unit → Unit} (pc : ∀ u, (f u).core.pc = u.core.pc) (comp : ∀ u, (f u).mx.comp = u.mx.comp) :
    unitRuns k (modUnit s j f) = unitRuns k s := by
  simp only [unitRuns, getUnit_modUnit, modUnit_cp]
  split
  · next own => rw [pc, comp, own]
  · rfl

theorem unitRuns_touchChip (s : State) (a len : Nat) : unitRuns k (touchChip s a len) = unitRuns k s := by
  simp only [touchChip]
  rcases countErr_cases (modChip s fun c => { c with mem := (touch s.chip.mem a len).1 }) a (touch s.chip.mem a len).2.1
    (touch s.chip.mem a len).2.2 with same | ⟨g, counted⟩
  · rw [same]
    exact unitRuns_congr k rfl rfl
  · rw [counted]
    cases g with
    | lantern m => exact unitRuns_congr k rfl rfl
    | unit j =>
      rw [modCore, unitRuns_modUnit]
      · exact unitRuns_congr k rfl rfl
      · exact fun _ => rfl
      · exact fun _ => rfl

theorem unitRuns_foldl_pieces (base : Nat) (l : List (Nat × Nat)) (img : List (Byte × Bool)) (s : State) :
    unitRuns k (l.foldl (fun (p : List (Byte × Bool) × State) q =>
      let (i, t) := readLoc p.2 (.chip (base + q.1)) q.2; (p.1 ++ i, t)) (img, s)).2 = unitRuns k s :=
  foldl_keeps _ (fun p : List (Byte × Bool) × State => unitRuns k p.2) (fun p q => by exact unitRuns_touchChip k p.2 (base + q.1) q.2) _ (img, s)

theorem unitRuns_fetchRow (s : State) (cl : Nat) (d : W64) (fb : Nat) (b : Bank) (r : Nat) : unitRuns k (fetchRow s cl d fb b r).2 = unitRuns k s := by
  unfold fetchRow
  dsimp only
  split
  · rfl
  · exact (unitRuns_foldl_pieces k _ _ _ _).trans (unitRuns_foldl_pieces k _ _ _ _)

theorem unitRuns_refetchBank (s : State) (cl : Nat) (b : Bank) : unitRuns k (refetchBank s cl b).2 = unitRuns k s := by
  unfold refetchBank
  split
  · exact (foldl_keeps _ (fun p : Bank × State => unitRuns k p.2) (fun p r => by exact unitRuns_fetchRow k p.2 cl _ _ p.1 r) _ _).trans (unitRuns_congr k rfl rfl)
  · exact unitRuns_congr k rfl rfl

theorem unitRuns_refetchUnit (s : State) (j : Nat) : unitRuns k (refetchUnit s j) = unitRuns k s := by
  unfold refetchUnit modMx
  dsimp only
  rw [unitRuns_modUnit, unitRuns_refetchBank, unitRuns_refetchBank]
  · exact fun _ => rfl
  · exact fun _ => rfl

/-- A stopped unit goes on where it stood, with no command of its matrix engine stopped, and no other thing of the command processor changes (R314). -/
theorem unitGo_goes (s : State) : (getUnit (unitGo s k) k).stop = none ∧ (getUnit (unitGo s k) k).core.pc = (getUnit s k).core.pc ∧
    (∀ c ∈ (getUnit (unitGo s k) k).mx.comp, c.stopped = false) ∧ (unitGo s k).cp = s.cp := by
  have runs : unitRuns k (unitGo s k) = unitRuns k (modUnit s k resumeMx) := by
    refine (unitRuns_modUnit k _ _ (f := fun u => { u with stop := none }) (fun _ => rfl) (fun _ => rfl)).trans ((thawVolatile_keeps (unitRuns k) (fun _ _ => unitRuns_congr k rfl rfl) (fun t f steady => ?_) _).trans
      (unitRuns_refetchUnit k _ _))
    exact unitRuns_modUnit k t k (fun u => (steady u).1) (fun u => by rw [(steady u).2.1])
  simp only [unitRuns, Prod.mk.injEq, getUnit_modUnit_self] at runs
  obtain ⟨pc, comp, cp⟩ := runs
  refine ⟨by rw [unitGo, getUnit_modUnit_self], pc, fun c listed => ?_, cp⟩
  rw [comp, resumeMx, List.mem_map] at listed
  obtain ⟨d, -, rfl⟩ := listed
  cases stopped : d.stopped <;> simp [stopped]

/-- What lies outside unit `k`, and its tiles. -/
@[irreducible] def unitRest (s : State) : (Nat → Unit) × SMap Tile × MemSt × MemSt × MemSt :=
  (fun i => if i = k then {} else getUnit s i, (getUnit s k).tiles, s.chip.mem, s.hbm, s.host)

theorem unitRest_congr {s t : State} (chip : t.chip = s.chip) (hbm : t.hbm = s.hbm) (host : t.host = s.host) : unitRest k t = unitRest k s := by
  simp only [unitRest, getUnit, chip, hbm, host]

theorem unitRest_modUnit (s : State) {f : Unit → Unit} (tiles : ∀ u, (f u).tiles = u.tiles) : unitRest k (modUnit s k f) = unitRest k s := by
  simp only [unitRest, getUnit_modUnit_self, tiles, getUnit_modUnit]
  refine Prod.ext (funext fun i => ?_) rfl
  dsimp only
  split <;> rfl

/-- A bank with no valid record is not read (R239). -/
theorem refetchBank_invalid {b : Bank} (invalid : b.valid = false) (s : State) (cl : Nat) : (refetchBank s cl b).2 = { s with draws := s.draws + 106496 } := by
  rw [refetchBank, if_neg (by rw [invalid]; exact Bool.false_ne_true)]

/-- With no weights to read again, a unit that goes on changes no other one, no memory and no element of a tile (R239). -/
theorem unitGo_rest {s : State} (act : (getUnit s k).mx.act.valid = false) (shadow : (getUnit s k).mx.shadow.valid = false) :
    unitRest k (unitGo s k) = unitRest k (modUnit s k resumeMx) := by
  refine (unitRest_modUnit k _ (f := fun u => { u with stop := none }) fun _ => rfl).trans ((thawVolatile_keeps (unitRest k) (fun _ _ => unitRest_congr k rfl rfl rfl) (fun t f steady => ?_) _).trans ?_)
  · exact unitRest_modUnit k t fun u => (steady u).2.2.1
  · have bank : (getUnit (modUnit s k resumeMx) k).mx.act.valid = false ∧ (getUnit (modUnit s k resumeMx) k).mx.shadow.valid = false := by
      rw [getUnit_modUnit_self]
      exact ⟨act, shadow⟩
    obtain ⟨act, shadow⟩ := bank
    unfold refetchUnit modMx
    dsimp only
    rw [unitRest_modUnit, refetchBank_invalid shadow, refetchBank_invalid act]
    · exact unitRest_congr k rfl rfl rfl
    · exact fun _ => rfl

/-- A tile that a stopped command goes on with keeps its elements (R238). -/
theorem resumeMx_el (u : Unit) (n : Nat) : (sget {} (resumeMx u).tiles n).el = (sget {} u.tiles n).el := by
  refine foldl_keeps _ (fun t : SMap Tile => (sget {} t n).el) (fun t c => ?_) _ _
  rw [sget_smod]
  split
  · next own => rw [own]
  · rfl

end

/-- What a unit that goes on leaves, and what it leaves unchanged (R239, R314). -/
theorem unitGo_over (s : State) (j : Nat) (b : BoundQ) (k : Nat) : ∃ t, t = withRec s (unitGo (cpGo s j b) k) b 0 0 ∧
    CpDone s t j b 0 0 ∧ (getUnit t k).stop = none ∧ (getUnit t k).core.pc = (getUnit s k).core.pc ∧ (∀ c ∈ (getUnit t k).mx.comp, c.stopped = false) ∧
      ((getUnit s k).mx.act.valid = false → (getUnit s k).mx.shadow.valid = false →
        (∀ i, i ≠ k → getUnit t i = getUnit s i) ∧ AllMemSame s t ∧ ∀ n, (sget {} (getUnit t k).tiles n).el = (sget {} (getUnit s k).tiles n).el) := by
  obtain ⟨stop, pc, comp, cp⟩ := unitGo_goes k (cpGo s j b)
  have kept : (getUnit s k).mx.act.valid = false → (getUnit s k).mx.shadow.valid = false →
    unitRest k (unitGo (cpGo s j b) k) = unitRest k (modUnit (cpGo s j b) k resumeMx) := unitGo_rest k (s := cpGo s j b)
  generalize unitGo (cpGo s j b) k = u at stop pc comp cp kept ⊢
  refine ⟨_, rfl, cpDone_withRec (by rw [cp]; rfl) (by rw [cp]; rfl) (by rw [cp]; rfl) (by rw [cp]), stop, pc, comp, fun act shadow => ?_⟩
  have rest := kept act shadow
  simp only [unitRest, Prod.mk.injEq, getUnit_modUnit_self] at rest
  obtain ⟨others, tiles, mem, hbm, host⟩ := rest
  refine ⟨fun i away => ?_, .of_eq (t := u) mem hbm host, fun n => ?_⟩
  · have own := congrFun others i
    rw [if_neg away, if_neg away, getUnit_modUnit, if_neg away] at own
    exact own
  · show (sget {} (getUnit u k).tiles n).el = _
    rw [tiles, resumeMx_el]
    rfl

/-! ## Commands that act on the job's on-chip state -/

section
variable {s : State} {op j slot : Nat} {b : BoundQ} {job : Job} {named : List Nat} {f : State → CmdCtx → CmdRes} {r : CmdRes}

/-- A command of a job that is switched in and not ended, which acts on its on-chip state (R360, R404). -/
theorem chipCmd_runs (starts : CpStarts s op named j b) (owner : CpJob s b slot job) (here : switchedIn s slot = true)
    (run : f (cpGo s j b) (cmdCtx s j b) = r) : runCmd s op .chip named f = .next (cmdEnd s j b r) := by
  obtain ⟨owned, -⟩ := id owner
  rw [runCmd_starts s op .chip named f j b starts (by simp) (by simp) (fun _ => ⟨slot, job, owner⟩) (by simp) (fun _ => by simpa [owned] using here)]
  unfold cmdCtx at run
  rw [run]
  cases r <;> rfl

end

section
variable {s : State} {j slot : Nat} {b : BoundQ} {job : Job} (owner : CpJob s b slot job)
include owner

/-! ## Unit commands -/

theorem unitResume_rejects (here : switchedIn s slot = true) (starts : CpStarts s 0x10 [lowBits 8] j b)
    (runs : (getUnit s s.arg.cp.q1.toNat).stop = none) : exec .unitResume s = .next (cpOnly s j b 1 0) := by
  rw [show exec .unitResume s = execUnitResume s from rfl, execUnitResume,
    chipCmd_runs (r := .done (cpGo s j b) 1 0) starts owner here (if_pos (by rw [cmdCtx_q1]; exact Option.isNone_iff_eq_none.mpr runs))]
  rfl

theorem unitResume_resumes (here : switchedIn s slot = true) (starts : CpStarts s 0x10 [lowBits 8] j b)
    (stopped : (getUnit s s.arg.cp.q1.toNat).stop ≠ none) :
    exec .unitResume s = .next (withRec s (unitGo (cpGo s j b) s.arg.cp.q1.toNat) b 0 0) := by
  rw [show exec .unitResume s = execUnitResume s from rfl, execUnitResume,
    chipCmd_runs (r := .done (unitGo (cpGo s j b) s.arg.cp.q1.toNat) 0 0) starts owner here
      (if_neg (by rw [cmdCtx_q1]; exact fun runs => stopped (Option.isNone_iff_eq_none.mp runs)))]
  rfl

omit owner in
/-- A unit of the job as it stands is not changed by the packet leaving its queue. -/
theorem getUnit_asJob_cpGo (k : Nat) : getUnit (asJob (cpGo s j b) slot) k = getUnit (asJob s slot) k := by
  rw [getUnit, getUnit, asJob_chip_congr (s := s) (t := cpGo s j b) slot rfl rfl rfl]

theorem unitAbort_rejects (starts : CpStarts s 0x11 [lowBits 8] j b) (runs : (getUnit (asJob s slot) s.arg.cp.q1.toNat).stop = none) :
    exec .unitAbort s = .next (cpOnly s j b 1 0) := by
  rw [show exec .unitAbort s = execUnitAbort s from rfl, execUnitAbort, nowCmd_runs (r := .done (cpGo s j b) 1 0) starts owner]
  · rfl
  · rw [cmdCtx_slot j owner.1, cmdCtx_q1]
    simp only [getUnit_asJob_cpGo, runs]
    rfl

/-- The job ends with the stopped unit's trap as the cause (R314, R362). -/
theorem unitAbort_ends (starts : CpStarts s 0x11 [lowBits 8] j b) {w : Stop} (stopped : (getUnit (asJob s slot) s.arg.cp.q1.toNat).stop = some w) :
    ∃ t, exec .unitAbort s = .next t ∧ CpDone s t j b 0 0 ∧ AllMemSame s t ∧
      jobEnded t slot = some (endVal w.cause w.addr (s.arg.cp.q1.toNat / 8) (s.arg.cp.q1.toNat % 8)) := by
  obtain ⟨owned, open'⟩ := id owner
  have open' : jobEnded (cpGo s j b) slot = none := (jobEnded_congr (s := s) (t := cpGo s j b) slot rfl rfl rfl).trans open'
  generalize val : endVal w.cause w.addr (s.arg.cp.q1.toNat / 8) (s.arg.cp.q1.toNat % 8) = v
  obtain ⟨c, im, ends, mem⟩ := inJob_endJob (cpGo s j b) slot v
  refine ⟨withRec s (inJob (cpGo s j b) slot (fun u => endJob u v)) b 0 0, ?_, ?_, ?_, ?_⟩
  · rw [show exec .unitAbort s = execUnitAbort s from rfl, execUnitAbort,
      nowCmd_runs (r := .done (inJob (cpGo s j b) slot (fun u => endJob u v)) 0 0) starts owner]
    · rfl
    · rw [cmdCtx_slot j owned, cmdCtx_q1]
      simp only [getUnit_asJob_cpGo, stopped, val]
      rfl
  · rw [ends]
    exact cpDone_withRec rfl rfl rfl rfl
  · rw [ends]
    exact ⟨mem, fun i => ⟨rfl, rfl⟩, fun i => ⟨rfl, rfl⟩⟩
  · refine (jobEnded_congr (s := inJob (cpGo s j b) slot (fun u => endJob u v)) (t := withRec s _ b 0 0) slot rfl rfl rfl).trans ?_
    rw [jobEnded, asJob_inJob _ _ (fun u => endJob u v) (fun _ => rfl) (fun _ => rfl)]
    show some ((jobEnded (cpGo s j b) slot).getD _) = _
    rw [open', Option.getD_none]

/-! ## Schedules and groups -/

theorem belfry_late (here : switchedIn s slot = true) (starts : CpStarts s 0x18 [q64, 15, q64] j b)
    (late : s.arg.cp.q3.toNat % 40 ≠ 0 ∨ s.arg.cp.q3.toNat ≤ ptp s) : exec .belfry s = .next (cpOnly s j b 1 0) := by
  rw [show exec .belfry s = execBelfry s from rfl, execBelfry, chipCmd_runs (r := .done (cpGo s j b) 1 0) starts owner here (if_pos late)]
  rfl

/-- A schedule in time, with its entries read, is checked (R345). -/
theorem belfry_checks (here : switchedIn s slot = true) (starts : CpStarts s 0x18 [q64, 15, q64] j b) (slots : s.arg.cp.q3.toNat % 40 = 0)
    (ahead : ptp s < s.arg.cp.q3.toNat) {x : List (Byte × Bool)} {u : State}
    (found : cpAccess (cpGo s j b) slot b.pasid s.arg.cp.q1.toNat 4096 none = .ok x u) : let es := words128 (x.map Prod.fst)
    exec .belfry s = .next (cmdEnd s j b (if !((List.range 4).filter (bit s.arg.cp.q2.toNat)).all (fun d => es.all (belfryOk u d)) then .done (cpGo s j b) stReject 0
      else .done (modCp u (fun c => { c with belfryLoad := c.belfryLoad ++ [(s.arg.cp.q3.toNat, s.arg.cp.q2.toNat, slot, es.map (BitVec.ofNat 128))] })) stOk 0)) := by
  obtain ⟨owned, -⟩ := id owner
  intro es
  rw [show exec .belfry s = execBelfry s from rfl, execBelfry]
  refine chipCmd_runs starts owner here ((if_neg ?_).trans ((readOperands_ok _ owned found).trans ?_))
  · rw [cmdCtx_q3, not_or, not_not, not_le]
    exact ⟨slots, ahead⟩
  · rw [cmdCtx_q2, cmdCtx_q3, cmdCtx_slot j owned]

theorem mcgrp_rejects (here : switchedIn s slot = true) (first : s.arg.flag = true) (starts : CpStarts s 0x19 [q64, lowBits 10, q64] j b)
    (bad : s.arg.cp.q3.toNat = 0 ∨ 1024 < s.arg.cp.q3.toNat ∨ 1024 < s.arg.cp.q2.toNat + s.arg.cp.q3.toNat) :
    exec .mcgrp s = .next (cpOnly s j b 1 0) := by
  rw [show exec .mcgrp s = execMcgrp s from rfl, execMcgrp, if_pos first, chipCmd_runs (r := .done (cpGo s j b) 1 0) starts owner here (if_pos bad)]
  rfl

end

/-- The groups from `g` on, with their entries replaced (R346). -/
def putGroups (u : State) (g : Nat) (es : List Nat) : State :=
  modChip u (fun c => { c with mcg := (es.mapIdx (fun i e => (g + i, BitVec.ofNat 128 e))).foldl (fun g p => sset 0 g p.1 p.2) c.mcg })

/-- What a group reads as after a command has replaced the entries of a range (R346). -/
theorem putGroups_group (u : State) (g : Nat) (es : List Nat) (i : Nat) : sget 0 (putGroups u g es).chip.mcg i =
    if g ≤ i ∧ i < g + es.length then BitVec.ofNat 128 (es.getD (i - g) 0) else sget 0 u.chip.mcg i := by
  have rows : (es.mapIdx (fun i e => (g + i, BitVec.ofNat 128 e))) = (es.map (BitVec.ofNat 128)).mapIdx (fun i e => (g + i, e)) := by
    exact List.ext_getElem (by simp) (by simp)
  show sget 0 (List.foldl _ u.chip.mcg _) i = _
  rw [rows, sget_foldl_sset_mapIdx, List.length_map]
  split
  · next inside =>
    rw [List.getD_eq_getElem _ _ (by rw [List.length_map]; omega), List.getElem_map, List.getD_eq_getElem _ _ (by omega)]
  · rfl

section
variable {s : State} {j slot : Nat} {b : BoundQ} {job : Job} (owner : CpJob s b slot job)
include owner

/-- Groups whose entries are read are checked, and written (R346, R347). -/
theorem mcgrp_checks (here : switchedIn s slot = true) (first : s.arg.flag = true) (starts : CpStarts s 0x19 [q64, lowBits 10, q64] j b)
    (some : s.arg.cp.q3.toNat ≠ 0) (fits : s.arg.cp.q2.toNat + s.arg.cp.q3.toNat ≤ 1024) {x : List (Byte × Bool)} {u : State}
    (found : cpAccess (cpGo s j b) slot b.pasid s.arg.cp.q1.toNat (16 * s.arg.cp.q3.toNat) none = .ok x u) : let es := words128 (x.map Prod.fst)
    exec .mcgrp s = .next (cmdEnd s j b (if !es.all (groupOk u) then .done (cpGo s j b) stReject 0
      else if mcOpen u slot s.arg.cp.q2.toNat s.arg.cp.q3.toNat u.inj then .later (putGroups u s.arg.cp.q2.toNat es) { mkCmd s b s.arg.cp with since := u.inj }
      else .done (putGroups u s.arg.cp.q2.toNat es) stOk 0)) := by
  obtain ⟨owned, -⟩ := id owner
  intro es
  rw [show exec .mcgrp s = execMcgrp s from rfl, execMcgrp, if_pos first]
  refine chipCmd_runs starts owner here ((if_neg ?_).trans ((readOperands_ok _ owned found).trans ?_))
  · rw [cmdCtx_q2, cmdCtx_q3]
    omega
  · rw [cmdCtx_q2, cmdCtx_q3, cmdCtx_slot j owned]
    rfl

/-- Tracing is set up (R330). -/
theorem trace_sets (here : switchedIn s slot = true) (starts : CpStarts s 0x1A [q64, q64, q64] j b) :
    exec .trace s = .next (withRec s (modChip (cpGo s j b) (fun c => { c with trace := { c.trace with
      buf := s.arg.cp.q1, period := s.arg.cp.q2.toNat, units := BitVec.ofNat 32 (bits s.arg.cp.q3.toNat 0 32), lans := BitVec.ofNat 32 (bits s.arg.cp.q3.toNat 32 32) } })) b 0 0) := by
  rw [show exec .trace s = execTrace s from rfl, execTrace, chipCmd_runs starts owner here rfl]
  rfl

end

/-- A started command that completes leaves the started commands and writes its record, and does nothing else (R359). -/
theorem cmdDone_loud (s : State) {c : CpCmd} (loud : c.quiet = false) (st val : Nat) : cmdDone s c st val = modCp s (fun x => { x with
    cmds := x.cmds.filter (fun d => d.id != c.id)
    recs := x.recs ++ [{ dev := c.dev, job := c.job, addr := c.p.q7.toNat, tag := bits c.p.q0.toNat 32 32, st := st, val := val % 2 ^ 64
                         irq := if bit c.p.q0.toNat 14 && !c.dev then some c.vec else none, r := c.r }] }) := by
  rw [cmdDone, cpFinish, if_neg (by rw [loud]; exact Bool.false_ne_true)]
  rfl

/-- MCGRP completes once no request injected under the old contents is open (R347). -/
theorem mcgrp_completes {s : State} {c : CpCmd} (further : s.arg.flag = false) (started : cmdById s s.arg.n = some c) (kind : cpOp c.p = 0x19)
    (closed : mcOpen s c.job c.p.q2.toNat c.p.q3.toNat c.since = false) : exec .mcgrp s = .next (cmdDone s c 0 0) := by
  rw [show exec .mcgrp s = execMcgrp s from rfl, execMcgrp, if_neg (by rw [further]; exact Bool.false_ne_true),
    pollCmd_runs _ started kind, if_neg (by rw [closed]; exact Bool.false_ne_true)]
  rfl

/-! ## The statement -/

/-- Settles O43: a unit that goes on keeps its place while its weights are read again and its undefined bits drawn; the other commands are
checked and then do one write each. -/
theorem unitAndScheduleCommands : Obligations.UnitAndScheduleCommands := by
  unfold Obligations.UnitAndScheduleCommands
  intro s j b slot job owner p k
  refine ⟨fun here starts => ⟨unitResume_rejects owner here starts, fun stopped => ?_⟩,
    fun starts => ⟨unitAbort_rejects owner starts, fun w stopped => unitAbort_ends owner starts stopped⟩,
    fun here starts => ⟨belfry_late owner here starts, fun x u slots ahead found => ?_⟩,
    fun here first starts => ?_, fun c further started kind loud closed => ?_, fun here starts => ⟨_, trace_sets owner here starts, ?_⟩⟩
  · obtain ⟨t, goes, left⟩ := unitGo_over s j b k
    exact ⟨t, goes ▸ unitResume_resumes owner here starts stopped, left⟩
  · intro es
    have checked := belfry_checks owner here starts slots ahead found
    refine ⟨fun bad => ?_, fun good => ?_⟩
    · rw [checked, bad]
      rfl
    · refine ⟨_, checked, ?_⟩
      rw [good]
      exact ⟨rfl, rfl⟩
  · intro n
    refine ⟨mcgrp_rejects owner here first starts, fun x u some fits found => ?_⟩
    intro es
    have checked := mcgrp_checks owner here first starts some fits found
    refine ⟨fun bad => ?_, fun good => ⟨_, checked, ?_⟩⟩
    · rw [checked, bad]
      rfl
    · rw [good]
      cases later : mcOpen u slot s.arg.cp.q2.toNat s.arg.cp.q3.toNat u.inj with
      | false => exact ⟨putGroups_group u _ _, fun _ => ⟨rfl, rfl⟩, fun opens => absurd opens Bool.false_ne_true⟩
      | true => exact ⟨putGroups_group u _ _, fun done => absurd done.symm Bool.false_ne_true, fun _ => ⟨rfl, _, rfl, rfl, rfl, rfl⟩⟩
  · exact ⟨_, mcgrp_completes further started kind closed, cpOver_cmdDone loud rfl rfl rfl, by
      rw [cmdDone_loud s loud]
      exact .of_eq rfl rfl rfl⟩
  · refine ⟨cpDone_withRec rfl rfl rfl rfl, ⟨fun i => ⟨rfl, rfl⟩, fun i => ⟨rfl, rfl⟩, fun i => ⟨rfl, rfl⟩⟩, rfl, rfl, ?_, ?_⟩
    · show BitVec.ofNat 32 (bits s.arg.cp.q3.toNat 0 32) = _
      apply BitVec.eq_of_toNat_eq
      simp [bits, p]
    · show BitVec.ofNat 32 (bits s.arg.cp.q3.toNat 32 32) = _
      apply BitVec.eq_of_toNat_eq
      simp [bits, p, Nat.shiftRight_eq_div_pow]

end Sys2Proof.Machine
end

section
/-! PROOFS. What the command processor writes of a queue in host memory (spec 19 R357, R358, R363). -/

namespace Sys2Proof.Machine

/-! ## Numbers in host memory -/

theorem hostNum_eq_rdMem (s : State) (a n : Nat) : hostNum s a n = rdMem s.host.cells a n := (rdMem_eq_ofBytes ..).symm

theorem hostNum_hostWrite (s : State) (a n v : Nat) : hostNum (hostWrite s a n v) a n = v % 256 ^ n :=
  (hostNum_eq_rdMem ..).trans (rdMem_writeNat s.host a n v)

theorem rdByte_hostWrite_outside (s : State) {a n v x : Nat} (outside : x < a ∨ a + n ≤ x) :
    rdByte (hostWrite s a n v).host.cells x = rdByte s.host.cells x := rdByte_writeNat_outside s.host outside

theorem hostNum_hostWrite_apart (s : State) {a n v x k : Nat} (apart : x + k ≤ a ∨ a + n ≤ x) :
    hostNum (hostWrite s a n v) x k = hostNum s x k := by
  rw [hostNum_eq_rdMem, hostNum_eq_rdMem]
  exact rdMem_congr fun i inside => rdByte_hostWrite_outside s (by omega)

theorem rdByte_hostWrite_byte (s : State) (a v : Nat) : rdByte (hostWrite s a 1 v).host.cells a = BitVec.ofNat 8 v := by
  rw [hostWrite, writeNat, rdByte_writeImg, dif_pos (by simp only [List.length_map, toBytes_length]; omega)]
  simp only [List.getElem_map, Nat.sub_self]
  rw [toBytes_getElem v 1 0 Nat.zero_lt_one, Nat.pow_zero, Nat.div_one]

/-- What a read of host memory finds is the number that its bytes spell. -/
theorem ofBytes_hostRead (s : State) (a n : Nat) : ofBytes (hostRead s a n) = hostNum s a n := by
  rw [hostRead, rdImg, List.map_map]
  rfl

/-! ## A descriptor written back -/

/-- A descriptor whose first byte and head are written. -/
def descrBack (s : State) (a head x : Nat) : State :=
  let b0 := (rdByte s.host.cells a).toNat
  hostWrite (hostWrite s a 1 (b0 / 16 * 16 + b0 % 8 + x)) (a + 28) 2 head

theorem writeBack_none (s : State) (a head : Nat) : writeBack s a head none = descrBack s a head 0 := rfl
theorem writeBack_some (s : State) (a head : Nat) (w : Nat × W64 × Nat) :
    writeBack s a head (some w) = hostWrite (descrBack s a head 8) (a + 30) 10 (w.1 * 16 + w.2.2 * 4 + w.2.1.toNat * 2 ^ 16) := rfl

theorem descrBack_eq (s : State) (a head x : Nat) : ∃ h, descrBack s a head x = { s with host := h } := by
  obtain ⟨h, written⟩ : ∃ h, hostWrite s a 1 ((rdByte s.host.cells a).toNat / 16 * 16 + (rdByte s.host.cells a).toNat % 8 + x) = { s with host := h } := ⟨_, rfl⟩
  rw [descrBack, written]
  exact ⟨_, rfl⟩

/-- Writing a descriptor back changes host memory alone (R357). -/
theorem writeBack_eq (s : State) (a head : Nat) (w : Option (Nat × W64 × Nat)) : ∃ h, writeBack s a head w = { s with host := h } := by
  cases w with
  | none => exact descrBack_eq ..
  | some w =>
    obtain ⟨h, written⟩ := descrBack_eq s a head 8
    rw [writeBack_some, written]
    exact ⟨_, rfl⟩

theorem descrBack_first (s : State) (a head : Nat) {x : Nat} (small : x = 0 ∨ x = 8) :
    bit (rdByte (descrBack s a head x).host.cells a).toNat 3 = decide (x = 8) := by
  rw [descrBack, rdByte_hostWrite_outside _ (by omega), rdByte_hostWrite_byte, bit, BitVec.toNat_ofNat, Bool.eq_iff_iff, beq_iff_eq, decide_eq_true_iff]
  omega

theorem descrBack_head (s : State) (a head x : Nat) : hostNum (descrBack s a head x) (a + 28) 2 = head % 65536 := by
  rw [descrBack, hostNum_hostWrite]
  norm_num

/-- Bit w of a descriptor, in its first byte, says whether the queue is parked (R356). -/
theorem writeBack_parked (s : State) (a head : Nat) (w : Option (Nat × W64 × Nat)) :
    bit (rdByte (writeBack s a head w).host.cells a).toNat 3 = w.isSome := by
  cases w with
  | none =>
    rw [writeBack_none, descrBack_first _ _ _ (Or.inl rfl)]
    rfl
  | some w =>
    rw [writeBack_some, rdByte_hostWrite_outside _ (by omega), descrBack_first _ _ _ (Or.inr rfl)]
    rfl

theorem writeBack_head (s : State) (a head : Nat) (w : Option (Nat × W64 × Nat)) : hostNum (writeBack s a head w) (a + 28) 2 = head % 65536 := by
  cases w with
  | none => rw [writeBack_none, descrBack_head]
  | some w => rw [writeBack_some, hostNum_hostWrite_apart _ (by omega), descrBack_head]

/-- The wait fields of a parked queue's descriptor (R356). -/
theorem writeBack_wait (s : State) (a head sig cond : Nat) (v : W64) :
    hostNum (writeBack s a head (some (sig, v, cond))) (a + 30) 10 = (sig * 16 + cond * 4 + v.toNat * 2 ^ 16) % 256 ^ 10 := by
  rw [writeBack_some, hostNum_hostWrite]

/-! ## A slot that is freed -/

theorem bindAny_none {s : State} (none : s.cp.binds = []) : bindAny s = s := by rw [bindAny, none]; rfl

/-- A slot is freed while no queue asks for one (R357). -/
theorem unbindSlot_none {s : State} (none : s.cp.binds = []) (j : Nat) (b : BoundQ) (w : Option (Nat × W64 × Nat)) :
    unbindSlot s j b w = writeBack (modCp s (fun c => { c with slots := serase c.slots j })) b.at0 b.head w := by
  obtain ⟨h, written⟩ := writeBack_eq (modCp s (fun c => { c with slots := serase c.slots j })) b.at0 b.head w
  rw [unbindSlot, bindAny_none (by rw [written]; exact none)]

/-- Between `s` and `t` slot `j`, of queue `b`, has been freed, and its descriptor has the queue's head and says whether the queue is
parked; of the rest of the command processor only what `cp` has changed (R357, R363). -/
theorem unbindSlot_frees {s : State} (none : s.cp.binds = []) (j : Nat) (b : BoundQ) (w : Option (Nat × W64 × Nat)) : let t := unbindSlot s j b w
    t.cp = { s.cp with slots := serase s.cp.slots j } ∧ hostNum t (b.at0 + 28) 2 = b.head % 65536 ∧ bit (rdByte t.host.cells b.at0).toNat 3 = w.isSome := by
  intro t
  have frees : t = writeBack (modCp s (fun c => { c with slots := serase c.slots j })) b.at0 b.head w := unbindSlot_none none j b w
  obtain ⟨h, written⟩ := writeBack_eq (modCp s (fun c => { c with slots := serase c.slots j })) b.at0 b.head w
  rw [frees]
  exact ⟨by rw [written]; rfl, writeBack_head .., writeBack_parked ..⟩

end Sys2Proof.Machine
end

section
/-! PROOFS. Signals, waits and INDIRECT (spec 19 R360, R363, R365). -/

namespace Sys2Proof.Machine

section
variable {s : State} {op j : Nat} {b : BoundQ} {named : List Nat} {f : State → CmdCtx → CmdRes} {r : CmdRes}

/-! ## Commands of no on-chip state -/

/-- A command that needs no job (R360). -/
theorem freeCmd_runs (starts : CpStarts s op named j b) (run : f (cpGo s j b) (cmdCtx s j b) = r) :
    runCmd s op .free named f = .next (cmdEnd s j b r) := by
  rw [runCmd_starts s op .free named f j b starts (by simp) (by simp) (by simp) (by simp) (by simp)]
  unfold cmdCtx at run
  rw [run]
  cases r <;> rfl

/-- A command of a job's signals, ended or not (R360, R404). -/
theorem sigCmd_runs {slot : Nat} {job : Job} (starts : CpStarts s op named j b) (owner : jobOf s b.pasid = some (slot, job))
    (run : f (cpGo s j b) (cmdCtx s j b) = r) : runCmd s op .sig named f = .next (cmdEnd s j b r) := by
  rw [runCmd_starts s op .sig named f j b starts (by simp) (fun _ => by rw [owner]; rfl) (by simp) (by simp) (by simp)]
  unfold cmdCtx at run
  rw [run]
  cases r <;> rfl

/-- The slot of the job of a queue's PASID; 1024 where it has none. -/
def ownSlot (s : State) (b : BoundQ) : Nat := ((jobOf s b.pasid).map Prod.fst).getD 1024

/-- An INDIRECT whose job, if any, is not ended (R365, R404). -/
theorem indCmd_runs (starts : CpStarts s op named j b) (open' : jobEnded s (ownSlot s b) = none) (stays : jobOf s b.pasid = none → b.pasid ∉ s.cp.gone)
    (run : f (cpGo s j b) (cmdCtx s j b) = r) : runCmd s op .ind named f = .next (cmdEnd s j b r) := by
  rw [runCmd_starts s op .ind named f j b starts (by simp) (by simp) (by simp) (fun _ => ⟨open', ?_⟩) (by simp)]
  · unfold cmdCtx at run
    rw [run]
    cases r <;> rfl
  · cases owner : jobOf s b.pasid with
    | none => exact Or.inr (by simpa using stays owner)
    | some p => exact Or.inl rfl

/-- An INDIRECT of a job that is ended (R365, R404). -/
theorem indCmd_aborted (starts : CpStarts s op named j b)
    (ended : jobEnded s (ownSlot s b) ≠ none ∨ (jobOf s b.pasid = none ∧ b.pasid ∈ s.cp.gone)) :
    runCmd s op .ind named f = .next (cpOnly s j b 5 0) := by
  obtain ⟨held, kind, runs, clear, stands, named⟩ := starts
  have aborts : ((jobEnded s (mkCmd s b s.arg.cp).job).isSome || ((jobOf s b.pasid).isNone && s.cp.gone.contains b.pasid)) = true := by
    rcases ended with ended | ⟨none, gone⟩
    · rw [show (mkCmd s b s.arg.cp).job = ownSlot s b from rfl, Option.isSome_iff_ne_none.mpr ended, Bool.true_or]
    · rw [none, List.contains_iff_mem.mpr gone, Option.isNone_none, Bool.and_self, Bool.or_true]
  unfold runCmd
  rw [held]
  dsimp only
  rw [if_neg (by simp [kind, runs, clear, stands]), if_neg (by simp [named]), if_pos (by rw [aborts]; rfl)]
  rfl

end

section
variable {s : State} {j : Nat} {b : BoundQ}

theorem nop_completes (starts : CpStarts s 0x00 [] j b) : exec .nop s = .next (cpOnly s j b 0 0) := by
  rw [show exec .nop s = execNop s from rfl, execNop, freeCmd_runs starts rfl]
  rfl

/-! ## SIGNAL and WAIT -/

/-- The queue of this event's WAIT, as it is parked (R363). -/
def waitOf (s : State) (b : BoundQ) : Parked :=
  { pasid := b.pasid, q := b.q, sig := s.arg.cp.q1.toNat, val := s.arg.cp.q2, cond := s.arg.cp.q3.toNat, pkt := s.arg.cp, ind := b.ind, met := false }

section
variable {slot : Nat} {job : Job} (owner : jobOf s b.pasid = some (slot, job))
include owner

theorem sigOk_iff (i : Nat) : sigOk (cmdCtx s j b) i = true ↔ job.sig0 ≤ i ∧ i < job.sig0 + job.sigN := by
  simp [sigOk, cmdCtx, owner]

theorem signal_rejects (starts : CpStarts s 0x03 [lowBits 12, q64, 1] j b)
    (bad : ¬(job.sig0 ≤ s.arg.cp.q1.toNat ∧ s.arg.cp.q1.toNat < job.sig0 + job.sigN)) : exec .signal s = .next (cpOnly s j b 1 0) := by
  rw [show exec .signal s = execSignal s from rfl, execSignal, sigCmd_runs (r := .done (cpGo s j b) 1 0) starts owner]
  · rfl
  · exact if_pos (by rw [← Bool.not_eq_true, cmdCtx_q1, sigOk_iff owner]; exact bad)

theorem signal_sets (starts : CpStarts s 0x03 [lowBits 12, q64, 1] j b) (lo : job.sig0 ≤ s.arg.cp.q1.toNat)
    (hi : s.arg.cp.q1.toNat < job.sig0 + job.sigN) : exec .signal s = .next (withRec s (setSignal (cpGo s j b) s.arg.cp.q1.toNat
      (if s.arg.cp.q3 = 0 then s.arg.cp.q2 else sget 0 s.cp.signals s.arg.cp.q1.toNat + s.arg.cp.q2)) b 0 0) := by
  rw [show exec .signal s = execSignal s from rfl, execSignal]
  refine sigCmd_runs (r := .done (setSignal (cpGo s j b) _ _) 0 0) starts owner ?_
  · refine (if_neg ?_).trans ?_
    · rw [Bool.not_eq_false, cmdCtx_q1, sigOk_iff owner]
      exact ⟨lo, hi⟩
    · have zero : s.arg.cp.q3.toNat = 0 ↔ s.arg.cp.q3 = 0 := by rw [BitVec.toNat_eq]; rfl
      rw [cmdCtx_q1, cmdCtx_q3]
      simp only [zero]
      rfl

theorem wait_rejects (starts : CpStarts s 0x02 [lowBits 12, q64, 3] j b)
    (bad : s.arg.cp.q3 = 3 ∨ ¬(job.sig0 ≤ s.arg.cp.q1.toNat ∧ s.arg.cp.q1.toNat < job.sig0 + job.sigN)) : exec .wait s = .next (cpOnly s j b 1 0) := by
  rw [show exec .wait s = execWait s from rfl, execWait, sigCmd_runs (r := .done (cpGo s j b) 1 0) starts owner]
  · rfl
  · refine if_pos ?_
    rw [cmdCtx_q1, cmdCtx_q3, ← Bool.not_eq_true, sigOk_iff owner]
    exact bad.imp_left fun unassigned => by rw [unassigned]; rfl

/-- A WAIT of a signal of its job, on a condition that is assigned (R363). -/
theorem wait_runs (starts : CpStarts s 0x02 [lowBits 12, q64, 3] j b) (assigned : s.arg.cp.q3 ≠ 3) (lo : job.sig0 ≤ s.arg.cp.q1.toNat)
    (hi : s.arg.cp.q1.toNat < job.sig0 + job.sigN) : exec .wait s = .next (cmdEnd s j b
      (if condHolds s.arg.cp.q3.toNat (sget 0 s.cp.signals s.arg.cp.q1.toNat) s.arg.cp.q2 then .done (cpGo s j b) 0 0
        else .parked (unbindSlot (modCp (cpGo s j b) (fun c => { c with parked := c.parked ++ [waitOf s b] })) j { b with held := none }
          (some (s.arg.cp.q1.toNat, s.arg.cp.q2, s.arg.cp.q3.toNat))))) := by
  rw [show exec .wait s = execWait s from rfl, execWait]
  refine sigCmd_runs starts owner ((if_neg ?_).trans ?_)
  · rw [cmdCtx_q1, cmdCtx_q3, ← Bool.not_eq_true, sigOk_iff owner]
    exact fun bad => bad.elim (fun unassigned => assigned (BitVec.eq_of_toNat_eq unassigned)) fun outside => outside ⟨lo, hi⟩
  · rfl

end

/-- When a condition holds of a signal (R356). -/
theorem condHolds_iff (cond x v : W64) : condHolds cond.toNat x v = true ↔
    (cond = 0 ∧ v.toNat ≤ x.toNat) ∨ (cond = 1 ∧ x = v) ∨ (cond = 2 ∧ x ≠ v) := by
  have number (n : Nat) (small : n < 2 ^ 64) : cond = BitVec.ofNat 64 n ↔ cond.toNat = n := by
    rw [BitVec.toNat_eq, BitVec.toNat_ofNat, Nat.mod_eq_of_lt small]
  rw [show (0 : W64) = BitVec.ofNat 64 0 from rfl, show (1 : W64) = BitVec.ofNat 64 1 from rfl, show (2 : W64) = BitVec.ofNat 64 2 from rfl,
    number 0 (by norm_num), number 1 (by norm_num), number 2 (by norm_num)]
  match cond.toNat with
  | 0 => simp [condHolds, BitVec.ule]
  | 1 => simp [condHolds]
  | 2 => simp [condHolds]
  | n + 3 => simp [condHolds]

/-- An operand of which only the low `k` bits are named is a number of `k` bits (R360). -/
theorem toNat_lt_of_unnamed {x : W64} {k : Nat} (named : (x &&& ~~~ (BitVec.ofNat 64 (2 ^ k - 1))) = 0) : x.toNat < 2 ^ k := by
  refine Nat.lt_pow_two_of_testBit _ fun i above => ?_
  by_cases inside : i < 64
  · have clear := congrArg (fun y : W64 => y.getLsbD i) named
    simp only [BitVec.getLsbD_and, BitVec.getLsbD_not, BitVec.getLsbD_ofNat, Nat.testBit_two_pow_sub_one] at clear
    simpa [BitVec.testBit_toNat, inside, Nat.not_lt.mpr above] using clear
  · exact Nat.testBit_lt_two_pow (x.isLt.trans_le (Nat.pow_le_pow_right (by norm_num) (Nat.not_lt.mp inside)))

/-- The operands of a WAIT are a signal's index and a condition (R360). -/
theorem wait_operands (starts : CpStarts s 0x02 [lowBits 12, q64, 3] j b) : s.arg.cp.q1.toNat < 2 ^ 12 ∧ s.arg.cp.q3.toNat < 2 ^ 2 := by
  obtain ⟨-, -, -, -, -, named⟩ := starts
  simp only [strayBits, Bool.or_eq_false_iff, List.zipIdx_cons, List.any_cons] at named
  obtain ⟨-, index, -, cond, -⟩ := named
  exact ⟨toNat_lt_of_unnamed (by simpa [lowBits] using index), toNat_lt_of_unnamed (by simpa using cond)⟩

/-- A WAIT that parks frees its queue's slot, with the condition in the queue's descriptor (R356, R363). -/
theorem wait_parks (starts : CpStarts s 0x02 [lowBits 12, q64, 3] j b) (unasked : s.cp.binds = []) :
    let t := unbindSlot (modCp (cpGo s j b) (fun c => { c with parked := c.parked ++ [waitOf s b] })) j { b with held := none }
      (some (s.arg.cp.q1.toNat, s.arg.cp.q2, s.arg.cp.q3.toNat))
    (∀ q ∈ t.cp.slots, q.1 ≠ j) ∧ t.cp.parked = s.cp.parked ++ [waitOf s b] ∧ t.cp.recs = s.cp.recs ∧
      bit (rdByte t.host.cells b.at0).toNat 3 = true ∧ hostNum t (b.at0 + 28) 2 = b.head % 65536 ∧
      hostNum t (b.at0 + 30) 10 = s.arg.cp.q1.toNat * 16 + s.arg.cp.q3.toNat * 4 + s.arg.cp.q2.toNat * 2 ^ 16 := by
  obtain ⟨index, cond⟩ := wait_operands starts
  have value := s.arg.cp.q2.isLt
  generalize start : modCp (cpGo s j b) (fun c => { c with parked := c.parked ++ [waitOf s b] }) = u
  have binds : u.cp.binds = [] := by rw [← start]; exact unasked
  obtain ⟨cp, head, parked⟩ := unbindSlot_frees binds j { b with held := none } (some (s.arg.cp.q1.toNat, s.arg.cp.q2, s.arg.cp.q3.toNat))
  refine ⟨?_, ?_, ?_, parked, head, ?_⟩
  · rw [cp]
    exact fun q listed => ne_of_mem_serase listed
  · rw [cp, ← start]
    rfl
  · rw [cp, ← start]
    rfl
  · rw [unbindSlot_none binds]
    refine (writeBack_wait ..).trans (Nat.mod_eq_of_lt ?_)
    omega

/-! ## INDIRECT -/

/-- The packets of an INDIRECT, as they stand in host memory (R365). -/
def indirectPackets (s : State) : List CpPacket :=
  (List.range s.arg.cp.q2.toNat).map (fun k => cpPacketOf (hostRead s (s.arg.cp.q1.toNat + 64 * k) 64))

section
variable (first : s.arg.flag = true) (starts : CpStarts s 0x04 [q64 - 63, lowBits 17] j b)
include first starts

theorem indirect_aborted (ended : jobEnded s (ownSlot s b) ≠ none ∨ (jobOf s b.pasid = none ∧ b.pasid ∈ s.cp.gone)) :
    exec .indirect s = .next (cpOnly s j b 5 0) := by
  rw [show exec .indirect s = execIndirect s from rfl, execIndirect, if_pos first, indCmd_aborted starts ended]

variable (open' : jobEnded s (ownSlot s b) = none) (stays : jobOf s b.pasid = none → b.pasid ∉ s.cp.gone)
include open' stays

theorem indirect_rejects (bad : s.arg.cp.q2.toNat = 0 ∨ 65536 < s.arg.cp.q2.toNat ∨
    (openCmds s (cmdRef b.pasid b.q)).any (fun c => cpOp c.p == 0x04) = true) : exec .indirect s = .next (cpOnly s j b 1 0) := by
  rw [show exec .indirect s = execIndirect s from rfl, execIndirect, if_pos first,
    indCmd_runs (r := .done (cpGo s j b) 1 0) starts open' stays (if_pos bad)]
  rfl

theorem indirect_opens (some : 1 ≤ s.arg.cp.q2.toNat) (fits : s.arg.cp.q2.toNat ≤ 65536)
    (alone : (openCmds s (cmdRef b.pasid b.q)).any (fun c => cpOp c.p == 0x04) = false) :
    exec .indirect s = .next (cmdEnd s j b (.later (putSlot (cpGo s j b) j { b with held := none, ind := indirectPackets s }) (mkCmd s b s.arg.cp))) := by
  rw [show exec .indirect s = execIndirect s from rfl, execIndirect, if_pos first]
  refine indCmd_runs starts open' stays ((if_neg ?_).trans rfl)
  rintro (none | long | other)
  · exact absurd none (Nat.one_le_iff_ne_zero.mp some)
  · exact absurd long (Nat.not_lt.mpr fits)
  · exact absurd (other.symm.trans alone) (by decide)

end

/-- An INDIRECT is complete once its last packet has started, from its slot or parked (R365). -/
theorem indirect_completes {c : CpCmd} (further : s.arg.flag = false) (started : cmdById s s.arg.n = some c) (kind : cpOp c.p = 0x04)
    (over' : (∃ j b, slotOfQ s c.r.pasid.toNat c.r.queue.toNat = some (j, b) ∧ b.ind = [] ∧ b.held = none) ∨
      (slotOfQ s c.r.pasid.toNat c.r.queue.toNat = none ∧ ∃ w ∈ s.cp.parked, w.pasid = c.r.pasid.toNat ∧ w.q = c.r.queue.toNat ∧ w.ind = [])) :
    exec .indirect s = .next (cmdDone s c 0 0) := by
  rw [show exec .indirect s = execIndirect s from rfl, execIndirect, if_neg (by rw [further]; exact Bool.false_ne_true), pollCmd_runs _ started kind]
  rcases over' with ⟨j, b, bound, left, free⟩ | ⟨unbound, w, parked, pasid, queue, left⟩
  · rw [bound]
    exact congrArg Host.Outcome.next (if_pos (by rw [left, free]; rfl))
  · rw [unbound]
    exact congrArg Host.Outcome.next (if_pos (List.any_eq_true.mpr ⟨w, parked, by simp [pasid, queue, left]⟩))

/-! ## The statement -/

/-- A slot that holds `b` at the end holds no packet and has the packets `l` of an INDIRECT. -/
theorem sget_opened (s : State) (j : Nat) (b : BoundQ) (l : List CpPacket) (d : BoundQ) :
    sget d (putSlot (cpGo s j b) j { b with held := none, ind := l }).cp.slots j = { b with held := none, ind := l } := by
  rw [putSlot, modCp, sget_sput, if_pos rfl]

end

/-- Settles O41: each command is checked and then does one write, and a WAIT that parks frees its slot with its condition in its
descriptor. -/
theorem signalCommands : Obligations.SignalCommands := by
  unfold Obligations.SignalCommands
  intro s j b p i x holds
  have cond : condHolds p.q3.toNat x p.q2 = true ↔ holds := condHolds_iff p.q3 x p.q2
  refine ⟨nop_completes, fun slot job owner starts => ⟨signal_rejects owner starts, fun lo hi => ⟨_, signal_sets owner starts lo hi, ?_⟩⟩,
    fun slot job owner starts => ⟨wait_rejects owner starts, fun assigned lo hi now => ?_, fun assigned lo hi later none => ?_⟩, ?_, ?_,
    fun c further started kind loud bound left free => ⟨_, indirect_completes further started kind (.inl ⟨j, b, bound, left, free⟩), ?_⟩,
    fun c w listed further started kind loud unbound pasid queue left =>
      ⟨_, indirect_completes further started kind (.inr ⟨unbound, w, listed, pasid, queue, left⟩), ?_⟩⟩
  · refine ⟨cpDone_withRec rfl rfl rfl rfl, .of_eq rfl rfl rfl, fun k => ?_, rfl⟩
    exact sget_sset ..
  · rw [wait_runs owner starts assigned lo hi, if_pos (cond.mpr now)]
    rfl
  · rw [wait_runs owner starts assigned lo hi, if_neg (fun now => later (cond.mp now))]
    obtain ⟨freed, parked, recs, mark, head, wait⟩ := wait_parks starts none
    exact ⟨_, waitOf s b, rfl, freed, parked, rfl, rfl, rfl, rfl, rfl, rfl, rfl, recs, mark, head, wait⟩
  · intro slot first starts ended
    exact indirect_aborted first starts ended
  · intro slot first starts open' stays n
    refine ⟨indirect_rejects first starts open' stays, fun some fits alone => ⟨_, mkCmd s b s.arg.cp, indirect_opens first starts open' stays some fits alone, ?_, ?_⟩⟩
    · exact ⟨rfl, rfl, rfl, fun d => congrArg BoundQ.held (sget_opened s j b _ d), rfl, rfl, rfl, rfl, rfl, rfl⟩
    · exact fun d => congrArg BoundQ.ind (sget_opened s j b _ d)
  · exact ⟨cpOver_cmdDone loud rfl rfl rfl, by rw [cmdDone_loud s loud]; exact .of_eq rfl rfl rfl⟩
  · exact ⟨cpOver_cmdDone loud rfl rfl rfl, by rw [cmdDone_loud s loud]; exact .of_eq rfl rfl rfl⟩

end Sys2Proof.Machine
end

section
/-! PROOFS. A code store read again (spec 17 R328). -/

namespace Sys2Proof.Machine

/-! ## What a code store read again changes -/

/-- Between `s` and `t` no more changes than on-chip memory, HBM, the service state and what is drawn. -/
def MemoryOnly (s t : State) : Prop :=
  ∃ mem hbm svc n, t = { s with chip := { s.chip with mem := mem }, hbm := hbm, svc := svc, draws := n }

theorem MemoryOnly.refl (s : State) : MemoryOnly s s := ⟨s.chip.mem, s.hbm, s.svc, s.draws, rfl⟩

theorem MemoryOnly.trans {s t u : State} (first : MemoryOnly s t) (second : MemoryOnly t u) : MemoryOnly s u := by
  obtain ⟨mem, hbm, svc, n, rfl⟩ := second
  obtain ⟨-, -, -, -, rfl⟩ := first
  exact ⟨mem, hbm, svc, n, rfl⟩

theorem MemoryOnly.getCl {s t : State} (same : MemoryOnly s t) (m : Nat) : getCl t m = getCl s m := by
  obtain ⟨mem, hbm, svc, n, rfl⟩ := same
  rfl

theorem MemoryOnly.foldl {β : Type} {f : State → β → State} (step : ∀ t x, MemoryOnly t (f t x)) (l : List β) (s : State) :
    MemoryOnly s (l.foldl f s) := by
  induction l generalizing s with
  | nil => exact .refl s
  | cons x l ih => exact (step s x).trans (ih _)

theorem memoryOnly_modMem (s : State) (f : MemSt → MemSt) : MemoryOnly s (modMem s f) := ⟨f s.chip.mem, s.hbm, s.svc, s.draws, rfl⟩

theorem memoryOnly_frameErr (s : State) (mm : MemSt) (a ce ue : Nat) : MemoryOnly s (frameErr { s with hbm := mm } a ce ue) := by
  unfold frameErr
  split
  · exact ⟨s.chip.mem, mm, s.svc, s.draws, rfl⟩
  · exact ⟨s.chip.mem, mm, _, s.draws, rfl⟩

theorem memoryOnly_freeBytes (s : State) (n : Nat) : MemoryOnly s (freeBytes s n).2 := ⟨s.chip.mem, s.hbm, s.svc, _, rfl⟩

/-- A page of a code store, copied from where it lies in HBM. -/
theorem memoryOnly_copyPage (s : State) (a d n : Nat) : let r := touch s.hbm a n
    let u := frameErr { s with hbm := r.1 } a r.2.1 r.2.2
    MemoryOnly s (copyCells u u.hbm a d n) :=
  (memoryOnly_frameErr ..).trans (memoryOnly_modMem ..)

/-- Code read again changes memory, and drops what is kept of the code that it replaces (R24, R328). -/
theorem reloadCode_changes (s : State) (m : Nat) : MemoryOnly (modCl s m fun c => { c with codeOld := [] }) (reloadCode s m) := by
  have emptied : MemoryOnly (modCl s m fun c => { c with codeOld := [] })
      (modCl (copyCells s memNone 0 (codeBase m) codeSize) m fun c => { c with codeOld := [] }) := ⟨_, s.hbm, s.svc, s.draws, rfl⟩
  unfold reloadCode
  cases (getCl s m).image with
  | none => exact emptied
  | some ia =>
    refine emptied.trans (MemoryOnly.foldl (fun t p => ?_) _ _)
    split
    · exact memoryOnly_copyPage ..
    · exact (memoryOnly_freeBytes t p.2).trans (memoryOnly_modMem ..)

theorem reloadCode_cp (s : State) (m : Nat) : (reloadCode s m).cp = s.cp := by
  obtain ⟨mem, hbm, svc, n, same⟩ := reloadCode_changes s m
  rw [same]
  rfl

theorem reloadCode_images (s : State) (m : Nat) : (reloadCode s m).images = s.images := by
  obtain ⟨mem, hbm, svc, n, same⟩ := reloadCode_changes s m
  rw [same]
  rfl

theorem reloadCode_units (s : State) (m : Nat) : (reloadCode s m).chip.units = s.chip.units := by
  obtain ⟨mem, hbm, svc, n, same⟩ := reloadCode_changes s m
  rw [same]
  rfl

theorem reloadCode_slot (s : State) (m : Nat) : (reloadCode s m).chip.slot = s.chip.slot := by
  obtain ⟨mem, hbm, svc, n, same⟩ := reloadCode_changes s m
  rw [same]
  rfl

theorem getCl_reloadCode (s : State) (m : Nat) : getCl (reloadCode s m) m = { getCl s m with codeOld := [] } :=
  ((reloadCode_changes s m).getCl m).trans (getCl_modCl_self ..)

end Sys2Proof.Machine
end

section
/-! PROOFS. PLACE and LAUNCH (spec 19 R361, R362, R404). -/

namespace Sys2Proof.Machine

/-! ## Reads leave the command processor as it is -/

theorem touchChip_cp (s : State) (a n : Nat) : (touchChip s a n).cp = s.cp := by
  simp only [touchChip]
  rcases countErr_cases (modChip s fun c => { c with mem := (touch s.chip.mem a n).1 }) a (touch s.chip.mem a n).2.1
    (touch s.chip.mem a n).2.2 with same | ⟨g, counted⟩
  · rw [same]
    rfl
  · rw [counted]
    cases g <;> rfl

theorem frameErr_cp (s : State) (a ce ue : Nat) : (frameErr s a ce ue).cp = s.cp := by
  unfold frameErr
  split <;> rfl

theorem readLoc_cp (s : State) (l : Loc) (n : Nat) : (readLoc s l n).2.cp = s.cp := by
  cases l with
  | chip a => exact touchChip_cp s a n
  | hbm a => exact (frameErr_cp ..).trans rfl
  | host a => rfl

theorem readIa_cp (s : State) (slot pasid ia n : Nat) : (readIa s slot pasid ia n).2.cp = s.cp := by
  unfold readIa
  refine foldl_keeps _ (fun p : List (Byte × Bool) × State => p.2.cp) (fun p r => ?_) _ ([], s)
  cases r.2.2 with
  | ok l => exact readLoc_cp p.2 l r.2.1
  | fault => rfl
  | peer => rfl
  | miss => rfl

theorem asJob_cp (s : State) (slot : Nat) : (asJob s slot).cp = s.cp := by
  unfold asJob
  split
  · rfl
  · split <;> rfl

theorem backJob_cp (s : State) (slot : Nat) (t : State) : (backJob s slot t).cp = t.cp := by
  unfold backJob
  split <;> rfl

/-- A read that is done changes nothing of the command processor. -/
theorem cpAccess_cp {s u : State} {slot pasid ia n : Nat} {x : List (Byte × Bool)} (done : cpAccess s slot pasid ia n none = .ok x u) : u.cp = s.cp := by
  unfold cpAccess at done
  by_cases away : (ia / 2 ^ 48 ≠ 0 ∧ ia / 2 ^ 48 ≠ s.partMod) ∨ (!aperture s s.partMod (ia % 2 ^ 48) (ia % 2 ^ 48 + n - 1) .rd) = true
  · rw [if_pos (by exact away)] at done
    cases done
  · rw [if_neg (by exact away)] at done
    dsimp only at done
    split at done
    · cases done
    · cases done
    · obtain ⟨-, done⟩ | ⟨-, done⟩ := ite_eq_iff.mp done
      · cases done
      · have read := (CpAcc.ok.inj done).2
        rw [← read]
        exact (backJob_cp ..).trans ((readIa_cp ..).trans (asJob_cp ..))

/-! ## PLACE -/

/-- The state after a part of a PLACE has been read. -/
theorem placeCopy_part {s u : State} {slot pasid src dst n fuel : Nat} {x : List (Byte × Bool)} (some : n ≠ 0) (part : n ≤ 2048)
    (found : cpAccess s slot pasid src n none = .ok x u) :
    placeCopy slot pasid src dst (fuel + 1) n s = (writeLoc (codeKeep u (fullIa u dst) n) (.chip dst) x, none) := by
  rw [placeCopy, if_neg some]
  simp only [Nat.min_eq_left part, found, Nat.sub_self]
  cases fuel with
  | zero => rfl
  | succ fuel => rw [placeCopy, if_pos rfl]

theorem codeKeep_cp (s : State) (ia n : Nat) : (codeKeep s ia n).cp = s.cp := by
  unfold codeKeep
  dsimp only
  split <;> rfl

theorem writeLoc_chip_cp (s : State) (dst : Nat) (x : List (Byte × Bool)) : (writeLoc s (.chip dst) x).cp = s.cp := rfl

/-- Bytes written to on-chip memory stand there. -/
theorem rdByte_writeLoc_chip (s : State) (dst : Nat) (x : List (Byte × Bool)) {k : Nat} (inside : k < x.length) :
    rdByte (writeLoc s (.chip dst) x).chip.mem.cells (dst + k) = (x[k]).1 := by
  refine (rdByte_writeImg s.chip.mem dst (dst + k) x).trans ?_
  rw [dif_pos ⟨Nat.le_add_right .., by omega⟩]
  simp only [Nat.add_sub_cancel_left]

/-- The context that the LAUNCH of this event stages (R362). -/
def stagedOf (s : State) : Staged :=
  { cmd := s.cp.nextId, entry := bits s.arg.cp.q2.toNat 0 21, arg := s.arg.cp.q3, image := s.arg.cp.q4, ovf := s.arg.cp.q5, pool := s.arg.cp.q6 }

/-- A context in the shadow banks of clusters. -/
def stageAll (l : List Nat) (g : Staged) (s : State) : State := l.foldl (fun u m => modCl u m (fun c => { c with shadow := some g })) s

/-- Staging a context changes shadow banks alone. -/
theorem stageAll_eq (l : List Nat) (g : Staged) (s : State) : ∃ cls, stageAll l g s = { s with chip := { s.chip with clusters := cls } } := by
  induction l generalizing s with
  | nil => exact ⟨s.chip.clusters, rfl⟩
  | cons m l ih =>
    obtain ⟨cls, rest⟩ := ih (modCl s m (fun c => { c with shadow := some g }))
    exact ⟨cls, rest⟩

theorem stageAll_shadow (l : List Nat) (g : Staged) (s : State) (m : Nat) :
    (getCl (stageAll l g s) m).shadow = if m ∈ l then some g else (getCl s m).shadow := by
  induction l generalizing s with
  | nil => rfl
  | cons k l ih =>
    rw [stageAll, List.foldl_cons, ← stageAll, ih, getCl_modCl]
    by_cases rest : m ∈ l
    · rw [if_pos rest, if_pos (List.mem_cons_of_mem _ rest)]
    · by_cases own : m = k
      · rw [if_neg rest, if_pos own, if_pos (List.mem_cons.mpr (.inl own))]
      · rw [if_neg rest, if_neg own, if_neg (fun listed => (List.mem_cons.mp listed).elim own rest)]

section
variable {s : State} {j slot : Nat} {b : BoundQ} {job : Job} (owner : CpJob s b slot job) (here : switchedIn s slot = true)
include owner here

section
variable (starts : CpStarts s 0x05 [q64, q64, q64] j b)
include starts

theorem place_rejects (bad : s.arg.cp.q3.toNat = 0 ∨ s.arg.cp.q3.toNat % 32 ≠ 0 ∨ 64 * 2 ^ 20 < s.arg.cp.q3.toNat ∨
    hbmRange s s.arg.cp.q1.toNat s.arg.cp.q3.toNat = false ∨ placeDst s s.arg.cp.q2.toNat s.arg.cp.q3.toNat = false) :
    exec .place s = .next (cpOnly s j b 1 0) := by
  rw [show exec .place s = execPlace s from rfl, execPlace, chipCmd_runs (r := .done (cpGo s j b) 1 0) starts owner here (if_pos bad)]
  rfl

section
variable (good : ¬(s.arg.cp.q3.toNat = 0 ∨ s.arg.cp.q3.toNat % 32 ≠ 0 ∨ 64 * 2 ^ 20 < s.arg.cp.q3.toNat ∨
    hbmRange s s.arg.cp.q1.toNat s.arg.cp.q3.toNat = false ∨ placeDst s s.arg.cp.q2.toNat s.arg.cp.q3.toNat = false))
include good

/-- A PLACE that fits copies, and ends with what its copy meets (R361). -/
theorem place_copies {u : State} {f : Option Nat} (copy : placeCopy slot b.pasid s.arg.cp.q1.toNat (s.arg.cp.q2.toNat % 2 ^ 48)
    (s.arg.cp.q3.toNat / 2048 + 1) s.arg.cp.q3.toNat (cpGo s j b) = (u, f)) :
    exec .place s = .next (withRec s u b (if f = none then 0 else 3) (f.getD 0)) := by
  obtain ⟨owned, -⟩ := id owner
  rw [show exec .place s = execPlace s from rfl, execPlace]
  cases f with
  | none =>
    rw [chipCmd_runs (r := .done u 0 0) starts owner here]
    · rfl
    · refine (if_neg good).trans ?_
      rw [cmdCtx_slot j owned, cmdCtx_q1, cmdCtx_q2, cmdCtx_q3, cmdCtx_pasid, copy]
      rfl
  | some f =>
    rw [chipCmd_runs (r := .done u 3 f) starts owner here]
    · rfl
    · refine (if_neg good).trans ?_
      rw [cmdCtx_slot j owned, cmdCtx_q1, cmdCtx_q2, cmdCtx_q3, cmdCtx_pasid, copy]
      rfl

/-- A PLACE of at most 2 KiB whose source is read writes what it has read (R361). -/
theorem place_writes {x : List (Byte × Bool)} {u : State} (part : s.arg.cp.q3.toNat ≤ 2048)
    (found : cpAccess (cpGo s j b) slot b.pasid s.arg.cp.q1.toNat s.arg.cp.q3.toNat none = .ok x u) :
    ∃ t, exec .place s = .next t ∧ CpDone s t j b 0 0 ∧
      ∀ k (h : k < x.length), rdByte t.chip.mem.cells (s.arg.cp.q2.toNat % 2 ^ 48 + k) = (x[k]).1 := by
  have copy := placeCopy_part (dst := s.arg.cp.q2.toNat % 2 ^ 48) (fuel := s.arg.cp.q3.toNat / 2048) (fun none => good (.inl none)) part found
  have cp : (writeLoc (codeKeep u (fullIa u (s.arg.cp.q2.toNat % 2 ^ 48)) s.arg.cp.q3.toNat) (.chip (s.arg.cp.q2.toNat % 2 ^ 48)) x).cp = (cpGo s j b).cp :=
    (writeLoc_chip_cp ..).trans ((codeKeep_cp ..).trans (cpAccess_cp found))
  have bytes : ∀ k (h : k < x.length), rdByte (writeLoc (codeKeep u (fullIa u (s.arg.cp.q2.toNat % 2 ^ 48)) s.arg.cp.q3.toNat)
      (.chip (s.arg.cp.q2.toNat % 2 ^ 48)) x).chip.mem.cells (s.arg.cp.q2.toNat % 2 ^ 48 + k) = (x[k]).1 := fun k inside => rdByte_writeLoc_chip _ _ x inside
  generalize writeLoc (codeKeep u (fullIa u (s.arg.cp.q2.toNat % 2 ^ 48)) s.arg.cp.q3.toNat) (.chip (s.arg.cp.q2.toNat % 2 ^ 48)) x = t at copy cp bytes
  exact ⟨_, place_copies owner here starts good copy, cpDone_withRec (by rw [cp]; rfl) (by rw [cp]; rfl) (by rw [cp]; rfl) (by rw [cp]), bytes⟩

end

end

/-! ## LAUNCH -/

section
variable (starts : CpStarts s 0x01 [lowBits 32, lowBits 21 + 2 ^ 51 + lowBits 12 * 2 ^ 52, q64, q64, q64, q64 - lowBits 15] j b)
include starts

theorem launch_rejects (large : 32768 < bits s.arg.cp.q6.toNat 32 16) : exec .launch s = .next (cpOnly s j b 1 0) := by
  rw [show exec .launch s = execLaunch s from rfl, execLaunch, chipCmd_runs (r := .done (cpGo s j b) 1 0) starts owner here (if_pos (.inl large))]
  rfl

/-- A LAUNCH that fits, whose shadow banks are free, is staged (R362). -/
theorem launch_stages (pool : bits s.arg.cp.q6.toNat 32 16 ≤ 32768)
    (inside : 128 * (bits s.arg.cp.q6.toNat 15 17 + bits s.arg.cp.q6.toNat 32 16) ≤ clSize)
    (signal : bit s.arg.cp.q2.toNat 51 = true → job.sig0 ≤ bits s.arg.cp.q2.toNat 52 12 ∧ bits s.arg.cp.q2.toNat 52 12 < job.sig0 + job.sigN)
    (image : s.arg.cp.q4 ≠ 0 → hbmRange s s.arg.cp.q4.toNat codeSize = true)
    (free : ∀ m < 32, bit s.arg.cp.q1.toNat m = true → (getCl s m).shadow = none) :
    exec .launch s = .next (cmdEnd s j b (.later (stageAll (clusterList s.arg.cp.q1.toNat) (stagedOf s) (cpGo s j b))
      { mkCmd s b s.arg.cp with staged := clusterList s.arg.cp.q1.toNat })) := by
  obtain ⟨owned, -⟩ := id owner
  rw [show exec .launch s = execLaunch s from rfl, execLaunch]
  refine chipCmd_runs starts owner here ((if_neg ?_).trans ((if_neg ?_).trans rfl))
  · rintro (large | outside | unsignalled | unimaged)
    · exact absurd large (Nat.not_lt.mpr pool)
    · exact absurd outside (Nat.not_lt.mpr inside)
    · obtain ⟨asked, refused⟩ := Bool.and_eq_true_iff.mp unsignalled
      exact absurd ((sigOk_iff (j := j) owned _).mpr (signal asked)) (Bool.not_eq_true _ ▸ (Bool.not_eq_true' _).mp refused)
    · refine absurd (image fun zero => unimaged.1 ?_) (by rw [← Bool.not_eq_true] at unimaged; exact unimaged.2)
      rw [cmdCtx_q4, zero]
      rfl
  · rw [List.any_eq_true, not_exists]
    rintro m ⟨named, taken⟩
    obtain ⟨inside, named⟩ := List.mem_filter.mp named
    rw [show getCl (cpGo s j b) m = getCl s m from rfl, free m (List.mem_range.mp inside) named] at taken
    exact absurd taken (by decide)

end

end

/-! ## The swap -/

/-- What `swapIn` has put in a cluster, before the command's own books (R362). -/
def swapCore (s : State) (m : Nat) (g : Staged) : State :=
  let s1 := if g.image = 0 then s else modCl s m (fun c => { c with image := some g.image })
  if g.image = 0 then s1 else reloadCode s1 m

/-- A swap reads the image, where there is one, and names it (R328, R362). -/
theorem getCl_swapCore (s : State) (m : Nat) (g : Staged) : getCl (swapCore s m g) m =
    if g.image = 0 then getCl s m else { getCl s m with image := some g.image, codeOld := [] } := by
  unfold swapCore
  dsimp only
  by_cases none : g.image = 0
  · rw [if_pos none, if_pos none, if_pos none]
  · rw [if_neg none, if_neg none, if_neg none, getCl_reloadCode, getCl_modCl_self]

/-- A cluster that a context swaps into, whose image is in force: the `q`-th of its command, at a serial number (R267, R362). -/
def swapTo (g : Staged) (q serial : Nat) (k : Cluster) : Cluster :=
  { freeHolds k with
    shadow := none
    inForce := (g.ovf, g.pool)
    poolOff := 128 * bits g.pool.toNat 15 17
    poolLen := 128 * bits g.pool.toNat 32 16
    ovfCap := bits g.pool.toNat 48 16
    ovfBase := g.ovf.toNat + q * 9 * bits g.pool.toNat 48 16 * 320
    ovfAt := []
    launch := some g.cmd
    launchFrom := serial
    lan := lanStart (freeHolds k).lan g.entry g.arg (freeHolds k).codeSeq }

theorem swapIn_eq (s : State) (m : Nat) (g : Staged) : ∃ q, swapIn s m g =
    modCmd (modCl (swapCore s m g) m (swapTo g q (getCl (swapCore s m g) m).serial)) g.cmd
      (fun d => { d with staged := d.staged.filter (fun j => j != m), runs := d.runs ++ [(m, (getCl (swapCore s m g) m).serial)] }) := ⟨_, rfl⟩

/-- The start of a program leaves its argument in s1 and every other register zero (R267). -/
theorem rdS_lanStart (l : Lan) (entry : Nat) (arg : W64) (seen r : Nat) : rdS (lanStart l entry arg seen).core r = if r = 1 then arg else 0 := by
  show (if r = 0 then 0 else sget 0 (sset 0 [] 1 arg) r) = _
  rw [sget_sset]
  by_cases zero : r = 0
  · rw [if_pos zero, if_neg (by omega)]
  · rw [if_neg zero]
    rfl

theorem getCl_modCmd (s : State) (id : Nat) (f : CpCmd → CpCmd) (m : Nat) : getCl (modCmd s id f) m = getCl s m := rfl

/-- A cluster that is taken off a list is not on it. -/
theorem not_mem_filter_ne (l : List Nat) (m : Nat) : m ∉ l.filter (fun j => j != m) :=
  fun listed => absurd (List.mem_filter.mp listed).2 (by simp)

theorem mem_modCmd {s : State} {id : Nat} {f : CpCmd → CpCmd} {d : CpCmd} (listed : d ∈ (modCmd s id f).cp.cmds) (own : d.id = id) :
    ∃ d0, d = f d0 := by
  obtain ⟨d0, -, rfl⟩ := List.mem_map.mp listed
  by_cases hit : d0.id = id
  · exact ⟨d0, if_pos hit⟩
  · rw [if_neg hit] at own
    exact absurd own hit

/-- A swap leaves the program at its entry, and the command knows that it runs (R267, R362). -/
theorem swapIn_starts (s : State) (m : Nat) (g : Staged) : ∃ t, swapIn s m g = t ∧ let c := getCl t m
    c.shadow = none ∧ c.lan.on = true ∧ c.lan.core.pc = g.entry ∧ (∀ r, rdS c.lan.core r = if r = 1 then g.arg else 0) ∧ c.lan.x.holds = [] ∧
      c.poolOff = 128 * bits g.pool.toNat 15 17 ∧ c.poolLen = 128 * bits g.pool.toNat 32 16 ∧ c.ovfCap = bits g.pool.toNat 48 16 ∧
      c.launch = some g.cmd ∧ (g.image = 0 → c.image = (getCl s m).image) ∧ (g.image ≠ 0 → c.image = some g.image) ∧
      (∀ d ∈ t.cp.cmds, d.id = g.cmd → m ∉ d.staged ∧ (m, (getCl s m).serial) ∈ d.runs) := by
  have core := getCl_swapCore s m g
  have serial : (getCl (swapCore s m g) m).serial = (getCl s m).serial := by
    rw [core]
    split <;> rfl
  have image : (getCl (swapCore s m g) m).image = if g.image = 0 then (getCl s m).image else some g.image := by
    rw [core]
    split <;> rfl
  obtain ⟨q, swapped⟩ := swapIn_eq s m g
  rw [serial] at swapped
  refine ⟨_, swapped, ?_⟩
  have cluster : getCl (modCmd (modCl (swapCore s m g) m (swapTo g q (getCl s m).serial)) g.cmd
      (fun d => { d with staged := d.staged.filter (fun j => j != m), runs := d.runs ++ [(m, (getCl s m).serial)] })) m =
    swapTo g q (getCl s m).serial (getCl (swapCore s m g) m) := getCl_modCl_self ..
  intro c
  have same : c = swapTo g q (getCl s m).serial (getCl (swapCore s m g) m) := cluster
  clear_value c
  generalize getCl (swapCore s m g) m = k at image same
  rw [same]
  refine ⟨rfl, rfl, rfl, rdS_lanStart _ _ _ _, rfl, rfl, rfl, rfl, rfl, fun none => ?_, fun some => ?_, fun d listed own => ?_⟩
  · exact image.trans (if_pos none)
  · exact image.trans (if_neg some)
  · obtain ⟨d0, rfl⟩ := mem_modCmd listed own
    exact ⟨not_mem_filter_ne _ _, List.mem_append.mpr (.inr (List.mem_singleton.mpr rfl))⟩

section
variable {s : State} {g : Staged} (shadow : (getCl s s.arg.m.toNat).shadow = some g) (off : (getCl s s.arg.m.toNat).lan.on = false)
  (thawed : frozen s = false) (runs : ended s = false) (empty : swapWaits (getCl s s.arg.m.toNat) g = false)
include shadow off thawed runs empty

/-- A stopped cluster whose window is as the context needs takes it, or records the fault of its image (R362). -/
theorem launchSwapIn_swaps (image : g.image = 0 ∨
    faultOf (resolveAll s s.chip.slot s.chip.pasid (fullIa s (g.image.toNat % 2 ^ 48)) codeSize .rd) = none) :
    exec .launchSwapIn s = .next (swapIn s s.arg.m.toNat g) := by
  rw [show exec .launchSwapIn s = execLaunchSwapIn s from rfl, execLaunchSwapIn]
  refine congrArg Host.Outcome.next ?_
  simp only [shadow]
  rw [if_neg (by simp [off, thawed, runs, empty])]
  rcases image with none | mapped
  · rw [if_pos none]
  · split
    · rfl
    · rw [mapped]

theorem launchSwapIn_faults {a k : Nat} (image : g.image ≠ 0)
    (fault : faultOf (resolveAll s s.chip.slot s.chip.pasid (fullIa s (g.image.toNat % 2 ^ 48)) codeSize .rd) = some (a, k)) :
    ∃ f : CpCmd → Option (Nat × Nat), (∀ d, f d ≠ none) ∧
      exec .launchSwapIn s = .next (modCmd (modCl s s.arg.m.toNat (fun c => { c with shadow := none })) g.cmd
        (fun d => { d with staged := d.staged.filter (fun j => j != s.arg.m.toNat), fault := f d })) := by
  refine ⟨fun d => match d.fault with
    | some (f, n) => if s.arg.m.toNat < n then some (k, s.arg.m.toNat) else some (f, n)
    | none => some (k, s.arg.m.toNat), fun d => ?_, ?_⟩
  · dsimp only
    split
    · split <;> exact Option.some_ne_none _
    · exact Option.some_ne_none _
  · rw [show exec .launchSwapIn s = execLaunchSwapIn s from rfl, execLaunchSwapIn]
    refine congrArg Host.Outcome.next ?_
    simp only [shadow]
    rw [if_neg (by simp [off, thawed, runs, empty]), if_neg image, fault] <;> rfl

end

/-! ## The end of a LAUNCH -/

section
variable {s : State} {c : CpCmd} (started : cmdById s s.arg.n = some c) (kind : cpOp c.p = 0x01)
include started kind

theorem launchComplete_aborts {w : W64} (over' : jobEnded s c.job = some w) :
    exec .launchComplete s = .next (raiseMsi (cmdDone s c 5 (if c.runs = [] then 0 else w.toNat)) 1) := by
  rw [show exec .launchComplete s = execLaunchComplete s from rfl, execLaunchComplete, pollCmd_runs _ started kind]
  simp only [over', List.isEmpty_iff]
  rfl

theorem launchComplete_waits (open' : jobEnded s c.job = none)
    (left : c.staged ≠ [] ∨ ∃ r ∈ c.runs, launchOver (asJob s c.job) c.id r = false) : exec .launchComplete s = .next s := by
  rw [show exec .launchComplete s = execLaunchComplete s from rfl, execLaunchComplete, pollCmd_runs _ started kind]
  simp only [open']
  refine congrArg Host.Outcome.next (if_pos ?_)
  rw [Bool.or_eq_true, List.any_eq_true]
  exact left.imp (fun some => by simpa using some) fun ⟨r, listed, runs⟩ => ⟨r, listed, by rw [runs]; rfl⟩

/-- With its programs over, a LAUNCH adds one to its signal (R362). -/
theorem launchComplete_signals (open' : jobEnded s c.job = none) (loud : c.quiet = false) (unstaged : c.staged = [])
    (over' : ∀ r ∈ c.runs, launchOver (asJob s c.job) c.id r = true) {t : State}
    (done : t = match c.fault with | some (k, m) => cmdDone s c 3 (k + m * 2 ^ 32) | none => cmdDone s c 0 0) :
    exec .launchComplete s = .next (if bit c.p.q2.toNat 51 = true then setSignal t (bits c.p.q2.toNat 52 12) (sget 0 t.cp.signals (bits c.p.q2.toNat 52 12) + 1)
      else t) := by
  rw [show exec .launchComplete s = execLaunchComplete s from rfl, execLaunchComplete, pollCmd_runs _ started kind]
  simp only [open']
  refine congrArg Host.Outcome.next ((if_neg ?_).trans ?_)
  · rw [Bool.or_eq_true, List.any_eq_true]
    rintro (staged | ⟨r, listed, runs⟩)
    · rw [unstaged] at staged
      exact absurd staged (by decide)
    · rw [over' r listed] at runs
      exact absurd runs (by decide)
  · rw [loud, Bool.not_false, Bool.and_true, done]
    rfl

end

/-- A command that completes, and adds one to a signal where it names one (R362, R363). -/
theorem signalled_ends {s : State} {c : CpCmd} (loud : c.quiet = false) (st val i : Nat) (named : Prop) [Decidable named] :
    let u := cmdDone s c st val
    let t := if named then setSignal u i (sget 0 u.cp.signals i + 1) else u
    CpOver s t c st val ∧ (∀ k, sget 0 t.cp.signals k = if k = i ∧ named then sget 0 s.cp.signals k + 1 else sget 0 s.cp.signals k) ∧ AllMemSame s t := by
  intro u t
  have done : u = _ := cmdDone_loud s loud st val
  have ends : CpOver s u c st val := cpOver_cmdDone loud rfl rfl rfl
  have signals : u.cp.signals = s.cp.signals := by rw [done]; rfl
  have memory : AllMemSame s u := by rw [done]; exact .of_eq rfl rfl rfl
  by_cases asked : named
  · rw [show t = setSignal u i (sget 0 u.cp.signals i + 1) from if_pos asked]
    refine ⟨ends, fun k => ?_, memory⟩
    show sget 0 (sset 0 u.cp.signals i (sget 0 u.cp.signals i + 1)) k = _
    rw [sget_sset, signals]
    by_cases own : k = i
    · rw [if_pos own, if_pos ⟨own, asked⟩, own]
    · rw [if_neg own, if_neg fun both => own both.1]
  · rw [show t = u from if_neg asked]
    exact ⟨ends, fun k => by rw [signals, if_neg fun both => asked both.2], memory⟩

/-! ## The statement -/

/-- Settles O42: PLACE, LAUNCH and its end are checked and then do what their rules say; a swap in leaves what the start of a program sets. -/
theorem launchCommands : Obligations.LaunchCommands := by
  unfold Obligations.LaunchCommands
  intro s j b slot job p
  refine ⟨fun owner here starts => ?_, fun owner here starts => ?_, fun g => ?_, fun g a k => ?_, fun c started kind loud => ⟨fun w over' => ?_, fun open' unstaged over' => ?_,
    launchComplete_waits started kind⟩⟩
  · intro n
    refine ⟨place_rejects owner here starts, fun some sectors fits source dest => ?_⟩
    have good : ¬(n = 0 ∨ n % 32 ≠ 0 ∨ 64 * 2 ^ 20 < n ∨ hbmRange s p.q1.toNat n = false ∨ placeDst s p.q2.toNat n = false) := by
      rw [source, dest]
      rintro (none | odd | long | no | no)
      · exact some none
      · exact odd sectors
      · exact absurd fits (Nat.not_le.mpr long)
      · cases no
      · cases no
    refine ⟨?_, fun x u part found => place_writes owner here starts good part found⟩
    generalize copy : placeCopy slot b.pasid p.q1.toNat (p.q2.toNat % 2 ^ 48) (n / 2048 + 1) n (cpGo s j b) = r
    obtain ⟨u, f⟩ := r
    rw [place_copies owner here starts good copy]
    cases f <;> rfl
  · intro gr off
    refine ⟨launch_rejects owner here starts, fun pool inside signal image free => ⟨_, { mkCmd s b p with staged := clusterList p.q1.toNat },
      launch_stages owner here starts pool inside signal image free, ?_⟩⟩
    have shadows := stageAll_shadow (clusterList p.q1.toNat) (stagedOf s) (cpGo s j b)
    obtain ⟨cls, stages⟩ := stageAll_eq (clusterList p.q1.toNat) (stagedOf s) (cpGo s j b)
    rw [stages] at shadows ⊢
    refine ⟨⟨rfl, rfl, rfl, fun d => ?_, rfl, rfl, rfl, rfl, rfl, rfl⟩, rfl, ⟨fun _ => ⟨rfl, rfl⟩, fun _ => ⟨rfl, rfl⟩, fun _ => ⟨rfl, rfl⟩⟩, fun m => (shadows m).trans ?_⟩
    · exact congrArg BoundQ.held ((sget_sput ..).trans (if_pos rfl))
    · exact if_congr (by rw [clusterList, List.mem_filter, List.mem_range]) rfl rfl
  · intro m shadow off thawed runs empty image
    obtain ⟨t, swaps, left⟩ := swapIn_starts s m g
    exact ⟨t, swaps ▸ launchSwapIn_swaps shadow off thawed runs empty image, left⟩
  · intro m shadow off thawed runs empty image fault
    obtain ⟨f, some, faults⟩ := launchSwapIn_faults shadow off thawed runs empty image fault
    refine ⟨_, faults, ?_, ?_, fun d listed own => ?_, .of_eq rfl rfl rfl⟩
    · exact congrArg Cluster.shadow ((getCl_modCmd ..).trans (getCl_modCl_self ..))
    · rw [getCl_modCmd, getCl_modCl_self]
    · obtain ⟨d0, rfl⟩ := mem_modCmd listed own
      exact ⟨not_mem_filter_ne _ _, some d0⟩
  · refine ⟨_, launchComplete_aborts started kind over', cpOver_cmdDone loud rfl rfl rfl, ?_⟩
    rw [cmdDone_loud s loud]
    rfl
  · intro i
    refine ⟨_, launchComplete_signals started kind open' loud unstaged over' rfl, ?_⟩
    cases c.fault with
    | none => exact signalled_ends loud 0 0 i _
    | some f => exact signalled_ends loud 3 _ i _

end Sys2Proof.Machine
end

section
/-! PROOFS. The queues of the command processor (spec 19 R356 to R359, R363, R367, R368). -/

namespace Sys2Proof.Machine

/-! ## BAR0 -/

theorem bar0_signal (s : State) {i : Nat} (listed : i < 4096) : bar0 s (0x8000 + 8 * i) = sget 0 s.cp.signals i := by
  rw [bar0, if_neg (by omega), if_neg (by omega), if_neg (by omega), if_pos ⟨by omega, by omega⟩, Nat.add_sub_cancel_left, Nat.mul_div_cancel_left i (by norm_num)]

theorem hostRegisterWrite_qroot {s : State} (ready : s.svc.ready = true) (at0 : s.arg.n = 0) :
    exec .hostRegisterWrite s = .next { s with cp := { s.cp with qroot := s.arg.v &&& 0xFFFFFFFFFFFFF001 } } :=
  congrArg Host.Outcome.next (if_pos (by rw [ready, at0]; rfl))

/-! ## Tails -/

section
variable {s : State} {j : Nat} {b : BoundQ} {tail : Nat}

theorem setTail_fits (runs : b.halted = false) (fits : (tail % 65536 + 65536 - b.head) % 65536 ≤ 2 ^ qdLsz b.desc) :
    ∃ i, setTail s j b tail = putSlot s j { b with tail := tail % 65536, idle := i } := by
  refine ⟨if tail % 65536 = b.head then b.idle else ptp s, ?_⟩
  rw [setTail, if_neg (by rw [runs]; exact Bool.false_ne_true)]
  exact if_neg (Nat.not_lt.mpr fits)

/-- A tail past the end of its ring halts the queue, with a record for the packet at its head (R358). -/
theorem setTail_overruns (runs : b.halted = false) (long : 2 ^ qdLsz b.desc < (tail % 65536 + 65536 - b.head) % 65536) :
    ∃ c : BoundQ, c.desc = b.desc ∧ c.head = b.head ∧ setTail s j b tail = haltQueue s j c (headPacket s c) 7 0 := by
  refine ⟨{ b with tail := tail % 65536, idle := if tail % 65536 = b.head then b.idle else ptp s }, rfl, rfl, ?_⟩
  rw [setTail, if_neg (by rw [runs]; exact Bool.false_ne_true)]
  exact if_pos long

theorem sget_putSlot (s : State) (j : Nat) (b d : BoundQ) : sget d (putSlot s j b).cp.slots j = b := (sget_sput ..).trans (if_pos rfl)

/-- A host queue's tail is what its doorbells say (R357). -/
theorem loadTail_host (bound : s.cp.slots.find? (fun p => p.1 == j) = some (j, b)) (host : qdDev b.desc = false) :
    loadTail s j = setTail s j b (sget b.head s.cp.tails (refKey b.pasid b.q)) := by
  simp only [loadTail, bound, host, Bool.not_false, if_true]

/-- A device queue's tail is what its tail word says (R357). -/
theorem loadTail_device (bound : s.cp.slots.find? (fun p => p.1 == j) = some (j, b)) (device : qdDev b.desc = true) {slot : Nat} {job : Job}
    (owner : jobOf s b.pasid = some (slot, job)) {x : List (Byte × Bool)} {u : State} (read : cpAccess s slot b.pasid (qdTailw b.desc) 8 none = .ok x u) :
    loadTail s j = setTail u j b (ofBytes (x.map Prod.fst)) := by
  simp only [loadTail, bound, device, Bool.not_true, Bool.false_eq_true, if_false, qRead, owner, read]

/-- A read for a host queue is of host memory (R358). -/
theorem qRead_host (s : State) (pasid a n : Nat) : qRead s false pasid a n = .ok ((hostRead s a n).map (fun b => (b, false))) s := rfl

theorem qRead_bytes (l : List Byte) : (l.map (fun b => (b, false))).map Prod.fst = l := by
  rw [List.map_map]
  exact List.map_id l

/-- The packet at the head of a host queue. -/
theorem headPacket_host (host : qdDev b.desc = false) :
    headPacket s b = some (cpPacketOf (hostRead s (qdRing b.desc + 64 * (b.head % 2 ^ qdLsz b.desc)) 64)) := by
  simp only [headPacket, host, qRead_host, qRead_bytes]

/-- The tag of a packet is its bytes 4 to 7 (R359). -/
theorem tag_cpPacketOf (s : State) (a : Nat) : bits (cpPacketOf (hostRead s a 64)).q0.toNat 32 32 = hostNum s (a + 4) 4 := by
  have part : ((hostRead s a 64).drop 4).take 4 = hostRead s (a + 4) 4 := by
    refine List.ext_getElem (by simp [hostRead, rdImg]) fun i _ inside => ?_
    simp [hostRead, rdImg, Nat.add_assoc]
  rw [← ofBytes_hostRead, ← part, ofBytes_take, ofBytes_drop]
  show (BitVec.ofNat 64 (ofBytes ((hostRead s a 64).take 8))).toNat / 2 ^ 32 % 2 ^ 32 = _
  rw [BitVec.toNat_ofNat, ofBytes_take]
  omega

/-- A tail past the end of a host queue's ring halts it with OVERRUN, under the tag of the packet at its head (R358). -/
theorem setTail_halts (host : qdDev b.desc = false) (runs : b.halted = false) (long : 2 ^ qdLsz b.desc < (tail % 65536 + 65536 - b.head) % 65536) :
    ∃ r, (∀ d, (sget d (setTail s j b tail).cp.slots j).halted = true) ∧ (setTail s j b tail).cp.recs = s.cp.recs ++ [r] ∧ r.st = 7 ∧
      r.tag = hostNum s (qdRing b.desc + 64 * (b.head % 2 ^ qdLsz b.desc) + 4) 4 ∧ AllMemSame s (setTail s j b tail) := by
  obtain ⟨c, desc, head, halts⟩ := setTail_overruns (s := s) (j := j) runs long
  rw [halts, headPacket_host (by rw [desc]; exact host), haltQueue, desc, head]
  refine ⟨_, fun d => ?_, rfl, rfl, tag_cpPacketOf .., .of_eq rfl rfl rfl⟩
  exact congrArg BoundQ.halted (sget_putSlot s j _ d)

end

/-! ## Doorbells -/

/-- What a doorbell leaves before its queue's tail is loaded (R357): the tail that it says. -/
def doorRung (s : State) : State :=
  modCp s (fun c => { c with
    tails := sput c.tails (refKey (bits s.arg.v.toNat 44 20) (bits s.arg.v.toNat 38 6)) (bits s.arg.v.toNat 0 16)
    doorPend := c.doorPend.filter (fun d => decide (d.toNat / 2 ^ 38 ≠ s.arg.v.toNat / 2 ^ 38)) })

section
variable {s : State} {j : Nat} {b : BoundQ} (ready : s.svc.ready = true)
include ready

section
variable (valid : bit s.cp.qroot.toNat 0 = true) (stands : resetRuns s (bits s.arg.v.toNat 44 20) (bits s.arg.v.toNat 38 6) = false)
include valid stands

theorem doorbell_rings : exec .doorbell s = .next (match slotOfQ s (bits s.arg.v.toNat 44 20) (bits s.arg.v.toNat 38 6) with
    | some (j, _) => loadTail (doorRung s) j
    | none => if staysParked s (bits s.arg.v.toNat 44 20) (bits s.arg.v.toNat 38 6) then doorRung s
      else ringUnbound (doorRung s) (bits s.arg.v.toNat 44 20) (bits s.arg.v.toNat 38 6)) :=
  congrArg Host.Outcome.next (if_neg (by rw [ready, valid, stands]; decide))

/-- The doorbell of a bound host queue loads its tail (R357). -/
theorem doorbell_loads (bound : slotOfQ s (bits s.arg.v.toNat 44 20) (bits s.arg.v.toNat 38 6) = some (j, b))
    (slot : s.cp.slots.find? (fun p => p.1 == j) = some (j, b)) (host : qdDev b.desc = false)
    (pasid : b.pasid = bits s.arg.v.toNat 44 20) (queue : b.q = bits s.arg.v.toNat 38 6) :
    exec .doorbell s = .next (setTail (doorRung s) j b (bits s.arg.v.toNat 0 16)) := by
  rw [doorbell_rings ready valid stands, bound]
  refine congrArg Host.Outcome.next ((loadTail_host (s := doorRung s) slot host).trans ?_)
  rw [pasid, queue]
  exact congrArg (setTail _ j b) ((sget_sput ..).trans (if_pos rfl))

/-- The doorbell of an unbound queue walks its table (R357). -/
theorem doorbell_walks (unbound : slotOfQ s (bits s.arg.v.toNat 44 20) (bits s.arg.v.toNat 38 6) = none)
    (wakes : staysParked s (bits s.arg.v.toNat 44 20) (bits s.arg.v.toNat 38 6) = false) :
    exec .doorbell s = .next (ringUnbound (doorRung s) (bits s.arg.v.toNat 44 20) (bits s.arg.v.toNat 38 6)) := by
  rw [doorbell_rings ready valid stands, unbound, wakes]
  rfl

end

end

/-- The first entry of a walk of the queue table (R356). -/
def walkEntry (s : State) (pasid : Nat) : Nat := hostNum s (bits s.cp.qroot.toNat 12 52 * 4096 + 8 * pasid) 8

theorem walkQueue_gone {s : State} {pasid : Nat} (q : Nat) (invalid : bit (walkEntry s pasid) 0 = false) : walkQueue s pasid q = (.gone, s) := by
  rw [walkQueue]
  simp only [ofBytes_hostRead]
  exact if_pos (by rw [← walkEntry, invalid]; rfl)

theorem walkQueue_away {s : State} {pasid : Nat} (q : Nat) (valid : bit (walkEntry s pasid) 0 = true) (absent : bit (walkEntry s pasid) 1 = false) :
    walkQueue s pasid q = (.away, s) := by
  rw [walkQueue]
  simp only [ofBytes_hostRead]
  exact (if_neg (by rw [← walkEntry, valid]; decide)).trans (if_pos (by rw [← walkEntry, absent]; rfl))

/-- A doorbell of a queue that the table has not is dropped (R357). -/
theorem ringUnbound_gone {s : State} {pasid : Nat} (q : Nat) (invalid : bit (walkEntry s pasid) 0 = false) :
    ringUnbound s pasid q = walkFails s pasid q .gone := by rw [ringUnbound, walkQueue_gone q invalid]

/-- A doorbell of a queue whose table is not there is held (R357). -/
theorem ringUnbound_away {s : State} {pasid : Nat} (q : Nat) (valid : bit (walkEntry s pasid) 0 = true) (absent : bit (walkEntry s pasid) 1 = false) :
    ringUnbound s pasid q = walkFails s pasid q .away := by rw [ringUnbound, walkQueue_away q valid absent]

/-- A write to the tail word of a bound device queue loads its tail (R357). -/
theorem tailWordWrite_loads {s : State} {j slot : Nat} {b : BoundQ} {job : Job} {x : List (Byte × Bool)} {u : State}
    (watched : s.cp.tailw.contains (s.arg.ref.pasid.toNat, s.arg.ref.queue.toNat, s.arg.j) = true)
    (stands : resetRuns s s.arg.ref.pasid.toNat s.arg.ref.queue.toNat = false)
    (bound : slotOfQ s s.arg.ref.pasid.toNat s.arg.ref.queue.toNat = some (j, b)) (at' : s.cp.slots.find? (fun p => p.1 == j) = some (j, b))
    (device : qdDev b.desc = true) (owner : jobOf s b.pasid = some (slot, job)) (read : cpAccess s slot b.pasid (qdTailw b.desc) 8 none = .ok x u) :
    exec .tailWordWrite s = .next (setTail u j b (ofBytes (x.map Prod.fst))) := by
  rw [← loadTail_device at' device owner read]
  refine congrArg Host.Outcome.next ((if_neg (by rw [watched, stands]; decide)).trans ?_)
  rw [bound]

/-! ## Fetches -/

section
variable {s : State} {j : Nat} {b : BoundQ}

/-- The packet at the head of a host queue (R358). -/
def fetched (s : State) (b : BoundQ) : CpPacket := cpPacketOf (hostRead s (qdRing b.desc + 64 * (b.head % 2 ^ qdLsz b.desc)) 64)

/-- The turn passed on from slot `j` (R357). -/
def turnPassed (s : State) (j : Nat) : State := modCp s (fun c => { c with rr := (j + 1) % 64 })

/-- The head count of slot `j`'s queue written, and the turn passed on (R358). -/
def headWritten (s : State) (j : Nat) (b : BoundQ) : State :=
  hostWrite (turnPassed s j) (qdHeadw b.desc) 8 ((b.head + 1) % 65536)

theorem commandFetch_fetches (bound : s.cp.slots.find? (fun p => p.1 == s.arg.j) = some (j, b)) (runs : b.halted = false)
    (stands : resetRuns s b.pasid b.q = false) (free : b.held = none) (direct : b.ind = []) (some : b.head ≠ b.tail)
    (alone : (openCmds s (cmdRef b.pasid b.q)).any (fun c => cpOp c.p == 0x04) = false) (host : qdDev b.desc = false) :
    exec .commandFetch s = .next (startFetched (headWritten s j b) j { b with head := (b.head + 1) % 65536, idle := ptp s } (fetched s b)) := by
  refine congrArg Host.Outcome.next ?_
  simp only [bound]
  have halted : ¬((b.halted || resetRuns (turnPassed s j) b.pasid b.q) = true) := by
    rw [runs, show resetRuns (turnPassed s j) b.pasid b.q = false from stands]
    decide
  have stuck : ¬(b.head = b.tail ∨ (openCmds (turnPassed s j) (cmdRef b.pasid b.q)).any (fun c => cpOp c.p == 0x04) = true) := by
    rw [show openCmds (turnPassed s j) (cmdRef b.pasid b.q) = openCmds s (cmdRef b.pasid b.q) from rfl, alone]
    exact not_or.mpr ⟨some, Bool.false_ne_true⟩
  refine (if_neg halted).trans ?_
  rw [free, direct]
  refine (if_neg stuck).trans ?_
  rw [host]
  simp only [qRead_host, qRead_bytes, qWrite, Bool.not_false, if_true]
  rfl

/-- A fetched packet of an assigned opcode is held, and its queue's head count written (R358, R360). -/
theorem startFetched_holds {p : CpPacket} (assigned : opAssigned (cpOp p) = true) (s : State) (j : Nat) (b : BoundQ) :
    startFetched s j b p = putSlot s j { b with held := some p } := if_neg (by rw [assigned, Bool.not_true, Bool.false_and]; exact Bool.false_ne_true)

/-- A fetched packet of no opcode completes REJECT (R360). -/
theorem startFetched_rejects {p : CpPacket} (unassigned : opAssigned (cpOp p) = false) (unfenced : fenced s (cmdRef b.pasid b.q) p = false) (j : Nat) :
    startFetched s j b p = modCp (putSlot s j { b with held := none }) (fun c => { c with
      nextId := c.nextId + 1, recs := c.recs ++ [cpRec { s with arg := { s.arg with cp := p } } b 1 0] }) :=
  if_pos (by rw [unassigned, unfenced]; rfl)

theorem headWritten_count (s : State) (j : Nat) (b : BoundQ) : hostNum (headWritten s j b) (qdHeadw b.desc) 8 = (b.head + 1) % 65536 :=
  (hostNum_hostWrite ..).trans (Nat.mod_eq_of_lt (by omega))

end

/-! ## Completion records -/

/-- A completion record that its 16 bytes hold (R359). -/
theorem record_fits {r : CpRec} (val : r.val < 2 ^ 64) (tag : r.tag < 2 ^ 32) (st : r.st < 256) : r.val * 2 ^ 64 + r.tag * 2 ^ 32 + r.st < 256 ^ 16 := by
  omega

/-- A record's vector raised, where it has one (R359). -/
def irqRaised (irq : Option Nat) (t : State) : State := match irq with | some w => raiseMsi t w | none => t

theorem irqRaised_eq (irq : Option Nat) (t : State) : irqRaised irq t =
    modCp t (fun c => { c with msix := match irq with | some w => c.msix ||| BitVec.ofNat 64 (2 ^ (w % 64)) | none => c.msix }) := by
  cases irq <;> rfl

/-- A record that has left the list of records to be written. -/
def recTaken (s : State) : State := modCp s (fun x => { x with recs := x.recs.eraseIdx s.arg.j })

/-- A record of no address is not written, and its vector is raised (R359). -/
theorem completionRecordWrite_drops {s : State} {r : CpRec} (listed : s.cp.recs[s.arg.j]? = some r) (none : r.addr = 0) :
    exec .completionRecordWrite s = .next (irqRaised r.irq (recTaken s)) := by
  refine congrArg Host.Outcome.next ?_
  simp only [listed]
  refine (if_pos none).trans ?_
  cases r.irq <;> rfl

/-- A host queue's record is one write of 16 bytes, and its vector is raised (R359). -/
theorem completionRecordWrite_writes {s : State} {r : CpRec} (listed : s.cp.recs[s.arg.j]? = some r) (some : r.addr ≠ 0) (host : r.dev = false) :
    exec .completionRecordWrite s = .next (irqRaised r.irq (hostWrite (recTaken s) r.addr 16 (r.val * 2 ^ 64 + r.tag * 2 ^ 32 + r.st))) := by
  refine congrArg Host.Outcome.next ?_
  simp only [listed]
  refine (if_neg some).trans ?_
  rw [host]
  cases r.irq <;> rfl

/-! ## Queues that are freed and bound again -/

/-- A host queue of no slot that is bound again, with its packets of an INDIRECT (R357). -/
def rebound (s : State) (pasid q a : Nat) (x : BitVec 512) (ind : List CpPacket) : BoundQ :=
  { pasid := pasid, q := q, desc := x, at0 := a, head := qdHead x, tail := qdHead x, halted := false, idle := ptp s, ind := ind, held := none }

/-- A parked queue that is bound again: its descriptor says so, and its WAIT completes (R357, R363). -/
def wakes (s : State) (pasid q a : Nat) (x : BitVec 512) : State :=
  writeBack (modCp s (fun c => { c with parked := c.parked.filter (fun p => !(p.pasid == pasid && p.q == q)) })) a (qdHead x) none

/-- The record of the WAIT of a parked queue. -/
def waitRec (s : State) (b : BoundQ) (p : CpPacket) : CpRec :=
  { dev := qdDev b.desc, job := ((jobOf s b.pasid).map Prod.fst).getD 1024, addr := p.q7.toNat, tag := bits p.q0.toNat 32 32, st := 0, val := 0 % 2 ^ 64
    irq := if bit p.q0.toNat 14 && !qdDev b.desc then some (qdVec b.desc) else none, r := cmdRef b.pasid b.q }

theorem bindTo_parked {s : State} {i pasid q a : Nat} {x : BitVec 512} {p : Parked}
    (parked : s.cp.parked.find? (fun p => p.pasid == pasid && p.q == q) = some p) (host : qdDev x = false) :
    bindTo s i pasid q a x = loadTail (modCp (putSlot (wakes s pasid q a x) i (rebound s pasid q a x p.ind))
      (fun c => { c with recs := c.recs ++ [waitRec (putSlot (wakes s pasid q a x) i (rebound s pasid q a x p.ind)) (rebound s pasid q a x p.ind) p.pkt] })) i := by
  simp only [bindTo, host, Bool.false_eq_true, if_false, parked]
  rfl

/-- A host queue that comes back from parking stands where it was parked, and its WAIT completes (R357, R363). -/
theorem bindTo_wakes {s : State} {i pasid q a : Nat} {x : BitVec 512} {p : Parked}
    (parked : s.cp.parked.find? (fun p => p.pasid == pasid && p.q == q) = some p) (host : qdDev x = false)
    (fits : (sget (qdHead x) s.cp.tails (refKey pasid q) % 65536 + 65536 - qdHead x) % 65536 ≤ 2 ^ qdLsz x) :
    ∃ z, (bindTo s i pasid q a x).cp.parked = s.cp.parked.filter (fun p => !(p.pasid == pasid && p.q == q)) ∧
      (∀ d, (sget d (bindTo s i pasid q a x).cp.slots i).pasid = pasid ∧ (sget d (bindTo s i pasid q a x).cp.slots i).q = q ∧
        (sget d (bindTo s i pasid q a x).cp.slots i).desc = x ∧ (sget d (bindTo s i pasid q a x).cp.slots i).head = qdHead x) ∧
      (bindTo s i pasid q a x).cp.recs = s.cp.recs ++ [z] ∧ z.st = 0 ∧ z.tag = bits p.pkt.q0.toNat 32 32 ∧ z.addr = p.pkt.q7.toNat ∧
      bit (rdByte (bindTo s i pasid q a x).host.cells a).toNat 3 = false := by
  have mark : bit (rdByte (wakes s pasid q a x).host.cells a).toNat 3 = false := writeBack_parked _ a (qdHead x) none
  have cp : (wakes s pasid q a x).cp = { s.cp with parked := s.cp.parked.filter (fun p => !(p.pasid == pasid && p.q == q)) } := by
    obtain ⟨h, written⟩ := writeBack_eq (modCp s (fun c => { c with parked := c.parked.filter (fun p => !(p.pasid == pasid && p.q == q)) })) a (qdHead x) none
    rw [wakes, written]
    rfl
  rw [bindTo_parked parked host]
  generalize wakes s pasid q a x = u at cp mark
  rw [loadTail_host (b := rebound s pasid q a x p.ind) (find?_sput ..) host]
  generalize record : waitRec _ _ p.pkt = z
  have tails : sget (qdHead x) u.cp.tails (refKey pasid q) = sget (qdHead x) s.cp.tails (refKey pasid q) := by rw [cp]
  rw [← tails] at fits
  obtain ⟨n, loads⟩ := setTail_fits (s := modCp (putSlot u i (rebound s pasid q a x p.ind)) (fun c => { c with recs := c.recs ++ [z] })) (j := i)
    (b := rebound s pasid q a x p.ind) rfl fits
  generalize final : setTail _ i (rebound s pasid q a x p.ind) _ = t
  have bound : t = putSlot (modCp (putSlot u i (rebound s pasid q a x p.ind)) (fun c => { c with recs := c.recs ++ [z] })) i
    { rebound s pasid q a x p.ind with tail := sget (qdHead x) u.cp.tails (refKey pasid q) % 65536, idle := n } := final.symm.trans loads
  refine ⟨z, ?_, fun d => ?_, ?_, by rw [← record]; rfl, by rw [← record]; rfl, by rw [← record]; rfl, ?_⟩
  · rw [bound]
    exact congrArg Cp.parked cp
  · rw [bound, sget_putSlot]
    exact ⟨rfl, rfl, rfl, rfl⟩
  · rw [bound]
    show u.cp.recs ++ [z] = _
    rw [cp]
  · rw [bound]
    exact mark

/-- A walk changes host memory alone (R357). -/
theorem walkQueue_cp (s : State) (pasid q : Nat) : (walkQueue s pasid q).2.cp = s.cp := by
  unfold walkQueue
  dsimp only
  split_ifs <;> rfl

section
variable {s : State} {pasid q i : Nat} (unasked : s.cp.binds = []) (free : freeSlot s = some i)
include unasked free

/-- A queue asks for a slot while no other does and one is free: its table is walked, and it is bound or its walk fails (R357). -/
theorem askBind_walks : askBind s pasid q = match walkQueue s pasid q with
    | (.found a d, t) => bindTo t i pasid q a d
    | (w, t) => walkFails t pasid q w := by
  have back : modCp (modCp s (fun c => { c with binds := c.binds ++ [(pasid, q)] })) (fun c => { c with binds := [] }) = s := by
    show ({ s with cp := { s.cp with binds := [] } } : State) = s
    rw [← unasked]
  have asked : (modCp s (fun c => { c with binds := c.binds ++ [(pasid, q)] })).cp.binds = [(pasid, q)] := by
    show s.cp.binds ++ [(pasid, q)] = _
    rw [unasked]
    rfl
  rw [askBind, if_neg (by rw [unasked]; exact Bool.false_ne_true), bindAny, asked]
  show bindNext 1 _ = _
  rw [bindNext, asked, show freeSlot (modCp s _) = freeSlot s from rfl, free]
  dsimp only
  rw [back]
  rfl

end

/-- The queue of this event is parked, and asks for a slot once its condition has held (R363). -/
theorem waitWakeup_asks {s : State} {p : Parked}
    (parked : s.cp.parked.find? (fun p => p.pasid == s.arg.ref.pasid.toNat && p.q == s.arg.ref.queue.toNat) = some p) (met : p.met = true)
    (unheld : doorHeld s s.arg.ref.pasid.toNat s.arg.ref.queue.toNat = false) :
    exec .waitWakeup s = .next (askBind s s.arg.ref.pasid.toNat s.arg.ref.queue.toNat) := by
  refine congrArg Host.Outcome.next ?_
  simp only [parked]
  exact if_pos (by rw [met, unheld]; rfl)

/-- A doorbell that is held is the doorbell of its queue (R357). -/
theorem doorHeld_walkFails (s : State) {pasid q : Nat} (small : pasid < 2 ^ 20) (queue : q < 2 ^ 6) : doorHeld (walkFails s pasid q .away) pasid q = true := by
  refine List.any_eq_true.mpr ⟨_, List.mem_append.mpr (.inr (List.mem_singleton.mpr rfl)), ?_⟩
  rw [BitVec.toNat_ofNat, beq_iff_eq]
  omega

/-- A queue that has been empty for 64 microseconds leaves its slot (R357). -/
theorem queueUnbind_frees {s : State} {j : Nat} {b : BoundQ} (bound : s.cp.slots.find? (fun p => p.1 == s.arg.j) = some (j, b)) (empty : b.head = b.tail)
    (runs : b.halted = false) (direct : b.ind = []) (free : b.held = none) (idle : b.idle + 64000 ≤ ptp s) :
    exec .queueUnbind s = .next (unbindSlot s j b none) := by
  refine congrArg Host.Outcome.next ?_
  simp only [bound]
  exact if_neg (by simp [empty, runs, direct, free, idle])

/-- Nothing that is taken off a list is on it. -/
theorem any_filter_not {α : Type} (l : List α) (f : α → Bool) : (l.filter (fun p => !f p)).any f = false := by
  refine List.any_eq_false.mpr fun p listed found => ?_
  exact absurd (List.mem_filter.mp listed).2 (by simp [found])

/-! ## Resets -/

/-- What the start of a reset leaves of the started commands of its queue (R367). -/
def resetCmds (r : CmdRef) (l : List CpCmd) : List CpCmd :=
  (l.filter (fun d => !(d.r == r && cpOp d.p == 0x04))).map (fun d => if d.r = r ∧ (cpOp d.p = 0x20 ∨ cpOp d.p = 0x21) then { d with abort := true } else d)

/-- The start of a reset keeps no LAUNCH where there was none (R367). -/
theorem resetCmds_launches {r : CmdRef} {l : List CpCmd} (none : (l.filter (fun c => c.r == r && !c.quiet)).any (fun c => cpOp c.p == 0x01) = false) :
    ((resetCmds r l).filter (fun c => c.r == r && !c.quiet)).filter (fun c => cpOp c.p == 0x01) = [] := by
  refine List.filter_eq_nil_iff.mpr fun c listed launch => ?_
  obtain ⟨listed, open'⟩ := List.mem_filter.mp listed
  obtain ⟨d, kept, rfl⟩ := List.mem_map.mp listed
  have same : ∀ e : CpCmd, e = (if d.r = r ∧ (cpOp d.p = 0x20 ∨ cpOp d.p = 0x21) then { d with abort := true } else d) → e.p = d.p ∧ e.r = d.r ∧ e.quiet = d.quiet := by
    rintro e rfl
    split <;> exact ⟨rfl, rfl, rfl⟩
  obtain ⟨packet, ref, quiet⟩ := same _ rfl
  rw [packet] at launch
  rw [ref, quiet] at open'
  exact Bool.false_ne_true (none.symm.trans (List.any_eq_true.mpr ⟨d, List.mem_filter.mpr ⟨(List.mem_filter.mp kept).1, open'⟩, launch⟩))

/-- A reset with no LAUNCH of its queue discards no staged context (R367). -/
theorem foldl_resetLaunch_none {s t : State} {r : CmdRef} (same : s = t) (none : (openCmds t r).filter (fun c => cpOp c.p == 0x01) = []) :
    ((openCmds s r).filter (fun c => cpOp c.p == 0x01)).foldl resetLaunch s = t := by
  rw [same, none]
  rfl

/-- A queue whose reset has begun (R367). -/
def resetBegun (s : State) (pasid q : Nat) : State := modCp s (fun c => { c with
  qreset := BitVec.ofNat 64 (s.arg.v.toNat / 2 ^ 38 * 2 ^ 38)
  resetting := c.resetting ++ [(pasid, q)]
  binds := c.binds.filter (fun p => p != (pasid, q))
  parked := c.parked.filter (fun p => !(p.pasid == pasid && p.q == q))
  cmds := resetCmds (cmdRef pasid q) c.cmds })

section
variable {s : State} {j pasid q : Nat} {b : BoundQ} (ready : s.svc.ready = true) (at1 : pasid = bits s.arg.v.toNat 44 20) (at2 : q = bits s.arg.v.toNat 38 6)
  (bound : slotOfQ s pasid q = some (j, b))
include ready at1 at2 bound

theorem queueReset_begins (stands : resetRuns s pasid q = false) (asked : bit s.arg.v.toNat 0 = true)
    (none : (openCmds s (cmdRef pasid q)).any (fun c => cpOp c.p == 0x01) = false) :
    exec .queueReset s = .next (putSlot (resetBegun s pasid q) j { b with held := .none, ind := [], halted := true }) := by
  subst at1 at2
  refine congrArg Host.Outcome.next ?_
  dsimp only
  rw [if_neg (by rw [ready]; decide), if_neg (by rw [stands]; decide), if_neg (by rw [asked]; decide)]
  refine foldl_resetLaunch_none ?_ (resetCmds_launches none)
  rw [show slotOfQ (modCp s _) _ _ = slotOfQ s _ _ from rfl, bound] <;> rfl

/-- A reset ends with its queue's slot free and its head zero (R367). -/
theorem queueReset_ends (runs : resetRuns s pasid q = true) (none : openCmds s (cmdRef pasid q) = [])
    (written : s.cp.recs.any (fun x => x.r == cmdRef pasid q) = false) :
    exec .queueReset s = .next (unbindSlot (modCp s (fun c => { c with
      resetting := c.resetting.filter (fun p => p != (pasid, q)), tails := serase c.tails (refKey pasid q) })) j { b with head := 0 } .none) := by
  subst at1 at2
  refine congrArg Host.Outcome.next ?_
  dsimp only
  rw [if_neg (by rw [ready]; decide), if_pos runs, if_pos (by rw [none, written]; rfl), resetEnd]
  rw [show slotOfQ (modCp s _) _ _ = slotOfQ s _ _ from rfl, bound]

end

/-! ## The statement -/

/-- Settles O40: each event of a queue does one change of its slot, of its descriptor or of its place in the lists, which the lemmas above
state. -/
theorem commandQueues : Obligations.CommandQueues := by
  unfold Obligations.CommandQueues
  intro s j b v size parked
  have pasidSmall : s.arg.ref.pasid.toNat < 2 ^ 20 := s.arg.ref.pasid.isLt
  have queueSmall : s.arg.ref.queue.toNat < 2 ^ 6 := s.arg.ref.queue.isLt
  have low : bits v 0 16 % 65536 = bits v 0 16 := Nat.mod_eq_of_lt (Nat.mod_lt _ (by norm_num))
  refine ⟨fun i => bar0_signal s, hostRegisterWrite_qroot, fun ready valid stands bound slot host runs pasid queue => ?_, fun ready valid stands unbound wakes => ?_,
    fun slot job x u => ?_, fun bound runs stands free direct some alone host => ?_, fun r listed val tag st host => ?_,
    fun bound empty runs direct free idle unasked => ?_, fun p i => ?_, fun ready stands asked bound none => ?_, fun ready runs none written bound unasked => ?_⟩
  · have loads := doorbell_loads ready valid stands bound slot host pasid queue
    refine ⟨fun fits => ?_, fun long => ?_⟩
    · obtain ⟨i, fitted⟩ := setTail_fits (s := doorRung s) (j := j) (b := b) (tail := bits v 0 16) runs (by rw [low]; exact fits)
      rw [low] at fitted
      exact ⟨_, i, loads.trans (congrArg Host.Outcome.next fitted), fun d => sget_putSlot .., rfl, .of_eq rfl rfl rfl⟩
    · obtain ⟨r, halted, recs, st, tag, memory⟩ := setTail_halts (s := doorRung s) (j := j) (b := b) (tail := bits v 0 16) host runs (by rw [low]; exact long)
      exact ⟨_, r, loads, halted, recs, st, tag, memory⟩
  · intro e
    have walks := doorbell_walks ready valid stands unbound wakes
    refine ⟨fun invalid => ?_, fun valid absent => ?_⟩
    · rw [ringUnbound_gone (s := doorRung s) _ invalid] at walks
      exact ⟨_, walks, rfl, rfl, .of_eq rfl rfl rfl⟩
    · rw [ringUnbound_away (s := doorRung s) _ valid absent] at walks
      exact ⟨_, walks, rfl, rfl, List.mem_append.mpr (.inr (List.mem_singleton.mpr rfl)), rfl, .of_eq rfl rfl rfl⟩
  · intro p watched stands bound slot' device runs owner read fits
    obtain ⟨i, fitted⟩ := setTail_fits (s := u) (j := j) (b := b) (tail := ofBytes (x.map Prod.fst)) runs fits
    exact ⟨_, i, (tailWordWrite_loads watched stands bound slot' device owner read).trans (congrArg Host.Outcome.next fitted), fun d => sget_putSlot ..⟩
  · intro p b1
    have fetches := commandFetch_fetches bound runs stands free direct some alone host
    refine ⟨fun assigned => ?_, fun unassigned unfenced => ?_⟩
    · have holds := fetches.trans (congrArg Host.Outcome.next (startFetched_holds (p := fetched s b) assigned _ j _))
      exact ⟨_, holds, fun d => sget_putSlot .., headWritten_count s j b, rfl, rfl, rfl⟩
    · have rejects := fetches.trans (congrArg Host.Outcome.next (startFetched_rejects (s := headWritten s j b) (b := b1) (p := fetched s b) unassigned unfenced j))
      exact ⟨_, rejects, fun d => sget_putSlot .., headWritten_count s j b, rfl, rfl⟩
  · by_cases none : r.addr = 0
    · have drops := completionRecordWrite_drops listed none
      rw [irqRaised_eq] at drops
      exact ⟨_, drops, rfl, rfl, fun _ => .of_eq rfl rfl rfl, fun some => absurd none some⟩
    · have writes := completionRecordWrite_writes listed none (host.resolve_left none)
      rw [irqRaised_eq] at writes
      refine ⟨_, writes, rfl, rfl, fun zero => absurd zero none, fun _ => ⟨?_, fun x outside => rdByte_hostWrite_outside (recTaken s) outside⟩⟩
      exact (hostNum_hostWrite (recTaken s) ..).trans (Nat.mod_eq_of_lt (record_fits val tag st))
  · obtain ⟨cp, head, mark⟩ := unbindSlot_frees unasked j b none
    refine ⟨_, queueUnbind_frees bound empty runs direct free idle, fun p listed => ?_, head, mark⟩
    rw [cp] at listed
    exact ne_of_mem_serase listed
  · intro r parks met unasked free unheld
    have asks := waitWakeup_asks parks met unheld
    rw [askBind_walks unasked free] at asks
    have cp := walkQueue_cp s r.pasid.toNat r.queue.toNat
    refine ⟨fun a x u found host fits => ?_, fun u away => ?_⟩
    · rw [found] at asks cp
      dsimp only at asks cp
      obtain ⟨z, gone, stands, recs, st, tag, addr, mark⟩ := bindTo_wakes (s := u) (i := i) (a := a) (by rw [cp]; exact parks) host (by rw [cp]; exact fits)
      refine ⟨_, z, asks, ?_, stands, by rw [recs, cp], st, tag, addr, mark⟩
      exact (congrArg (fun l : List Parked => l.any _) gone).trans (any_filter_not ..)
    · rw [away] at asks cp
      dsimp only at asks cp
      exact ⟨_, asks, show u.cp.parked = _ by rw [cp], show u.cp.slots = _ by rw [cp], doorHeld_walkFails u pasidSmall queueSmall, show u.cp.msix ||| 1 = _ by rw [cp]⟩
  · refine ⟨_, queueReset_begins ready rfl rfl bound stands asked none, ?_, any_filter_not .., fun d => sget_putSlot .., rfl, rfl, .of_eq rfl rfl rfl⟩
    exact List.contains_iff_mem.mpr (List.mem_append.mpr (.inr (List.mem_singleton.mpr rfl)))
  · obtain ⟨cp, head, -⟩ := unbindSlot_frees (s := modCp s (fun c => { c with
      resetting := c.resetting.filter (fun p => p != (bits v 44 20, bits v 38 6)), tails := serase c.tails (refKey (bits v 44 20) (bits v 38 6)) }))
      unasked j { b with head := 0 } .none
    refine ⟨_, queueReset_ends ready rfl rfl bound runs none written, ?_, fun p listed => ?_, head⟩
    · rw [resetRuns, cp]
      refine Bool.eq_false_iff.mpr fun listed => ?_
      exact absurd (List.mem_filter.mp (List.contains_iff_mem.mp listed)).2 (by simp)
    · rw [cp] at listed
      exact ne_of_mem_serase listed

end Sys2Proof.Machine
end

section
/-! PROOFS. What a Lantern core's words look at, with the errors of their fetch met or not (spec 03 R44, R47; 17 R313). -/

namespace Sys2Proof.Machine

/-! ## Errors in a code store -/

/-- A cluster whose Lantern core's CSRs are `r`. -/
def reCsr (r : SMap W64) (c : Cluster) : Cluster := { c with lan := { c.lan with core := { c.lan.core with csr := r } } }

/-- Between `s` and `t` no more changes than the error codes of code stores, and what counts them in the Lantern cores. -/
structure CodeMet (s t : State) : Prop where
  frame : ∃ M C, t = { s with chip := { s.chip with mem := M, clusters := C } }
  cl : ∀ k, ∃ r, getCl t k = reCsr r (getCl s k)
  csr : ∀ k n, n ≠ 0xC0 → n ≠ 0xC1 → rdCsr (getCl t k).lan.core n = rdCsr (getCl s k).lan.core n
  cells : t.chip.mem.cells = s.chip.mem.cells
  psn : ∀ sec, sec < codeBase 0 / 32 → psnSec t.chip.mem sec = psnSec s.chip.mem sec

theorem CodeMet.refl (s : State) : CodeMet s s :=
  ⟨⟨s.chip.mem, s.chip.clusters, rfl⟩, fun _ => ⟨_, rfl⟩, fun _ _ _ _ => rfl, rfl, fun _ _ => rfl⟩

/-- Sectors that a read does not meet are poisoned as they were (R47). -/
theorem psnSec_touch (m : MemSt) {a n sec : Nat} (before : sec < a / 32) : psnSec (touch m a n).1 sec = psnSec m sec := by
  have apart : (decide (a / 32 ≤ sec) && decide (sec ≤ (a + n - 1) / 32)) = false := by simp [Nat.not_le.mpr before]
  unfold touch
  dsimp only
  split
  · rfl
  split
  · rfl
  have poison : sget false ((((m.errs.filter (fun p => (decide (a / 32 ≤ p.1) && decide (p.1 ≤ (a + n - 1) / 32)) && !sget false m.poison p.1)).filter
      (fun p => p.2 == .unc)).foldl (fun x p => sset false x p.1 true) m.poison)) sec = sget false m.poison sec := by
    refine foldl_keeps_of_mem _ (fun x => sget false x sec) _ (fun x p listed => ?_) _
    have inside := (Bool.and_eq_true .. ▸ (List.mem_filter.mp (List.mem_filter.mp listed).1).2).1
    refine sget_sset_ne _ _ _ _ _ _ fun here => ?_
    rw [← here, apart] at inside
    exact Bool.false_ne_true inside
  have errs := sget_filter_key Err.none m.errs (fun k => !(decide (a / 32 ≤ k) && decide (k ≤ (a + n - 1) / 32))) sec
  rw [apart, Bool.not_false, if_pos rfl] at errs
  have lost : (m.lost.map (fun p => if (decide (a / 32 ≤ p.1) && decide (p.1 ≤ (a + n - 1) / 32)) = true then (p.1, true) else p)).any (fun p => p.1 == sec) =
      m.lost.any (fun p => p.1 == sec) := by
    rw [List.any_map]
    refine congrArg (List.any m.lost) (funext fun p => ?_)
    simp only [Function.comp_apply]
    split <;> rfl
  simp only [psnSec, poison, errs, lost]

theorem rdCsr_wrCsr_ne (c : Core) {n k : Nat} (v : W64) (ne : n ≠ k) : rdCsr (wrCsr c k v) n = rdCsr c n := sget_sset_ne _ _ _ _ _ _ ne

/-- A read of a code store meets its errors. -/
theorem codeMet_touchChip (s : State) {a : Nat} (code : codeBase 0 ≤ a) (n : Nat) : CodeMet s (touchChip s a n) := by
  have psn : ∀ sec, sec < codeBase 0 / 32 → psnSec (touch s.chip.mem a n).1 sec = psnSec s.chip.mem sec := fun sec before =>
    psnSec_touch _ (Nat.lt_of_lt_of_le before (Nat.div_le_div_right code))
  have cells : (touch s.chip.mem a n).1.cells = s.chip.mem.cells := touch_cells ..
  rw [touchChip]
  generalize touch s.chip.mem a n = r at psn cells ⊢
  obtain ⟨mem, ce, ue⟩ := r
  have quiet : CodeMet s (modChip s fun c => { c with mem := mem }) :=
    ⟨⟨mem, s.chip.clusters, rfl⟩, fun _ => ⟨_, rfl⟩, fun _ _ _ _ => rfl, cells, psn⟩
  show CodeMet s (countErr (modChip s fun c => { c with mem := mem }) a ce ue)
  unfold countErr
  dsimp only
  split
  · exact quiet
  rw [if_neg (fun unit => absurd code (Nat.not_le.mpr unit.2))]
  refine ⟨⟨mem, _, rfl⟩, fun k => ?_, fun k n ce' ue' => ?_, cells, psn⟩
  · rw [modCore, modLan, getCl_modCl]
    split
    · next own =>
      rw [own]
      exact ⟨_, rfl⟩
    · exact ⟨_, rfl⟩
  · rw [modCore, modLan, getCl_modCl]
    split
    · next own =>
      rw [own]
      exact (rdCsr_wrCsr_ne _ _ ue').trans (rdCsr_wrCsr_ne _ _ ce')
    · rfl

theorem codeMet_wordFound (s : State) (m : Nat) : CodeMet s (wordFound s m) := by
  unfold wordFound
  dsimp only
  split
  · exact .refl s
  · exact codeMet_touchChip s (by unfold codeBase; omega) 4

/-! ## What a word comes to -/

/-- What decides whether a word traps, waits or goes on. -/
def face (o : SlotOut) : Option Nat × Bool × Ctl × List Nat × List Nat × Bool × Option (Nat × Nat) × Option (BitVec 16) × Chk × Option (Nat × Nat) :=
  (o.bad, o.xfer, o.ctl, o.reads, o.gate, o.tag, o.fence, o.tw, o.chk, o.trap)

/-- A meaning whose word comes to the same whether or not a code store's errors are met. -/
def Blind (f : Sem) : Prop := ∀ s t m, CodeMet s t → face (f (lanView t m)) = face (f (lanView s m))

section
variable {s t : State} (met : CodeMet s t)
include met

theorem CodeMet.partMod : t.partMod = s.partMod := by obtain ⟨-, -, rfl⟩ := met.frame; rfl

theorem CodeMet.hm (k : Nat) : hm (getCl t k).lan.core = hm (getCl s k).lan.core := congrArg (fun v : W64 => bit v.toNat 31) (met.csr k 0xA1 (by decide) (by decide))

theorem CodeMet.xferAt (k : Nat) : xferAt t k = xferAt s k := by obtain ⟨-, -, rfl⟩ := met.frame; rfl
theorem CodeMet.accAt : accAt t = accAt s := by obtain ⟨-, -, rfl⟩ := met.frame; rfl
theorem CodeMet.whereLia (a : Nat) : whereLia t a = whereLia s a := by obtain ⟨-, -, rfl⟩ := met.frame; rfl
theorem CodeMet.getUnit (k : Nat) : getUnit t k = getUnit s k := by obtain ⟨-, -, rfl⟩ := met.frame; rfl
theorem CodeMet.inRegion (g : Agent) (sc : Nat) (l : List Where) : inRegion t g sc l = inRegion s g sc l := by obtain ⟨-, -, rfl⟩ := met.frame; rfl
theorem CodeMet.runPend (k : Nat) : runPend t k = runPend s k := by obtain ⟨-, -, rfl⟩ := met.frame; rfl

theorem CodeMet.clEngines (m : Nat) : clEngines t m = clEngines s m := by
  obtain ⟨r, hr⟩ := met.cl m
  simp only [Machine.clEngines, met.getUnit, hr, reCsr]

theorem CodeMet.pends (m : BitVec 5) : pends t (.lantern m) = pends s (.lantern m) := by
  obtain ⟨r, hr⟩ := met.cl m.toNat
  simp only [Machine.pends, portPend, met.clEngines, met.getUnit, met.xferAt, met.accAt, met.whereLia, met.partMod, hr, reCsr, met.runPend]

theorem CodeMet.fenceHeld (m : BitVec 5) (sc ks : Nat) : fenceHeld t (.lantern m) sc ks = fenceHeld s (.lantern m) sc ks := by
  simp only [Machine.fenceHeld, met.pends, met.inRegion]

/-- A word waits as it does (R68, R74, R76, R79). -/
theorem CodeMet.lanHeld {o o' : SlotOut} (same : face o' = face o) (m : Nat) : lanHeld t m o' = lanHeld s m o := by
  simp only [face, Prod.mk.injEq] at same
  obtain ⟨-, -, -, reads, gate, tag, fence, tw, -, -⟩ := same
  obtain ⟨r, hr⟩ := met.cl m
  have hm := met.hm m
  simp only [Machine.lanHeld, reads, gate, tag, fence, met.fenceHeld, lanWaits, lanTw, tw, hm]
  simp only [hr]
  rfl

/-- A word traps as it does (R176, R268). -/
theorem CodeMet.lanCause {o o' : SlotOut} (same : face o' = face o) (m : Nat) (own : Option Nat) : lanCause t m own o' = lanCause s m own o := by
  have held := met.lanHeld same m
  simp only [face, Prod.mk.injEq] at same
  obtain ⟨bad, xfer, ctl, -, -, -, -, -, chk, trap⟩ := same
  obtain ⟨r, hr⟩ := met.cl m
  have hm := met.hm m
  simp only [Machine.lanCause, held, bad, xfer, ctl, chk, trap, hm]
  simp only [hr]
  rfl

end

/-! ## Words that look at registers -/

@[simp] theorem lanView_lan (s : State) (m : Nat) : (lanView s m).lan = true := rfl
@[simp] theorem lanView_size (s : State) (m : Nat) : (lanView s m).size = clSize := rfl
@[simp] theorem lanView_g (s : State) (m : Nat) : (lanView s m).g = .lantern (BitVec.ofNat 5 m) := rfl
@[simp] theorem lanView_s (s : State) (m : Nat) : (lanView s m).s = s := rfl

theorem blind_alu (d : Reg) (rs : List Reg) (lat : Nat) (f : View → W64) : Blind (aluOut d rs lat f) := fun _ _ _ _ => by
  simp only [aluOut, face]

theorem blind_div (d a b : Reg) (f : W64 → W64 → W64) : Blind (aluDiv d a b f) := fun _ _ _ _ => by
  simp only [aluDiv, alu2, aluOut, face]

theorem blind_unit (f : Sem) : Blind (unitOnly f) := fun _ _ _ _ => by
  simp only [unitOnly, lanView_lan, if_true]

section
variable {s t : State} (met : CodeMet s t) (m : Nat)
include met

theorem CodeMet.sr (a : Reg) : (lanView t m).sr a = (lanView s m).sr a := by
  obtain ⟨r, hr⟩ := met.cl m
  simp only [lanView, View.sr, hr]
  rfl

theorem CodeMet.meta' (h : Nat) : hmeta (lanView t m).core h = hmeta (lanView s m).core h := by
  obtain ⟨r, hr⟩ := met.cl m
  simp only [lanView, hr]
  rfl

theorem CodeMet.regPsn (a : Reg) : regPsn (lanView t m) a = regPsn (lanView s m) a := congrArg Meta.poison (met.meta' m _)

theorem CodeMet.dPsn (n : BitVec 4) : dPsn (lanView t m) n = dPsn (lanView s m) n := congrArg Meta.poison (met.meta' m _)

theorem CodeMet.smemOff (a : Reg) (i : Int) : smemOff (lanView t m) a i = smemOff (lanView s m) a i := by
  simp only [Machine.smemOff, met.sr]

theorem CodeMet.descAddr (a : Reg) (i : BitVec 14) : descAddr (lanView t m) a i = descAddr (lanView s m) a i := by
  simp only [Machine.descAddr, met.sr]

theorem CodeMet.addr : (lanView t m).addr = (lanView s m).addr := by
  obtain ⟨r, hr⟩ := met.cl m
  simp only [lanView, hr]
  rfl

theorem CodeMet.psnRegs (l : List Reg) : psnRegs (lanView t m) l = psnRegs (lanView s m) l := by
  simp only [Machine.psnRegs, met.regPsn]

end

theorem blind_load (d a : Reg) (imm : BitVec 14) (n : Nat) (ext : Nat → W64) : Blind (loadSem d a imm n ext) := fun s t m met => by
  simp only [loadSem, face, lanView_size]
  rw [met.smemOff]
  congr

theorem blind_store (d a : Reg) (imm : BitVec 14) (n : Nat) : Blind (storeSem d a imm n) := fun s t m met => by
  simp only [storeSem, face, lanView_size, met.regPsn]
  rw [met.smemOff]
  congr

theorem blind_ldm (d a n : BitVec 6) (o : BitVec 8) : Blind (semLdm d a n o) := fun s t m met => by
  simp only [semLdm, face, lanView_size]
  rw [met.smemOff]
  congr

theorem blind_stm (d a n : BitVec 6) (o : BitVec 8) : Blind (semStm d a n o) := fun s t m met => by
  simp only [semStm, face, lanView_size, met.regPsn, met.meta']
  rw [met.smemOff]
  congr

theorem blind_branch (a b : Reg) (o : BitVec 14) (f : W64 → W64 → Bool) : Blind (branchSem a b o f) := fun s t m met => by
  simp only [branchSem, face, met.sr, met.regPsn, met.addr]

theorem blind_jump (d : Reg) (rs : List Reg) {f : View → Int} (same : ∀ s t m, CodeMet s t → f (lanView t m) = f (lanView s m)) :
    Blind (jumpSem d rs f) := fun s t m met => by
  have poison : Machine.regPsn (lanView t m) = Machine.regPsn (lanView s m) := funext (met.regPsn m)
  simp only [jumpSem, face, same s t m met, poison]

theorem CodeMet.joinSource {s t : State} (met : CodeMet s t) (m k y : Nat) : joinSource (lanView t m) k y = joinSource (lanView s m) k y := by
  simp only [Machine.joinSource, lanView_lan, met.meta']
  rfl

theorem blind_tjoin (x y : BitVec 6) (p q : BitVec 2) : Blind (semTjoin x y p q) := fun s t m met => by
  simp only [semTjoin, lanView_lan, met.joinSource]
  split
  · simp only [face]
  · rfl

theorem blind_tclr (x : BitVec 6) (p : BitVec 2) : Blind (semTclr x p) := fun s t m met => by
  simp only [semTclr, lanView_lan]
  split
  · simp only [face]
  · rfl

theorem blind_twait (c : BitVec 2) (x : BitVec 6) (k : BitVec 16) : Blind (semTwait c x k) := fun s t m met => by
  simp only [semTwait, lanView_lan, met.meta']
  rfl

theorem CodeMet.csrOk {s t : State} (met : CodeMet s t) (m n : Nat) (v : W64) :
    csrOk t (.lantern (BitVec.ofNat 5 m)) (lanView t m).core n v = csrOk s (.lantern (BitVec.ofNat 5 m)) (lanView s m).core n v := by
  have head : ∀ k, ringHead t k = ringHead s k := fun k => congrArg BitVec.toNat (met.csr k 0x143 (by decide) (by decide))
  have tail : ∀ k, ringTail t k = ringTail s k := fun k => congrArg BitVec.toNat (met.csr k 0x142 (by decide) (by decide))
  have long : ∀ k, ringL t k = ringL s k := fun k => congrArg (fun v : W64 => bits v.toNat 0 4) (met.csr k 0x141 (by decide) (by decide))
  have base : rdCsr (lanView t m).core 0x140 = rdCsr (lanView s m).core 0x140 := met.csr m 0x140 (by decide) (by decide)
  simp only [Machine.csrOk]
  rw [head, tail, long, base]

theorem blind_csrr (d : BitVec 6) (c : BitVec 14) : Blind (semCsrr d c) := fun _ _ _ _ => by
  simp only [semCsrr, face, lanView_lan]
  congr

theorem blind_csrw (a : BitVec 6) (c : BitVec 14) : Blind (semCsrw a c) := fun s t m met => by
  simp only [semCsrw, face, lanView_lan, lanView_s, lanView_g, met.csrOk, met.sr, met.regPsn]
  congr

/-! ## Words of the Lantern core alone -/

theorem blind_dset (n : BitVec 4) (a : Reg) (f : Desc → W64 → Desc) : Blind (dsetSem n a f) := fun _ _ _ _ => by
  simp only [dsetSem, lanOnly, lanView_lan, if_true, face]

theorem blind_dget (d : Reg) (n : BitVec 4) (f : Nat → Nat) : Blind (dgetSem d n f) := fun _ _ _ _ => by
  simp only [dgetSem, lanOnly, lanView_lan, if_true, face]

theorem blind_dmov (n k : BitVec 4) : Blind (semDmov n k) := fun _ _ _ _ => by
  simp only [semDmov, lanOnly, lanView_lan, if_true, face]

theorem blind_dld (n : BitVec 4) (a : BitVec 6) (imm : BitVec 14) : Blind (semDld n a imm) := fun s t m met => by
  simp only [semDld, lanOnly, lanView_lan, if_true, face]
  rw [met.descAddr]

theorem blind_dst (n : BitVec 4) (a : BitVec 6) (imm : BitVec 14) : Blind (semDst n a imm) := fun s t m met => by
  simp only [semDst, lanOnly, lanView_lan, if_true, face, met.regPsn, met.psnRegs, met.dPsn]
  rw [met.descAddr]

section
variable {s t : State} (met : CodeMet s t)
include met

theorem CodeMet.rng (k : Nat) : rng (getCl t k).lan.core = rng (getCl s k).lan.core := funext fun i => by
  simp only [Machine.rng]
  rw [met.csr k _ (by omega) (by omega), met.csr k _ (by omega) (by omega), met.csr k _ (by omega) (by omega)]

theorem CodeMet.aperture : aperture t = aperture s := by obtain ⟨-, -, rfl⟩ := met.frame; rfl

theorem CodeMet.translate : translate t = translate s := funext fun k => funext fun va => funext fun n => funext fun kd => by
  unfold Machine.translate
  dsimp only
  rw [met.rng, met.aperture, met.partMod]

theorem CodeMet.reaches : reaches t = reaches s := by obtain ⟨-, -, rfl⟩ := met.frame; rfl

theorem CodeMet.reached (k : Nat) (mat : Bool) (r : Option Nat) : reached t k mat r = reached s k mat r := by
  rw [Machine.reached, met.reaches, Machine.reached]

theorem CodeMet.fullIa : fullIa t = fullIa s := by obtain ⟨-, -, rfl⟩ := met.frame; rfl

theorem CodeMet.operand (k : Nat) : operand t k = operand s k := by
  unfold Machine.operand
  rw [met.translate, met.fullIa]

theorem CodeMet.opReached (k : Nat) (mat : Bool) (va : Nat) (r : Except Nat Nat) : opReached t k mat va r = opReached s k mat va r := by
  unfold Machine.opReached
  rw [met.reaches]

end

theorem blind_ldg (op h n : Nat) (a : Reg) {va : View → Nat} (same : ∀ s t m, CodeMet s t → va (lanView t m) = va (lanView s m)) :
    Blind (ldgSem op h n a va) := fun s t m met => by
  simp only [ldgSem, lanOnly, lanView_lan, if_true, face, lanView_s, lanView_g, met.translate, met.reached, same s t m met]

theorem blind_stg (op n : Nat) (a : Reg) {va : View → Nat} (x : View → Nat) (h : Nat) {px : View → Chk}
    (same : ∀ s t m, CodeMet s t → va (lanView t m) = va (lanView s m)) (poison : ∀ s t m, CodeMet s t → px (lanView t m) = px (lanView s m)) :
    Blind (stgSem op n a va x h px) := fun s t m met => by
  simp only [stgSem, lanOnly, lanView_lan, if_true, face, lanView_s, lanView_g, met.translate, met.reached, met.regPsn, met.psnRegs, same s t m met, poison s t m met]

theorem blind_amog (op : Nat) (d a b : Reg) (cas : Bool) : Blind (amogSem op d a b cas) := fun s t m met => by
  simp only [amogSem, lanOnly, lanView_lan, if_true, face, lanView_s, lanView_g, met.translate, met.reached, met.regPsn, met.psnRegs, met.sr]

theorem blind_lcp (d a b : BitVec 6) : Blind (semLcp d a b) := fun s t m met => by
  simp only [semLcp, lanOnly, lanView_lan, if_true, face, lanView_s, lanView_g, met.operand, met.opReached, met.regPsn, met.psnRegs, met.sr]

/-! ## Tensors, tokens and queries -/

theorem CodeMet.dr {s t : State} (met : CodeMet s t) (m : Nat) (n : BitVec 4) : (lanView t m).dr n = (lanView s m).dr n := by
  obtain ⟨r, hr⟩ := met.cl (BitVec.ofNat 5 m).toNat
  simp only [View.dr, View.core0, lanView_s, lanView_g, Agent.cl, hr]
  rfl

theorem CodeMet.tensorOf {s t : State} (met : CodeMet s t) (k : Nat) : tensorOf t k = tensorOf s k := by
  obtain ⟨r, hr⟩ := met.cl k
  unfold Machine.tensorOf
  rw [hr]
  rfl

theorem CodeMet.tensorLive {s t : State} (met : CodeMet s t) (k i : Nat) : tensorLive (getCl t k) i = tensorLive (getCl s k) i := by
  obtain ⟨r, hr⟩ := met.cl k
  rw [hr]
  rfl

theorem blind_tdecl (n : BitVec 4) (b : Reg) : Blind (tdeclSem n b) := fun s t m met => by
  simp only [tdeclSem, lanOnly, lanView_lan, if_true, face, lanView_s, lanView_g, met.translate, met.tensorOf, met.dr, met.dPsn, met.regPsn, met.psnRegs, met.sr]
  congr

theorem blind_trel (a : Reg) : Blind (trelSem a) := fun s t m met => by
  simp only [trelSem, lanOnly, lanView_lan, if_true, face, lanView_s, lanView_g, met.tensorOf, met.tensorLive, met.regPsn, met.psnRegs, met.sr]
  congr

theorem CodeMet.handleOk {s t : State} (met : CodeMet s t) : handleOk t = handleOk s := by obtain ⟨-, -, rfl⟩ := met.frame; rfl

theorem CodeMet.tokHere {s t : State} (met : CodeMet s t) : tokHere t = tokHere s := by obtain ⟨-, -, rfl⟩ := met.frame; rfl

theorem CodeMet.getTok {s t : State} (met : CodeMet s t) (k : Nat) : getTok t k = getTok s k := by
  obtain ⟨r, hr⟩ := met.cl k
  unfold Machine.getTok
  rw [hr]
  rfl

theorem CodeMet.wait {s t : State} (met : CodeMet s t) (m : Nat) : (lanView t m).core0.wait = (lanView s m).core0.wait := by
  obtain ⟨r, hr⟩ := met.cl (BitVec.ofNat 5 m).toNat
  simp only [View.core0, lanView_s, lanView_g, Agent.cl, hr]
  rfl

theorem CodeMet.ans {s t : State} (met : CodeMet s t) (m : Nat) : (lanView t m).core0.ans = (lanView s m).core0.ans := by
  obtain ⟨r, hr⟩ := met.cl (BitVec.ofNat 5 m).toNat
  simp only [View.core0, lanView_s, lanView_g, Agent.cl, hr]
  rfl

/-- What a word that waits for an answer comes to. -/
theorem face_tokAsk {s t : State} (met : CodeMet s t) (m : Nat) {p q : State → Packet} {w w' : Nat → LWait} {o o' : SlotOut} {f g : Nat → SlotOut}
    (same : face o' = face o) (answered : ∀ x, face (g x) = face (f x)) :
    face (tokAsk (lanView t m) q w' o' g) = face (tokAsk (lanView s m) p w o f) := by
  simp only [tokAsk, met.wait, met.ans]
  simp only [face, Prod.mk.injEq] at same
  obtain ⟨bad, xfer, ctl, reads, gate, tag, fence, tw, chk, trap⟩ := same
  split
  · split
    · simp only [face, bad, xfer, ctl, reads, gate, tag, fence, tw, chk]
    · exact answered _
  · simp only [face, bad, xfer, ctl, reads, gate, tag, fence, tw, chk, trap]
  · simp only [face, bad, xfer, ctl, reads, gate, tag, fence, tw, chk, trap]

/-- A token form, as it is checked (R275, R281). -/
def tokFirst (a : Reg) (v : View) : SlotOut :=
  { reads := [hS a.toNat]
    gate := [hS a.toNat]
    chk := ((needIll (tokOk v.s (v.sr a).toNat)).unless (regPsn v a)).and (psnRegs v [a]) }

theorem tokSem_lantern (a : Reg) (f : View → Nat → SlotOut → SlotOut) (s : State) (m : Nat) : tokSem a f (lanView s m) =
    if !(tokFirst a (lanView s m)).chk.ok then tokFirst a (lanView s m) else f (lanView s m) ((lanView s m).sr a).toNat (tokFirst a (lanView s m)) := rfl

theorem CodeMet.tokFirst {s t : State} (met : CodeMet s t) (a : Reg) (m : Nat) : tokFirst a (lanView t m) = tokFirst a (lanView s m) := by
  simp only [Machine.tokFirst, tokOk, lanView_s, met.handleOk, met.sr, met.regPsn, met.psnRegs]

theorem blind_tok (a : Reg) {f : View → Nat → SlotOut → SlotOut}
    (same : ∀ s t m, CodeMet s t → ∀ h o, face (f (lanView t m) h o) = face (f (lanView s m) h o)) : Blind (tokSem a f) := fun s t m met => by
  rw [tokSem_lantern, tokSem_lantern, met.tokFirst, met.sr]
  split
  · rfl
  · exact same s t m met _ _

/-- A TKWAIT of a token of this module goes on or waits, and does not trap (R281). -/
theorem face_tkwaitOut {v : View} {h : Nat} (here : tokHere v.s h = true) (o : SlotOut) : face (tkwaitOut v h o) = face o := by
  unfold tkwaitOut
  rw [if_pos here]
  split <;> rfl

theorem face_tksigOut {v : View} {h : Nat} (here : tokHere v.s h = true) (o : SlotOut) : face (tksigOut v h o) = face { o with fence := some (4, 31) } := by
  unfold tksigOut
  rw [if_pos here]
  rfl

theorem face_tkrdOut {v : View} {h : Nat} (here : tokHere v.s h = true) (d : Reg) (o : SlotOut) : face (tkrdOut d v h o) = face { o with tag := true } := by
  unfold tkrdOut
  rw [if_pos here]
  rfl

/-- A token is of this module or is not, on both sides. -/
theorem CodeMet.tokenCases {s t : State} (met : CodeMet s t) (m h : Nat) :
    (Machine.tokHere (lanView s m).s h = true ∧ Machine.tokHere (lanView t m).s h = true) ∨ (¬Machine.tokHere (lanView s m).s h = true ∧ ¬Machine.tokHere (lanView t m).s h = true) := by
  rw [lanView_s, lanView_s, met.tokHere]
  exact (Decidable.em _).imp (fun h => ⟨h, h⟩) fun h => ⟨h, h⟩

theorem blind_tkwait (a : BitVec 6) : Blind (semTkwait a) := blind_tok a fun s t m met h o => by
  rcases met.tokenCases m h with ⟨here, here'⟩ | ⟨away, away'⟩
  · rw [face_tkwaitOut here, face_tkwaitOut here']
  · unfold tkwaitOut
    rw [if_neg away, if_neg away']
    refine face_tokAsk met m rfl fun x => ?_
    split <;> simp only [face]

theorem blind_tksig (a : BitVec 6) : Blind (semTksig a) := blind_tok a fun s t m met h o => by
  rcases met.tokenCases m h with ⟨here, here'⟩ | ⟨away, away'⟩
  · rw [face_tksigOut here, face_tksigOut here']
  · unfold tksigOut
    rw [if_neg away, if_neg away']
    exact face_tokAsk met m rfl fun x => by simp only [face]

theorem blind_tkrd (d a : BitVec 6) : Blind (semTkrd d a) := blind_tok a fun s t m met h o => by
  rcases met.tokenCases m h with ⟨here, here'⟩ | ⟨away, away'⟩
  · rw [face_tkrdOut here, face_tkrdOut here']
  · unfold tkrdOut
    rw [if_neg away, if_neg away']
    exact face_tokAsk met m rfl fun x => by simp only [face]

theorem blind_usig (a : Reg) : Blind (usigSem a) := fun s t m met => by
  simp only [usigSem, lanOnly, lanView_lan, if_true, face, met.regPsn, met.psnRegs, met.sr]

theorem blind_winq (d k : BitVec 6) : Blind (semWinq d k) := fun s t m met => by
  simp only [semWinq, lanOnly, lanView_lan, if_true, face]

theorem blind_retry (a : BitVec 6) : Blind (semRetry a) := fun s t m met => by
  have long : ringL (lanView t m).s (lanView t m).g.cl = ringL (lanView s m).s (lanView s m).g.cl :=
    congrArg (fun v : W64 => bits v.toNat 0 4) (met.csr _ 0x141 (by decide) (by decide))
  simp only [semRetry, lanOnly, lanView_lan, if_true, face, met.regPsn, met.psnRegs]
  rw [met.sr, long]

end Sys2Proof.Machine
end

section
/-! PROOFS. What a post looks at, with the errors of its fetch met or not (spec 03 R44, R47; 15 R277 to R280; 17 R313). -/

namespace Sys2Proof.Machine

/-! ## What a post reads -/

/-- Ranges below the code stores are poisoned as they were. -/
theorem CodeMet.psnRange {s t : State} (met : CodeMet s t) {a n : Nat} (below : a + n ≤ codeBase 0) :
    psnRange t.chip.mem a n = psnRange s.chip.mem a n := by
  have sector : ∀ sec, sec ≤ (a + n - 1) / 32 → n ≠ 0 → psnSec t.chip.mem sec = psnSec s.chip.mem sec := fun sec last some =>
    met.psn sec (Nat.lt_of_le_of_lt last (by simp only [codeBase] at below ⊢; omega))
  by_cases empty : n = 0
  · simp [Machine.psnRange, empty]
  · rw [Bool.eq_iff_iff]
    simp only [Machine.psnRange, Bool.and_eq_true, List.any_eq_true, List.mem_range]
    refine and_congr_right fun _ => exists_congr fun j => and_congr_right fun inside => ?_
    rw [sector _ (by omega) empty]

/-- A scratchpad lies below the code stores. -/
theorem clBase_below {k off n : Nat} (cluster : k < 32) (inside : off + n ≤ clSize) : clBase k + off + n ≤ codeBase 0 := by
  simp only [clBase, codeBase, clSize] at inside ⊢
  omega

section
variable {s t : State} (met : CodeMet s t)
include met

/-- A post reads what it does, but for the poison of an image that lies outside its scratchpad (R277). -/
theorem CodeMet.readPost {k : Nat} (cluster : k < 32) (off : Nat) : readPost t.chip.mem (clBase k) clSize off =
    { readPost s.chip.mem (clBase k) clSize off with psnImg := Machine.psnRange t.chip.mem (clBase k + off) 64 } := by
  simp only [Machine.readPost, met.cells, PostObj.mk.injEq, true_and]
  generalize rdMem s.chip.mem.cells (clBase k + off) 64 = x
  constructor
  · by_cases named : (imReason1 x && decide (imRlist x + 32 * imNreg x ≤ clSize)) = true
    · rw [if_pos named]
      exact met.psnRange (clBase_below cluster (of_decide_eq_true (Bool.and_eq_true .. ▸ named).2))
    · rw [if_neg named]
      simp only [Machine.psnRange, Nat.mul_zero, bne_self_eq_false, Bool.false_and]
  · split
    · next named =>
      simp only [Bool.and_eq_true, decide_eq_true_eq] at named
      exact met.psnRange (clBase_below cluster named.2.2)
    · rfl

theorem CodeMet.moveBlock : moveBlock t = moveBlock s := funext fun k => funext fun x => by
  unfold Machine.moveBlock
  rw [met.cells]

theorem CodeMet.moveBlockPsn {k : Nat} (cluster : k < 32) (x : Nat) : moveBlockPsn t k x = moveBlockPsn s k x := by
  unfold Machine.moveBlockPsn
  dsimp only
  by_cases named : (imReason1 x && (decide (imKind x ≠ 0) && decide (bits (imEntry x) 0 18 * 64 + 128 ≤ clSize))) = true
  · have inside := named
    simp only [Bool.and_eq_true, decide_eq_true_eq] at inside
    rw [named, met.psnRange (clBase_below cluster inside.2.2)]
  · rw [Bool.eq_false_iff.mpr named, Bool.false_and, Bool.false_and]

theorem CodeMet.barrierOp : barrierOp t = barrierOp s := by obtain ⟨-, -, rfl⟩ := met.frame; rfl

theorem CodeMet.rgOk : rgOk t = rgOk s := funext fun k => funext fun x => funext fun r => by
  unfold Machine.rgOk
  rw [met.tensorOf]

theorem CodeMet.mvSides : mvSides t = mvSides s := funext fun k => funext fun x => funext fun b => by
  unfold Machine.mvSides
  rw [met.operand]

theorem CodeMet.mvBarrier : mvBarrier t = mvBarrier s := funext fun k => funext fun b => by
  unfold Machine.mvBarrier
  rw [met.barrierOp]

theorem CodeMet.mvOk : mvOk t = mvOk s := funext fun k => funext fun x => funext fun b => by
  unfold Machine.mvOk
  rw [met.mvSides, met.mvBarrier]

theorem CodeMet.postReason : postReason t = postReason s := funext fun k => funext fun lim => funext fun x => funext fun regs => funext fun mv => by
  unfold Machine.postReason
  rw [met.rgOk, met.mvOk, met.handleOk]

theorem CodeMet.mkPost : mkPost t = mkPost s := funext fun k => funext fun origin => funext fun o => by
  unfold Machine.mkPost
  rw [met.mvSides, met.mvBarrier]

/-- The window has room as it did (R300, R301). -/
theorem CodeMet.placeOf (k o n : Nat) : placeOf (getCl t k) o n = placeOf (getCl s k) o n := by
  have held : reserve (getCl t k) = reserve (getCl s k) :=
    congrArg (fun v : W64 => (bits v.toNat 0 9, bits v.toNat 16 11)) (met.csr k 0x150 (by decide) (by decide))
  obtain ⟨r, hr⟩ := met.cl k
  unfold Machine.placeOf windowOk
  rw [held, hr]
  rfl

theorem CodeMet.remotePlace : remotePlace t = remotePlace s := funext fun k => funext fun o => by
  unfold Machine.remotePlace
  rw [met.postReason, met.mkPost]
  dsimp only
  rw [met.placeOf]

end

/-! ## What a post comes to -/

/-- The trap of a post without a destination (R279, R280). -/
def postTrap (v : View) : PRes → Option (Nat × Nat)
  | .done code _ => if code % 256 = 3 then some (cPostReject, code / 256) else if code = 4 then some (cRemoteFail, 4) else none
  | .full _ => if postTimedOut v.core0 then some (cPostStall, 2) else none
  | .wait _ => none

theorem face_postOut_status (v : View) (d : Reg) (r : PRes) (o : SlotOut) : face (postOut v (some d) r o) = face o := by
  cases r <;> rfl

theorem face_postOut (v : View) (r : PRes) (o : SlotOut) : face (postOut v none r o) = face { o with trap := postTrap v r <|> o.trap } := by
  cases r with
  | done code f =>
    simp only [postOut, postTrap]
    split
    · rfl
    · split <;> rfl
  | wait f => rfl
  | full f =>
    simp only [postOut, postTrap]
    split <;> rfl

/-- Two posts of the same trap come to the same. -/
theorem face_postOut_congr {v v' : View} {r r' : PRes} (d : Option Reg) {o o' : SlotOut} (trap : postTrap v' r' = postTrap v r) (same : face o' = face o) :
    face (postOut v' d r' o') = face (postOut v d r o) := by
  cases d with
  | some d => rw [face_postOut_status, face_postOut_status, same]
  | none =>
    rw [face_postOut, face_postOut, trap]
    simp only [face, Prod.mk.injEq] at same ⊢
    obtain ⟨bad, xfer, ctl, reads, gate, tag, fence, tw, chk, trap⟩ := same
    exact ⟨bad, xfer, ctl, reads, gate, tag, fence, tw, chk, by rw [trap]⟩

/-- A post that is taken does not trap (R276). -/
theorem postTrap_take (v w : View) (k : Nat) (p : Post) {code : Nat} (taken : code ≤ 1) : postTrap w (postTake v k p code) = none := by
  unfold postTake
  dsimp only
  split
  · simp only [postTrap]
    rw [if_neg (by omega), if_neg (by omega)]
  · rfl

/-- The trap of a post to the core's own window (R278, R279, R301). -/
theorem postTrap_here (v : View) (o : PostObj) : postTrap v (postHere v o) =
    if postReason v.s v.g.cl clSize o.img o.regs o.mv ≠ 0 then postTrap v (.done (3 + 256 * postReason v.s v.g.cl clSize o.img o.regs o.mv) id)
    else if placeOf (getCl v.s v.g.cl) 0 (postRegs (mkPost v.s v.g.cl 0 o)).length ≤ 1 then none
    else postTrap v (.full id) := by
  unfold postHere
  dsimp only
  split
  · rfl
  · split
    · next place => rw [if_pos (by omega), postTrap_take _ _ _ _ (by decide)]
    · next place => rw [if_pos (by omega), postTrap_take _ _ _ _ (by decide)]
    · next x inWindow inQueue => exact (if_neg fun few => (Nat.le_one_iff_eq_zero_or_eq_one.mp few).elim inWindow inQueue).symm

/-- The trap of a post that its target takes, finds full or rejects (R280, R308). -/
def placeTrap (v : View) : Except Nat Post → Option (Nat × Nat)
  | .ok _ => none
  | .error c => if c = 2 then postTrap v (.full id) else postTrap v (.done c id)

/-- The trap of a post to the window that a handle names (R280). -/
theorem postTrap_away (v : View) (h : Nat) (o : PostObj) : postTrap v (postAway v h o) =
    if (handleAt v.s.partMod h).1 = v.s.partMod then
      placeTrap v (remotePlace v.s (handleAt v.s.partMod h).2.1 { o with mv := moveBlock v.s (handleAt v.s.partMod h).2.1 o.img })
    else none := by
  unfold postAway
  dsimp only
  split
  · generalize remotePlace v.s _ _ = placed
    cases placed with
    | ok p => exact postTrap_take _ _ _ _ (by decide)
    | error c =>
      rw [placeTrap]
      split
      · next taken => cases taken
      · next found =>
        cases found
        rw [if_pos rfl]
      · next other found =>
        cases found
        rw [if_neg fun full => other full]
  · rfl

section
variable {s t : State} (met : CodeMet s t) (m : Nat)
include met

theorem CodeMet.timedOut : postTimedOut (lanView t m).core0 = postTimedOut (lanView s m).core0 := by
  have limit : rdCsr (lanView t m).core0.core 0x151 = rdCsr (lanView s m).core0.core 0x151 := met.csr _ 0x151 (by decide) (by decide)
  have stall : (lanView t m).core0.stall = (lanView s m).core0.stall := by
    obtain ⟨r, hr⟩ := met.cl (BitVec.ofNat 5 m).toNat
    simp only [View.core0, lanView_s, lanView_g, Agent.cl, hr]
    rfl
  unfold postTimedOut
  rw [limit, stall]

theorem CodeMet.postTrap_full (f g : State → State) : postTrap (lanView t m) (.full f) = postTrap (lanView s m) (.full g) := by
  unfold postTrap
  dsimp only
  rw [met.timedOut]

theorem CodeMet.postOn (w : LWait) : postTrap (lanView t m) (postOn (lanView t m) w) = postTrap (lanView s m) (postOn (lanView s m) w) := by
  unfold Machine.postOn
  rw [met.ans]
  split
  · rfl
  · split
    · exact met.postTrap_full m _ _
    · rfl
  · rfl

/-- A post to the core's own window comes to what it did (R279, R301). -/
theorem CodeMet.postHere (o : PostObj) (y : Bool) :
    postTrap (lanView t m) (postHere (lanView t m) { o with psnImg := y }) = postTrap (lanView s m) (postHere (lanView s m) o) := by
  have reason : Machine.postReason (lanView t m).s (lanView t m).g.cl = Machine.postReason (lanView s m).s (lanView s m).g.cl := congrFun met.postReason _
  have post : Machine.mkPost (lanView t m).s (lanView t m).g.cl 0 { o with psnImg := y } = Machine.mkPost (lanView s m).s (lanView s m).g.cl 0 o :=
    congrFun (congrFun (congrFun met.mkPost _) _) _
  have place : ∀ n, Machine.placeOf (getCl (lanView t m).s (lanView t m).g.cl) 0 n = Machine.placeOf (getCl (lanView s m).s (lanView s m).g.cl) 0 n :=
    met.placeOf _ 0
  rw [postTrap_here, postTrap_here, reason, post, place, met.postTrap_full m id id]
  rfl

/-- A post to the window that a handle names comes to what it did (R280). -/
theorem CodeMet.postAway (h : Nat) (o : PostObj) (y : Bool) :
    postTrap (lanView t m) (postAway (lanView t m) h { o with psnImg := y }) = postTrap (lanView s m) (postAway (lanView s m) h o) := by
  have mod : (lanView t m).s.partMod = (lanView s m).s.partMod := met.partMod
  have place : Machine.remotePlace (lanView t m).s = Machine.remotePlace (lanView s m).s := met.remotePlace
  have block : Machine.moveBlock (lanView t m).s = Machine.moveBlock (lanView s m).s := met.moveBlock
  have same : ∀ k, Machine.remotePlace (lanView s m).s k { { o with psnImg := y } with mv := Machine.moveBlock (lanView s m).s k o.img } =
      Machine.remotePlace (lanView s m).s k { o with mv := Machine.moveBlock (lanView s m).s k o.img } := fun k => rfl
  have full : placeTrap (lanView t m) = placeTrap (lanView s m) := funext fun r => by
    cases r with
    | ok p => rfl
    | error c =>
      simp only [placeTrap, met.postTrap_full m id id]
      rfl
  rw [postTrap_away, postTrap_away, mod, place, block, full, same]

end

/-! ## Posts -/

/-- What a post reads of its scratchpad (R277). -/
def postObj (a : Reg) (v : View) : PostObj := readPost v.s.chip.mem (clBase v.g.cl) clSize (v.sr a).toNat

/-- The handle of a post (R280). -/
def postHandle (b : Option Reg) (v : View) : Nat := (b.map (fun r => (v.sr r).toNat)).getD 0

/-- Whether what a post reads is poisoned (R111). -/
def postPsn (a : Reg) (b : Option Reg) (v : View) : Bool :=
  let o := postObj a v
  let at0 := handleAt v.s.partMod (postHandle b v)
  !(regPsn v a || !decide ((v.sr a).toNat % 64 = 0) || !decide ((v.sr a).toNat + 64 ≤ clSize)) &&
    (o.psnImg || o.psnRegs || if b.isNone then o.psnMv else decide (at0.1 = v.s.partMod) && moveBlockPsn v.s at0.2.1 o.img)

/-- The checks of a post (R278, R279). -/
def postChk (a : Reg) (b : Option Reg) (v : View) : Chk :=
  let h := postHandle b v
  let off := (v.sr a).toNat
  ((needIll (decide (off % 64 = 0))).unless (regPsn v a)).and
    (((needIll (b.isNone || (handleOk v.s h && (!bit h 47 && decide (bits h 0 12 = 0))))).unless ((b.map (regPsn v)).getD false)).and
      (((needRange (decide (off + 64 ≤ clSize)) off).unless (regPsn v a)).and ((psnRegs v (a :: b.toList)).and (psnMem (postPsn a b v) a.toNat))))

/-- A post as it is checked. -/
def postFirst (d : Option Reg) (a : Reg) (b : Option Reg) (v : View) : SlotOut :=
  { wr := (d.map (fun r => hS r.toNat)).toList
    reads := (a :: b.toList).map (fun r => hS r.toNat)
    gate := (a :: b.toList).map (fun r => hS r.toNat)
    fence := some (4, 31)
    finds := if regPsn v a || !decide ((v.sr a).toNat % 64 = 0) || !decide ((v.sr a).toNat + 64 ≤ clSize) then []
      else postReads v.s.chip.mem (clBase v.g.cl) clSize (v.sr a).toNat
    chk := postChk a b v }

theorem postSem_waits (d : Option Reg) (a : Reg) (b : Option Reg) {s : State} {m : Nat} {w : LWait} (waits : (lanView s m).core0.wait = some w) :
    postSem d a b (lanView s m) = postOut (lanView s m) d (postOn (lanView s m) w) { postFirst d a b (lanView s m) with chk := {}, finds := [] } := by
  rw [postSem, lanOnly, if_pos (lanView_lan s m)]
  dsimp only
  rw [waits]
  rfl

theorem postSem_new (d : Option Reg) (a : Reg) (b : Option Reg) {s : State} {m : Nat} (waits : (lanView s m).core0.wait = none) :
    postSem d a b (lanView s m) = if !(postChk a b (lanView s m)).ok then postFirst d a b (lanView s m)
      else postOut (lanView s m) d (if b.isSome then postAway (lanView s m) (postHandle b (lanView s m)) (postObj a (lanView s m))
        else postHere (lanView s m) (postObj a (lanView s m))) (postFirst d a b (lanView s m)) := by
  rw [postSem, lanOnly, if_pos (lanView_lan s m)]
  dsimp only
  rw [waits]
  rfl

section
variable {s t : State} (met : CodeMet s t) (m : Nat)
include met

theorem CodeMet.postObj (a : Reg) : ∃ y, postObj a (lanView t m) = { postObj a (lanView s m) with psnImg := y } ∧
    (((lanView s m).sr a).toNat + 64 ≤ clSize → y = (postObj a (lanView s m)).psnImg) := by
  have cluster : (BitVec.ofNat 5 m).toNat < 32 := (BitVec.ofNat 5 m).isLt
  refine ⟨Machine.psnRange t.chip.mem (clBase (BitVec.ofNat 5 m).toNat + ((lanView s m).sr a).toNat) 64, ?_, fun inside => ?_⟩
  · unfold Machine.postObj
    rw [met.sr]
    exact met.readPost cluster _
  · exact met.psnRange (clBase_below cluster inside)

theorem CodeMet.postHandle (b : Option Reg) : postHandle b (lanView t m) = postHandle b (lanView s m) := by
  simp only [Machine.postHandle, met.sr]

theorem CodeMet.postPsn (a : Reg) (b : Option Reg) : postPsn a b (lanView t m) = postPsn a b (lanView s m) := by
  obtain ⟨y, read, image⟩ := met.postObj m a
  have mod : (lanView t m).s.partMod = (lanView s m).s.partMod := met.partMod
  have block : ∀ h x, Machine.moveBlockPsn (lanView t m).s (handleAt (lanView s m).s.partMod h).2.1 x = Machine.moveBlockPsn (lanView s m).s (handleAt (lanView s m).s.partMod h).2.1 x :=
    fun h x => met.moveBlockPsn (Nat.mod_lt _ (by decide)) x
  by_cases inside : ((lanView s m).sr a).toNat + 64 ≤ clSize
  · unfold Machine.postPsn
    dsimp only
    rw [read, image inside, met.sr, met.regPsn, met.postHandle, mod, block]
  · unfold Machine.postPsn
    dsimp only
    rw [met.sr, decide_eq_false inside, Bool.not_false, Bool.or_true, Bool.or_true, Bool.not_true, Bool.false_and, Bool.false_and]

theorem CodeMet.postChk (a : Reg) (b : Option Reg) : postChk a b (lanView t m) = postChk a b (lanView s m) := by
  have handle : Machine.handleOk (lanView t m).s = Machine.handleOk (lanView s m).s := met.handleOk
  have poison : Machine.regPsn (lanView t m) = Machine.regPsn (lanView s m) := funext (met.regPsn m)
  unfold Machine.postChk
  rw [met.postPsn, met.postHandle, met.psnRegs, met.sr, handle, poison]

end

theorem blind_post (d : Option Reg) (a : Reg) (b : Option Reg) : Blind (postSem d a b) := fun s t m met => by
  have first : face (postFirst d a b (lanView t m)) = face (postFirst d a b (lanView s m)) := by
    simp only [postFirst, face, met.postChk]
  have wait := met.wait m
  cases waits : (lanView s m).core0.wait with
  | some w =>
    rw [postSem_waits d a b waits, postSem_waits d a b (wait.trans waits)]
    exact face_postOut_congr d (met.postOn m w) rfl
  | none =>
    rw [postSem_new d a b waits, postSem_new d a b (wait.trans waits), met.postChk]
    split
    · exact first
    · obtain ⟨y, read, -⟩ := met.postObj m a
      rw [read, met.postHandle]
      refine face_postOut_congr d ?_ first
      split
      · exact met.postAway m ..
      · exact met.postHere m ..

end Sys2Proof.Machine
end

section
/-! PROOFS. A Lantern word that does not trap keeps the state at a pre-emption's boundary (spec 17 R313). -/

namespace Sys2Proof.Machine

/-- Every word of a Lantern core comes to the same whether or not the errors of its fetch are met. -/
theorem blind_word {i : Instr} (word : wordSlot i = some 0) {f : Sem} (meaning : semOf i = some f) : Blind f := by
  cases i
  case add | sub | and | or | xor | andn | orn | xnor | shl | shr | sra | ror | slt | sltu | min | max | minu | maxu | clz | ctz | popc | bswap
      | mul | mulh | mulhu | mulhsu | addi | andi | ori | xori | slti | sltiu | shli | shri | srai | rori | lui | addpc | bfxu | bfxs | bfi =>
    cases meaning
    exact blind_alu _ _ _ _
  case div | divu | rem | remu =>
    cases meaning
    exact blind_div _ _ _ _
  case ldB | ldBu | ldH | ldHu | ldW | ldWu | ldD =>
    cases meaning
    exact blind_load _ _ _ _ _
  case ldm =>
    cases meaning
    exact blind_ldm _ _ _ _
  case stB | stH | stW | stD =>
    cases meaning
    exact blind_store _ _ _ _
  case stm =>
    cases meaning
    exact blind_stm _ _ _ _
  case beq | bne | blt | bge | bltu | bgeu =>
    cases meaning
    exact blind_branch _ _ _ _
  case jal =>
    cases meaning
    exact blind_jump _ _ fun s t m met => by simp only [met.addr]
  case jalr =>
    cases meaning
    exact blind_jump _ _ fun s t m met => by simp only [met.sr]
  case loop | loopi =>
    cases meaning
    exact blind_unit _
  case tjoin =>
    cases meaning
    exact blind_tjoin _ _ _ _
  case tclr =>
    cases meaning
    exact blind_tclr _ _
  case twait =>
    cases meaning
    exact blind_twait _ _ _
  case fence | trap | eret | tail =>
    cases meaning
    exact fun _ _ _ _ => rfl
  case csrr =>
    cases meaning
    exact blind_csrr _ _
  case csrw =>
    cases meaning
    exact blind_csrw _ _
  case dsetb | dsete | dsets | dseta | daddb =>
    cases meaning
    exact blind_dset _ _ _
  case dgetb | dgete | dgets | dgeta =>
    cases meaning
    exact blind_dget _ _ _
  case dmov =>
    cases meaning
    exact blind_dmov _ _
  case dld =>
    cases meaning
    exact blind_dld _ _ _
  case dst =>
    cases meaning
    exact blind_dst _ _ _
  case dldG =>
    cases meaning
    exact blind_ldg _ _ _ _ fun s t m met => met.descAddr m _ _
  case dstG =>
    cases meaning
    exact blind_stg _ _ _ _ _ (fun s t m met => met.descAddr m _ _) fun s t m met => by rw [met.dPsn]
  case ldg =>
    cases meaning
    exact blind_ldg _ _ _ _ fun s t m met => by rw [met.sr]
  case stg =>
    cases meaning
    exact blind_stg _ _ _ _ _ (fun s t m met => by rw [met.sr]) fun s t m met => met.psnRegs m _
  case amogAdd | amogSwp | amogCas =>
    cases meaning
    exact blind_amog _ _ _ _ _
  case lcp =>
    cases meaning
    exact blind_lcp _ _ _
  case tdecl =>
    cases meaning
    exact blind_tdecl _ _
  case trel =>
    cases meaning
    exact blind_trel _
  case post | postTry | postR | postRtry =>
    cases meaning
    exact blind_post _ _ _
  case tkwait =>
    cases meaning
    exact blind_tkwait _
  case tksig =>
    cases meaning
    exact blind_tksig _
  case tkrd =>
    cases meaning
    exact blind_tkrd _ _
  case usig =>
    cases meaning
    exact blind_usig _
  case winq =>
    cases meaning
    exact blind_winq _ _
  case retry =>
    cases meaning
    exact blind_retry _
  all_goals cases word

/-- The word at a Lantern core's pc is one of its own (R44). -/
theorem lanFetch_word {s : State} {m : Nat} {i : Instr} (fetched : lanFetch s m = .ok i) : wordSlot i = some 0 := by
  unfold lanFetch at fetched
  dsimp only at fetched
  split at fetched
  · cases fetched
  split at fetched
  · cases fetched
  split at fetched
  · next j decoded =>
    cases fetched
    exact (decodeS_word decoded).1
  · cases fetched

/-- At a pre-emption's boundary a word that does not trap where it stands is left alone (R313). -/
theorem syncFirst_same {s : State} {m : Nat} (clean : lanRuns s m = true → lanTraps s m = false) : syncFirst s m = s := by
  unfold syncFirst
  split
  · rfl
  next runs =>
  have free := clean (by simpa using runs)
  unfold lanTraps at free
  dsimp only
  split
  · next x failed =>
    rw [failed] at free
    cases free
  · next i fetched =>
    rw [fetched] at free
    obtain ⟨f, meaning, -⟩ := exec_word (lanFetch_word fetched)
    have met := codeMet_wordFound s m
    have none : lanCause (wordFound s m) m (illegal i) (lanOut (wordFound s m) m f) = none := by
      refine (met.lanCause (o := lanOut s m f) (blind_word (lanFetch_word fetched) meaning s _ m met) m (illegal i)).trans ?_
      simpa only [meaning, Option.any_some, Option.isSome_eq_false_iff, Option.isNone_iff_eq_none] using free
    rw [meaning]
    dsimp only
    rw [none]

end Sys2Proof.Machine
end

section
/-! PROOFS. Gang switches and tracing (spec 17 R317 to R331). -/

namespace Sys2Proof.Machine

/-! ## A job that is not traced writes no records -/

/-- With no sampling period nothing is traced (R330). -/
theorem traced_none {s : State} (off : s.chip.trace.period = 0) (g : Agent) : traced s g = false := by
  simp only [traced, off, ne_eq, not_true_eq_false, decide_false, Bool.false_and]

theorem traceRec_none {s : State} (off : s.chip.trace.period = 0) (g : Agent) (ty a b : Nat) : traceRec s g ty a b = s :=
  traceRec_untraced (traced_none off g) ty a b rfl

/-- A fold each of whose steps leaves a state as it is. -/
theorem foldl_same {α β : Type} {f : α → β → α} {x : α} (l : List β) (step : ∀ b ∈ l, f x b = x) : l.foldl f x = x := by
  induction l with
  | nil => rfl
  | cons b l ih =>
    rw [List.foldl_cons, step b List.mem_cons_self]
    exact ih fun c listed => step c (List.mem_cons_of_mem _ listed)

theorem traceSwitch_none {s : State} (off : s.chip.trace.period = 0) (out : Bool) : traceSwitch s out = s := by
  unfold traceSwitch
  dsimp only
  rw [foldl_same (x := s) _ fun k _ => traceRec_none off .., foldl_same (x := s) _ fun m _ => traceRec_none off ..]

/-! ## The instant of a switch -/

/-- Requests that all stay with their scoreboard or cache are not put back (R325). -/
theorem putBack_none {s : State} (keep : ∀ p ∈ s.outst, p.2.job = s.chip.slot → p.2.deferred = true → keepsDeferred p.2 = true) : putBack s = s := by
  have none : s.outst.filter (fun p => decide (p.2.job = s.chip.slot) && p.2.deferred && !keepsDeferred p.2) = [] := by
    refine List.filter_eq_nil_iff.mpr fun p listed open' => ?_
    simp only [Bool.and_eq_true, decide_eq_true_eq, Bool.not_eq_true'] at open'
    obtain ⟨⟨own, deferred⟩, back⟩ := open'
    exact Bool.false_ne_true (back.symm.trans (keep p listed own deferred))
  rw [putBack, none]
  rfl

/-- The state at the instant of a switch to slot `n` (R317, R323, R376). -/
def stopped (s : State) (t0 n : Nat) (rest : List (Nat × Nat)) : State :=
  { s with
    cp := { s.cp with gang := rest, gangLast := t0, switch := some ⟨t0, s.chip.slot, n, 0⟩ }
    svc := patchSwitch { s.svc with switchFlag := s.svc.switchFlag || s.svc.plock } }

/-- At its instant a switch stops the job, where no word of it traps there first and no request is put back (R313, R325). -/
theorem gangSwitch_stops {s : State} (off : s.chip.trace.period = 0) {n t0 : Nat} {rest : List (Nat × Nat)} (idle : s.cp.switch = none)
    (next : s.cp.gang = (t0, n) :: rest) (due : t0 ≤ ptp s) (sync : ∀ m ∈ liveClusters s, syncFirst s m = s)
    (keep : ∀ p ∈ s.outst, p.2.job = s.chip.slot → p.2.deferred = true → keepsDeferred p.2 = true) :
    exec .gangSwitch s = .next (stopped s t0 n rest) := by
  refine congrArg Host.Outcome.next ?_
  simp only [idle, next]
  refine (if_neg (Nat.not_lt.mpr due)).trans ?_
  rw [foldl_same _ sync, traceSwitch_none off]
  exact putBack_none (s := stopped s t0 n rest) keep

/-! ## Saving -/

/-- A job as it is saved (R77, R239, R325). -/
def savedChip (c : Chip) : Chip := { c with units := c.units.map (fun p => (p.1, saveUnit (stopMx p.2))) }

theorem gangSwitch_saves {s : State} {w : Switch} (switch : s.cp.switch = some w) (phase : w.phase = 0) (quiet : quiesced s = true)
    (job : s.cp.jobs.any (fun p => p.1 == w.out) = true) : ∃ t, exec .gangSwitch s = .next t ∧ t.cp.switch = some { w with phase := 1 } ∧
      t.images = sput s.images w.out (savedChip s.chip) ∧ t.chip = s.chip := by
  obtain ⟨j, found⟩ : ∃ j, s.cp.jobs.find? (fun p => p.1 == w.out) = some j := by
    rwa [← List.isSome_find?, Option.isSome_iff_exists] at job
  refine ⟨saveArea { s with cp := { s.cp with switch := some { w with phase := 1 } }, images := sput s.images w.out (savedChip s.chip) } (savedChip s.chip) j.2.save,
    congrArg Host.Outcome.next ?_, rfl, rfl, rfl⟩
  simp only [switch, phase, quiet, found, ne_eq, not_true_eq_false, Bool.true_eq_false, or_self, if_false]
  rfl

/-- What is saved of a unit has its registers, operand queues and loops (R77, R324). -/
theorem find?_savedChip (c : Chip) (k : Nat) :
    ((savedChip c).units.find? (fun p => p.1 == k)).map (fun p => (p.2.core, p.2.v, p.2.m, p.2.queues, p.2.loops)) =
      (c.units.find? (fun p => p.1 == k)).map (fun p => (p.2.core, p.2.v, p.2.m, p.2.queues, p.2.loops)) := by
  rw [savedChip, List.find?_map, Option.map_map]
  rfl

/-! ## Restoring -/

/-- A context read back (R324, R328). -/
theorem contextRestore_reads {s : State} {w : Switch} {c : Chip} (switch : s.cp.switch = some w) (phase : w.phase = 1)
    (saved : s.images.find? (fun p => p.1 == w.inn) = some (w.inn, c)) : let u := { s with chip := c, images := serase s.images w.inn, cp := { s.cp with switch := some { w with phase := 2 } } }
    exec .contextRestore s = .next ((liveClusters u).foldl reloadCode u) := by
  refine congrArg Host.Outcome.next ?_
  simp only [switch, phase, saved, ne_eq, not_true_eq_false, if_false]
  rfl

/-! ## Starting -/

section
variable {γ : Type} (g : State → γ) (mem : ∀ s a n, g (touchChip s a n) = g s) (draws : ∀ s n, g { s with draws := n } = g s)
  (units : ∀ s k f, g (modUnit s k f) = g s)
include mem draws units

omit draws units in
theorem foldl_pieces_keeps (base : Nat) (l : List (Nat × Nat)) (img : List (Byte × Bool)) (s : State) :
    g (l.foldl (fun (p : List (Byte × Bool) × State) q => let (i, t) := readLoc p.2 (.chip (base + q.1)) q.2; (p.1 ++ i, t)) (img, s)).2 = g s :=
  foldl_keeps _ (fun p : List (Byte × Bool) × State => g p.2) (fun p q => by exact mem p.2 (base + q.1) q.2) _ (img, s)

omit draws units in
theorem fetchRow_keeps (s : State) (cl : Nat) (d : W64) (fb : Nat) (b : Bank) (r : Nat) : g (fetchRow s cl d fb b r).2 = g s := by
  unfold fetchRow
  dsimp only
  split
  · rfl
  · exact (foldl_pieces_keeps g mem _ _ _ _).trans (foldl_pieces_keeps g mem _ _ _ _)

omit units in
theorem refetchBank_keeps (s : State) (cl : Nat) (b : Bank) : g (refetchBank s cl b).2 = g s := by
  unfold refetchBank
  split
  · exact (foldl_keeps _ (fun p : Bank × State => g p.2) (fun p r => by exact fetchRow_keeps g mem p.2 cl _ _ p.1 r) _ _).trans (draws ..)
  · exact draws ..

theorem refetchUnit_keeps (s : State) (k : Nat) : g (refetchUnit s k) = g s := by
  unfold refetchUnit modMx
  dsimp only
  rw [units, refetchBank_keeps g mem draws, refetchBank_keeps g mem draws]

/-- A unit that resumes keeps what lies outside units and memory (R155, R239, R325). -/
theorem thawUnit_keeps (s : State) (k : Nat) : g (thawUnit s k) = g s := by
  have read : g (thawRead s k) = g s := by
    unfold thawRead
    split
    · exact (refetchUnit_keeps g mem draws units ..).trans (units ..)
    · exact units ..
  rw [thawUnit_eq]
  split
  · exact (thawVolatile_keeps g draws (fun s f _ => units s k f) _).trans read
  · exact read

end

/-- The scalar registers of the Lantern cores, the command processor, and the job's trace. -/
@[irreducible] def lanRest (s : State) : (Nat → Nat → W64) × Cp × TraceCfg := (fun m r => rdS (getCl s m).lan.core r, s.cp, s.chip.trace)

theorem lanRest_congr {s t : State} (regs : ∀ m r, rdS (getCl t m).lan.core r = rdS (getCl s m).lan.core r) (cp : t.cp = s.cp)
    (trace : t.chip.trace = s.chip.trace) : lanRest t = lanRest s := by
  simp only [lanRest, regs, cp, trace]

theorem lanRest_modCl (s : State) (m : Nat) {f : Cluster → Cluster} (regs : ∀ c, (f c).lan.core.sreg = c.lan.core.sreg) :
    lanRest (modCl s m f) = lanRest s := by
  refine lanRest_congr (fun j r => ?_) rfl rfl
  rw [getCl_modCl]
  split
  · next own => rw [rdS, regs, own, rdS]
  · rfl

theorem lanRest_modUnit (s : State) (k : Nat) (f : Unit → Unit) : lanRest (modUnit s k f) = lanRest s := lanRest_congr (fun _ _ => rfl) rfl rfl

theorem lanRest_modCore (s : State) (g : Agent) {f : Core → Core} (regs : ∀ c, (f c).sreg = c.sreg) : lanRest (modCore s g f) = lanRest s := by
  cases g with
  | lantern m => exact lanRest_modCl s m.toNat (f := fun c => { c with lan := { c.lan with core := f c.lan.core } }) fun c => regs c.lan.core
  | unit k => exact lanRest_modUnit s k.toNat fun u => { u with core := f u.core }

theorem lanRest_touchChip (s : State) (a n : Nat) : lanRest (touchChip s a n) = lanRest s := by
  simp only [touchChip]
  rcases countErr_cases (modChip s fun c => { c with mem := (touch s.chip.mem a n).1 }) a (touch s.chip.mem a n).2.1
    (touch s.chip.mem a n).2.2 with same | ⟨g, counted⟩
  · rw [same]
    exact lanRest_congr (fun _ _ => rfl) rfl rfl
  · rw [counted, lanRest_modCore]
    · exact lanRest_congr (fun _ _ => rfl) rfl rfl
    · exact fun _ => rfl

theorem lanRest_thawUnit (s : State) (k : Nat) : lanRest (thawUnit s k) = lanRest s :=
  thawUnit_keeps lanRest lanRest_touchChip (fun _ _ => lanRest_congr (fun _ _ => rfl) rfl rfl) (fun _ _ _ => lanRest_congr (fun _ _ => rfl) rfl rfl) s k

theorem lanRest_thawCl (s : State) (m : Nat) : lanRest (thawCl s m) = lanRest s := by
  unfold thawCl
  dsimp only
  split
  · split
    · rw [lanRest_modUnit, lanRest_modCl]
      exact fun _ => rfl
    · exact lanRest_modCl s m fun _ => rfl
  · exact lanRest_modCl s m fun _ => rfl

/-- Nothing goes out of an empty queue (R330). -/
theorem traceGo_empty {s : State} (empty : s.chip.trace.queue = []) (n : Nat) : traceGo n s = s := by
  cases n with
  | zero => rfl
  | succ n =>
    rw [traceGo, empty]
    exact ite_self _

/-- A job starts with the registers of its Lantern cores as they stand (R324). -/
theorem jobStart_starts {s : State} (off : s.chip.trace.period = 0) {w : Switch} (switch : s.cp.switch = some w) (phase : w.phase = 2) (due : w.t + 40000 ≤ ptp s)
    (empty : s.chip.trace.queue = []) : ∃ t, exec .jobStart s = .next t ∧ t.cp.switch = none ∧
      ∀ m r, rdS (getCl t m).lan.core r = rdS (getCl s m).lan.core r := by
  obtain ⟨u, hu⟩ : ∃ u, u = ({ s with cp := { s.cp with switch := none } } : State) := ⟨_, rfl⟩
  obtain ⟨t, ht⟩ : ∃ t, t = (liveClusters ((liveUnits u).foldl thawUnit u)).foldl thawCl ((liveUnits u).foldl thawUnit u) := ⟨_, rfl⟩
  have kept : lanRest t = lanRest u := by
    rw [ht]
    exact (foldl_keeps _ lanRest (fun x m => lanRest_thawCl x m) _ _).trans (foldl_keeps _ lanRest (fun x k => lanRest_thawUnit x k) _ _)
  simp only [lanRest, Prod.mk.injEq] at kept
  obtain ⟨regs, cp, trace⟩ := kept
  rw [hu] at regs cp trace
  refine ⟨t, congrArg Host.Outcome.next ?_, by rw [cp], fun m r => congrFun (congrFun regs m) r⟩
  simp only [switch]
  refine (if_neg (not_or.mpr ⟨not_not.mpr phase, Nat.not_lt.mpr due⟩)).trans ?_
  show traceGo 65 (traceSwitch ((liveClusters ((liveUnits { s with cp := { s.cp with switch := none } }).foldl thawUnit _)).foldl thawCl _) false) = t
  rw [← hu, ← ht, traceSwitch_none (by rw [trace]; exact off), traceGo_empty (by rw [trace]; exact empty)]

/-! ## A deferred request -/

/-- A deferred arming of a token is sent again (R325, R340). -/
theorem deferredReissue_arms {s : State} {rid : Nat} {o : Outst} {m : ClusterIx} (found : s.outst.find? (fun p => p.1 == s.arg.j) = some (rid, o))
    (deferred : o.deferred = true) (due : o.since + 1000 ≤ ptp s) (thawed : frozen s = false) (here : o.job = s.chip.slot)
    (first : ∀ p ∈ s.outst, sameFlow p.2 o = true → o.seq ≤ p.2.seq) (arm : o.who = .arm m) :
    exec .deferredReissue s = .next (sendFrom { s with outst := sput s.outst rid { o with deferred := false, since := ptp s } } (m.toNat / 8) { o.pkt with circ := 0 }) := by
  refine congrArg Host.Outcome.next ?_
  have earlier : s.outst.any (fun p => sameFlow p.2 o && decide (p.2.seq < o.seq)) = false := by
    refine List.any_eq_false.mpr fun p listed before => ?_
    rw [Bool.and_eq_true, decide_eq_true_eq] at before
    exact absurd (first p listed before.1) (Nat.not_le.mpr before.2)
  simp only [found]
  refine (if_neg ?_).trans ?_
  · simp [deferred, thawed, earlier, jobAway, here, Nat.not_lt.mpr due]
  · rw [againPkt, arm]
    rfl

/-! ## Samples -/

/-- What a record of a pc is (R330). -/
theorem traceBits_sample (s : State) (k : UnitIx) (pc : Nat) :
    traceBits s (.unit k) 0 pc 0 = ptp s % 2 ^ 48 * 2 ^ 80 + k.toNat * 2 ^ 67 + pc % 2 ^ 21 * 2 ^ 21 := by
  simp [traceBits, bits, traceAgent]

section
variable {s : State} {k : UnitIx} (on : s.chip.trace.period ≠ 0) (listed : s.chip.trace.units.getLsbD (k.toNat / 8) = true)
  (kept : sget 0 s.chip.trace.lost k.toNat = 0)
include on listed kept

/-- A record of a unit that has lost none is taken, or counted as lost (R330, R331). -/
theorem traceRec_unit (a : Nat) : traceRec s (.unit k) 0 a 0 =
    (traceAdd s k.toNat (k.toNat / 8) (traceBits s (.unit k) 0 a 0)).getD (traceLost s k.toNat 1) := by
  have on' : traced s (.unit k) = true := by simp [traced, on, listed]
  simp only [traceRec, on', Bool.not_true, Bool.false_eq_true, if_false, show traceAgent (.unit k) = k.toNat from rfl, kept, if_true, ne_eq, not_true_eq_false]
  rfl

/-- The one traced unit of a module writes its sample (R330). -/
theorem traceSample_samples (due : s.clk % s.chip.trace.period = 0) (thawed : frozen s = false) (runs : s.chip.ended = none)
    (alone : liveUnits s = [k.toNat]) (none : liveClusters s = []) (issuing : issues s k.toNat = true) :
    exec .traceSample s = .next ((traceAdd s k.toNat (k.toNat / 8) (ptp s % 2 ^ 48 * 2 ^ 80 + k.toNat * 2 ^ 67 + (getUnit s k.toNat).core.pc % 2 ^ 21 * 2 ^ 21)).getD
      (traceLost s k.toNat 1)) := by
  rw [← traceBits_sample, ← traceRec_unit on listed kept]
  refine congrArg Host.Outcome.next ((if_neg ?_).trans ?_)
  · simp [on, due, thawed, ended, runs]
  · rw [alone, none]
    simp only [List.foldl_cons, List.foldl_nil, issuing, if_true, BitVec.ofNat_toNat, BitVec.setWidth_eq]

end

/-- A lost record is counted (R331). -/
theorem traceLost_counts {s : State} {k : Nat} (kept : sget 0 s.chip.trace.lost k = 0) : sget 0 (traceLost s k 1).chip.trace.lost k = 1 := by
  show sget 0 (smod 0 s.chip.trace.lost k (fun n => min (2 ^ 42 - 1) (n + 1))) k = 1
  rw [sget_smod, if_pos rfl, kept]
  norm_num

/-! ## Gang switches and tracing -/

/-- A context that is read back is the one saved; its code stores are read again (R324, R328). -/
theorem foldl_reloadCode (s : State) (l : List Nat) : (l.foldl reloadCode s).cp = s.cp ∧ (l.foldl reloadCode s).images = s.images ∧
    (l.foldl reloadCode s).chip.units = s.chip.units ∧ (l.foldl reloadCode s).chip.slot = s.chip.slot :=
  ⟨foldl_keeps _ (fun t : State => t.cp) reloadCode_cp l s, foldl_keeps _ (fun t : State => t.images) reloadCode_images l s,
    foldl_keeps _ (fun t : State => t.chip.units) reloadCode_units l s, foldl_keeps _ (fun t : State => t.chip.slot) reloadCode_slot l s⟩

/-- Settles O36: at its instant a switch stops the job, as no word that does not trap where it stands is touched; it saves the
job once it is quiet, restores the next and starts it; a deferred arming is sent again; and a sample is a record taken or lost. -/
theorem contextAndTrace : Obligations.ContextAndTrace := by
  unfold Obligations.ContextAndTrace
  refine ⟨fun s off => ⟨fun n t0 rest idle next due clean keep => ?_, fun w switch phase quiet job => ?_, fun w c switch phase saved => ?_,
    fun w switch phase due empty => jobStart_starts off switch phase due empty, fun rid o m found deferred due thawed here first arm away => ?_⟩,
    fun s k on due thawed runs alone none issuing listed kept => ?_⟩
  · have sync : ∀ m ∈ liveClusters s, syncFirst s m = s := fun m listed => syncFirst_same (clean m listed)
    exact ⟨stopped s t0 n rest, gangSwitch_stops off idle next due sync keep, rfl, rfl, rfl, rfl, rfl, rfl, .of_eq rfl rfl rfl⟩
  · obtain ⟨t, runs, phase', images, chip⟩ := gangSwitch_saves switch phase quiet job
    refine ⟨t, savedChip s.chip, runs, phase', ?_, rfl, rfl, rfl, find?_savedChip s.chip, chip⟩
    rw [images]
    exact mem_sput_self ..
  · obtain ⟨u, hu⟩ : ∃ u, u = ({ s with chip := c, images := serase s.images w.inn, cp := { s.cp with switch := some { w with phase := 2 } } } : State) := ⟨_, rfl⟩
    have runs := contextRestore_reads switch phase saved
    dsimp only at runs
    rw [← hu] at runs
    obtain ⟨cp, images, units, slot⟩ := foldl_reloadCode u (liveClusters u)
    refine ⟨_, runs, by rw [cp, hu], by rw [units, hu], by rw [slot, hu], fun empty => ?_, fun p listed => ?_⟩
    · have none : liveClusters u = [] := by rw [liveClusters, hu, empty]; rfl
      rw [none, hu]
      rfl
    · rw [images, hu] at listed
      exact ne_of_mem_serase listed
  · have sent := sendFrom_away { s with outst := sput s.outst rid { o with deferred := false, since := ptp s } } (m.toNat / 8) { o.pkt with circ := 0 } away
      (show (0 : BitVec 1) ≠ 1 by decide)
    exact ⟨_, { o with deferred := false, since := ptp s },
      (deferredReissue_arms found deferred due thawed here first arm).trans (congrArg Host.Outcome.next sent), mem_sput_self .., rfl, rfl, rfl, .of_eq rfl rfl rfl⟩
  · intro r
    have sample := traceSample_samples on listed kept due thawed runs alone none issuing
    refine ⟨fun room => sample.trans ?_, fun full => sample.trans ?_, traceLost_counts kept⟩
    · rw [traceAdd, if_neg (Nat.not_le.mpr room)]
      rfl
    · rw [traceAdd, if_pos full]
      rfl

end Sys2Proof.Machine
end
